-- ==== Sys2Proof/Word.lean ====
section
/-!
DEFINITION. Words, bytes and their plainest arithmetic (00_scope.md R2, R5).
-/

namespace Sys2Proof

/-- A 64-bit word: a general register, an address, a state register. -/
abbrev Word := BitVec 64

/-- A 32-bit vector lane, or an instruction word. -/
abbrev Lane := BitVec 32

/-- A byte of memory. -/
abbrev Byte := BitVec 8

/-- A 4-bit register number: `g0`–`g15`, `v0`–`v15` or `k0`–`k15` (R115). -/
abbrev Reg := BitVec 4

/-- A permanent name (R22). -/
abbrev Name := BitVec 128

/-- A one-bit vector of a truth value. -/
abbrev bit (b : Bool) : BitVec 1 := BitVec.ofBool b

end Sys2Proof
end

