-- ==== Sys2Proof/Syntax.lean ====
section
/-!
DEFINITION. The whole syntax: one constructor for each row of spec/opcode_table.json. The first 231
constructors are the instruction words of 06_instruction_words.md R113–R132, each with its switch marker
`s` (R114) as first field. The other 136 are the steps of the device that are no words: events of the
core, the front end, the spindle, the engines, the hub, fumarole and the ports, each with the agent or the
argument words it acts on (95_what_each_step_holds.md).
-/

namespace Sys2Proof

/-- The guard field of an SR word, bits 10:0 (R116). All zero means unguarded. -/
structure Guard where
  reg : Reg
  bit : BitVec 6
  sense : Bool
  deriving DecidableEq, Repr

/-- A vector mask, bits 6:2 of a VA or VM word (R118). Register 0 with sense 0 means all lanes. -/
structure Mask where
  reg : Reg
  sense : Bool
  deriving DecidableEq, Repr

/-- The lane types of VA words (R117): signed integer, unsigned integer, binary32. -/
inductive VType
  | i | n | f
  deriving DecidableEq, Repr

/-- What a debug HALT or RESUME names (R412): a strand by its context, vcore and slot (R9, R93). -/
inductive DebugTarget
  | strand (ctx : Nat) (vcore : BitVec 32) (slot : Nat)
  | group (launch index : Nat)
  | launch (launch : Nat)
  | context (ctx : Nat)
  | op (op : Nat)
  | systemCore (index : Nat)
  deriving DecidableEq, Repr

/-- What a debugger write of eight bytes changes: an item of a halted strand (R399), or a window of an object that readback
can write (R409), addressed in a context. -/
inductive DebugItem
  | stack (entry : Nat)
  | lane (reg lane : Nat)
  | pc
  | state (number : Nat)
  | stream (sg word : Nat)
  | emptyToken (k : Nat)
  | window (ctx : Nat) (cls id0 id1 offset : Word)
  deriving DecidableEq, Repr

/-- A slot of a core, as a debugger names it: by its vcore (R93). -/
structure SlotName where
  vcore : BitVec 32
  slot : Nat
  deriving DecidableEq, Repr

/-- What a partition has of the network ports: a quota of queue pairs on the shared ones, and the ports that are its own (R414). -/
structure NetShare where
  queuePairs : Word
  whole : BitVec 2
  deriving DecidableEq, Repr

/-- What arrives on a virtual lane (R432): a flit with its sequence number and its 256 bytes, the acknowledgement of every flit up to a
number, or the lane's pause and its end. -/
inductive Flit
  | data (seq : Nat) (bytes : BitVec 2048)
  | ack (seq : Nat)
  | pause (on : Bool)
  deriving DecidableEq, Repr

/-- Where a bit error arises (R390): a memory word's data or its tag, a stack entry or a vector lane of a slot, or an element of a
bank. -/
inductive ErrorSite
  | word (word : Nat)
  | tag (word : Nat)
  | stack (core slot entry : Nat)
  | lane (core slot lane : Nat)
  | bank (core : Nat) (bank : BitVec 2) (element : Nat)
  deriving DecidableEq, Repr

/-- The right that a debug session's certificate carries (R411). -/
inductive DebugRight
  | package
  | partition (index : Nat)
  deriving DecidableEq, Repr

/-- The ports on which fumarole answers SPDM (R423). -/
inductive SpdmPort
  | host | management
  deriving DecidableEq, Repr

/-- A PCIe function of the host port (R429): PF0 for the hypervisor, and VF n for partition n. -/
inductive HostFn
  | pf0
  | vf (index : BitVec 4)
  deriving DecidableEq, Repr

/-- A host PCIe request (R429): a read, a write or an atomic that reaches device memory, a read or a write of the registers of a function
(BAR0), or a write in the wake-word window of a VF (BAR2). -/
inductive HostReq
  | read (len : Nat)
  | write
  | fetchAdd32 | fetchAdd64 | cas | swap
  | readRegister (fn : HostFn)
  | writeRegister (fn : HostFn)
  | writeWake (fn : HostFn)
  deriving DecidableEq, Repr

/-- What a storage command moves (R430): data of the device to memory, or a range of memory to the device. -/
inductive Transfer
  | toMemory (data : List Byte)
  | toDevice (len : Nat)
  deriving DecidableEq, Repr

/-- A GET_VERSION request (R423, R433): its port, and the SPDM versions that the requester offers, 0x13 for 1.3. -/
structure SpdmOffer where
  port : SpdmPort
  versions : List Nat
  deriving DecidableEq, Repr

/-- A UDP datagram on the management port (R424): its port, its payload, and whether bytes 0x040–0x53F are a Falcon-1024 signature of
bytes 0x000–0x03F under the hall key of the slot that it names (log 123). -/
structure CapFrame where
  udpPort : Nat
  payload : List Byte
  sigOk : Bool
  deriving DecidableEq, Repr

/-- A firmware image as written through the host port (R422). -/
structure FirmwareImage where
  digest : BitVec 512
  sigOk : Bool
  rollback : Nat
  recovery : Bool
  deriving DecidableEq, Repr

/-- The instruction words and the events of the device, one constructor per row of the opcode table. -/
inductive Instr
  /-- R139. Adds two general registers modulo 2^64, under an optional guard. -/
  | add (s : Bool) (d : Reg) (a : Reg) (b : Reg) (g : Guard)
  /-- R139. Subtracts gb from ga modulo 2^64. -/
  | sub (s : Bool) (d : Reg) (a : Reg) (b : Reg) (g : Guard)
  /-- R139. Writes the low 64 bits of the product as a long result of 4 cycles. -/
  | mul (s : Bool) (d : Reg) (a : Reg) (b : Reg) (g : Guard)
  /-- R139. Writes the high 64 bits of the signed product. -/
  | mulh (s : Bool) (d : Reg) (a : Reg) (b : Reg) (g : Guard)
  /-- R139. Writes the high 64 bits of the unsigned product. -/
  | mulhu (s : Bool) (d : Reg) (a : Reg) (b : Reg) (g : Guard)
  /-- R140. Signed division rounding towards zero, with defined results for zero and overflow and DZ on division by zero. -/
  | div (s : Bool) (d : Reg) (a : Reg) (b : Reg) (g : Guard)
  /-- R140. Unsigned division with defined result on a zero divisor. -/
  | divu (s : Bool) (d : Reg) (a : Reg) (b : Reg) (g : Guard)
  /-- R140. Signed remainder taking the sign of the dividend. -/
  | rem (s : Bool) (d : Reg) (a : Reg) (b : Reg) (g : Guard)
  /-- R140. Unsigned remainder. -/
  | remu (s : Bool) (d : Reg) (a : Reg) (b : Reg) (g : Guard)
  /-- R139. Bitwise AND of two registers. -/
  | and (s : Bool) (d : Reg) (a : Reg) (b : Reg) (g : Guard)
  /-- R139. Bitwise OR of two registers. -/
  | or (s : Bool) (d : Reg) (a : Reg) (b : Reg) (g : Guard)
  /-- R139. Bitwise XOR of two registers. -/
  | xor (s : Bool) (d : Reg) (a : Reg) (b : Reg) (g : Guard)
  /-- R139. ga AND NOT gb. -/
  | andn (s : Bool) (d : Reg) (a : Reg) (b : Reg) (g : Guard)
  /-- R139. ga OR NOT gb. -/
  | orn (s : Bool) (d : Reg) (a : Reg) (b : Reg) (g : Guard)
  /-- R139. Shifts ga left by gb<5:0>. -/
  | shl (s : Bool) (d : Reg) (a : Reg) (b : Reg) (g : Guard)
  /-- R139. Logical right shift by gb<5:0>. -/
  | shr (s : Bool) (d : Reg) (a : Reg) (b : Reg) (g : Guard)
  /-- R139. Arithmetic right shift by gb<5:0>. -/
  | sar (s : Bool) (d : Reg) (a : Reg) (b : Reg) (g : Guard)
  /-- R139. Rotates ga left by gb<5:0>. -/
  | rol (s : Bool) (d : Reg) (a : Reg) (b : Reg) (g : Guard)
  /-- R139. Rotates ga right by gb<5:0>. -/
  | ror (s : Bool) (d : Reg) (a : Reg) (b : Reg) (g : Guard)
  /-- R139. Signed minimum. -/
  | min (s : Bool) (d : Reg) (a : Reg) (b : Reg) (g : Guard)
  /-- R139. Signed maximum. -/
  | max (s : Bool) (d : Reg) (a : Reg) (b : Reg) (g : Guard)
  /-- R139. Unsigned minimum. -/
  | minu (s : Bool) (d : Reg) (a : Reg) (b : Reg) (g : Guard)
  /-- R139. Unsigned maximum. -/
  | maxu (s : Bool) (d : Reg) (a : Reg) (b : Reg) (g : Guard)
  /-- R139. Bitwise select of ga and gb using gd as the mask. -/
  | sel (s : Bool) (d : Reg) (a : Reg) (b : Reg) (g : Guard)
  /-- R139. Counts leading zero bits of ga. -/
  | clz (s : Bool) (d : Reg) (a : Reg) (g : Guard)
  /-- R139. Counts trailing zero bits of ga. -/
  | ctz (s : Bool) (d : Reg) (a : Reg) (g : Guard)
  /-- R139. Counts one bits of ga. -/
  | pop (s : Bool) (d : Reg) (a : Reg) (g : Guard)
  /-- R141. Extracts a bit field of ga with lsb and width from gb. -/
  | bext (s : Bool) (d : Reg) (a : Reg) (b : Reg) (g : Guard)
  /-- R141. Inserts the low bits of ga into a field of gd. -/
  | bins (s : Bool) (d : Reg) (a : Reg) (b : Reg) (g : Guard)
  /-- R141. Sign-extends the low 8 bits of ga. -/
  | sextB (s : Bool) (d : Reg) (a : Reg) (g : Guard)
  /-- R141. Sign-extends the low 16 bits of ga. -/
  | sextH (s : Bool) (d : Reg) (a : Reg) (g : Guard)
  /-- R141. Sign-extends the low 32 bits of ga. -/
  | sextW (s : Bool) (d : Reg) (a : Reg) (g : Guard)
  /-- R141. Zero-extends the low 8 bits of ga. -/
  | zextB (s : Bool) (d : Reg) (a : Reg) (g : Guard)
  /-- R141. Zero-extends the low 16 bits of ga. -/
  | zextH (s : Bool) (d : Reg) (a : Reg) (g : Guard)
  /-- R141. Zero-extends the low 32 bits of ga. -/
  | zextW (s : Bool) (d : Reg) (a : Reg) (g : Guard)
  /-- R141. Sets one bit of gd when ga equals gb. -/
  | ceq (s : Bool) (d : Reg) (a : Reg) (b : Reg) (i : BitVec 6)
  /-- R141. Sets one bit of gd when ga differs from gb. -/
  | cne (s : Bool) (d : Reg) (a : Reg) (b : Reg) (i : BitVec 6)
  /-- R141. Sets one bit of gd when ga is below gb, signed. -/
  | clt (s : Bool) (d : Reg) (a : Reg) (b : Reg) (i : BitVec 6)
  /-- R141. Sets one bit of gd when ga is below gb, unsigned. -/
  | cltu (s : Bool) (d : Reg) (a : Reg) (b : Reg) (i : BitVec 6)
  /-- R141. Sets one bit of gd when ga is at most gb, signed. -/
  | cle (s : Bool) (d : Reg) (a : Reg) (b : Reg) (i : BitVec 6)
  /-- R141. Sets one bit of gd when ga is at most gb, unsigned. -/
  | cleu (s : Bool) (d : Reg) (a : Reg) (b : Reg) (i : BitVec 6)
  /-- R141. gd := ga + (gb << s), unguarded. -/
  | adds (s : Bool) (d : Reg) (a : Reg) (b : Reg) (h : BitVec 3)
  /-- R142. Adds a sign-extended immediate. -/
  | addi (s : Bool) (d : Reg) (a : Reg) (i : BitVec 15)
  /-- R142. ANDs a sign-extended immediate. -/
  | andi (s : Bool) (d : Reg) (a : Reg) (i : BitVec 15)
  /-- R142. ORs a zero-extended immediate. -/
  | ori (s : Bool) (d : Reg) (a : Reg) (i : BitVec 15)
  /-- R142. XORs a zero-extended immediate. -/
  | xori (s : Bool) (d : Reg) (a : Reg) (i : BitVec 15)
  /-- R142. Shifts left by an immediate count. -/
  | shli (s : Bool) (d : Reg) (a : Reg) (n : BitVec 6)
  /-- R142. Logical right shift by an immediate count. -/
  | shri (s : Bool) (d : Reg) (a : Reg) (n : BitVec 6)
  /-- R142. Arithmetic right shift by an immediate count. -/
  | sari (s : Bool) (d : Reg) (a : Reg) (n : BitVec 6)
  /-- R142. Multiplies by a sign-extended immediate as a long result. -/
  | muli (s : Bool) (d : Reg) (a : Reg) (i : BitVec 15)
  /-- R142. Loads a sign-extended 19-bit immediate. -/
  | ldi (s : Bool) (d : Reg) (i : BitVec 19)
  /-- R143. Sets one bit of gd when ga equals the immediate. -/
  | ceqi (s : Bool) (d : Reg) (a : Reg) (b : BitVec 6) (i : BitVec 6)
  /-- R143. Sets one bit of gd when ga differs from the immediate. -/
  | cnei (s : Bool) (d : Reg) (a : Reg) (b : BitVec 6) (i : BitVec 6)
  /-- R143. Signed less-than against the immediate into one bit. -/
  | clti (s : Bool) (d : Reg) (a : Reg) (b : BitVec 6) (i : BitVec 6)
  /-- R143. Unsigned less-than against the immediate into one bit. -/
  | cltui (s : Bool) (d : Reg) (a : Reg) (b : BitVec 6) (i : BitVec 6)
  /-- R143. Signed less-or-equal against the immediate into one bit. -/
  | clei (s : Bool) (d : Reg) (a : Reg) (b : BitVec 6) (i : BitVec 6)
  /-- R143. Unsigned less-or-equal against the immediate into one bit. -/
  | cleui (s : Bool) (d : Reg) (a : Reg) (b : BitVec 6) (i : BitVec 6)
  /-- R142. Sets bit n of ga. -/
  | bseti (s : Bool) (d : Reg) (a : Reg) (n : BitVec 6)
  /-- R142. Clears bit n of ga. -/
  | bclri (s : Bool) (d : Reg) (a : Reg) (n : BitVec 6)
  /-- R142. Inverts bit n of ga. -/
  | binvi (s : Bool) (d : Reg) (a : Reg) (n : BitVec 6)
  /-- R142. Forms a pc-relative address from a word displacement. -/
  | adr (s : Bool) (d : Reg) (i : BitVec 19)
  /-- R145. Loads a byte zero-extended as a long result. -/
  | ldB (s : Bool) (t : Reg) (b : Reg) (o : BitVec 15)
  /-- R145. Loads a byte sign-extended. -/
  | ldBs (s : Bool) (t : Reg) (b : Reg) (o : BitVec 15)
  /-- R145. Loads a half-word zero-extended. -/
  | ldH (s : Bool) (t : Reg) (b : Reg) (o : BitVec 15)
  /-- R145. Loads a half-word sign-extended. -/
  | ldHs (s : Bool) (t : Reg) (b : Reg) (o : BitVec 15)
  /-- R145. Loads a word zero-extended. -/
  | ldW (s : Bool) (t : Reg) (b : Reg) (o : BitVec 15)
  /-- R145. Loads a word sign-extended. -/
  | ldWs (s : Bool) (t : Reg) (b : Reg) (o : BitVec 15)
  /-- R145. Loads a doubleword. -/
  | ldD (s : Bool) (t : Reg) (b : Reg) (o : BitVec 15)
  /-- R145. Loads 16 bytes into an even register pair as one unit. -/
  | ldp (s : Bool) (t : Reg) (b : Reg) (o : BitVec 15)
  /-- R145. Stores a byte. -/
  | stB (s : Bool) (t : Reg) (b : Reg) (o : BitVec 15)
  /-- R145. Stores a half-word. -/
  | stH (s : Bool) (t : Reg) (b : Reg) (o : BitVec 15)
  /-- R145. Stores a word. -/
  | stW (s : Bool) (t : Reg) (b : Reg) (o : BitVec 15)
  /-- R145. Stores a doubleword. -/
  | stD (s : Bool) (t : Reg) (b : Reg) (o : BitVec 15)
  /-- R145. Stores an even register pair as 16 bytes. -/
  | stp (s : Bool) (t : Reg) (b : Reg) (o : BitVec 15)
  /-- R146. Indexed load with scaled index register. -/
  | ldx (s : Bool) (t : Reg) (b : Reg) (x : Reg) (h : BitVec 3) (z : BitVec 2) (g : Bool)
  /-- R146. Indexed store with scaled index register. -/
  | stx (s : Bool) (t : Reg) (b : Reg) (x : Reg) (h : BitVec 3) (z : BitVec 2)
  /-- R346. Atomic read-modify-write selected by sub-operation, with order and scope. -/
  | amo (s : Bool) (t : Reg) (b : Reg) (r : Reg) (o : BitVec 3) (c : BitVec 3) (u : BitVec 5)
  /-- R346. Compare-and-swap of 64 or 32 bits. -/
  | cas (s : Bool) (t : Reg) (b : Reg) (r : Reg) (o : BitVec 3) (c : BitVec 3) (w : Bool)
  /-- R346. Compare-and-swap of 16 bytes with register pairs. -/
  | cas2 (s : Bool) (t : Reg) (b : Reg) (r : Reg) (o : BitVec 3) (c : BitVec 3)
  /-- R347. 8-byte load with acquire order at a scope. -/
  | ldAcq (s : Bool) (t : Reg) (b : Reg) (c : BitVec 3) (o : BitVec 12)
  /-- R347. 8-byte store with release order at a scope. -/
  | stRel (s : Bool) (t : Reg) (b : Reg) (c : BitVec 3) (o : BitVec 12)
  /-- R148. Unconditional pc-relative branch. -/
  | br (s : Bool) (d : BitVec 24)
  /-- R148. Branches on one register bit and sense. -/
  | bb (s : Bool) (r : Reg) (b : BitVec 6) (n : Bool) (d : BitVec 13)
  /-- R150. Shifts the register window, writes the link and branches, or traps SPILL. -/
  | call (s : Bool) (d : BitVec 24)
  /-- R150. Register-indirect call with window shift. -/
  | callr (s : Bool) (r : Reg)
  /-- R148. Jumps to the address in a register. -/
  | jmp (s : Bool) (r : Reg)
  /-- R150. Returns through g7, shifting the window back or trapping FILL. -/
  | ret (s : Bool)
  /-- R148. Decrements a counter and branches while non-zero. -/
  | dbnz (s : Bool) (r : Reg) (d : BitVec 20)
  /-- R153. Raises SYS with a 16-bit code. -/
  | sys (s : Bool) (c : BitVec 16)
  /-- R153. Raises BRK with a 16-bit code. -/
  | brk (s : Bool) (c : BitVec 16)
  /-- R152. Ends handler mode and resumes at epc. -/
  | tret (s : Bool)
  /-- R154. Saves resident half-frames and migrates the strand to the core that owns an address. -/
  | hop (s : Bool) (r : Reg)
  /-- R155. Creates a sibling strand on the same core with four argument registers. -/
  | spawn (s : Bool) (e : Reg) (a : Reg)
  /-- R156. Sends a normal-level active message to the owner of a data address. -/
  | amsg (s : Bool) (d : Reg) (h : Reg) (p : Reg)
  /-- R156. Sends an urgent active message to the owner of a data address. -/
  | amsgUrg (s : Bool) (d : Reg) (h : Reg) (p : Reg)
  /-- R157. Saves the strand, frees its slot and re-queues it as a new slice. -/
  | yield (s : Bool)
  /-- R157. Ends the strand, releasing shapes, ops, banks and its slot. -/
  | done (s : Bool)
  /-- R158. Reads a state register as a short result. -/
  | mfs (s : Bool) (d : Reg) (n : BitVec 15)
  /-- R158. Writes a state register, effective for the next instruction. -/
  | mts (s : Bool) (a : Reg) (n : BitVec 15)
  /-- R348. Orders selected kinds of earlier and later accesses at a scope. -/
  | fence (s : Bool) (c : BitVec 3) (k : BitVec 4)
  /-- R352. Acquires a sync object or a default object of a scope. -/
  | acq (s : Bool) (r : Reg) (c : BitVec 3)
  /-- R352. Releases to a sync object by an atomic add of 1. -/
  | rel (s : Bool) (r : Reg) (c : BitVec 3)
  /-- R351. Binds a region to a SYNC name for the launch. -/
  | ebind (s : Bool) (r : Reg) (n : Reg) (t : Reg)
  /-- R353. Parks the strand while a word equals a value, until a wake or limit. -/
  | wwait (s : Bool) (d : Reg) (a : Reg) (b : Reg)
  /-- R357. Arrives at a ply or die barrier slot with release. -/
  | barArr (s : Bool) (l : BitVec 2) (p : BitVec 5)
  /-- R357. Waits for the barrier phase to complete, then acquires. -/
  | barWait (s : Bool) (l : BitVec 2) (p : BitVec 5)
  /-- R358. Marks the strand triggered with a release at domain scope. -/
  | trig (s : Bool)
  /-- R359. Invalidates instruction cache lines of a range in every core of the partition on the chip. -/
  | tsync (s : Bool) (a : Reg) (l : Reg)
  /-- R68. Binds a snapshot of a SHAPE name's current version to a shape slot. -/
  | shbind (s : Bool) (a : Reg) (d : Reg) (n : Bool)
  /-- R69. Releases a shape slot's snapshot reference. -/
  | shrel (s : Bool) (n : Bool)
  /-- R70. Publishes a new version of a shape record. -/
  | shpub (s : Bool) (a : Reg) (d : Reg)
  /-- R162. Reads a strand statistic chosen by a selector. -/
  | istat (s : Bool) (d : Reg) (p : BitVec 15)
  /-- R216. Lane-wise addition. -/
  | vadd (s : Bool) (d : Reg) (a : Reg) (b : Reg) (x : Bool) (ty : VType) (mk : Mask)
  /-- R216. Lane-wise subtraction. -/
  | vsub (s : Bool) (d : Reg) (a : Reg) (b : Reg) (x : Bool) (ty : VType) (mk : Mask)
  /-- R216. Lane-wise multiplication. -/
  | vmul (s : Bool) (d : Reg) (a : Reg) (b : Reg) (x : Bool) (ty : VType) (mk : Mask)
  /-- R216. High 32 bits of the lane-wise 64-bit product. -/
  | vmulHi (s : Bool) (d : Reg) (a : Reg) (b : Reg) (x : Bool) (ty : VType) (mk : Mask)
  /-- R216. Fused a*b+vd with one rounding. -/
  | vfma (s : Bool) (d : Reg) (a : Reg) (b : Reg) (x : Bool) (mk : Mask)
  /-- R216. Fused a*b-vd with one rounding. -/
  | vfms (s : Bool) (d : Reg) (a : Reg) (b : Reg) (x : Bool) (mk : Mask)
  /-- R216. Fused -(a*b)+vd with one rounding. -/
  | vfnma (s : Bool) (d : Reg) (a : Reg) (b : Reg) (x : Bool) (mk : Mask)
  /-- R216. Lane-wise minimum. -/
  | vmin (s : Bool) (d : Reg) (a : Reg) (b : Reg) (x : Bool) (ty : VType) (mk : Mask)
  /-- R216. Lane-wise maximum. -/
  | vmax (s : Bool) (d : Reg) (a : Reg) (b : Reg) (x : Bool) (ty : VType) (mk : Mask)
  /-- R216. Lane-wise absolute value. -/
  | vabs (s : Bool) (d : Reg) (a : Reg) (ty : VType) (mk : Mask)
  /-- R216. Lane-wise negation. -/
  | vneg (s : Bool) (d : Reg) (a : Reg) (ty : VType) (mk : Mask)
  /-- R216. Lane-wise AND. -/
  | vand (s : Bool) (d : Reg) (a : Reg) (b : Reg) (x : Bool) (ty : VType) (mk : Mask)
  /-- R216. Lane-wise OR. -/
  | vor (s : Bool) (d : Reg) (a : Reg) (b : Reg) (x : Bool) (ty : VType) (mk : Mask)
  /-- R216. Lane-wise XOR. -/
  | vxor (s : Bool) (d : Reg) (a : Reg) (b : Reg) (x : Bool) (ty : VType) (mk : Mask)
  /-- R216. Lane-wise a AND NOT b. -/
  | vandn (s : Bool) (d : Reg) (a : Reg) (b : Reg) (x : Bool) (ty : VType) (mk : Mask)
  /-- R216. Lane-wise left shift. -/
  | vshl (s : Bool) (d : Reg) (a : Reg) (b : Reg) (x : Bool) (ty : VType) (mk : Mask)
  /-- R216. Lane-wise logical right shift. -/
  | vshr (s : Bool) (d : Reg) (a : Reg) (b : Reg) (x : Bool) (ty : VType) (mk : Mask)
  /-- R216. Lane-wise arithmetic right shift. -/
  | vsar (s : Bool) (d : Reg) (a : Reg) (b : Reg) (x : Bool) (ty : VType) (mk : Mask)
  /-- R218. Lane-wise equality into a general-register mask. -/
  | vceq (s : Bool) (d : Reg) (a : Reg) (b : Reg) (x : Bool) (ty : VType) (mk : Mask)
  /-- R218. Lane-wise inequality into a general-register mask. -/
  | vcne (s : Bool) (d : Reg) (a : Reg) (b : Reg) (x : Bool) (ty : VType) (mk : Mask)
  /-- R218. Lane-wise less-than into a general-register mask. -/
  | vclt (s : Bool) (d : Reg) (a : Reg) (b : Reg) (x : Bool) (ty : VType) (mk : Mask)
  /-- R218. Lane-wise less-or-equal into a general-register mask. -/
  | vcle (s : Bool) (d : Reg) (a : Reg) (b : Reg) (x : Bool) (ty : VType) (mk : Mask)
  /-- R219. Selects va or b per lane by the mask. -/
  | vsel (s : Bool) (d : Reg) (a : Reg) (b : Reg) (x : Bool) (ty : VType) (mk : Mask)
  /-- R219. Moves b into enabled lanes. -/
  | vmov (s : Bool) (d : Reg) (b : Reg) (x : Bool) (ty : VType) (mk : Mask)
  /-- R220. Converts lanes between integer, binary32 and BF16. -/
  | vcvt (s : Bool) (d : Reg) (a : Reg) (ty : VType) (mk : Mask) (f : BitVec 2)
  /-- R222. Lane-wise reciprocal. -/
  | vrcp (s : Bool) (d : Reg) (a : Reg) (mk : Mask)
  /-- R222. Lane-wise reciprocal square root. -/
  | vrsq (s : Bool) (d : Reg) (a : Reg) (mk : Mask)
  /-- R222. Lane-wise 2^a. -/
  | vexp2 (s : Bool) (d : Reg) (a : Reg) (mk : Mask)
  /-- R222. Lane-wise log2. -/
  | vlog2 (s : Bool) (d : Reg) (a : Reg) (mk : Mask)
  /-- R222. Lane-wise tanh. -/
  | vtanh (s : Bool) (d : Reg) (a : Reg) (mk : Mask)
  /-- R222. Lane-wise logistic sigmoid. -/
  | vsig (s : Bool) (d : Reg) (a : Reg) (mk : Mask)
  /-- R234. Accumulates count, sum and sum of squares of a non-padding token row. -/
  | vlnormAcc (s : Bool) (d : Reg) (a : Reg) (b : Reg) (mk : Mask) (h : Bool)
  /-- R234. Finishes mean and inverse deviation from the accumulator. -/
  | vlnormFin (s : Bool) (d : Reg) (a : Reg) (b : Reg) (mk : Mask) (h : Bool)
  /-- R223. Exact sum over enabled lanes into lane 0. -/
  | vredsum (s : Bool) (d : Reg) (a : Reg) (b : Reg) (x : Bool) (ty : VType) (mk : Mask)
  /-- R223. Maximum over enabled lanes into lane 0. -/
  | vredmax (s : Bool) (d : Reg) (a : Reg) (b : Reg) (x : Bool) (ty : VType) (mk : Mask)
  /-- R223. Minimum over enabled lanes into lane 0. -/
  | vredmin (s : Bool) (d : Reg) (a : Reg) (b : Reg) (x : Bool) (ty : VType) (mk : Mask)
  /-- R223. Inclusive or exclusive add, max or min scan over lanes. -/
  | vscan (s : Bool) (d : Reg) (a : Reg) (b : Reg) (x : Bool) (ty : VType) (mk : Mask) (k : BitVec 2)
  /-- R224. Slides lanes down by a register count. -/
  | vslideDn (s : Bool) (d : Reg) (a : Reg) (b : Reg) (ty : VType) (mk : Mask)
  /-- R224. Slides lanes up by a register count. -/
  | vslideUp (s : Bool) (d : Reg) (a : Reg) (b : Reg) (ty : VType) (mk : Mask)
  /-- R224. Rotates lanes by a register count. -/
  | vslideRot (s : Bool) (d : Reg) (a : Reg) (b : Reg) (ty : VType) (mk : Mask)
  /-- R224. Permutes lanes by an index vector. -/
  | vperm (s : Bool) (d : Reg) (a : Reg) (b : Reg) (x : Bool) (ty : VType) (mk : Mask)
  /-- R224. Inserts a general register into one lane. -/
  | vins (s : Bool) (d : Reg) (l : BitVec 4) (b : Reg) (ty : VType) (h : BitVec 2)
  /-- R224. Extracts one lane into a general register, possibly appending to a stream. -/
  | vext (s : Bool) (d : Reg) (a : Reg) (l : BitVec 4) (ty : VType) (h : BitVec 2)
  /-- R221. Packs two registers of binary32 lanes into BF16 elements. -/
  | vpackBf (s : Bool) (d : Reg) (a : Reg) (b : Reg) (x : Bool) (mk : Mask)
  /-- R221. Packs two registers into clamped 16-bit integers. -/
  | vpackH (s : Bool) (d : Reg) (a : Reg) (b : Reg) (x : Bool) (ty : VType) (mk : Mask)
  /-- R221. Widens half of the BF16 elements into binary32 lanes. -/
  | vunpackBf (s : Bool) (d : Reg) (a : Reg) (h : Bool) (mk : Mask)
  /-- R221. Widens half of the 16-bit elements into lanes. -/
  | vunpackH (s : Bool) (d : Reg) (a : Reg) (h : Bool) (ty : VType) (mk : Mask)
  /-- R233. Softmax over one window of a score row within the row's segment. -/
  | vsmaxSeg (s : Bool) (d : Reg) (a : Reg) (b : Reg) (mk : Mask) (c : Bool) (q : Bool)
  /-- R224. One-hot classification of binary32 lanes. -/
  | vclass (s : Bool) (d : Reg) (a : Reg) (mk : Mask)
  /-- R227. Loads 64 lanes from 256 bytes. -/
  | vld (s : Bool) (d : Reg) (b : Reg) (x : Reg) (o : BitVec 4) (mk : Mask)
  /-- R227. Stores enabled lanes to 256 bytes. -/
  | vst (s : Bool) (d : Reg) (b : Reg) (x : Reg) (o : BitVec 4) (mk : Mask)
  /-- R229. Decodes described blocks into binary32 lanes. -/
  | vldD (s : Bool) (d : Reg) (b : Reg) (x : Reg) (o : BitVec 4) (mk : Mask)
  /-- R229. Decodes E2M1 elements 64-127 into lanes. -/
  | vldDHi (s : Bool) (d : Reg) (b : Reg) (x : Reg) (o : BitVec 4) (mk : Mask)
  /-- R229. Decodes INT8 elements into integer lanes. -/
  | vldDInt (s : Bool) (d : Reg) (b : Reg) (x : Reg) (o : BitVec 4) (mk : Mask)
  /-- R230. Quantizes lanes into whole described blocks with scales. -/
  | vstQ (s : Bool) (d : Reg) (b : Reg) (x : Reg) (f : BitVec 4)
  /-- R227. Strided vector load. -/
  | vlds (s : Bool) (d : Reg) (b : Reg) (p : Reg) (z : BitVec 4) (mk : Mask)
  /-- R227. Gathering vector load. -/
  | vldx (s : Bool) (d : Reg) (b : Reg) (i : Reg) (z : BitVec 4) (mk : Mask)
  /-- R227. Scattering vector store. -/
  | vstx (s : Bool) (d : Reg) (b : Reg) (i : Reg) (z : BitVec 4) (mk : Mask)
  /-- R231. Loads a row only within its reference row's segment. -/
  | vldSeg (s : Bool) (d : Reg) (b : Reg) (r : Reg) (g : Reg) (mk : Mask) (h : Bool)
  /-- R232. Sums the rows of one segment per lane. -/
  | vsegsum (s : Bool) (d : Reg) (b : Reg) (p : Reg) (mk : Mask) (h : Bool)
  /-- R232. Maximum over the rows of one segment per lane. -/
  | vsegmax (s : Bool) (d : Reg) (b : Reg) (p : Reg) (mk : Mask) (h : Bool)
  /-- R227. Broadcasts one 32-bit word into every enabled lane. -/
  | vldb (s : Bool) (d : Reg) (b : Reg) (x : Reg) (mk : Mask)
  /-- R237. Binds a stream generator to one of g12-g15. -/
  | sbind (s : Bool) (a : Reg) (c : Reg) (n : BitVec 2) (r : BitVec 2) (w : BitVec 2) (g : Bool) (f : BitVec 2)
  /-- R237. Unbinds a stream generator after its appends are issued. -/
  | sunbind (s : Bool) (n : BitVec 2)
  /-- R237. Sets a generator's position and discards prefetched elements. -/
  | sseek (s : Bool) (i : Reg) (n : BitVec 2)
  /-- R237. Reads a field of a generator's state. -/
  | sstat (s : Bool) (d : Reg) (n : BitVec 2) (p : BitVec 4)
  /-- R299. Creates a matrix multiply-accumulate op on a bank from a descriptor. -/
  | mma (s : Bool) (k : Reg) (a : Reg)
  /-- R299. Matrix multiply-accumulate op that first zeroes its bank. -/
  | mmaZ (s : Bool) (k : Reg) (a : Reg)
  /-- R311. Creates a matrix-vector op streaming weights from HBM. -/
  | mmv (s : Bool) (k : Reg) (a : Reg)
  /-- R311. Matrix-vector op that first zeroes its bank. -/
  | mmvZ (s : Bool) (k : Reg) (a : Reg)
  /-- R295. Zeroes a held bank once its accepted ops are terminal. -/
  | mzero (s : Bool) (b : BitVec 2)
  /-- R308. Creates an op loading bank rows from memory. -/
  | mld (s : Bool) (k : Reg) (a : Reg) (p : Reg) (b : BitVec 2)
  /-- R309. Creates an op quantizing bank rows to memory. -/
  | mst (s : Bool) (k : Reg) (a : Reg) (p : Reg) (f : BitVec 4) (b : BitVec 2)
  /-- R293. Acquires the lowest free bank within the launch's allowance. -/
  | macq (s : Bool) (d : Reg)
  /-- R293. Acquires a named bank within the launch's allowance. -/
  | macqSpecific (s : Bool) (d : Reg) (b : BitVec 2)
  /-- R294. Starts the release of a held bank. -/
  | mrel (s : Bool) (b : BitVec 2)
  /-- R304. Makes a capability letting another core command held banks. -/
  | mcap (s : Bool) (d : Reg) (i : Reg) (l : Reg) (m : BitVec 4)
  /-- R323. Creates a copy op on the ply's reel from a descriptor. -/
  | cpy (s : Bool) (k : Reg) (a : Reg)
  /-- R330. Creates a multicast copy op to local stores of one ply. -/
  | cpym (s : Bool) (k : Reg) (a : Reg)
  /-- R332. Frees the caller's buffer for a multicast tile, adding to the mailbox when all have freed. -/
  | cpyfree (s : Bool) (d : Reg) (m : Reg) (t : Reg)
  /-- R334. Creates a collective op on the die's twister. -/
  | coll (s : Bool) (k : Reg) (a : Reg)
  /-- R275. Waits for the token's op to be terminal, reaps it and returns its status. -/
  | owait (s : Bool) (k : Reg) (d : Reg)
  /-- R276. Returns the token op's status without waiting or reaping. -/
  | otest (s : Bool) (k : Reg) (d : Reg)
  /-- R277. Requests cancellation of the token's op and completes when terminal. -/
  | ocancel (s : Bool) (k : Reg)
  /-- R277. Ends a detached op's name and cancels the op. -/
  | ocancelN (s : Bool) (a : Reg) (c : Reg)
  /-- R278. Gives the token's op an OP name and empties the token. -/
  | odetach (s : Bool) (k : Reg) (d : Reg) (c : Reg)
  /-- R279. Takes a detached op by name into an empty token. -/
  | oadopt (s : Bool) (k : Reg) (a : Reg) (c : Reg)
  /-- R281. Resumes a paused op named by its fault handle. -/
  | ofaultResume (s : Bool) (a : Reg) (c : Reg)
  /-- R281. Fails a paused op named by its fault handle. -/
  | ofaultFail (s : Bool) (a : Reg) (c : Reg)
  /-- R282. Reads a word of the token op's record. -/
  | ostat (s : Bool) (k : Reg) (d : Reg) (p : BitVec 3)
  /-- R282. Reads a word of a named op's record. -/
  | ostatN (s : Bool) (a : Reg) (d : Reg) (c : Reg) (p : BitVec 3)
  /-- R40. Issues a new name and inserts its LIVE entry. -/
  | nnew (s : Bool) (d : Reg) (a : Reg) (b : Reg) (c : Reg)
  /-- R41. Resolves a name, possibly from the name cache, returning its address. -/
  | nres (s : Bool) (d : Reg) (a : Reg) (c : Reg)
  /-- R41. Resolves a name at its home entry returning its version. -/
  | nresV (s : Bool) (d : Reg) (a : Reg) (c : Reg)
  /-- R43. Sets a name DYING and completes after its shoot-down. -/
  | nkill (s : Bool) (a : Reg) (c : Reg)
  /-- R43. Adds one to a name's reference count. -/
  | nref (s : Bool) (a : Reg) (c : Reg)
  /-- R43. Subtracts one from a name's reference count, possibly removing it. -/
  | nrel (s : Bool) (a : Reg) (c : Reg)
  /-- R42. Reads a name's entry information at its home entry. -/
  | nstat (s : Bool) (d : Reg) (a : Reg) (c : Reg)
  /-- R45. Compare-and-swaps a 16-byte handle to a LIVE name under a hold. -/
  | ncas (s : Bool) (d : Reg) (a : Reg) (b : Reg) (c : Reg) (o : BitVec 3) (p : BitVec 3)
  /-- R263. Reads a word's tag without a lookup. -/
  | tld (s : Bool) (d : Reg) (a : Reg)
  /-- R263. Writes a word's tag from a register and re-evaluates parked units. -/
  | tst (s : Bool) (a : Reg) (b : Reg)
  /-- R263. Writes a word's tag from an immediate and re-evaluates parked units. -/
  | tstImm (s : Bool) (a : Reg) (t : BitVec 4)
  /-- R263. Writes a word's data and tag (register) in one step. -/
  | tset (s : Bool) (a : Reg) (b : Reg) (c : Reg)
  /-- R263. Writes a word's data and an immediate tag in one step. -/
  | tsetImm (s : Bool) (a : Reg) (b : Reg) (t : BitVec 4)
  /-- R259. Installs an action-table image and engine vector in one step. -/
  | tabld (s : Bool) (a : Reg) (b : Reg) (c : Reg) (n : BitVec 3)
  /-- R258. Changes a region's table select and re-evaluates parked units. -/
  | tabsel (s : Bool) (a : Reg) (n : BitVec 3)
  /-- R258. Waits until units looked up under earlier selects have completed. -/
  | tabsync (s : Bool) (a : Reg)
  /-- R263. Reads an action-table entry. -/
  | tabrd (s : Bool) (d : Reg) (a : Reg) (b : Reg) (n : BitVec 3)
  /-- R263. Reads a region's table select. -/
  | tabrdSel (s : Bool) (d : Reg) (a : Reg)
  /-- R263. Sets a redirect base, recorded with the context. -/
  | rdset (s : Bool) (a : Reg) (b : Reg) (p : BitVec 3)
  /-- R126. Hint that does nothing but take an issue cycle. -/
  | nop (s : Bool) (p : BitVec 24)
  /-- R131. Prefix that widens the target's immediate. -/
  | xi (s : Bool) (p : BitVec 24)
  /-- R168. Gives up the next issue cycle and ends greedy status. -/
  | pass (s : Bool)
  /-- R126. Prefix giving the target op priority and slack. -/
  | prio (s : Bool) (k : BitVec 4) (p : BitVec 3)
  /-- R272. Prefix making the target op wait for the op in a token. -/
  | after (s : Bool) (k : Reg)
  /-- R204. Prefix overriding rounding, saturation and stochastic control. -/
  | mod (s : Bool) (h : Bool) (t : Bool) (r : BitVec 2)
  /-- R127. Marks vector registers dead. -/
  | dead (s : Bool) (m : BitVec 16)
  /-- R128. Sets the hold-off count that defers urgent handlers. -/
  | msk (s : Bool) (c : BitVec 6)
  /-- R132. Hint kinds 8-F execute as nop and never trap. -/
  | reservedHint (s : Bool) (k : BitVec 3) (p : BitVec 24)
  /-- R128. The hold-off count reaches zero by decrement and sets MSKOVF. -/
  | mskCountExpiry (core : Nat) (slot : Nat)
  /-- R35. A core receives a name invalidation, drops the name and acknowledges. -/
  | shootdownInvalidate (counter : Nat) (core : Nat)
  /-- R35. The last acknowledgement arrives, sdone is set and removal is checked. -/
  | shootdownComplete (counter : Nat)
  /-- R32. A home chip answers a lookup sent over Twine. -/
  | remoteResolve (core : Nat) (slot : Nat) (id : Nat) (status : BitVec 4) (addr : Word) (version : Word)
  /-- R32. No answer within 100 us gives UNREACHABLE. -/
  | resolveTimeout (core : Nat) (slot : Nat) (id : Nat)
  /-- R64. A snapshot slot frees and a waiting shbind or validation takes its snapshot. -/
  | snapshotWaitEnd (core : Nat) (slot : Nat) (id : Nat)
  /-- R76. A store to a queue's wake word maps, resumes or pages in the queue. -/
  | wakeStore (queue : Nat) (value : Word)
  /-- R76. A PAGED queue's save area has been faulted back in and the queue is mapped. -/
  | queuePageIn (queue : Nat)
  /-- R77. The front end copies a valid slot, clears its header and advances rdidx. -/
  | slotConsume (queue : Nat)
  /-- R89. The front end validates a skein once its COMMIT slot is valid. -/
  | skeinValidation (queue : Nat)
  /-- R90. A record read during validation becomes resident and validation continues. -/
  | validationPageIn (queue : Nat)
  /-- R97. The spindle places the next core group when a core fits it. -/
  | groupPlacement
  /-- R100. Dispatch turns a VALID bind record into slices once the pending list has room. -/
  | bindRecordDispatch (index : Nat)
  /-- R102. A free normal slot binds the pending slice with the earliest deadline. -/
  | sliceBind (core : Nat)
  /-- R165. A strand's start delay runs out and it becomes eligible. -/
  | startDelayExpiry (core : Nat) (slot : Nat)
  /-- R164. The oldest urgent message is delivered to a free urgent slot. -/
  | urgentDelivery (core : Nat)
  /-- R156. An active message reaches its core as a slice or in the urgent buffer. -/
  | amsgArrival (index : Nat)
  /-- R83. A validated AMSG packet is delivered to its MsgOwner core. -/
  | amsgPacket (queue : Nat) (index : Nat)
  /-- R177. A hop context reaches its destination and enters the pending list. -/
  | hopArrival (index : Nat)
  /-- R170. A long result returns, possibly ending a marker park. -/
  | longResultReturn (core : Nat) (slot : Nat) (id : Nat)
  /-- R107. An instruction-cache miss line arrives and the strand may issue. -/
  | icacheLineFill (core : Nat) (slot : Nat)
  /-- R109. A fetch without a resident translation parks the strand and raises FETCH to the kernel. -/
  | fetch (core : Nat) (slot : Nat)
  /-- R103. The strand's budget count reaches zero. -/
  | budgetExhausted (core : Nat) (slot : Nat)
  /-- R103. The strand takes BUDGET at its next instruction boundary. -/
  | budgetTrap (core : Nat) (slot : Nat)
  /-- R239. A read generator loads elements ahead of the pops. -/
  | streamPrefetch (core : Nat) (slot : Nat) (sg : BitVec 2)
  /-- R238. An append's store is issued once its value is ready. -/
  | streamAppendStore (core : Nat) (slot : Nat)
  /-- R81. A BARRIER packet's condition holds and it completes. -/
  | barrierPacketComplete (queue : Nat) (index : Nat)
  /-- R82. A SIGNAL performs its release store or atomic add after earlier packets complete. -/
  | signalPacket (queue : Nat) (index : Nat)
  /-- R85. A TEXTSYNC invalidates its range in every core of the partition on the chip. -/
  | textsyncStart (queue : Nat) (index : Nat)
  /-- R85. Every core has acknowledged and the TEXTSYNC completes. -/
  | textsyncComplete (queue : Nat) (index : Nat)
  /-- R323. A validated COPY packet becomes an op on the chosen reel. -/
  | copyPacket (queue : Nat) (index : Nat)
  /-- R92. Teardown of a PASID stops consumption of its queues. -/
  | queueTeardown (ctx : Nat)
  /-- R92. Outstanding ATS and PRI requests are settled, QGONE is recorded and the queue closes. -/
  | queueTeardownComplete (queue : Nat)
  /-- R270. A PENDING op is admitted to its engine and becomes QUEUED. -/
  | opAdmit (op : Nat)
  /-- R270. An engine serves a QUEUED op, which becomes RUNNING. -/
  | opStart (op : Nat)
  /-- R272. An op whose after-op ended other than DONE fails with DEPFAIL. -/
  | depfail (op : Nat)
  /-- R324. The reel issues one unit of the op heading its service order. -/
  | reelUnitIssue (ply : Nat)
  /-- R321. A copy unit is looked up and performed at its destination port. -/
  | unitDestWrite (op : Nat) (unit : Nat)
  /-- R321. A unit's acknowledgement returns to the reel. -/
  | unitAck (op : Nat) (unit : Nat)
  /-- R324. Effective slack falls by one after 4,096 cycles without service. -/
  | slackAging (op : Nat)
  /-- R326. An op writes its completion value with release and ends DONE. -/
  | completionWrite (op : Nat)
  /-- R277. A RUNNING op with a cancel request reaches a cancellation point. -/
  | opCancelPoint (op : Nat)
  /-- R299. An mma op adds one K-block into its bank with one rounding. -/
  | mmaKblock (op : Nat)
  /-- R311. An mmv op adds one streamed K-block. -/
  | mmvKblock (op : Nat)
  /-- R308. An mld or mst performs one unit of bank rows. -/
  | mldMstUnit (op : Nat)
  /-- R306. A remote mma command is checked against its capability at the matrix unit. -/
  | remoteCommand (op : Nat)
  /-- R294. The last accepted op on a Releasing bank is terminal; the bank is zeroed and freed. -/
  | bankReleaseComplete (core : Nat) (bank : BitVec 2)
  /-- R336. Every member's op of a collective has reached its twister. -/
  | collRendezvous (team : Nat) (seq : Nat)
  /-- R338. A twister performs one round of a collective. -/
  | collRound (team : Nat) (seq : Nat)
  /-- R354. A write's wake reaches a parked wwait with its reason. -/
  | wwaitWake (core : Nat) (slot : Nat)
  /-- R353. A parked wwait's limit expires with reason 2. -/
  | wwaitTimeout (core : Nat) (slot : Nat)
  /-- R354. The device wakes a waiter of its own accord with reason 1. -/
  | wwaitSpuriousWake (core : Nat) (slot : Nat)
  /-- R357. A completed phase reaches a parked bar.wait, which acquires. -/
  | barWaitRelease (core : Nat) (slot : Nat)
  /-- R358. The front end stores compval to the trigger word once every counted strand has triggered. -/
  | triggerStore (launch : Nat)
  /-- R402. A launch retires, writing its account record, completion word and events. -/
  | launchRetire (launch : Nat)
  /-- R394. A pre-emption command stops a strand, which drains its results and bank ops. -/
  | preemptCommand (core : Nat) (slot : Nat)
  /-- R389. HBM acknowledges the last save write; banks are freed and the slot frees. -/
  | saveComplete (core : Nat) (slot : Nat)
  /-- R389. A restore completes and the strand becomes eligible. -/
  | restoreComplete (core : Nat) (slot : Nat)
  /-- R392. The scrubber finds an uncorrectable word, poisons it and raises MEMERR. -/
  | memerr (word : Nat)
  /-- R408. A strand whose next word is at a stop halts before it. -/
  | stopHit (core : Nat) (slot : Nat)
  /-- R407. A core samples its next bound slot into the sample ring. -/
  | sampleTick (core : Nat)
  /-- R398. A halted strand reaches its architectural state. -/
  | haltComplete (core : Nat) (slot : Nat)
  /-- R73. Hub command attaching a queue to the partition. -/
  | qattach (ring : Nat) (ctx : Nat) (desc : Word)
  /-- R74. Hub command closing a queue. -/
  | qclose (ring : Nat) (ctx : Nat) (lo : Word) (hi : Word)
  /-- R187. Hub command invalidating translations of a range. -/
  | xinval (ring : Nat) (ctx : Nat) (base : Word) (len : Word)
  /-- R178. Hub command setting a context's level-4 table frame. -/
  | setroot (ring : Nat) (ctx : Nat) (frame : Word)
  /-- R385. Settles a kernel trap or FETCH by restoring and resuming the strand. -/
  | settleResume (ring : Nat) (ctx : Nat) (vcore : Word) (slot : Word)
  /-- R385. Settles a kernel trap by saving the strand as a pending slice. -/
  | settleRequeue (ring : Nat) (ctx : Nat) (vcore : Word) (slot : Word)
  /-- R385. Settles a kernel trap by ending the strand. -/
  | settleKill (ring : Nat) (ctx : Nat) (vcore : Word) (slot : Word)
  /-- R109. Settles a FETCH park by raising PROT at the fetched word. -/
  | fetchprot (ring : Nat) (ctx : Nat) (vcore : Word) (slot : Word) (kind : Word)
  /-- R281. Hub command resuming a paused op. -/
  | opsettleResume (ring : Nat) (ctx : Nat) (handle : Word)
  /-- R281. Hub command failing a paused op. -/
  | opsettleFail (ring : Nat) (ctx : Nat) (handle : Word)
  /-- R397. Hub command starting the kill of a context. -/
  | ctxkill (ring : Nat) (ctx : Nat)
  /-- R397. Every write of the killed context is acknowledged and the kill completes. -/
  | ctxkillComplete (ctx : Nat)
  /-- R388. Hub command setting a context's save-area pool. -/
  | savepool (ring : Nat) (ctx : Nat) (base : Word) (count : Word)
  /-- R240. Hub command assigning an action table to a context. -/
  | tabown (ring : Nat) (ctx : Nat) (mem : Word) (table : Word) (owner : Word)
  /-- R368. Hub command setting a die's race or sample ring header. -/
  | tracebase (ring : Nat) (ctx : Nat) (die : Word) (which : Word) (header : Word)
  /-- R417. Hub command reading device state into a buffer. -/
  | staterd (ring : Nat) (ctx : Nat) (cls : Word) (id0 : Word) (id1 : Word) (offset : Word) (len : Word) (buf : Word)
  /-- R112. Hub command installing a handler image. -/
  | himage (ring : Nat) (ctx : Nat) (image : Word)
  /-- R353. Hub command setting the wake limit and sampling interval. -/
  | timeout (ring : Nat) (ctx : Nat) (limit : Word) (interval : Word)
  /-- R417. Hub command writing device state from a buffer. -/
  | statewr (ring : Nat) (ctx : Nat) (cls : Word) (id0 : Word) (id1 : Word) (offset : Word) (len : Word) (buf : Word)
  /-- R84. Hub command setting a chip's list of message cores. -/
  | msgcores (ring : Nat) (ctx : Nat) (chip : Word) (list : Word) (count : Word)
  /-- R55. Hub command setting or clearing a chip's route table. -/
  | routetab (ring : Nat) (ctx : Nat) (chip : Word) (table : Word) (count : Word)
  /-- R64. Hub command setting or removing the snapshot area. -/
  | snaparea (ring : Nat) (ctx : Nat) (base : Word) (count : Word)
  /-- R414. Hypervisor command setting a partition's resources. -/
  | partset (ring : Nat) (part : Word) (islands : BitVec 32) (sysCores : BitVec 16) (hbm : List (Nat × Nat)) (irqCore : BitVec 4) (net : NetShare) (queueQuota : Word)
  /-- R32. Hypervisor command setting a partition's reach map. -/
  | reach (ring : Nat) (part : Word) (map : Word)
  /-- R425. Hypervisor command setting a partition's rank. -/
  | rank (ring : Nat) (part : Word) (rank : Word)
  /-- R425. Hypervisor command setting a partition's frequency ceiling. -/
  | partceil (ring : Nat) (part : Word) (mhz : Word)
  /-- R428. Hypervisor command parking an island into retention. -/
  | park (ring : Nat) (island : Word)
  /-- R428. Hypervisor command starting an island's exit from retention. -/
  | unpark (ring : Nat) (island : Word)
  /-- R428. An access reaches a parked island's memory and starts its exit. -/
  | islandExit (island : Nat)
  /-- R428. An island's retention entry or exit completes. -/
  | retentionComplete (island : Nat)
  /-- R425. Hypervisor command setting the package power limit. -/
  | pkglimit (ring : Nat) (watts : Word)
  /-- R418. The kernel writes the event ring read index, freeing entries. -/
  | eventReadIndexWrite (part : Nat) (index : Word)
  /-- R191. A write to a device register that has no row of its own. -/
  | registerWrite (ply : Nat) (index : BitVec 4) (value : Word)
  /-- R412. Debug command halting a strand, group, launch, context, op or system core. -/
  | halt (session : Nat) (target : DebugTarget)
  /-- R412. Debug command undoing a HALT. -/
  | debugResume (session : Nat) (target : DebugTarget)
  /-- R409. Debug command performing state readback. -/
  | debugRead (session : Nat) (ctx : Nat) (cls : Word) (id0 : Word) (id1 : Word) (offset : Word) (len : Word) (buf : Word)
  /-- R399. Debug command writing state of a halted strand. -/
  | debugWrite (session : Nat) (ctx : Nat) (place : SlotName) (item : DebugItem) (value : Word)
  /-- R408. Debug command setting a stop. -/
  | stopset (session : Nat) (ctx : Nat) (vcore : Option Nat) (pc : Word)
  /-- R408. Debug command clearing a stop. -/
  | stopclr (session : Nat) (ctx : Nat) (vcore : Option Nat) (pc : Word)
  /-- R407. Debug command setting the sampling interval. -/
  | sample (session : Nat) (ctx : Nat) (interval : Word)
  /-- R423. SPDM request for supported versions. -/
  | getVersion (offer : SpdmOffer)
  /-- R423. SPDM request for capabilities. -/
  | getCapabilities (port : SpdmPort)
  /-- R423. SPDM algorithm negotiation offering Falcon-1024 and SHAKE256. -/
  | negotiateAlgorithms (port : SpdmPort) (falcon : Bool) (shake : Bool)
  /-- R423. SPDM request for the device certificate chain. -/
  | getCertificate (port : SpdmPort)
  /-- R423. SPDM challenge signed with the device identity key. -/
  | challenge (port : SpdmPort) (nonce : Word)
  /-- R423. SPDM request for the measurement digests. -/
  | getMeasurements (port : SpdmPort)
  /-- R424. A package-right session installs a hall key. -/
  | hallKeyInstall (session : Nat) (key : BitVec 1) (id : Nat)
  /-- R426. A cap frame arrives and is checked in arrival order. -/
  | capFrame (frame : CapFrame)
  /-- R426. A verified cap frame's ceilings are applied to every island. -/
  | capFrameApply
  /-- R426. A frame's life expires and the HALL bound becomes none. -/
  | capFrameLapse
  /-- R425. Fumarole's 1 ms loop adjusts the PKG bound. -/
  | pkgControlTick
  /-- R425. Fumarole's 1 ms loop adjusts the THERM bound. -/
  | thermControlTick
  /-- R425. A core rail reaches its current limit and the CURR bound is set. -/
  | regulatorAlert (island : Nat) (mhz : Nat)
  /-- R425. The CURR bound's 1 ms hold expires. -/
  | currHoldExpiry (island : Nat)
  /-- R421. Fumarole runs the verified boot sequence from package ROM. -/
  | boot
  /-- R422. A new firmware or recovery image is written through the host port. -/
  | firmwareImageWrite (image : FirmwareImage)
  /-- R190. An inbound RDMA write is translated and delivered, or pauses its queue pair with NETPAGE. -/
  | rdmaWriteInbound (qp : Nat) (addr : Word) (data : List Byte)
  /-- R430. The storage port completes an NVMe command. -/
  | storageCommand (part : Nat) (ctx : Nat) (addr : Word) (transfer : Transfer)
  /-- R431. A Twine port trains through equalisation, flit lock and version negotiation. -/
  | linkTraining (port : Nat) (offered : List Nat)
  /-- R431. A Twine port loses its link and traffic moves to another path. -/
  | linkLoss (port : Nat)
  /-- R432. A flit arrives and duplicates are discarded by sequence number. -/
  | flitReceive (port : Nat) (lane : BitVec 3) (flit : Flit)
  /-- R432. A flit not acknowledged within 2 us is resent. -/
  | flitRetryTimeout (port : Nat) (lane : BitVec 3) (seq : Nat)
  /-- R74. The resident kernel unmaps a MAPPED queue, which gives up its hardware queue context and becomes IDLE. -/
  | queueUnmap (queue : Nat)
  /-- R74. The resident kernel pages out the save area of a long-IDLE queue through the storage port, and the queue becomes PAGED. -/
  | queuePageOut (queue : Nat)
  /-- R414. The resident kernel creates a context, which takes a chip-unique 16-bit context number and a default-placement cursor at vcore 0. -/
  | contextCreate (part : Nat) (ctx : Nat) (plies : List Nat)
  /-- R415. The scrub of a destroyed partition's memories ends after its timed duration, and its islands become free. -/
  | partitionScrubComplete (part : Nat)
  /-- R190. Once the paused page is resident, the network port resumes delivery of a paused queue pair from its buffers in arrival order. -/
  | netpageResume (qp : Nat)
  /-- R429. A host PCIe memory write, read or AtomicOp reaches device memory, with FetchAdd performed and CAS or Swap refused with Unsupported Request. -/
  | hostMemoryRequest (ctx : Nat) (req : HostReq) (addr : Word) (data : List Byte)
  /-- R429. An ATS invalidation request from the host arrives and completes under R187. -/
  | atsInvalidation (ctx : Nat) (base : Word) (len : Word)
  /-- R390. A bit error arises in a memory word, a tag, a register file or a bank, and is later corrected or reported as uncorrectable. -/
  | softError (site : ErrorSite) (correctable : Bool)
  /-- R411. A requester establishes a mutually authenticated, secured SPDM debug session with fumarole, limited to four sessions, with a partition right or the package right. -/
  | debugSessionOpen (right : DebugRight) (authentic : Bool)
  /-- R430. The resident kernel creates a RoCEv2 reliable connected queue pair within the partition's quota. -/
  | queuePairCreate (part : Nat) (ctx : Nat) (qp : Nat)
  /-- R430. An inbound RDMA read request arrives at the network port and reads memory through the context's translation. -/
  | rdmaReadInbound (qp : Nat) (addr : Word) (len : Nat)
  /-- R430. An inbound RDMA send arrives at the network port and is delivered to its queue pair. -/
  | rdmaSendInbound (qp : Nat) (data : List Byte)
  deriving DecidableEq, Repr

end Sys2Proof
end

