-- ==== Sys2Proof/WellFormed.lean ====
section
/-!
DEFINITION. Which instructions are well formed: the reserved values of enumerated fields (ILLOP subcode 1) and
the register groups (subcode 2) of 06_instruction_words.md R134. Reserved op codes and non-zero unused bits
have no instruction at all; the decoder refuses them.
-/

namespace Sys2Proof

/-- An order code names rlx, acq, rel, ar or sc (R116, R121). -/
def orderOk (o : BitVec 3) : Bool := o.toNat ≤ 4

/-- A scope code names strand, core, ply, die, pkg or dom (R116, R121). -/
def scopeOk (c : BitVec 3) : Bool := c.toNat ≤ 5

/-- Mask register 0 with sense 1 is reserved (R118). -/
def Mask.ok (m : Mask) : Bool := !(m.reg == 0#4 && m.sense)

/-- A register pair starts at an even register (R134). -/
def evenReg (r : Reg) : Bool := r.toNat % 2 = 0

/-- A group of four registers starts at g0, g2, …, g12 (R134). -/
def quadReg (r : Reg) : Bool := evenReg r && r.toNat ≤ 12

/-- The defined sub-operations of `amo` (R121). -/
def amoSubOk (u : BitVec 5) : Bool := u.toNat ≤ 9 || (16 ≤ u.toNat && u.toNat ≤ 24)

/-- The type codes of R117 as `vcvt` source codes (R220): 0 i, 1 n, 2 f, 3 bf. -/
def VType.code : VType → BitVec 2
  | .i => 0
  | .n => 1
  | .f => 2

/-- Integer types only. -/
def VType.isInt : VType → Bool
  | .f => false
  | _ => true

/-- Signed integer or binary32. -/
def VType.isSigned : VType → Bool
  | .n => false
  | _ => true

/-- No enumerated field holds a reserved value (R134 subcode 1). -/
def Instr.fieldsOk : Instr → Bool
  | .ldx _ _ _ _ _ z g => !(z == 3#2 && g)
  | .amo _ _ _ _ o c u => orderOk o && scopeOk c && amoSubOk u
  | .cas _ _ _ _ o c _ => orderOk o && scopeOk c
  | .cas2 _ _ _ _ o c => orderOk o && scopeOk c
  | .ldAcq _ _ _ c _ => scopeOk c
  | .stRel _ _ _ c _ => scopeOk c
  | .fence _ c k => scopeOk c && k != 0#4
  | .acq _ _ c => scopeOk c
  | .rel _ _ c => scopeOk c
  | .barArr _ l p => l.toNat ≤ 1 && (l != 0#2 || p.toNat ≤ 15)
  | .barWait _ l p => l.toNat ≤ 1 && (l != 0#2 || p.toNat ≤ 15)
  | .vadd _ _ _ _ _ _ m | .vsub _ _ _ _ _ _ m | .vmul _ _ _ _ _ _ m => m.ok
  | .vmulHi _ _ _ _ _ ty m => ty.isInt && m.ok
  | .vfma _ _ _ _ _ m | .vfms _ _ _ _ _ m | .vfnma _ _ _ _ _ m => m.ok
  | .vmin _ _ _ _ _ _ m | .vmax _ _ _ _ _ _ m => m.ok
  | .vabs _ _ _ ty m | .vneg _ _ _ ty m => ty.isSigned && m.ok
  | .vand _ _ _ _ _ _ m | .vor _ _ _ _ _ _ m | .vxor _ _ _ _ _ _ m | .vandn _ _ _ _ _ _ m => m.ok
  | .vshl _ _ _ _ _ ty m | .vshr _ _ _ _ _ ty m | .vsar _ _ _ _ _ ty m => ty.isInt && m.ok
  | .vceq _ _ _ _ _ _ m | .vcne _ _ _ _ _ _ m | .vclt _ _ _ _ _ _ m | .vcle _ _ _ _ _ _ m => m.ok
  | .vsel _ _ _ _ _ _ m => m.ok
  | .vmov _ _ _ _ _ m => m.ok
  | .vcvt _ _ _ ty m f => f != ty.code && m.ok
  | .vrcp _ _ _ m | .vrsq _ _ _ m | .vexp2 _ _ _ m | .vlog2 _ _ _ m | .vtanh _ _ _ m | .vsig _ _ _ m => m.ok
  | .vlnormAcc _ _ _ _ m _ | .vlnormFin _ _ _ _ m _ => m.ok
  | .vredsum _ _ _ _ _ _ m | .vredmax _ _ _ _ _ _ m | .vredmin _ _ _ _ _ _ m => m.ok
  | .vscan _ _ _ _ _ _ m _ => m.ok
  | .vslideDn _ _ _ _ _ m | .vslideUp _ _ _ _ _ m | .vslideRot _ _ _ _ _ m => m.ok
  | .vperm _ _ _ _ _ _ m => m.ok
  | .vpackBf _ _ _ _ _ m => m.ok
  | .vpackH _ _ _ _ _ ty m => ty.isInt && m.ok
  | .vunpackBf _ _ _ _ m => m.ok
  | .vunpackH _ _ _ _ ty m => ty.isInt && m.ok
  | .vsmaxSeg _ _ _ _ m _ _ => m.ok
  | .vclass _ _ _ m => m.ok
  | .vld _ _ _ _ o m | .vst _ _ _ _ o m => o.toNat ≤ 1 && m.ok
  | .vldD _ _ _ _ o m | .vldDHi _ _ _ _ o m | .vldDInt _ _ _ _ o m => o.toNat ≤ 1 && m.ok
  | .vstQ _ _ _ _ f => 1 ≤ f.toNat && f.toNat ≤ 7
  | .vlds _ _ _ _ z m | .vldx _ _ _ _ z m => z.toNat ≤ 4 && m.ok
  | .vstx _ _ _ _ z m => (z == 0#4 || z == 1#4 || z == 3#4) && m.ok
  | .vldSeg _ _ _ _ _ m _ => m.ok
  | .vsegsum _ _ _ _ m _ | .vsegmax _ _ _ _ m _ => m.ok
  | .vldb _ _ _ _ m => m.ok
  | .sbind _ _ _ _ _ _ g f => f.toNat ≤ 1 && !(g && f == 1#2)
  | .sstat _ _ _ p => p.toNat ≤ 4
  | .mst _ _ _ _ f _ => 1 ≤ f.toNat && f.toNat ≤ 7
  | .mcap _ _ _ _ m => m != 0#4
  | .ncas _ _ _ _ _ o p => orderOk o && scopeOk p
  | .tabld _ _ _ _ n => n != 0#3
  | _ => true

/-- Every register group starts where R134 subcode 2 allows. -/
def Instr.groupsOk : Instr → Bool
  | .ldp _ t _ _ | .stp _ t _ _ => evenReg t
  | .cas2 _ t _ r _ _ => evenReg t && evenReg r
  | .spawn _ _ a => quadReg a
  | .amsg _ _ _ p | .amsgUrg _ _ _ p => quadReg p
  | .ebind _ r n _ => evenReg r && evenReg n
  | .shbind _ a _ _ => evenReg a
  | .shpub _ a _ => evenReg a
  | .vstQ _ d _ _ f => f != 6#4 || evenReg d
  | .sbind _ a _ _ _ _ _ _ => evenReg a
  | .ocancelN _ a _ => evenReg a
  | .odetach _ _ d _ => evenReg d
  | .oadopt _ _ a _ => evenReg a
  | .ostatN _ a _ _ _ => evenReg a
  | .nnew _ d _ _ _ => evenReg d
  | .nres _ _ a _ | .nresV _ _ a _ => evenReg a
  | .nkill _ a _ | .nref _ a _ | .nrel _ a _ => evenReg a
  | .nstat _ _ a _ => evenReg a
  | .ncas _ _ _ b c _ _ => evenReg b && evenReg c
  | _ => true

/-- A well-formed instruction: one that the decode checks of R134 and R135 let through. -/
def Instr.wellFormed (i : Instr) : Bool := i.fieldsOk && i.groupsOk

end Sys2Proof
end

