-- ==== Sys2Proof/Decode.lean ====
section
/-!
DEFINITION. The decoder, total on every 32-bit pattern and on every list of bytes, rejecting by name
(06_instruction_words.md R113–R125, R134, R135; the layouts of R38, R67, R225, R236, R261, R274, R292, R322),
and after it the encoder, written from the same tables.
-/

namespace Sys2Proof

/-- Why a word is no instruction: the subcodes of R134, and a text that ends inside a word. -/
inductive DecodeError
  | reservedOp      -- subcode 0
  | reservedField   -- subcode 1
  | badGroup        -- subcode 2
  | reservedType    -- subcode 3
  | tooShort
  deriving DecidableEq, Repr

/-- The ILLOP subcode of a rejected word (R134). -/
def DecodeError.subcode : DecodeError → Nat
  | .reservedOp => 0
  | .reservedField => 1
  | .badGroup => 2
  | .reservedType => 3
  | .tooShort => 0

/-- SR words (R115, R116, R119). -/
def decodeSR (s : Bool) (op : BitVec 5) (d a : Reg) (r : BitVec 15) : Except DecodeError Instr :=
  let b := r.extractLsb' 11 4
  let g : Guard := ⟨r.extractLsb' 7 4, r.extractLsb' 1 6, r.getLsbD 0⟩
  match op.toNat with
  | 0x00 => .ok (.add s d a b g)
  | 0x01 => .ok (.sub s d a b g)
  | 0x02 => .ok (.mul s d a b g)
  | 0x03 => .ok (.mulh s d a b g)
  | 0x04 => .ok (.mulhu s d a b g)
  | 0x05 => .ok (.div s d a b g)
  | 0x06 => .ok (.divu s d a b g)
  | 0x07 => .ok (.rem s d a b g)
  | 0x08 => .ok (.remu s d a b g)
  | 0x09 => .ok (.and s d a b g)
  | 0x0A => .ok (.or s d a b g)
  | 0x0B => .ok (.xor s d a b g)
  | 0x0C => .ok (.andn s d a b g)
  | 0x0D => .ok (.orn s d a b g)
  | 0x0E => .ok (.shl s d a b g)
  | 0x0F => .ok (.shr s d a b g)
  | 0x10 => .ok (.sar s d a b g)
  | 0x11 => .ok (.rol s d a b g)
  | 0x12 => .ok (.ror s d a b g)
  | 0x13 => .ok (.min s d a b g)
  | 0x14 => .ok (.max s d a b g)
  | 0x15 => .ok (.minu s d a b g)
  | 0x16 => .ok (.maxu s d a b g)
  | 0x17 => .ok (.sel s d a b g)
  | 0x18 => if b = 0#4 then .ok (.clz s d a g) else .error .reservedField
  | 0x19 => if b = 0#4 then .ok (.ctz s d a g) else .error .reservedField
  | 0x1A => if b = 0#4 then .ok (.pop s d a g) else .error .reservedField
  | 0x1B => .ok (.bext s d a b g)
  | 0x1C => .ok (.bins s d a b g)
  | 0x1D =>
    match b.toNat with
    | 0 => .ok (.sextB s d a g)
    | 1 => .ok (.sextH s d a g)
    | 2 => .ok (.sextW s d a g)
    | 4 => .ok (.zextB s d a g)
    | 5 => .ok (.zextH s d a g)
    | 6 => .ok (.zextW s d a g)
    | _ => .error .reservedField
  | 0x1E =>
    if g.sense then .error .reservedField else
    match g.reg.toNat with
    | 0 => .ok (.ceq s d a b g.bit)
    | 1 => .ok (.cne s d a b g.bit)
    | 2 => .ok (.clt s d a b g.bit)
    | 3 => .ok (.cltu s d a b g.bit)
    | 4 => .ok (.cle s d a b g.bit)
    | 5 => .ok (.cleu s d a b g.bit)
    | _ => .error .reservedField
  | _ => if r.extractLsb' 0 8 = 0#8 then .ok (.adds s d a b (r.extractLsb' 8 3)) else .error .reservedField

/-- SI words (R115, R120). -/
def decodeSI (s : Bool) (op : BitVec 5) (d a : Reg) (r : BitVec 15) : Except DecodeError Instr :=
  match op.toNat with
  | 0x00 => .ok (.addi s d a r)
  | 0x01 => .ok (.andi s d a r)
  | 0x02 => .ok (.ori s d a r)
  | 0x03 => .ok (.xori s d a r)
  | 0x04 => if r.extractLsb' 6 9 = 0#9 then .ok (.shli s d a (r.extractLsb' 0 6)) else .error .reservedField
  | 0x05 => if r.extractLsb' 6 9 = 0#9 then .ok (.shri s d a (r.extractLsb' 0 6)) else .error .reservedField
  | 0x06 => if r.extractLsb' 6 9 = 0#9 then .ok (.sari s d a (r.extractLsb' 0 6)) else .error .reservedField
  | 0x07 => .ok (.muli s d a r)
  | 0x08 => .ok (.ldi s d (a ++ r))
  | 0x0B => if r.extractLsb' 6 9 = 0#9 then .ok (.bseti s d a (r.extractLsb' 0 6)) else .error .reservedField
  | 0x0C => if r.extractLsb' 6 9 = 0#9 then .ok (.bclri s d a (r.extractLsb' 0 6)) else .error .reservedField
  | 0x0D => if r.extractLsb' 6 9 = 0#9 then .ok (.binvi s d a (r.extractLsb' 0 6)) else .error .reservedField
  | 0x0E => .ok (.adr s d (a ++ r))
  | 0x0A =>
    match (r.extractLsb' 12 3).toNat with
    | 0 => .ok (.ceqi s d a (r.extractLsb' 6 6) (r.extractLsb' 0 6))
    | 1 => .ok (.cnei s d a (r.extractLsb' 6 6) (r.extractLsb' 0 6))
    | 2 => .ok (.clti s d a (r.extractLsb' 6 6) (r.extractLsb' 0 6))
    | 3 => .ok (.cltui s d a (r.extractLsb' 6 6) (r.extractLsb' 0 6))
    | 4 => .ok (.clei s d a (r.extractLsb' 6 6) (r.extractLsb' 0 6))
    | 5 => .ok (.cleui s d a (r.extractLsb' 6 6) (r.extractLsb' 0 6))
    | _ => .error .reservedField
  | _ => .error .reservedOp

/-- SM words (R115, R116, R121). -/
def decodeSM (s : Bool) (op : BitVec 5) (t b : Reg) (r : BitVec 15) : Except DecodeError Instr :=
  match op.toNat with
  | 0x00 => .ok (.ldB s t b r)
  | 0x01 => .ok (.ldBs s t b r)
  | 0x02 => .ok (.ldH s t b r)
  | 0x03 => .ok (.ldHs s t b r)
  | 0x04 => .ok (.ldW s t b r)
  | 0x05 => .ok (.ldWs s t b r)
  | 0x06 => .ok (.ldD s t b r)
  | 0x07 => .ok (.ldp s t b r)
  | 0x08 => .ok (.stB s t b r)
  | 0x09 => .ok (.stH s t b r)
  | 0x0A => .ok (.stW s t b r)
  | 0x0B => .ok (.stD s t b r)
  | 0x0C => .ok (.stp s t b r)
  | 0x0D => if r.extractLsb' 0 5 = 0#5
    then .ok (.ldx s t b (r.extractLsb' 11 4) (r.extractLsb' 8 3) (r.extractLsb' 6 2) (r.getLsbD 5)) else .error .reservedField
  | 0x0E => if r.extractLsb' 0 6 = 0#6
    then .ok (.stx s t b (r.extractLsb' 11 4) (r.extractLsb' 8 3) (r.extractLsb' 6 2)) else .error .reservedField
  | 0x10 => .ok (.amo s t b (r.extractLsb' 11 4) (r.extractLsb' 8 3) (r.extractLsb' 5 3) (r.extractLsb' 0 5))
  | 0x12 => if r.extractLsb' 0 4 = 0#4
    then .ok (.cas s t b (r.extractLsb' 11 4) (r.extractLsb' 8 3) (r.extractLsb' 5 3) (r.getLsbD 4)) else .error .reservedField
  | 0x13 => if r.extractLsb' 0 5 = 0#5
    then .ok (.cas2 s t b (r.extractLsb' 11 4) (r.extractLsb' 8 3) (r.extractLsb' 5 3)) else .error .reservedField
  | 0x14 => .ok (.ldAcq s t b (r.extractLsb' 12 3) (r.extractLsb' 0 12))
  | 0x15 => .ok (.stRel s t b (r.extractLsb' 12 3) (r.extractLsb' 0 12))
  | _ => .error .reservedOp

/-- The F group of the SC words (R117, R122). -/
def decodeF (s : Bool) (sub : BitVec 5) (r : BitVec 19) : Except DecodeError Instr :=
  match sub.toNat with
  | 0x00 => .ok (.mfs s (r.extractLsb' 15 4) (r.extractLsb' 0 15))
  | 0x01 => .ok (.mts s (r.extractLsb' 15 4) (r.extractLsb' 0 15))
  | 0x02 => if r.extractLsb' 15 4 = 0#4 ∧ r.extractLsb' 0 8 = 0#8 then .ok (.fence s (r.extractLsb' 12 3) (r.extractLsb' 8 4)) else .error .reservedField
  | 0x03 => if r.extractLsb' 0 12 = 0#12 then .ok (.acq s (r.extractLsb' 15 4) (r.extractLsb' 12 3)) else .error .reservedField
  | 0x04 => if r.extractLsb' 0 12 = 0#12 then .ok (.rel s (r.extractLsb' 15 4) (r.extractLsb' 12 3)) else .error .reservedField
  | 0x05 => if r.extractLsb' 0 7 = 0#7 then .ok (.ebind s (r.extractLsb' 15 4) (r.extractLsb' 11 4) (r.extractLsb' 7 4)) else .error .reservedField
  | 0x06 => if r.extractLsb' 0 7 = 0#7 then .ok (.wwait s (r.extractLsb' 15 4) (r.extractLsb' 11 4) (r.extractLsb' 7 4)) else .error .reservedField
  | 0x07 => if r.extractLsb' 15 4 = 0#4 ∧ r.extractLsb' 0 8 = 0#8 then .ok (.barArr s (r.extractLsb' 13 2) (r.extractLsb' 8 5)) else .error .reservedField
  | 0x08 => if r.extractLsb' 15 4 = 0#4 ∧ r.extractLsb' 0 8 = 0#8 then .ok (.barWait s (r.extractLsb' 13 2) (r.extractLsb' 8 5)) else .error .reservedField
  | 0x09 => if r.extractLsb' 0 19 = 0#19 then .ok (.trig s) else .error .reservedField
  | 0x0A => if r.extractLsb' 0 11 = 0#11 then .ok (.tsync s (r.extractLsb' 15 4) (r.extractLsb' 11 4)) else .error .reservedField
  | 0x0B => if r.extractLsb' 0 10 = 0#10 then .ok (.shbind s (r.extractLsb' 15 4) (r.extractLsb' 11 4) (r.getLsbD 10)) else .error .reservedField
  | 0x0C => if r.extractLsb' 11 8 = 0#8 ∧ r.extractLsb' 0 10 = 0#10 then .ok (.shrel s (r.getLsbD 10)) else .error .reservedField
  | 0x0D => if r.extractLsb' 0 11 = 0#11 then .ok (.shpub s (r.extractLsb' 15 4) (r.extractLsb' 11 4)) else .error .reservedField
  | 0x0E => .ok (.istat s (r.extractLsb' 15 4) (r.extractLsb' 0 15))
  | _ => .error .reservedOp

/-- SC words (R117). -/
def decodeSC (s : Bool) (op : BitVec 4) (r : BitVec 24) : Except DecodeError Instr :=
  match op.toNat with
  | 0x00 => .ok (.br s (r.extractLsb' 0 24))
  | 0x01 => .ok (.bb s (r.extractLsb' 20 4) (r.extractLsb' 14 6) (r.getLsbD 13) (r.extractLsb' 0 13))
  | 0x02 => .ok (.call s (r.extractLsb' 0 24))
  | 0x03 => if r.extractLsb' 0 20 = 0#20 then .ok (.callr s (r.extractLsb' 20 4)) else .error .reservedField
  | 0x04 => if r.extractLsb' 0 20 = 0#20 then .ok (.jmp s (r.extractLsb' 20 4)) else .error .reservedField
  | 0x05 => if r.extractLsb' 0 24 = 0#24 then .ok (.ret s) else .error .reservedField
  | 0x06 => .ok (.dbnz s (r.extractLsb' 20 4) (r.extractLsb' 0 20))
  | 0x07 => if r.extractLsb' 16 8 = 0#8 then .ok (.sys s (r.extractLsb' 0 16)) else .error .reservedField
  | 0x08 => if r.extractLsb' 16 8 = 0#8 then .ok (.brk s (r.extractLsb' 0 16)) else .error .reservedField
  | 0x09 => if r.extractLsb' 0 24 = 0#24 then .ok (.tret s) else .error .reservedField
  | 0x0A => if r.extractLsb' 0 20 = 0#20 then .ok (.hop s (r.extractLsb' 20 4)) else .error .reservedField
  | 0x0B => if r.extractLsb' 0 16 = 0#16 then .ok (.spawn s (r.extractLsb' 20 4) (r.extractLsb' 16 4)) else .error .reservedField
  | 0x0C => if r.extractLsb' 0 11 = 0#11 then
      (if r.getLsbD 11 then .ok (.amsgUrg s (r.extractLsb' 20 4) (r.extractLsb' 16 4) (r.extractLsb' 12 4)) else .ok (.amsg s (r.extractLsb' 20 4) (r.extractLsb' 16 4) (r.extractLsb' 12 4)))
      else .error .reservedField
  | 0x0D => if r.extractLsb' 0 24 = 0#24 then .ok (.yield s) else .error .reservedField
  | 0x0E => if r.extractLsb' 0 24 = 0#24 then .ok (.done s) else .error .reservedField
  | _ => decodeF s (r.extractLsb' 19 5) (r.extractLsb' 0 19)

/-- The type field of a VA word; 0b11 is reserved in every operation (R117, R134 subcode 3). -/
def decodeType (t : BitVec 2) : Option VType :=
  match t.toNat with
  | 0 => some .i
  | 1 => some .n
  | 2 => some .f
  | _ => none

/-- VA words of a defined op code and type (R117, R123, R214). -/
def decodeVAOp (s : Bool) (op : BitVec 6) (d a b : Reg) (x : Bool) (ty : VType) (mk : Mask) (md : BitVec 2) :
    Except DecodeError Instr :=
  match op.toNat with
  | 0x00 => if md = 0#2 then .ok (.vadd s d a b x ty mk) else .error .reservedField
  | 0x01 => if md = 0#2 then .ok (.vsub s d a b x ty mk) else .error .reservedField
  | 0x02 => match md.toNat with
    | 0 => .ok (.vmul s d a b x ty mk)
    | 1 => .ok (.vmulHi s d a b x ty mk)
    | _ => .error .reservedField
  | 0x03 => if md = 0#2 ∧ ty = .f then .ok (.vfma s d a b x mk) else .error .reservedField
  | 0x04 => if md = 0#2 ∧ ty = .f then .ok (.vfms s d a b x mk) else .error .reservedField
  | 0x05 => if md = 0#2 ∧ ty = .f then .ok (.vfnma s d a b x mk) else .error .reservedField
  | 0x06 => if md = 0#2 then .ok (.vmin s d a b x ty mk) else .error .reservedField
  | 0x07 => if md = 0#2 then .ok (.vmax s d a b x ty mk) else .error .reservedField
  | 0x08 => if md = 0#2 ∧ b = 0#4 ∧ x = false then .ok (.vabs s d a ty mk) else .error .reservedField
  | 0x09 => if md = 0#2 ∧ b = 0#4 ∧ x = false then .ok (.vneg s d a ty mk) else .error .reservedField
  | 0x0A => if md = 0#2 then .ok (.vand s d a b x ty mk) else .error .reservedField
  | 0x0B => if md = 0#2 then .ok (.vor s d a b x ty mk) else .error .reservedField
  | 0x0C => if md = 0#2 then .ok (.vxor s d a b x ty mk) else .error .reservedField
  | 0x0D => if md = 0#2 then .ok (.vandn s d a b x ty mk) else .error .reservedField
  | 0x0E => if md = 0#2 then .ok (.vshl s d a b x ty mk) else .error .reservedField
  | 0x0F => if md = 0#2 then .ok (.vshr s d a b x ty mk) else .error .reservedField
  | 0x10 => if md = 0#2 then .ok (.vsar s d a b x ty mk) else .error .reservedField
  | 0x11 => match md.toNat with
    | 0 => .ok (.vceq s d a b x ty mk)
    | 1 => .ok (.vcne s d a b x ty mk)
    | 2 => .ok (.vclt s d a b x ty mk)
    | _ => .ok (.vcle s d a b x ty mk)
  | 0x12 => if md = 0#2 then .ok (.vsel s d a b x ty mk) else .error .reservedField
  | 0x13 => if md = 0#2 ∧ a = 0#4 then .ok (.vmov s d b x ty mk) else .error .reservedField
  | 0x14 => if b = 0#4 ∧ x = false then .ok (.vcvt s d a ty mk md) else .error .reservedField
  | 0x15 => if md = 0#2 ∧ b = 0#4 ∧ x = false ∧ ty = .f then .ok (.vrcp s d a mk) else .error .reservedField
  | 0x16 => if md = 0#2 ∧ b = 0#4 ∧ x = false ∧ ty = .f then .ok (.vrsq s d a mk) else .error .reservedField
  | 0x17 => if md = 0#2 ∧ b = 0#4 ∧ x = false ∧ ty = .f then .ok (.vexp2 s d a mk) else .error .reservedField
  | 0x18 => if md = 0#2 ∧ b = 0#4 ∧ x = false ∧ ty = .f then .ok (.vlog2 s d a mk) else .error .reservedField
  | 0x19 => if md = 0#2 ∧ b = 0#4 ∧ x = false ∧ ty = .f then .ok (.vtanh s d a mk) else .error .reservedField
  | 0x1A => if md = 0#2 ∧ b = 0#4 ∧ x = false ∧ ty = .f then .ok (.vsig s d a mk) else .error .reservedField
  | 0x1B => if x = true ∧ ty = .f then
      (if md.getLsbD 1 then .ok (.vlnormFin s d a b mk (md.getLsbD 0)) else .ok (.vlnormAcc s d a b mk (md.getLsbD 0))) else .error .reservedField
  | 0x1C => if md = 0#2 then .ok (.vredsum s d a b x ty mk) else .error .reservedField
  | 0x1D => if md = 0#2 then .ok (.vredmax s d a b x ty mk) else .error .reservedField
  | 0x1E => if md = 0#2 then .ok (.vredmin s d a b x ty mk) else .error .reservedField
  | 0x1F => .ok (.vscan s d a b x ty mk md)
  | 0x20 => if x = true then
      (match md.toNat with
      | 0 => .ok (.vslideDn s d a b ty mk)
      | 1 => .ok (.vslideUp s d a b ty mk)
      | 2 => .ok (.vslideRot s d a b ty mk)
      | _ => .error .reservedField) else .error .reservedField
  | 0x21 => if md = 0#2 then .ok (.vperm s d a b x ty mk) else .error .reservedField
  | 0x22 => if x = true ∧ mk = ⟨0, false⟩ then .ok (.vins s d a b ty md) else .error .reservedField
  | 0x23 => if x = false ∧ mk = ⟨0, false⟩ then .ok (.vext s d a b ty md) else .error .reservedField
  | 0x24 => match md.toNat with
    | 0 => if ty = .f then .ok (.vpackBf s d a b x mk) else .error .reservedField
    | 1 => .ok (.vpackH s d a b x ty mk)
    | _ => .error .reservedField
  | 0x25 => if x = false ∧ b.extractLsb' 1 3 = 0#3 then
      (match md.toNat with
      | 0 => if ty = .f then .ok (.vunpackBf s d a (b.getLsbD 0) mk) else .error .reservedField
      | 1 => .ok (.vunpackH s d a (b.getLsbD 0) ty mk)
      | _ => .error .reservedField) else .error .reservedField
  | 0x26 => if x = true ∧ ty = .f then .ok (.vsmaxSeg s d a b mk (md.getLsbD 1) (md.getLsbD 0)) else .error .reservedField
  | 0x27 => if md = 0#2 ∧ b = 0#4 ∧ x = false ∧ ty = .f then .ok (.vclass s d a mk) else .error .reservedField
  | _ => .error .reservedOp

/-- VA words (R117). -/
def decodeVA (s : Bool) (op : BitVec 6) (d a b : Reg) (r : BitVec 10) : Except DecodeError Instr :=
  if op.toNat > 0x27 then .error .reservedOp else
  match decodeType (r.extractLsb' 7 2) with
  | none => .error .reservedType
  | some ty => decodeVAOp s op d a b (r.getLsbD 9) ty ⟨r.extractLsb' 3 4, r.getLsbD 2⟩ (r.extractLsb' 0 2)

/-- VM words (R118, R124, R225, R236). -/
def decodeVM (s : Bool) (op : BitVec 5) (d b : Reg) (r : BitVec 15) : Except DecodeError Instr :=
  let x := r.extractLsb' 11 4
  let o := r.extractLsb' 7 4
  let mk : Mask := ⟨r.extractLsb' 3 4, r.getLsbD 2⟩
  let sub := r.extractLsb' 0 2
  match op.toNat with
  | 0x00 => if sub = 0#2 then .ok (.vld s d b x o mk) else .error .reservedField
  | 0x01 => if sub = 0#2 then .ok (.vst s d b x o mk) else .error .reservedField
  | 0x02 => match sub.toNat with
    | 0 => .ok (.vldD s d b x o mk)
    | 1 => .ok (.vldDHi s d b x o mk)
    | 2 => .ok (.vldDInt s d b x o mk)
    | _ => .error .reservedField
  | 0x03 => if r.extractLsb' 0 7 = 0#7 then .ok (.vstQ s d b x o) else .error .reservedField
  | 0x04 => if sub = 0#2 then .ok (.vlds s d b x o mk) else .error .reservedField
  | 0x05 => if sub = 0#2 then .ok (.vldx s d b x o mk) else .error .reservedField
  | 0x06 => if sub = 0#2 then .ok (.vstx s d b x o mk) else .error .reservedField
  | 0x07 => if sub.getLsbD 1 = false then .ok (.vldSeg s d b x o mk (sub.getLsbD 0)) else .error .reservedField
  | 0x08 => if sub.getLsbD 1 = false ∧ o = 0#4 then .ok (.vsegsum s d b x mk (sub.getLsbD 0)) else .error .reservedField
  | 0x09 => if sub.getLsbD 1 = false ∧ o = 0#4 then .ok (.vsegmax s d b x mk (sub.getLsbD 0)) else .error .reservedField
  | 0x0A => if sub = 0#2 ∧ o = 0#4 then .ok (.vldb s d b x mk) else .error .reservedField
  | 0x0B => if r.extractLsb' 2 6 = 0#6 then .ok (.sbind s d b (r.extractLsb' 13 2) (r.extractLsb' 11 2) (r.extractLsb' 9 2) (r.getLsbD 8) (r.extractLsb' 0 2)) else .error .reservedField
  | 0x0C => if d = 0#4 ∧ b = 0#4 ∧ r.extractLsb' 0 13 = 0#13 then .ok (.sunbind s (r.extractLsb' 13 2)) else .error .reservedField
  | 0x0D => if d = 0#4 ∧ r.extractLsb' 0 13 = 0#13 then .ok (.sseek s b (r.extractLsb' 13 2)) else .error .reservedField
  | 0x0E => if b = 0#4 ∧ r.extractLsb' 11 2 = 0#2 ∧ r.extractLsb' 0 7 = 0#7 then .ok (.sstat s d (r.extractLsb' 13 2) o) else .error .reservedField
  | _ => .error .reservedOp

/-- EN words (R118, R125; R38, R261, R274, R292, R322). -/
def decodeEN (s : Bool) (op : BitVec 6) (d a b c : Reg) (m : BitVec 6) : Except DecodeError Instr :=
  match op.toNat with
  | 0x00 => if b = 0#4 ∧ c = 0#4 then
      (match m.toNat with
      | 0 => .ok (.mma s d a)
      | 1 => .ok (.mmaZ s d a)
      | _ => .error .reservedField) else .error .reservedField
  | 0x01 => if b = 0#4 ∧ c = 0#4 then
      (match m.toNat with
      | 0 => .ok (.mmv s d a)
      | 1 => .ok (.mmvZ s d a)
      | _ => .error .reservedField) else .error .reservedField
  | 0x02 => if d = 0#4 ∧ a = 0#4 ∧ b = 0#4 ∧ c = 0#4 ∧ m.extractLsb' 2 4 = 0#4 then .ok (.mzero s (m.extractLsb' 0 2)) else .error .reservedField
  | 0x03 => if c = 0#4 ∧ m.extractLsb' 2 4 = 0#4 then .ok (.mld s d a b (m.extractLsb' 0 2)) else .error .reservedField
  | 0x04 => if c = 0#4 then .ok (.mst s d a b (m.extractLsb' 2 4) (m.extractLsb' 0 2)) else .error .reservedField
  | 0x05 => if a = 0#4 ∧ b = 0#4 ∧ c = 0#4 ∧ m.extractLsb' 3 3 = 0#3 then
      (if m.getLsbD 2 then .ok (.macqSpecific s d (m.extractLsb' 0 2)) else if (m.extractLsb' 0 2) = 0#2 then .ok (.macq s d) else .error .reservedField) else .error .reservedField
  | 0x06 => if d = 0#4 ∧ a = 0#4 ∧ b = 0#4 ∧ c = 0#4 ∧ m.extractLsb' 2 4 = 0#4 then .ok (.mrel s (m.extractLsb' 0 2)) else .error .reservedField
  | 0x07 => if c = 0#4 ∧ m.extractLsb' 4 2 = 0#2 then .ok (.mcap s d a b (m.extractLsb' 0 4)) else .error .reservedField
  | 0x08 => if b = 0#4 ∧ c = 0#4 ∧ m = 0#6 then .ok (.cpy s d a) else .error .reservedField
  | 0x09 => if b = 0#4 ∧ c = 0#4 ∧ m = 0#6 then .ok (.cpym s d a) else .error .reservedField
  | 0x0A => if c = 0#4 ∧ m = 0#6 then .ok (.cpyfree s d a b) else .error .reservedField
  | 0x0B => if b = 0#4 ∧ c = 0#4 ∧ m = 0#6 then .ok (.coll s d a) else .error .reservedField
  | 0x0C => if a = 0#4 ∧ b = 0#4 ∧ m = 0#6 then .ok (.owait s d c) else .error .reservedField
  | 0x0D => if a = 0#4 ∧ b = 0#4 ∧ m = 0#6 then .ok (.otest s d c) else .error .reservedField
  | 0x0E => match m.toNat with
    | 0 => if a = 0#4 ∧ b = 0#4 ∧ c = 0#4 then .ok (.ocancel s d) else .error .reservedField
    | 1 => if d = 0#4 ∧ b = 0#4 then .ok (.ocancelN s a c) else .error .reservedField
    | _ => .error .reservedField
  | 0x0F => if b = 0#4 ∧ m = 0#6 then .ok (.odetach s d a c) else .error .reservedField
  | 0x10 => if b = 0#4 ∧ m = 0#6 then .ok (.oadopt s d a c) else .error .reservedField
  | 0x11 => if d = 0#4 ∧ b = 0#4 then
      (match m.toNat with
      | 0 => .ok (.ofaultResume s a c)
      | 1 => .ok (.ofaultFail s a c)
      | _ => .error .reservedField) else .error .reservedField
  | 0x12 => if m.extractLsb' 4 2 = 0#2 then
      (if m.getLsbD 3 then (if d = 0#4 then .ok (.ostatN s a b c (m.extractLsb' 0 3)) else .error .reservedField)
       else (if a = 0#4 ∧ c = 0#4 then .ok (.ostat s d b (m.extractLsb' 0 3)) else .error .reservedField)) else .error .reservedField
  | 0x14 => if m = 0#6 then .ok (.nnew s d a b c) else .error .reservedField
  | 0x15 => if b = 0#4 then
      (match m.toNat with
      | 0 => .ok (.nres s d a c)
      | 1 => .ok (.nresV s d a c)
      | _ => .error .reservedField) else .error .reservedField
  | 0x16 => if d = 0#4 ∧ b = 0#4 ∧ m = 0#6 then .ok (.nkill s a c) else .error .reservedField
  | 0x17 => if d = 0#4 ∧ b = 0#4 ∧ m = 0#6 then .ok (.nref s a c) else .error .reservedField
  | 0x18 => if d = 0#4 ∧ b = 0#4 ∧ m = 0#6 then .ok (.nrel s a c) else .error .reservedField
  | 0x19 => if b = 0#4 ∧ m = 0#6 then .ok (.nstat s d a c) else .error .reservedField
  | 0x1A => .ok (.ncas s d a b c (m.extractLsb' 3 3) (m.extractLsb' 0 3))
  | 0x1B => if b = 0#4 ∧ c = 0#4 ∧ m = 0#6 then .ok (.tld s d a) else .error .reservedField
  | 0x1C => if d = 0#4 ∧ c = 0#4 then
      (if m = 0#6 then .ok (.tst s a b)
       else if m.extractLsb' 4 2 = 1#2 ∧ b = 0#4 then .ok (.tstImm s a (m.extractLsb' 0 4)) else .error .reservedField) else .error .reservedField
  | 0x1D => if d = 0#4 then
      (if m = 0#6 then .ok (.tset s a b c)
       else if m.extractLsb' 4 2 = 1#2 ∧ c = 0#4 then .ok (.tsetImm s a b (m.extractLsb' 0 4)) else .error .reservedField) else .error .reservedField
  | 0x1E => if d = 0#4 ∧ m.extractLsb' 3 3 = 0#3 then .ok (.tabld s a b c (m.extractLsb' 0 3)) else .error .reservedField
  | 0x1F => if d = 0#4 ∧ b = 0#4 ∧ c = 0#4 ∧ m.extractLsb' 3 3 = 0#3 then .ok (.tabsel s a (m.extractLsb' 0 3)) else .error .reservedField
  | 0x20 => if d = 0#4 ∧ b = 0#4 ∧ c = 0#4 ∧ m = 0#6 then .ok (.tabsync s a) else .error .reservedField
  | 0x21 => if c = 0#4 then
      (if m.extractLsb' 3 3 = 0#3 then .ok (.tabrd s d a b (m.extractLsb' 0 3))
       else if m = 8#6 ∧ b = 0#4 then .ok (.tabrdSel s d a) else .error .reservedField) else .error .reservedField
  | 0x22 => if d = 0#4 ∧ c = 0#4 ∧ m.extractLsb' 3 3 = 0#3 then .ok (.rdset s a b (m.extractLsb' 0 3)) else .error .reservedField
  | _ => .error .reservedOp

/-- Hints (R126, R132). -/
def decodeHT (s : Bool) (k : BitVec 4) (p : BitVec 24) : Except DecodeError Instr :=
  match k.toNat with
  | 0 => .ok (.nop s p)
  | 1 => .ok (.xi s p)
  | 2 => if p = 0#24 then .ok (.pass s) else .error .reservedField
  | 3 => if p.extractLsb' 8 16 = 0#16 ∧ p.getLsbD 3 = false
    then .ok (.prio s (p.extractLsb' 4 4) (p.extractLsb' 0 3)) else .error .reservedField
  | 4 => if p.extractLsb' 4 20 = 0#20 then .ok (.after s (p.extractLsb' 0 4)) else .error .reservedField
  | 5 => if p.extractLsb' 4 20 = 0#20
    then .ok (.mod s (p.getLsbD 3) (p.getLsbD 2) (p.extractLsb' 0 2)) else .error .reservedField
  | 6 => if p.extractLsb' 16 8 = 0#8 then .ok (.dead s (p.extractLsb' 0 16)) else .error .reservedField
  | 7 => if p.extractLsb' 6 18 = 0#18 then .ok (.msk s (p.extractLsb' 0 6)) else .error .reservedField
  | _ => .ok (.reservedHint s (k.extractLsb' 0 3) p)

/-- The layout of a word before its field and group checks (R113). -/
def decodeRaw (w : Lane) : Except DecodeError Instr :=
  let s := w.getLsbD 31
  match (w.extractLsb' 28 3).toNat with
  | 0 => decodeSR s (w.extractLsb' 23 5) (w.extractLsb' 19 4) (w.extractLsb' 15 4) (w.extractLsb' 0 15)
  | 1 => decodeSI s (w.extractLsb' 23 5) (w.extractLsb' 19 4) (w.extractLsb' 15 4) (w.extractLsb' 0 15)
  | 2 => decodeSM s (w.extractLsb' 23 5) (w.extractLsb' 19 4) (w.extractLsb' 15 4) (w.extractLsb' 0 15)
  | 3 => decodeSC s (w.extractLsb' 24 4) (w.extractLsb' 0 24)
  | 4 => decodeVA s (w.extractLsb' 22 6) (w.extractLsb' 18 4) (w.extractLsb' 14 4) (w.extractLsb' 10 4)
      (w.extractLsb' 0 10)
  | 5 => decodeVM s (w.extractLsb' 23 5) (w.extractLsb' 19 4) (w.extractLsb' 15 4) (w.extractLsb' 0 15)
  | 6 => decodeEN s (w.extractLsb' 22 6) (w.extractLsb' 18 4) (w.extractLsb' 14 4) (w.extractLsb' 10 4)
      (w.extractLsb' 6 4) (w.extractLsb' 0 6)
  | _ => decodeHT s (w.extractLsb' 24 4) (w.extractLsb' 0 24)

/-- Decoding one word, the checks in the order of R135: 0, 3, 1, 2. -/
def decodeWord (w : Lane) : Except DecodeError Instr :=
  match decodeRaw w with
  | .error e => .error e
  | .ok i => if i.fieldsOk = false then .error .reservedField
             else if i.groupsOk = false then .error .badGroup
             else .ok i

/-- A word from its four bytes, the lowest address first (R2). -/
def wordOfBytes (b0 b1 b2 b3 : Byte) : Lane := b3 ++ b2 ++ b1 ++ b0

/-- Decoding the first word of a text, with the bytes that follow it. -/
def decodeBytes : List Byte → Except DecodeError (Instr × List Byte)
  | b0 :: b1 :: b2 :: b3 :: rest =>
    match decodeWord (wordOfBytes b0 b1 b2 b3) with
    | .ok i => .ok (i, rest)
    | .error e => .error e
  | _ => .error .tooShort

/-- Byte `k` of a number, as the text stores it. -/
def byteOf (w k : Nat) : Byte := BitVec.ofNat 8 (w / 256 ^ k)

/-- The instruction that the decoder reads from the bits of an opcode-table row. Every row with an encoding is
one 32-bit word; a row with fewer bits has its upper bits zero. A number that does not fit is no word. -/
def decodeTableWord (nbits w : Nat) : Option Instr :=
  if nbits = 0 ∨ nbits > 32 ∨ w ≥ 2 ^ 32 then none else
  match decodeBytes [byteOf w 0, byteOf w 1, byteOf w 2, byteOf w 3] with
  | .ok (i, _) => some i
  | .error _ => none

/-! ## The encoder -/

/-- Classes SR, SI, SM and VM: S, C, op, two register fields, the rest (R115). -/
def word5 (s : Bool) (c : BitVec 3) (op : BitVec 5) (d a : Reg) (r : BitVec 15) : Lane :=
  bit s ++ c ++ op ++ d ++ a ++ r

/-- Classes SC and HT: S, C, op4 or kind, the rest (R117, R118). -/
def word4 (s : Bool) (c : BitVec 3) (op : BitVec 4) (r : BitVec 24) : Lane := bit s ++ c ++ op ++ r

/-- Classes VA and EN: S, C, op6, three register fields, the rest (R117, R118). -/
def word6 (s : Bool) (c : BitVec 3) (op : BitVec 6) (d a b : Reg) (r : BitVec 10) : Lane :=
  bit s ++ c ++ op ++ d ++ a ++ b ++ r

/-- rb and the guard of an SR word (R115). -/
def restG (b : Reg) (g : Guard) : BitVec 15 := b ++ g.reg ++ g.bit ++ bit g.sense

/-- B, type, mask, sense and modifier of a VA word (R117). -/
def restV (x : Bool) (ty : VType) (mk : Mask) (md : BitVec 2) : BitVec 10 :=
  bit x ++ ty.code ++ mk.reg ++ bit mk.sense ++ md

/-- Index, mode, mask, sense and sub-operation of a VM word (R118). -/
def restM (x o : Reg) (mk : Mask) (sub : BitVec 2) : BitVec 15 :=
  x ++ o ++ mk.reg ++ bit mk.sense ++ sub

/-- The word of an instruction; an event has none. -/
def encode : Instr → Option Lane
  | .add s d a b g => some (word5 s 0 0x00 d a (restG b g))
  | .sub s d a b g => some (word5 s 0 0x01 d a (restG b g))
  | .mul s d a b g => some (word5 s 0 0x02 d a (restG b g))
  | .mulh s d a b g => some (word5 s 0 0x03 d a (restG b g))
  | .mulhu s d a b g => some (word5 s 0 0x04 d a (restG b g))
  | .div s d a b g => some (word5 s 0 0x05 d a (restG b g))
  | .divu s d a b g => some (word5 s 0 0x06 d a (restG b g))
  | .rem s d a b g => some (word5 s 0 0x07 d a (restG b g))
  | .remu s d a b g => some (word5 s 0 0x08 d a (restG b g))
  | .and s d a b g => some (word5 s 0 0x09 d a (restG b g))
  | .or s d a b g => some (word5 s 0 0x0A d a (restG b g))
  | .xor s d a b g => some (word5 s 0 0x0B d a (restG b g))
  | .andn s d a b g => some (word5 s 0 0x0C d a (restG b g))
  | .orn s d a b g => some (word5 s 0 0x0D d a (restG b g))
  | .shl s d a b g => some (word5 s 0 0x0E d a (restG b g))
  | .shr s d a b g => some (word5 s 0 0x0F d a (restG b g))
  | .sar s d a b g => some (word5 s 0 0x10 d a (restG b g))
  | .rol s d a b g => some (word5 s 0 0x11 d a (restG b g))
  | .ror s d a b g => some (word5 s 0 0x12 d a (restG b g))
  | .min s d a b g => some (word5 s 0 0x13 d a (restG b g))
  | .max s d a b g => some (word5 s 0 0x14 d a (restG b g))
  | .minu s d a b g => some (word5 s 0 0x15 d a (restG b g))
  | .maxu s d a b g => some (word5 s 0 0x16 d a (restG b g))
  | .sel s d a b g => some (word5 s 0 0x17 d a (restG b g))
  | .clz s d a g => some (word5 s 0 0x18 d a (restG 0 g))
  | .ctz s d a g => some (word5 s 0 0x19 d a (restG 0 g))
  | .pop s d a g => some (word5 s 0 0x1A d a (restG 0 g))
  | .bext s d a b g => some (word5 s 0 0x1B d a (restG b g))
  | .bins s d a b g => some (word5 s 0 0x1C d a (restG b g))
  | .sextB s d a g => some (word5 s 0 0x1D d a (restG 0 g))
  | .sextH s d a g => some (word5 s 0 0x1D d a (restG 1 g))
  | .sextW s d a g => some (word5 s 0 0x1D d a (restG 2 g))
  | .zextB s d a g => some (word5 s 0 0x1D d a (restG 4 g))
  | .zextH s d a g => some (word5 s 0 0x1D d a (restG 5 g))
  | .zextW s d a g => some (word5 s 0 0x1D d a (restG 6 g))
  | .ceq s d a b i => some (word5 s 0 0x1E d a (restG b ⟨0, i, false⟩))
  | .cne s d a b i => some (word5 s 0 0x1E d a (restG b ⟨1, i, false⟩))
  | .clt s d a b i => some (word5 s 0 0x1E d a (restG b ⟨2, i, false⟩))
  | .cltu s d a b i => some (word5 s 0 0x1E d a (restG b ⟨3, i, false⟩))
  | .cle s d a b i => some (word5 s 0 0x1E d a (restG b ⟨4, i, false⟩))
  | .cleu s d a b i => some (word5 s 0 0x1E d a (restG b ⟨5, i, false⟩))
  | .adds s d a b h => some (word5 s 0 0x1F d a (b ++ h ++ 0#8))
  | .addi s d a i => some (word5 s 1 0x00 d a i)
  | .andi s d a i => some (word5 s 1 0x01 d a i)
  | .ori s d a i => some (word5 s 1 0x02 d a i)
  | .xori s d a i => some (word5 s 1 0x03 d a i)
  | .shli s d a n => some (word5 s 1 0x04 d a (0#9 ++ n))
  | .shri s d a n => some (word5 s 1 0x05 d a (0#9 ++ n))
  | .sari s d a n => some (word5 s 1 0x06 d a (0#9 ++ n))
  | .muli s d a i => some (word5 s 1 0x07 d a i)
  | .ldi s d i => some (word5 s 1 0x08 d (i.extractLsb' 15 4) (i.extractLsb' 0 15))
  | .ceqi s d a b i => some (word5 s 1 0x0A d a (0#3 ++ b ++ i))
  | .cnei s d a b i => some (word5 s 1 0x0A d a (1#3 ++ b ++ i))
  | .clti s d a b i => some (word5 s 1 0x0A d a (2#3 ++ b ++ i))
  | .cltui s d a b i => some (word5 s 1 0x0A d a (3#3 ++ b ++ i))
  | .clei s d a b i => some (word5 s 1 0x0A d a (4#3 ++ b ++ i))
  | .cleui s d a b i => some (word5 s 1 0x0A d a (5#3 ++ b ++ i))
  | .bseti s d a n => some (word5 s 1 0x0B d a (0#9 ++ n))
  | .bclri s d a n => some (word5 s 1 0x0C d a (0#9 ++ n))
  | .binvi s d a n => some (word5 s 1 0x0D d a (0#9 ++ n))
  | .adr s d i => some (word5 s 1 0x0E d (i.extractLsb' 15 4) (i.extractLsb' 0 15))
  | .ldB s t b o => some (word5 s 2 0x00 t b o)
  | .ldBs s t b o => some (word5 s 2 0x01 t b o)
  | .ldH s t b o => some (word5 s 2 0x02 t b o)
  | .ldHs s t b o => some (word5 s 2 0x03 t b o)
  | .ldW s t b o => some (word5 s 2 0x04 t b o)
  | .ldWs s t b o => some (word5 s 2 0x05 t b o)
  | .ldD s t b o => some (word5 s 2 0x06 t b o)
  | .ldp s t b o => some (word5 s 2 0x07 t b o)
  | .stB s t b o => some (word5 s 2 0x08 t b o)
  | .stH s t b o => some (word5 s 2 0x09 t b o)
  | .stW s t b o => some (word5 s 2 0x0A t b o)
  | .stD s t b o => some (word5 s 2 0x0B t b o)
  | .stp s t b o => some (word5 s 2 0x0C t b o)
  | .ldx s t b x h z g => some (word5 s 2 0x0D t b (x ++ h ++ z ++ bit g ++ 0#5))
  | .stx s t b x h z => some (word5 s 2 0x0E t b (x ++ h ++ z ++ 0#6))
  | .amo s t b r o c u => some (word5 s 2 0x10 t b (r ++ o ++ c ++ u))
  | .cas s t b r o c w => some (word5 s 2 0x12 t b (r ++ o ++ c ++ bit w ++ 0#4))
  | .cas2 s t b r o c => some (word5 s 2 0x13 t b (r ++ o ++ c ++ 0#5))
  | .ldAcq s t b c o => some (word5 s 2 0x14 t b (c ++ o))
  | .stRel s t b c o => some (word5 s 2 0x15 t b (c ++ o))
  | .br s d => some (word4 s 3 0x0 d)
  | .bb s r b n d => some (word4 s 3 0x1 (r ++ b ++ bit n ++ d))
  | .call s d => some (word4 s 3 0x2 d)
  | .callr s r => some (word4 s 3 0x3 (r ++ 0#20))
  | .jmp s r => some (word4 s 3 0x4 (r ++ 0#20))
  | .ret s => some (word4 s 3 0x5 0)
  | .dbnz s r d => some (word4 s 3 0x6 (r ++ d))
  | .sys s c => some (word4 s 3 0x7 (0#8 ++ c))
  | .brk s c => some (word4 s 3 0x8 (0#8 ++ c))
  | .tret s => some (word4 s 3 0x9 0)
  | .hop s r => some (word4 s 3 0xA (r ++ 0#20))
  | .spawn s e a => some (word4 s 3 0xB (e ++ a ++ 0#16))
  | .amsg s d h p => some (word4 s 3 0xC (d ++ h ++ p ++ 0#12))
  | .amsgUrg s d h p => some (word4 s 3 0xC (d ++ h ++ p ++ 0x800#12))
  | .yield s => some (word4 s 3 0xD 0)
  | .done s => some (word4 s 3 0xE 0)
  | .mfs s d n => some (word4 s 3 0xF (0x00#5 ++ (d ++ n)))
  | .mts s a n => some (word4 s 3 0xF (0x01#5 ++ (a ++ n)))
  | .fence s c k => some (word4 s 3 0xF (0x02#5 ++ (0#4 ++ c ++ k ++ 0#8)))
  | .acq s r c => some (word4 s 3 0xF (0x03#5 ++ (r ++ c ++ 0#12)))
  | .rel s r c => some (word4 s 3 0xF (0x04#5 ++ (r ++ c ++ 0#12)))
  | .ebind s r n t => some (word4 s 3 0xF (0x05#5 ++ (r ++ n ++ t ++ 0#7)))
  | .wwait s d a b => some (word4 s 3 0xF (0x06#5 ++ (d ++ a ++ b ++ 0#7)))
  | .barArr s l p => some (word4 s 3 0xF (0x07#5 ++ (0#4 ++ l ++ p ++ 0#8)))
  | .barWait s l p => some (word4 s 3 0xF (0x08#5 ++ (0#4 ++ l ++ p ++ 0#8)))
  | .trig s => some (word4 s 3 0xF (0x09#5 ++ (0#19)))
  | .tsync s a l => some (word4 s 3 0xF (0x0A#5 ++ (a ++ l ++ 0#11)))
  | .shbind s a d n => some (word4 s 3 0xF (0x0B#5 ++ (a ++ d ++ bit n ++ 0#10)))
  | .shrel s n => some (word4 s 3 0xF (0x0C#5 ++ (0#8 ++ bit n ++ 0#10)))
  | .shpub s a d => some (word4 s 3 0xF (0x0D#5 ++ (a ++ d ++ 0#11)))
  | .istat s d p => some (word4 s 3 0xF (0x0E#5 ++ (d ++ p)))
  | .vadd s d a b x ty mk => some (word6 s 4 0x00 d a b (restV x ty mk 0))
  | .vsub s d a b x ty mk => some (word6 s 4 0x01 d a b (restV x ty mk 0))
  | .vmul s d a b x ty mk => some (word6 s 4 0x02 d a b (restV x ty mk 0))
  | .vmulHi s d a b x ty mk => some (word6 s 4 0x02 d a b (restV x ty mk 1))
  | .vfma s d a b x mk => some (word6 s 4 0x03 d a b (restV x .f mk 0))
  | .vfms s d a b x mk => some (word6 s 4 0x04 d a b (restV x .f mk 0))
  | .vfnma s d a b x mk => some (word6 s 4 0x05 d a b (restV x .f mk 0))
  | .vmin s d a b x ty mk => some (word6 s 4 0x06 d a b (restV x ty mk 0))
  | .vmax s d a b x ty mk => some (word6 s 4 0x07 d a b (restV x ty mk 0))
  | .vabs s d a ty mk => some (word6 s 4 0x08 d a 0 (restV false ty mk 0))
  | .vneg s d a ty mk => some (word6 s 4 0x09 d a 0 (restV false ty mk 0))
  | .vand s d a b x ty mk => some (word6 s 4 0x0A d a b (restV x ty mk 0))
  | .vor s d a b x ty mk => some (word6 s 4 0x0B d a b (restV x ty mk 0))
  | .vxor s d a b x ty mk => some (word6 s 4 0x0C d a b (restV x ty mk 0))
  | .vandn s d a b x ty mk => some (word6 s 4 0x0D d a b (restV x ty mk 0))
  | .vshl s d a b x ty mk => some (word6 s 4 0x0E d a b (restV x ty mk 0))
  | .vshr s d a b x ty mk => some (word6 s 4 0x0F d a b (restV x ty mk 0))
  | .vsar s d a b x ty mk => some (word6 s 4 0x10 d a b (restV x ty mk 0))
  | .vceq s d a b x ty mk => some (word6 s 4 0x11 d a b (restV x ty mk 0))
  | .vcne s d a b x ty mk => some (word6 s 4 0x11 d a b (restV x ty mk 1))
  | .vclt s d a b x ty mk => some (word6 s 4 0x11 d a b (restV x ty mk 2))
  | .vcle s d a b x ty mk => some (word6 s 4 0x11 d a b (restV x ty mk 3))
  | .vsel s d a b x ty mk => some (word6 s 4 0x12 d a b (restV x ty mk 0))
  | .vmov s d b x ty mk => some (word6 s 4 0x13 d 0 b (restV x ty mk 0))
  | .vcvt s d a ty mk f => some (word6 s 4 0x14 d a 0 (restV false ty mk f))
  | .vrcp s d a mk => some (word6 s 4 0x15 d a 0 (restV false .f mk 0))
  | .vrsq s d a mk => some (word6 s 4 0x16 d a 0 (restV false .f mk 0))
  | .vexp2 s d a mk => some (word6 s 4 0x17 d a 0 (restV false .f mk 0))
  | .vlog2 s d a mk => some (word6 s 4 0x18 d a 0 (restV false .f mk 0))
  | .vtanh s d a mk => some (word6 s 4 0x19 d a 0 (restV false .f mk 0))
  | .vsig s d a mk => some (word6 s 4 0x1A d a 0 (restV false .f mk 0))
  | .vlnormAcc s d a b mk h => some (word6 s 4 0x1B d a b (restV true .f mk (0#1 ++ bit h)))
  | .vlnormFin s d a b mk h => some (word6 s 4 0x1B d a b (restV true .f mk (1#1 ++ bit h)))
  | .vredsum s d a b x ty mk => some (word6 s 4 0x1C d a b (restV x ty mk 0))
  | .vredmax s d a b x ty mk => some (word6 s 4 0x1D d a b (restV x ty mk 0))
  | .vredmin s d a b x ty mk => some (word6 s 4 0x1E d a b (restV x ty mk 0))
  | .vscan s d a b x ty mk k => some (word6 s 4 0x1F d a b (restV x ty mk k))
  | .vslideDn s d a b ty mk => some (word6 s 4 0x20 d a b (restV true ty mk 0))
  | .vslideUp s d a b ty mk => some (word6 s 4 0x20 d a b (restV true ty mk 1))
  | .vslideRot s d a b ty mk => some (word6 s 4 0x20 d a b (restV true ty mk 2))
  | .vperm s d a b x ty mk => some (word6 s 4 0x21 d a b (restV x ty mk 0))
  | .vins s d l b ty h => some (word6 s 4 0x22 d l b (restV true ty ⟨0, false⟩ h))
  | .vext s d a l ty h => some (word6 s 4 0x23 d a l (restV false ty ⟨0, false⟩ h))
  | .vpackBf s d a b x mk => some (word6 s 4 0x24 d a b (restV x .f mk 0))
  | .vpackH s d a b x ty mk => some (word6 s 4 0x24 d a b (restV x ty mk 1))
  | .vunpackBf s d a h mk => some (word6 s 4 0x25 d a (0#3 ++ bit h) (restV false .f mk 0))
  | .vunpackH s d a h ty mk => some (word6 s 4 0x25 d a (0#3 ++ bit h) (restV false ty mk 1))
  | .vsmaxSeg s d a b mk c q => some (word6 s 4 0x26 d a b (restV true .f mk (bit c ++ bit q)))
  | .vclass s d a mk => some (word6 s 4 0x27 d a 0 (restV false .f mk 0))
  | .vld s d b x o mk => some (word5 s 5 0x00 d b (restM x o mk 0))
  | .vst s d b x o mk => some (word5 s 5 0x01 d b (restM x o mk 0))
  | .vldD s d b x o mk => some (word5 s 5 0x02 d b (restM x o mk 0))
  | .vldDHi s d b x o mk => some (word5 s 5 0x02 d b (restM x o mk 1))
  | .vldDInt s d b x o mk => some (word5 s 5 0x02 d b (restM x o mk 2))
  | .vstQ s d b x f => some (word5 s 5 0x03 d b (x ++ f ++ 0#7))
  | .vlds s d b x o mk => some (word5 s 5 0x04 d b (restM x o mk 0))
  | .vldx s d b x o mk => some (word5 s 5 0x05 d b (restM x o mk 0))
  | .vstx s d b x o mk => some (word5 s 5 0x06 d b (restM x o mk 0))
  | .vldSeg s d b r g mk h => some (word5 s 5 0x07 d b (restM r g mk (0#1 ++ bit h)))
  | .vsegsum s d b p mk h => some (word5 s 5 0x08 d b (restM p 0 mk (0#1 ++ bit h)))
  | .vsegmax s d b p mk h => some (word5 s 5 0x09 d b (restM p 0 mk (0#1 ++ bit h)))
  | .vldb s d b x mk => some (word5 s 5 0x0A d b (restM x 0 mk 0))
  | .sbind s a c n r w g f => some (word5 s 5 0x0B a c (n ++ r ++ w ++ bit g ++ 0#6 ++ f))
  | .sunbind s n => some (word5 s 5 0x0C 0 0 (n ++ 0#13))
  | .sseek s i n => some (word5 s 5 0x0D 0 i (n ++ 0#13))
  | .sstat s d n p => some (word5 s 5 0x0E d 0 (n ++ 0#2 ++ p ++ 0#7))
  | .mma s k a => some (word6 s 6 0x00 k a 0 (0#4 ++ 0#6))
  | .mmaZ s k a => some (word6 s 6 0x00 k a 0 (0#4 ++ 1#6))
  | .mmv s k a => some (word6 s 6 0x01 k a 0 (0#4 ++ 0#6))
  | .mmvZ s k a => some (word6 s 6 0x01 k a 0 (0#4 ++ 1#6))
  | .mzero s b => some (word6 s 6 0x02 0 0 0 (0#4 ++ (0#4 ++ b)))
  | .mld s k a p b => some (word6 s 6 0x03 k a p (0#4 ++ (0#4 ++ b)))
  | .mst s k a p f b => some (word6 s 6 0x04 k a p (0#4 ++ (f ++ b)))
  | .macq s d => some (word6 s 6 0x05 d 0 0 (0#4 ++ 0#6))
  | .macqSpecific s d b => some (word6 s 6 0x05 d 0 0 (0#4 ++ (1#4 ++ b)))
  | .mrel s b => some (word6 s 6 0x06 0 0 0 (0#4 ++ (0#4 ++ b)))
  | .mcap s d i l m => some (word6 s 6 0x07 d i l (0#4 ++ (0#2 ++ m)))
  | .cpy s k a => some (word6 s 6 0x08 k a 0 (0#4 ++ 0#6))
  | .cpym s k a => some (word6 s 6 0x09 k a 0 (0#4 ++ 0#6))
  | .cpyfree s d m t => some (word6 s 6 0x0A d m t (0#4 ++ 0#6))
  | .coll s k a => some (word6 s 6 0x0B k a 0 (0#4 ++ 0#6))
  | .owait s k d => some (word6 s 6 0x0C k 0 0 (d ++ 0#6))
  | .otest s k d => some (word6 s 6 0x0D k 0 0 (d ++ 0#6))
  | .ocancel s k => some (word6 s 6 0x0E k 0 0 (0#4 ++ 0#6))
  | .ocancelN s a c => some (word6 s 6 0x0E 0 a 0 (c ++ 1#6))
  | .odetach s k d c => some (word6 s 6 0x0F k d 0 (c ++ 0#6))
  | .oadopt s k a c => some (word6 s 6 0x10 k a 0 (c ++ 0#6))
  | .ofaultResume s a c => some (word6 s 6 0x11 0 a 0 (c ++ 0#6))
  | .ofaultFail s a c => some (word6 s 6 0x11 0 a 0 (c ++ 1#6))
  | .ostat s k d p => some (word6 s 6 0x12 k 0 d (0#4 ++ (0#3 ++ p)))
  | .ostatN s a d c p => some (word6 s 6 0x12 0 a d (c ++ (1#3 ++ p)))
  | .nnew s d a b c => some (word6 s 6 0x14 d a b (c ++ 0#6))
  | .nres s d a c => some (word6 s 6 0x15 d a 0 (c ++ 0#6))
  | .nresV s d a c => some (word6 s 6 0x15 d a 0 (c ++ 1#6))
  | .nkill s a c => some (word6 s 6 0x16 0 a 0 (c ++ 0#6))
  | .nref s a c => some (word6 s 6 0x17 0 a 0 (c ++ 0#6))
  | .nrel s a c => some (word6 s 6 0x18 0 a 0 (c ++ 0#6))
  | .nstat s d a c => some (word6 s 6 0x19 d a 0 (c ++ 0#6))
  | .ncas s d a b c o p => some (word6 s 6 0x1A d a b (c ++ (o ++ p)))
  | .tld s d a => some (word6 s 6 0x1B d a 0 (0#4 ++ 0#6))
  | .tst s a b => some (word6 s 6 0x1C 0 a b (0#4 ++ 0#6))
  | .tstImm s a t => some (word6 s 6 0x1C 0 a 0 (0#4 ++ (1#2 ++ t)))
  | .tset s a b c => some (word6 s 6 0x1D 0 a b (c ++ 0#6))
  | .tsetImm s a b t => some (word6 s 6 0x1D 0 a b (0#4 ++ (1#2 ++ t)))
  | .tabld s a b c n => some (word6 s 6 0x1E 0 a b (c ++ (0#3 ++ n)))
  | .tabsel s a n => some (word6 s 6 0x1F 0 a 0 (0#4 ++ (0#3 ++ n)))
  | .tabsync s a => some (word6 s 6 0x20 0 a 0 (0#4 ++ 0#6))
  | .tabrd s d a b n => some (word6 s 6 0x21 d a b (0#4 ++ (0#3 ++ n)))
  | .tabrdSel s d a => some (word6 s 6 0x21 d a 0 (0#4 ++ 8#6))
  | .rdset s a b p => some (word6 s 6 0x22 0 a b (0#4 ++ (0#3 ++ p)))
  | .nop s p => some (word4 s 7 0x0 p)
  | .xi s p => some (word4 s 7 0x1 p)
  | .pass s => some (word4 s 7 0x2 0)
  | .prio s k p => some (word4 s 7 0x3 (0#16 ++ k ++ 0#1 ++ p))
  | .after s k => some (word4 s 7 0x4 (0#20 ++ k))
  | .mod s h t r => some (word4 s 7 0x5 (0#20 ++ bit h ++ bit t ++ r))
  | .dead s m => some (word4 s 7 0x6 (0#8 ++ m))
  | .msk s c => some (word4 s 7 0x7 (0#18 ++ c))
  | .reservedHint s k p => some (word4 s 7 (1#1 ++ k) p)
  | _ => none

end Sys2Proof
end

