-- ==== Sys2Proof/Config.lean ====
section
/-!
DEFINITION. What the manual leaves open. Every constant here is a free value: it has no body, so a claim about
the machine is true whatever it is. `Config.freeBit`, `freeWord` and `freeLane` are applied to the counter
`State.free`, which each use advances; the others are applied to what they depend on. The fixed figures of the
package stand below them.
-/

namespace Sys2Proof.Config

/-- Which of two allowed behaviours happens: old or new value at a hazard (R173), stale or fresh text (R108),
stale or fresh translation (R187), a prefetched element used or not (R239). -/
opaque freeBit : Nat → Bool

/-- A 64-bit value the manual does not state. -/
opaque freeWord : Nat → Word

/-- A 32-bit value the manual does not state. -/
opaque freeLane : Nat → Lane

/-- Which bracketing binary32 value the device's approximation of function `fn` returns for an input (R222, R233). -/
opaque bracketUp : (fn : Nat) → Lane → Bool

/-- The result of an approximated function where the model's interval arithmetic does not settle the bracket. -/
opaque bracketOpen : (fn : Nat) → Lane → Lane

/-- The capability key that fumarole sets in a core at a boot (R304, R421 step 5), by boot serial. -/
opaque capKey : (serial core : Nat) → Word

/-- CapCheck, the 20-bit check of a capability under a core's key (R304): fields 43:0, context, generations of the masked banks. -/
opaque capCheck : (key : Word) → BitVec 44 → Nat → List Nat → BitVec 20

/-- What a peer chip's tables answer for an address (R181): 0 allowed, otherwise the fault kind of R183. -/
opaque peerFault : (chip ctx va kind count : Nat) → BitVec 8

/-- The level of the entry at which a peer chip finds that fault. -/
opaque peerLevel : (chip ctx va kind count : Nat) → BitVec 3

/-- Whether a frame of the device register space lies in a partition's register windows (R181). -/
opaque registerWindow : (part frame : Nat) → Bool

/-- The vcores that a context of the given birth has on another chip (R93, R97), of at most 2,560. -/
opaque vcoresAt : (chip ctx birth : Nat) → BitVec 12

/-- The die of that chip on which the ply of an ordinal of the context lies (R8, R94). -/
opaque dieAt : (chip ctx birth ordinal : Nat) → Fin 8

/-- Whether a core of another chip, whose slots, banks and bytes stand there, fits a group (R96), at a moment. -/
opaque fitsAway : (moment core : Nat) → Bool

/-- The physical core of a ply that an enabled core's position stands for (R8, R9), which no other state shows. -/
opaque harvest : (ply position : Nat) → Fin 18

/-- The kernel's stack pointer for a launch strand (R159: set by the resident kernel). -/
opaque startStk : (launch strand : Nat) → Word

/-- The fused rollback counter (R422). -/
opaque rollbackFuse : Nat

/-- Whether the firmware image in storage checks at boot, by boot serial (R421 step 2). -/
opaque storedImageOk : Nat → Bool

/-- Whether boot step `n` of boot `serial` succeeds (R421). -/
opaque bootStepOk : (serial step : Nat) → Bool

/-- A SHAKE256 digest of 64 bytes (R423), by the index 1–20 of the measurement and the identity of what is measured. -/
opaque measurement : (index subject : Nat) → BitVec 512

/-- Whether the system image of a partition that is built checks (R414, R421 step 7), at a moment. -/
opaque systemImageOk : (part moment : Nat) → Bool

/-- The SHAKE256 digest of that image (R423). -/
opaque systemImage : (part moment : Nat) → BitVec 512

/-- The protocol versions that the partner of a Twine port offers as a boot trains it (R421 step 6, R433). -/
opaque twinePartner : (port serial : Nat) → List Nat

/-- What a register of BAR0 reads whose offset the manual does not give (R429). -/
opaque bar0 : (offset count : Nat) → Word

/-- The device certificate chain (R423). -/
opaque certificate : Nat

/-- A signature with the device identity key (R423) over a digest. -/
opaque deviceSign : Nat → Nat

/-- What the PKG control loop needs of the islands of a rank (R425), in MHz; 0 for no bound. -/
opaque pkgBound : (limit rank count : Nat) → BitVec 12

/-- What the THERM control loop needs of an island (R425), in MHz; 0 for no bound. -/
opaque thermBound : (island count : Nat) → BitVec 12

/-- Whether the lanes of a Twine port equalise and lock (R431). -/
opaque linkLocks : (port count : Nat) → Bool

/-- 2,560 enabled cores (R8). -/
abbrev cores : Nat := 2560

/-- 160 plies (R8). -/
abbrev plies : Nat := 160

/-- Local-store bytes of a core (R10). -/
abbrev lsBytes : Nat := 1048576

/-- Ply-pool bytes: 704 pages of 4 KiB, 2.75 MiB (R11, R181). -/
abbrev poolBytes : Nat := 704 * 4096

/-- Die service memory bytes (R12). -/
abbrev dsmBytes : Nat := 4 * 1048576

/-- Frames of 4 KiB of program-visible HBM (R181). -/
abbrev hbmFrames : Nat := 0xE000000

/-- Entries of one shard of the name table (R27). -/
abbrev shardEntries : Nat := 98304

/-- Local-store bytes of a core left to programs (R53: "the local store left to programs on a core of the context"). -/
opaque lsLeft : (ctx : Nat) → BitVec 21

end Sys2Proof.Config
end

