-- ==== Sys2Proof/Machine/FMap.lean ====
section
/-!
DEFINITION. Sparse maps from natural numbers to data, in one canonical form: keys strictly rising, and no entry
equal to what an unlisted key reads as. Memory, tags, descriptors, register files and banks are held so.
-/

namespace Sys2Proof.Machine

/-- A sparse map: pairs of key and value. What an unlisted key reads as is an argument of every operation. -/
abbrev FMap (α : Type) := List (Nat × α)

/-- The value at a key. -/
def FMap.get {α : Type} (d : α) : FMap α → Nat → α
  | [], _ => d
  | (k, v) :: t, i => if i = k then v else FMap.get d t i

/-- The map without a key. -/
def FMap.erase {α : Type} : FMap α → Nat → FMap α
  | [], _ => []
  | (k, v) :: t, i => if i = k then FMap.erase t i else (k, v) :: FMap.erase t i

/-- Places an entry before the first greater key. -/
def FMap.insert {α : Type} : FMap α → Nat → α → FMap α
  | [], i, x => [(i, x)]
  | (k, v) :: t, i, x => if i < k then (i, x) :: (k, v) :: t else (k, v) :: FMap.insert t i x

/-- Writes a value; writing what an unlisted key reads as removes the entry. -/
def FMap.set {α : Type} [DecidableEq α] (d : α) (m : FMap α) (i : Nat) (x : α) : FMap α :=
  if x = d then FMap.erase m i else FMap.insert (FMap.erase m i) i x

/-- Writes a run of values at consecutive keys, in ascending order. -/
def FMap.setList {α : Type} [DecidableEq α] (d : α) (m : FMap α) (i : Nat) : List α → FMap α
  | [] => m
  | x :: xs => FMap.setList d (FMap.set d m i x) (i + 1) xs

/-- Reads `n` values at consecutive keys. -/
def FMap.getList {α : Type} (d : α) (m : FMap α) (i : Nat) : Nat → List α
  | 0 => []
  | n + 1 => FMap.get d m i :: FMap.getList d m (i + 1) n

/-- Sets a run of `n` keys to one value. -/
def FMap.fill {α : Type} [DecidableEq α] (d : α) (m : FMap α) (i n : Nat) (x : α) : FMap α :=
  FMap.setList d m i (List.replicate n x)

/-- Drops every entry whose key lies in `[lo, hi)`: the keys then read as unlisted ones. -/
def FMap.clear {α : Type} : FMap α → Nat → Nat → FMap α
  | [], _, _ => []
  | (k, v) :: t, lo, hi =>
    if lo ≤ k ∧ k < hi then FMap.clear t lo hi else (k, v) :: FMap.clear t lo hi

/-- The keys of the entries. -/
def FMap.keys {α : Type} (m : FMap α) : List Nat := m.map (·.1)

/-- Every key of the map lies above a bound, in strictly rising order, and no value is the default. -/
def FMap.wfFrom {α : Type} [DecidableEq α] (d : α) : Option Nat → FMap α → Bool
  | _, [] => true
  | lo, (k, v) :: t =>
    (match lo with | none => true | some l => decide (l < k)) && decide (v ≠ d) && FMap.wfFrom d (some k) t

/-- The canonical form. -/
def FMap.wf {α : Type} [DecidableEq α] (d : α) (m : FMap α) : Bool := FMap.wfFrom d none m

end Sys2Proof.Machine
end

