-- ==== Sys2Proof/Machine/State.lean ====
section
/-!
DEFINITION. The state of the package as plain data: strands, memories, engines, cores, hub and fumarole, with the
model's own fields (the agenda of scheduled events and the counter of free values), and the state after reset.
-/

namespace Sys2Proof.Machine

/-- Why the machine stops: for no reason. Every word and every event has an effect. -/
inductive Fault
  deriving DecidableEq, Repr

/-- Why a word has no meaning. -/
inductive Refusal
  /-- The instruction has no meaning in this model yet. Raised by exec's arms only. Safe. -/
  | notModelled (mnemonic : String)
  deriving DecidableEq, Repr

/-! ## Memory -/

/-- The memories of the package and the address spaces beyond it (R181). -/
inductive Space
  | hbm
  | ls (core : Nat)
  | pool (ply : Nat)
  | dsm (die : Nat)
  | host (ctx : Nat)
  | mmio
  | peer (chip ctx : Nat)
  | sync
  deriving DecidableEq, Repr

/-- A physical byte address: a memory and an offset in it. -/
structure PAddr where
  space : Space
  off : Nat
  deriving DecidableEq, Repr

/-- The access kinds of tagged memories (R242). -/
inductive AKind
  | ld | st | amo | rld | rst | erd | ewr | stk
  deriving DecidableEq, Repr

/-- The access codes of `tinfo` (R183). -/
inductive Acc
  | load | store | atomic | fetch | tag
  deriving DecidableEq, Repr

/-- The cause codes of R379. -/
inductive Cause
  | illop | priv | align | prot | watch | brk | sys | spill | fill | runhaz | budget | tagtrap | tagmix
  | redirloop | segx | tokbusy | stream | uncorr | hopdeny
  deriving DecidableEq, Repr

/-- A trap with its syndrome (R382); of an op's unit that trapped at a tagged memory, the place there (R257). -/
structure TrapInfo where
  cause : Cause
  tinfo : Word
  taddr : Word
  place : Option PAddr := none
  deriving DecidableEq, Repr

/-- What one 64-byte unit of an access does at its memory (R245). Byte offsets are within the block. -/
inductive UnitAct
  /-- reads the bytes -/
  | read
  /-- reads the whole block with its descriptor (R203) -/
  | readBlock
  /-- writes bytes, leaving the descriptor (R194) -/
  | write (data : List (Nat × Byte))
  /-- writes the whole block and its descriptor (`vst.q`, `mst`) (R194) -/
  | writeBlock (data : List Byte) (desc : BitVec 48)
  /-- an `amo` (R345) -/
  | amo (off : Nat) (sub : BitVec 5) (operand : Word)
  /-- a compare-and-swap of `size` bytes (R345) -/
  | cas (off size : Nat) (expected new : BitVec 128)
  /-- compares a doubleword and registers a waiter when it equals `gb` (R353) -/
  | wwait (off : Nat) (gb : Word)
  /-- writes a copy unit with its descriptor rule and landing tag (R195, R264) -/
  | land (data : List (Nat × Byte)) (desc : BitVec 48) (tag : Option (BitVec 4))
  /-- combines a reducing-copy unit (R327) -/
  | reduce (code : Nat) (data : List (Nat × Byte)) (tag : Option (BitVec 4))
  /-- has only its tags looked up: its effect waits for the liveness of a name (R45) -/
  | look
  deriving DecidableEq, Repr

/-- What a performed unit answers: the bytes it read (or the old value), the descriptor of a block read, and the
flags of a reducing copy (R327). -/
structure UnitRes where
  bytes : List Byte
  desc : BitVec 48
  flags : BitVec 9
  deriving DecidableEq, Repr

/-- Who waits in a park list (R249). -/
inductive Parker
  | strand (core slot : Nat)
  /-- an op, with the key of the piece of its work -/
  | op (op key : Nat)
  /-- an element read by a generator (R239), of its binding of that number -/
  | prefetch (core slot sg binding elem : Nat)
  /-- the add of a multicast entry whose receivers have all freed (R332): no op or strand waits for it -/
  | mailbox
  deriving DecidableEq, Repr

/-- What reaches memory, by the rows of R184. -/
inductive XKind
  | scalar (size : Nat)
  | vector
  | atomic
  /-- `tld`, `tst`, `tset` -/
  | tag
  /-- `tabld` to `rdset`: also no peer (R262) -/
  | table
  | fetch
  | engine
  deriving DecidableEq, Repr

/-- Whose TLBs a translation goes through (R185): the current strand's core, a core, a ply (its reel and matrix units), a twister's
die, or none (the front end and the ports, for which R185 names no TLB: log 94). -/
inductive Via
  | strand
  | core (core : Nat)
  | ply (ply : Nat)
  | twister (die : Nat)
  | none
  deriving DecidableEq, Repr

/-- One 64-byte unit of an access, translated (R245); a parked one stands in the park list (R249). `pa` and `va`
are of its lowest byte, `offs` the bytes it touches within the block, `trace` its kind in the race trace when its
page is traced (R368). -/
structure AccessUnit where
  who : Parker
  ctx : Nat
  sysm : Bool
  core : Nat
  va : Nat
  pa : PAddr
  xk : XKind
  via : Via
  kind : AKind
  acc : Acc
  offs : List Nat
  act : UnitAct
  trace : Option (BitVec 8)
  redirected : Bool
  /-- of a redirected unit, the place whose lookup redirected it (R258) -/
  origin : Option PAddr := none
  deriving DecidableEq, Repr

/-- A sound leaf and where an address lies under it: what a translation gives (R182). -/
structure Leaf where
  entry : Nat
  level : Nat
  pa : PAddr
  deriving DecidableEq, Repr

/-- A cache of page-table entries (R185): a core's DTLB and ITLB, a ply's second-level TLB and its walkers' caches, a twister's TLB. -/
inductive TlbId
  | dtlb (core : Nat)
  | itlb (core : Nat)
  | ply (ply : Nat)
  | walkers (ply : Nat)
  | twister (die : Nat)
  deriving DecidableEq, Repr

/-- A cached page-table entry (R185): the cache that holds it, its context, the first address it maps, its level, the address of the
entry that keeps its A and D (R186), and the entry as it was read; of a 64 KiB group, entry 0 with the group's A and D. -/
structure TlbEntry where
  cache : TlbId
  ctx : Nat
  va : Nat
  level : Nat
  addr : Nat
  entry : Nat
  deriving DecidableEq, Repr

/-- A waiter of `wwait` (R353). -/
structure Waiter where
  core : Nat
  slot : Nat
  pa : PAddr
  gb : Word
  deriving DecidableEq, Repr

/-- A redirect base (R252): virtual page and the context that set it. -/
structure Redirect where
  base : Word
  ctx : Option Nat
  deriving DecidableEq, Repr

/-- A text word in the instruction cache of a core (R107). -/
structure CachedWord where
  core : Nat
  ctx : Nat
  va : Nat
  word : Lane
  deriving DecidableEq, Repr

/-- The memory system. Keys of the maps: bytes by physical key, tags and poison by word, descriptors by block,
selects by region; tables by (memory, table, entry). -/
structure Mem where
  bytes : FMap Byte
  tags : FMap (BitVec 4)
  descs : FMap (BitVec 48)
  /-- uncorrectable words: 1 in the data, 2 in the tag (R391, R392) -/
  poison : FMap (BitVec 2)
  selects : FMap (BitVec 3)
  tables : FMap (BitVec 16)
  vectors : FMap Word
  owners : FMap (Option Nat)
  redirects : FMap Redirect
  parked : List AccessUnit
  waiters : List Waiter
  /-- page-table entries that the TLBs and walker caches hold (R185–R187) -/
  tlb : List TlbEntry
  /-- text words in the cores' instruction caches (R107, R108) -/
  icache : List CachedWord
  /-- watch filters (R191), key 12 × ply + 3 × n + {0 base, 1 control, 2 mask} -/
  watch : FMap Word
  /-- race-ring and sample-ring header addresses of each die (R368, R407), key 2 × die + ring -/
  ringBase : FMap Word
  /-- logged writes per home port since boot (R368) -/
  raceSeq : FMap Nat
  /-- corrected (2k) and uncorrected (2k + 1) error counts per memory (R390, R409) -/
  errors : FMap Nat
  deriving DecidableEq, Repr

/-! ## Strands -/

/-- Where a strand is: nowhere, in a slot of a core, in a core's pending list, held outside it (R101, R394), on
its way to a core (R177), or in the network buffer of its ply (R177). -/
inductive Place
  | none
  | slot (core slot : Nat)
  | pending (core : Nat)
  | held (core : Nat)
  | transit (core : Nat)
  | buffered (core : Nat)
  deriving DecidableEq, Repr

/-- Why a strand in a slot is not eligible (R165). -/
inductive Wait
  | none
  /-- parked at a marker (R170) -/
  | marker
  /-- its word waits at issue; it is tried again after the next event -/
  | issue
  /-- a pop of its word waits at issue for the element of a generator whose read is parked (R239) -/
  | element (sg : Nat)
  /-- it issued `pass` (R168), and with a marker it parks after that -/
  | passed
  | passedMarker
  /-- its start delay runs (R165) -/
  | start
  /-- restoring saved state (R389) -/
  | restoring
  /-- a unit of its word is parked at a tagged memory (R249) -/
  | unit
  /-- parked in `wwait` (R353), and the wake on its way with its reason (R354) -/
  | wwait
  | woken (reason : Nat)
  /-- parked in `bar.wait` (R357) -/
  | barrier (level slot : Nat)
  /-- its word waits for a remote home chip (R32), with what it needs in its log -/
  | remote
  /-- its word waits for the strand's long results, its operands read (R154) -/
  | returns
  /-- waiting for an instruction-cache line (R107) -/
  | line
  /-- parked on FETCH (R109) -/
  | fetch
  /-- parked at a trap given to the kernel (R385) -/
  | kernel
  /-- stopped by pre-emption, REQUEUE or `yield`: draining, then saved (R104, R389, R394) -/
  | draining
  deriving DecidableEq, Repr

/-- A shape snapshot (R64); `live` false is a free slot. -/
structure Snapshot where
  live : Bool
  ctx : Nat
  name : Name
  version : Word
  rows : Nat
  cols : Nat
  nseg : Nat
  strict : Bool
  causal : Bool
  start : List Nat
  deriving DecidableEq, Repr

/-- A free snapshot slot. -/
def Snapshot.none : Snapshot :=
  { live := false, ctx := 0, name := 0, version := 0, rows := 0, cols := 0, nseg := 0, strict := false,
    causal := false, start := [] }

/-- A use of a remote name lookup's answer (R32): the stack entries it writes, the name's class for `nstat`, and for a status alone
the codes that its instruction can return for a name of that class (R43). -/
inductive RemoteUse
  | addr (gd gc : Nat)
  | version (gd gc : Nat)
  | info (gd gc : Nat) (cls : BitVec 8)
  | status (gc : Nat) (codes : List Nat)
  deriving DecidableEq, Repr

/-- What a long result still waits for before it can return. -/
inductive ResultWait
  | none
  /-- the shoot-down of a name (R43) -/
  | shootdown (counter : Nat)
  /-- an op to be terminal (R277) -/
  | op (op : Nat)
  /-- a Releasing bank to be free (R294) -/
  | bank (core bank : Nat)
  /-- a free snapshot slot, for `shbind` (R64, R68) -/
  | snapshot (slot : Bool) (gd : Nat) (snap : Snapshot)
  /-- the answer of a remote home chip (R32) -/
  | remote (use : RemoteUse)
  /-- the acknowledgement of every core of a `tsync` (R359): the lines that hold bytes `lo` to `hi − 1` -/
  | text (lo hi : Nat)
  /-- the value of an access with order acq, ar or sc, which returns before a later access is performed (R343, R344) -/
  | acquire
  /-- the store of an append (R238) -/
  | append
  /-- the performance of units that a region or a table redirected under what governed it before (R258, R259) -/
  | units (us : List AccessUnit)
  deriving DecidableEq, Repr

/-- An outstanding long result (R170, R174): stack entries and vector registers it will write. -/
structure LongResult where
  id : Nat
  gdests : List (Nat × Word)
  vdests : List (Nat × List Lane)
  wait : ResultWait
  /-- the name whose lookup it is (R35) -/
  name : Option Nat
  deriving DecidableEq, Repr

/-- A stream generator (R235), with the elements it has prefetched (R239). -/
structure Stream where
  base : Word
  stride : Word
  n : BitVec 32
  p : BitVec 32
  bound : Bool
  write : Bool
  reg : BitVec 2
  width : BitVec 2
  signed : Bool
  fetched : List (Nat × Word)
  /-- which binding of the generator it is: the model's own field, for the reads that an earlier one has parked (R237) -/
  binding : Nat
  /-- elements whose read is parked (R239), and those whose re-evaluation trapped -/
  parked : List Nat
  stopped : List (Nat × TrapInfo)
  deriving DecidableEq, Repr

/-- The prefixes issued so far of a prefix group (R129): `count` words, the first at `first`. -/
structure Prefix where
  count : Nat
  first : Word
  xis : List (BitVec 24)
  prio : Option (BitVec 4 × BitVec 3)
  after : Option Reg
  mod : Option (BitVec 4)
  deriving DecidableEq, Repr

/-- What a word that waits has settled already, which it takes again when it is issued again: the word itself, the translations of its
accesses, each with its address, and how many of them the watch filters have passed, what the tag lookup of `ncas` found (R45), the operands it read at a hazard (R173), what its name lookups
answered, and the stream elements it read. A position counts what the present attempt has taken. -/
structure Replay where
  word : Option Lane
  leaves : List (Nat × Leaf)
  leafPos : Nat
  watched : Nat
  watchPos : Nat
  looked : Option (AccessUnit × List (Nat × BitVec 4))
  gs : List (Nat × Word)
  vs : List (Nat × List Lane)
  /-- what its name lookups and its hop's target gave (R32, R154): a lookup's status, entry counter + 1 (0 for none), address and
  version -/
  answers : List (Nat × Nat × Word × Word)
  answerPos : Nat
  /-- generator, element and value -/
  pops : List (Nat × Nat × Word)
  deriving DecidableEq, Repr

/-- Nothing settled. -/
def Replay.none : Replay :=
  { word := .none, leaves := [], leafPos := 0, watched := 0, watchPos := 0, looked := .none, gs := [], vs := [], answers := [], answerPos := 0,
    pops := [] }

/-- The same, for the next attempt: from its first access on. -/
def Replay.again (r : Replay) : Replay := { r with leafPos := 0, watchPos := 0, answerPos := 0, pops := [] }

/-- A stream append whose store is not yet issued (R238): its element under its leaf, its value, and what the strand was before its
word, which is the boundary that a trap or a park of the store takes (R247). -/
structure Append where
  va : Word
  leaf : Leaf
  width : BitVec 2
  value : Word
  sg : Nat
  /-- the long result that it counts as -/
  id : Nat
  pc : Word
  pfx : Prefix
  streams : FMap Stream
  sflags : BitVec 9
  replay : Replay
  deriving DecidableEq, Repr

/-- No prefix issued. -/
def Prefix.empty : Prefix :=
  { count := 0, first := 0, xis := [], prio := none, after := none, mod := none }

/-- An unbound generator. -/
def Stream.reset : Stream :=
  { base := 0, stride := 0, n := 0, p := 0, bound := false, write := false, reg := 0, width := 0,
    signed := false, fetched := [], binding := 0, parked := [], stopped := [] }

/-- A strand: what a slot, a pending slice or a save area holds of it. -/
structure Strand where
  place : Place
  wait : Wait
  ctx : Nat
  part : Nat
  launch : Option Nat
  group : Nat
  /-- strand number t (R52); 0x8000_0000 for a handler (R156) -/
  tnum : BitVec 32
  /-- a number of its own among all strands: the model's own field -/
  uid : Nat
  handler : Bool
  pc : Word
  /-- register-stack entries 0–63 (R149) -/
  stack : FMap Word
  strict : Bool
  hm : Bool
  urg : Bool
  sysm : Bool
  cwp : BitVec 3
  rdep : BitVec 3
  mskcnt : BitVec 6
  srseed : Word
  tvec : Word
  tcause : BitVec 6
  taddr : Word
  tinfo : Word
  epc : Word
  est : Word
  budget : Word
  slicebud : Word
  deadline : Word
  wtmo : Word
  sflags : BitVec 9
  rmode : BitVec 4
  stk : Word
  tdeleg : BitVec 20
  /-- lvl0–lvl7, unlisted 0 (R52) -/
  lvl : FMap Word
  /-- ext0–ext7, unlisted 1 (R52) -/
  ext : FMap Word
  /-- vector lanes, key 64 × register + lane (R10); a dead register's lanes read 0 (R127) -/
  vregs : FMap Lane
  vlive : BitVec 16
  /-- tokens k0–k15: the op each holds (R269) -/
  tokens : FMap (Option Nat)
  ntok : Nat
  /-- sg0–sg3 (R235) -/
  streams : FMap Stream
  /-- sh0, sh1: the snapshot each refers to (R65) -/
  sh0 : Option Nat
  sh1 : Option Nat
  /-- entries (0–63) and vector registers (64 + number) with a parity error (R391) -/
  parity : List Nat
  outstanding : List LongResult
  appends : Option Append
  pfx : Prefix
  /-- units of the current word already performed, and how many of them its accesses have taken (R249, R250) -/
  unitLog : List UnitRes
  unitPos : Nat
  replay : Replay
  /-- the word was issued before it parked, and is issued again -/
  reissue : Bool
  /-- destination entry and marker of a word parked in `wwait` or `bar.wait` -/
  pdest : Nat
  pmark : Bool
  /-- a trap that a re-evaluation raised (R266) -/
  pendingTrap : Option TrapInfo
  halted : Bool
  haltReq : Bool
  /-- the targets whose HALT stands on it (R412); none where it halts at a stop (R408) -/
  haltBy : List DebugTarget
  ktrap : Bool
  kcause : BitVec 6
  kentry : BitVec 6
  budgetDue : Bool
  budgetTaken : Bool
  triggered : Bool
  /-- created from a bind record: counted for triggers and barriers (R356, R358) -/
  counted : Bool
  /-- ply and die of its placement core (R356) -/
  homePly : Nat
  homeDie : Nat
  /-- last-arrived phase + 1 per barrier slot, key 32 × level + slot; 0 none (R356) -/
  arrived : FMap Nat
  issued : Nat
  parkedCycles : Nat
  age : Nat
  /-- save area of the context's pool (R388) -/
  area : Option Nat
  /-- banks saved with it: bits 3:0 held, 7:4 in handler mode (R388) -/
  banks : BitVec 8
  /-- it must be restored from its save area when bound (R102) -/
  restore : Bool
  /-- it arrived by `hop` (R177) -/
  hopped : Bool
  high : Bool
  /-- the AMSG packet whose handler it is (R80): queue, and the packet's place in it -/
  packet : Option (Nat × Nat)
  /-- its next slice carries a fresh budget, for `yield` (R101) -/
  fresh : Bool
  /-- its restore met an uncorrectable word (R392): not bound until the kernel settles it -/
  restErr : Bool
  /-- the slot it left when it was saved while parked at the kernel (R396) -/
  kslot : Nat
  /-- the budget that its save area was written with: what it has spent since falls from what the area says (R103, R385) -/
  savedBudget : Word
  /-- the high-priority launch, by its order, and the group for which the spindle has pre-empted it (R393, R400) -/
  forGroup : Option (Nat × Nat)
  /-- what a debugger's rewrite adds to what a read-only state register of the device reads, by its number (R399) -/
  bias : FMap Word
  deriving DecidableEq, Repr

/-- The strand that is no strand: every register at the value a strand starts with (R137, R159). -/
def Strand.empty : Strand :=
  { place := .none, wait := .none, ctx := 0, part := 0, launch := none, group := 0, tnum := 0, uid := 0, handler := false,
    pc := 0, stack := [], strict := false, hm := false, urg := false, sysm := false, cwp := 0, rdep := 0,
    mskcnt := 0, srseed := 0, tvec := 0, tcause := 0, taddr := 0, tinfo := 0, epc := 0, est := 0, budget := 0,
    slicebud := 0, deadline := 0, wtmo := 0, sflags := 0, rmode := 0, stk := 0, tdeleg := 0x400B4#20, lvl := [],
    ext := [], vregs := [], vlive := 0, tokens := [], ntok := 16, streams := [], sh0 := none, sh1 := none,
    parity := [], outstanding := [], appends := .none, pfx := Prefix.empty, unitLog := [], unitPos := 0,
    replay := Replay.none, reissue := false, pdest := 0, pmark := false, pendingTrap := none, halted := false,
    haltReq := false, haltBy := [], ktrap := false, kcause := 0, kentry := 0, budgetDue := false, budgetTaken := false,
    triggered := false, counted := false, homePly := 0, homeDie := 0, arrived := [], issued := 0,
    parkedCycles := 0, age := 0, area := none, banks := 0, restore := false, hopped := false, high := false,
    packet := none, fresh := false, restErr := false, kslot := 0, savedBudget := 0, forGroup := none,
    bias := [] }

/-! ## Cores -/

/-- An active message on its way or waiting in an urgent buffer (R156, R164). -/
structure Message where
  dest : Nat
  urgent : Bool
  pc : Word
  /-- g0–g5 of the handler -/
  regs : List Word
  ctx : Nat
  part : Nat
  launch : Option Nat
  ntok : Nat
  deadline : Word
  slicebud : Word
  high : Bool
  /-- sender's `uid`, for the order of R156 -/
  sender : Option Nat
  /-- packet that started it (queue, index), for its completion (R80) -/
  packet : Option (Nat × Nat)
  deriving DecidableEq, Repr

/-- Per-core state outside its slots. -/
structure Core where
  /-- GTO's greedy slot (R167) -/
  greedy : Option Nat
  /-- slot that issued last, for RR (R167) -/
  rr : Nat
  /-- urgent messages waiting, oldest first: eight in the buffer, the rest in the ply network (R164) -/
  urgent : List Message
  /-- cached names, least recently used first: name and address (R34) -/
  names : List (Name × Word)
  /-- the shape cache: the four snapshots used last, by context, name and version, the latest first (R10, R64) -/
  shapes : List (Nat × Name × Word)
  sissue : Word
  /-- what the core's `sidle` counts beside the idle cycles of the package (R420) -/
  sidle : Word
  /-- next slot to sample (R407) -/
  sampleNext : Nat
  deriving DecidableEq, Repr

/-- A core right after reset. -/
def Core.reset : Core :=
  { greedy := none, rr := 7, urgent := [], names := [], shapes := [], sissue := 0, sidle := 0, sampleNext := 0 }

/-! ## Engines -/

/-- Op states (R270); `free` is no op. -/
inductive OpState
  | free | pending | queued | running | paused | done | failed | cancelled
  deriving DecidableEq, Repr

/-- The work of an op (R268). -/
inductive OpKind
  | mma (z : Bool)
  | mmv (z : Bool)
  | mld (bank : Nat) (addr stride : Word)
  | mst (bank : Nat) (addr stride : Word) (fmt : Nat)
  | cpy
  | cpym
  | coll
  /-- an op on another chip that a token refers to (R278) -/
  | foreign (chip : Nat)
  deriving DecidableEq, Repr

/-- The engine of an op (R282). -/
inductive Engine
  | matrix (core : Nat)
  | reel (ply : Nat)
  | twister (die : Nat)
  deriving DecidableEq, Repr

/-- A copy unit in flight (R321). -/
structure Flight where
  unit : Nat
  data : List Byte
  /-- descriptor of a whole aligned source block, if it is one (R195) -/
  desc : Option (BitVec 48)
  /-- receiver position of a multicast (R330) -/
  recv : Nat
  written : Bool
  /-- its op pauses before it (R189, R257) -/
  stopped : Bool
  deriving DecidableEq, Repr

/-- An engine op (R268–R284). -/
structure Op where
  state : OpState
  kind : OpKind
  engine : Engine
  ctx : Nat
  part : Nat
  sysm : Bool
  launch : Option Nat
  /-- issuing vcore word (R93), core and strand number -/
  vcore : BitVec 32
  core : Nat
  tnum : BitVec 32
  /-- the issuing strand's `uid` -/
  strand : Nat
  /-- holder mode at issue (R290) -/
  hm : Bool
  /-- the queue and index of a COPY packet -/
  packet : Option (Nat × Nat)
  after : Option Nat
  prio : BitVec 3
  slack : BitVec 4
  effSlack : Nat
  /-- descriptor copy (R298, R310, R323, R334) -/
  desc : List Byte
  snapshot : Option Nat
  rnd : BitVec 4
  srseed : Word
  units : Nat
  issuedUnits : Nat
  flight : List Flight
  /-- units applied at their destination but not acknowledged (R328) -/
  applied : List Nat
  fault : BitVec 8
  synd : Word
  faddr : Word
  gen : BitVec 16
  cancelReq : Bool
  haltReq : Bool
  /-- pieces of its work that are parked at a memory (R249), and the answers of pieces performed, by key -/
  parked : List Nat
  unitLog : List (Nat × UnitRes)
  /-- what stopped a piece of its work, and that piece's key (R250, R257) -/
  pendingStop : Option (Nat × TrapInfo)
  /-- reads that a combined read of another op serves once it is performed (R303): key, that op, its key -/
  follows : List (Nat × Nat × Nat)
  name : Option Nat
  orphan : Bool
  flags : BitVec 5
  /-- a remote command that has arrived at its unit's command buffer (R291) -/
  arrived : Bool
  /-- accepted at its matrix unit (R290, R291) -/
  accepted : Bool
  /-- key of an opened multicast entry (R331) -/
  entryOpen : Bool
  /-- TEAM name and sequence of a collective (R336) -/
  team : Option (Nat × Nat)
  issue : Nat
  /-- the order in which it reached its matrix unit, or that unit's command buffer (R291) -/
  reach : Nat
  /-- reaped by `owait` (R275): no reference names it -/
  reaped : Bool
  /-- formats of the operand rows (R297), kept from the first K-block -/
  fmts : List Nat
  /-- a K-block or a unit of bank rows is under way -/
  under : Bool
  /-- an `mmv` stopped at a K-block boundary by the pre-emption of the strand that holds its bank (R314) -/
  suspended : Bool
  deriving DecidableEq, Repr

/-- No op. -/
def Op.none : Op :=
  { state := .free, kind := .cpy, engine := .reel 0, ctx := 0, part := 0, sysm := false, launch := .none,
    vcore := 0, core := 0, tnum := 0, strand := 0, hm := false, packet := .none, after := .none, prio := 0,
    slack := 15, effSlack := 15, desc := [], snapshot := .none, rnd := 0, srseed := 0, units := 0,
    issuedUnits := 0, flight := [], applied := [], fault := 0, synd := 0, faddr := 0, gen := 0,
    cancelReq := false, haltReq := false, parked := [], unitLog := [], pendingStop := .none, follows := [], name := .none,
    orphan := false, flags := 0, arrived := false, accepted := false, entryOpen := false, team := .none, issue := 0,
    reach := 0, reaped := false, fmts := [], under := false, suspended := false }

/-- The condition of a bank (R289). -/
inductive BankCond
  | free
  /-- held by the strand of this slot, in this mode (`pst.HM`) -/
  | held (slot : Nat) (hm : Bool)
  | releasing
  deriving DecidableEq, Repr

/-- A bank's condition, holder's launch and generation (R289). -/
structure Bank where
  cond : BankCond
  launch : Option Nat
  gen : Nat
  deriving DecidableEq, Repr

/-- A free bank at reset. -/
def Bank.reset : Bank := { cond := .free, launch := none, gen := 0 }

/-- A multicast free entry (R331). -/
structure FreeEntry where
  ply : Nat
  ctx : Nat
  mailbox : Nat
  tile : Nat
  receivers : BitVec 16
  freed : BitVec 16
  compval : BitVec 32
  op : Nat
  deriving DecidableEq, Repr

/-- A collective under way (R336): vcore and op of each one that issued it here, rounds done, values by rank. -/
structure Collective where
  members : List (Nat × Nat)
  met : Bool
  round : Nat
  vals : FMap (List Byte)
  /-- descriptors of whole source blocks (R195), key 2^41 × rank + offset of the block in the source -/
  descs : FMap (BitVec 48)
  /-- every combination is made: `vals` holds what each member's destination receives -/
  final : Bool
  deriving DecidableEq, Repr

/-- No collective. -/
def Collective.none : Collective := { members := [], met := false, round := 0, vals := [], descs := [], final := false }

/-- The engines' state. -/
structure Eng where
  ops : FMap Op
  nextOp : Nat
  /-- bank elements, key 4,096 × (4 × core + bank) + 64 × row + column (R288) -/
  acc : FMap Lane
  /-- bank elements with a parity error (R390) -/
  badAcc : List Nat
  /-- key 4 × core + bank -/
  banks : FMap Bank
  entries : List FreeEntry
  /-- team-record copies by TEAM name: member list (R333) -/
  teams : FMap (Option (List Nat))
  /-- key (TEAM name × 2^32 + sequence) -/
  colls : FMap Collective
  /-- collectives issued by each member, key (TEAM name × 2^32 + vcore) (R336) -/
  collSeq : FMap Nat
  /-- messages on their way (R156) -/
  messages : List Message
  deriving DecidableEq, Repr

/-! ## Hub: names, shapes, queues, launches, contexts, partitions -/

/-- A name-table entry's state (R28). -/
inductive NameState
  | free | live | dying
  deriving DecidableEq, Repr

/-- A name-table entry (R28), keyed by its counter. -/
structure NameEntry where
  cls : BitVec 8
  part : Nat
  version : Word
  addr : Word
  state : NameState
  sdone : Bool
  refcount : Nat
  /-- cores whose acknowledgement of the shoot-down is outstanding (R35) -/
  acks : List Nat
  /-- the op of an OP name (R278) -/
  op : Option Nat
  /-- the reference of `odetach` is dropped when the shoot-down completes (R280) -/
  dropRef : Bool
  deriving DecidableEq, Repr

/-- A free entry. -/
def NameEntry.none : NameEntry :=
  { cls := 0, part := 0, version := 0, addr := 0, state := .free, sdone := false, refcount := 0, acks := [],
    op := .none, dropRef := false }

/-- Queue states (R74); `none` is no attached queue. -/
inductive QState
  | none | idle | mapped | error | paged | closed
  deriving DecidableEq, Repr

/-- Where a packet stands after its slot was copied. -/
inductive PState
  | copied | ready | started | complete
  deriving DecidableEq, Repr

/-- A packet the front end has copied (R77). -/
structure Packet where
  index : Nat
  /-- 0 for a ring packet; else its ordinal, depth first, among the buffer packets below the ring packet at `index` -/
  sub : Nat
  /-- for a buffer packet, the ordinal of the INDIRECT whose buffer holds it (R87) -/
  parent : Nat
  bytes : List Byte
  state : PState
  tseen : Word
  /-- BARRIER kind 1 targets (R81): queue and wridx -/
  targets : List (Nat × Word)
  /-- launch, op or message it started -/
  launch : Option Nat
  op : Option Nat
  /-- the launch's copied record, taken at validation (R60) -/
  name : Option Nat
  /-- TEXTSYNC cores still to acknowledge (R85) -/
  acks : List Nat
  deriving DecidableEq, Repr

/-- A queue (R72–R92), keyed by the counter of its name. -/
structure Queue where
  state : QState
  name : Name
  part : Nat
  ctx : Nat
  desc : Word
  ring : Word
  lgslots : Nat
  errrec : Word
  packets : List Packet
  /-- members of the skein under way: index of BEGIN and the count (R86) -/
  skein : Option (Nat × Nat)
  /-- ring slots not yet validated -/
  awaiting : List Packet
  teardown : Bool
  attachOrder : Nat
  /-- physical word of its wake word, the values stored to it that the front end has yet to act on, and whether it waits to be
  mapped (R76) -/
  wakeKey : Nat
  wakes : List Word
  wakePending : Bool
  /-- the page that its validation waits for (R90) -/
  pageWait : Option Nat
  deriving DecidableEq, Repr

/-- No queue. -/
def Queue.none : Queue :=
  { state := .none, name := 0, part := 0, ctx := 0, desc := 0, ring := 0, lgslots := 0, errrec := 0, packets := [],
    skein := .none, awaiting := [], teardown := false, attachOrder := 0, wakeKey := 0, wakes := [], wakePending := false,
    pageWait := .none }

/-- One level of a launch (R50). -/
structure Level where
  extent : Nat
  domain : Nat
  scope : Nat
  deriving DecidableEq, Repr

/-- A launch record's copy (R47, R60). -/
structure LaunchRec where
  strict : Bool
  priority : Nat
  policy : Nat
  textbase : Word
  entry : Word
  levels : List Level
  nstr : Nat
  nbank : Nat
  nbply : Nat
  nbdie : Nat
  ntok : Nat
  lsbytes : Nat
  minlocal : Nat
  torus : Nat × Nat × Nat
  ptable : Word
  reldl : Word
  slicebud : Word
  skew : Word
  shapes : List Name
  bindtab : Word
  compaddr : Word
  compval : Word
  trigaddr : Word
  acctaddr : Word
  orphaddr : Word
  deriving DecidableEq, Repr

/-- A placed core group (R96, R105). -/
structure Group where
  core : Nat
  reserved : Nat
  left : Nat
  /-- banks reserved (R96, R393) -/
  banks : Nat
  haltReq : Bool
  finish : Option Word
  deriving DecidableEq, Repr

/-- No group. -/
def Group.none : Group := { core := 0, reserved := 0, left := 0, banks := 0, haltReq := false, finish := .none }

/-- A binding of a region to a sync object (R350). -/
structure Binding where
  base : Word
  length : Word
  name : Name
  deriving DecidableEq, Repr

/-- An accepted launch (R95), keyed by its launch context. -/
structure Launch where
  live : Bool
  /-- its packet has started (R80, R91) -/
  started : Bool
  name : Name
  queue : Nat
  index : Nat
  sub : Nat
  notify : Bool
  ctx : Nat
  part : Nat
  lrec : LaunchRec
  /-- cores by core-group index from the placement table (R56, R60); empty for default placement -/
  table : List Nat
  snaps : List (Option Nat)
  accept : Word
  order : Nat
  nextGroup : Nat
  groups : FMap Group
  /-- strands of the launch not yet ended, spawned strands and handlers included -/
  strands : Nat
  /-- counted strands of the launch that have not triggered, an ended one counted as triggered (R358) -/
  untriggered : Nat
  triggerStored : Bool
  bindings : List Binding
  /-- phase count per slot instance, key (level, instance, slot) folded as 64 × (256 × level + instance) + slot -/
  phases : FMap Nat
  /-- default sync objects (R349), key 2^40 × scope + instance -/
  defaults : FMap Nat
  orphfail : Bool
  haltReq : Bool
  wasHalted : Bool
  /-- account (R404, R405): host's t0, tseen, tbind, and the nanoseconds counted to each part so far -/
  t0 : Word
  tseen : Word
  tbind : Option Word
  /-- the time at which it could first retire (R402) -/
  tret : Option Word
  /-- tenths of ns counted to part 2 queue, 3 fault, 4 storage, 5 network, 6 cap -/
  parts : FMap Nat
  /-- `capcause` of the last ns counted to cap -/
  capCause : Word
  deriving DecidableEq, Repr

/-- The record of no launch. -/
def LaunchRec.none : LaunchRec :=
  { strict := false, priority := 0, policy := 0, textbase := 0, entry := 0, levels := [], nstr := 0, nbank := 0,
    nbply := 0, nbdie := 0, ntok := 16, lsbytes := 0, minlocal := 0, torus := (0, 0, 0), ptable := 0, reldl := 0,
    slicebud := 0, skew := 0, shapes := [], bindtab := 0, compaddr := 0, compval := 0, trigaddr := 0,
    acctaddr := 0, orphaddr := 0 }

/-- No launch. -/
def Launch.none : Launch :=
  { live := false, started := false, name := 0, queue := 0, index := 0, sub := 0, notify := false, ctx := 0, part := 0,
    lrec := LaunchRec.none, table := [], snaps := [], accept := 0, order := 0, nextGroup := 0, groups := [],
    strands := 0, untriggered := 0, triggerStored := false, bindings := [], phases := [], defaults := [], orphfail := false,
    haltReq := false, wasHalted := false, t0 := 0, tseen := 0, tbind := .none, tret := .none, parts := [], capCause := 0 }

/-- A bind record (R99); `valid` is flag bit 0. -/
structure BindRec where
  valid : Bool
  lslot : Nat
  core : Nat
  vcore : BitVec 32
  group : Nat
  tbase : Nat
  nstr : Nat
  high : Bool
  deadline : Word
  deriving DecidableEq, Repr

/-- An empty slot of the slot table. -/
def BindRec.none : BindRec :=
  { valid := false, lslot := 0, core := 0, vcore := 0, group := 0, tbase := 0, nstr := 0, high := false,
    deadline := 0 }

/-- A stop (R408): any vcore when none is named. -/
structure Stop where
  vcore : Option Nat
  pc : Word
  deriving DecidableEq, Repr

/-- A context (R414). -/
structure Ctx where
  live : Bool
  part : Nat
  /-- which context of its number it is: the model's own field, for what other chips hold of it (R97; log 42) -/
  born : Nat
  /-- package plies of the context on this chip, ascending (R94) -/
  plies : List Nat
  root : Nat
  cursor : Nat
  msgCores : List Nat
  /-- route table address and entries (R55); no entries means none set -/
  routeTab : Word × Nat
  snapArea : Word × Nat
  /-- save pool base and count (R388) -/
  savePool : Word × Nat
  areas : List Nat
  wakeLimit : Word
  sampleInterval : Nat
  stops : List Stop
  killing : Bool
  /-- the ring whose command kills it (R397, R416) -/
  killRing : Option Nat
  haltReq : Bool
  /-- installed handler images: address, text base, entry offsets (R112) -/
  images : List (Word × Word × List Nat)
  deriving DecidableEq, Repr

/-- No context. -/
def Ctx.none : Ctx :=
  { live := false, part := 0, born := 0, plies := [], root := 0, cursor := 0, msgCores := [], routeTab := (0, 0),
    snapArea := (0, 0), savePool := (0, 0), areas := [], wakeLimit := 0, sampleInterval := 0, stops := [],
    killing := false, killRing := .none, haltReq := false, images := [] }

/-- An event-ring entry (R419). -/
structure EventEntry where
  type : BitVec 8
  ctx : BitVec 16
  seq : BitVec 32
  time : Word
  body : List Word
  deriving DecidableEq, Repr

/-- A partition (R414). -/
structure Part where
  live : Bool
  islands : BitVec 32
  sysCores : BitVec 16
  hbm : List (Nat × Nat)
  reach : List Nat
  rank : BitVec 4
  ceiling : Nat
  irqCore : BitVec 4
  qpQuota : Nat
  /-- its whole 800GbE ports (R414) and how many queues it may attach (R20, R73) -/
  netPorts : BitVec 2
  queueQuota : Nat
  queues : Nat
  qpairs : Nat
  /-- commands started on its ring and the status each entry's word 7 holds, by entry (R416) -/
  cmds : Nat
  status : FMap Nat
  /-- event ring (R418): entries written, the read index, entries held in the hub when it is full -/
  events : List EventEntry
  evSeq : Nat
  evRead : Nat
  interrupts : Nat
  scrubbing : Bool
  /-- the digest of its system image, once fumarole has verified it (R414, R421, R423): before that its system cores stay in reset -/
  image : Option (BitVec 512)
  deriving DecidableEq, Repr

/-- No partition. -/
def Part.none : Part :=
  { live := false, islands := 0, sysCores := 0, hbm := [], reach := [], rank := 0, ceiling := 0, irqCore := 0,
    qpQuota := 0, netPorts := 0, queueQuota := 0, queues := 0, qpairs := 0, cmds := 0, status := [], events := [], evSeq := 0, evRead := 0,
    interrupts := 0, scrubbing := false, image := .none }

/-- An entry of a command ring (R416): the code and the context of word 0 and the arguments from word 1 on, or a PARTSET, whose resource
words the manual does not lay out (R414). -/
inductive RingEntry
  | words (code ctx : Nat) (args : List Word)
  | partset (part : Word) (islands : BitVec 32) (sysCores : BitVec 16) (hbm : List (Nat × Nat)) (irqCore : BitVec 4) (net : NetShare)
      (queueQuota : Word)
  deriving DecidableEq, Repr

/-- The hub's state. -/
structure Hub where
  chip : Nat
  serial : BitVec 40
  issueCounter : Nat
  watermark : Nat
  names : FMap NameEntry
  snaps : FMap Snapshot
  queues : FMap Queue
  launches : FMap Launch
  binds : FMap BindRec
  ctxs : FMap Ctx
  parts : FMap Part
  /-- queues attached so far, launches accepted so far -/
  attachCount : Nat
  acceptCount : Nat
  /-- commands of the hypervisor's ring (R416): started, statuses -/
  hvCmds : Nat
  hvStatus : FMap Nat
  /-- the island of a PARK or UNPARK that is not yet complete (R428) -/
  hvPark : Option Nat
  /-- by ring, the entries that it holds and that have not started, oldest first (R416) -/
  rings : FMap (List RingEntry)
  /-- the parked islands that an access of the front end, the hub or a port has met in the step under way: the model's own field -/
  asleep : List Nat
  deriving DecidableEq, Repr

/-! ## Package: fumarole, power, debug, ports -/

/-- An accepted frame (R426). -/
structure FrameInForce where
  seq : Word
  levels : List (BitVec 16)
  life : BitVec 32
  /-- the time of its receipt, in tenths of ns -/
  received : Nat
  deriving DecidableEq, Repr

/-- Retention state of an island (R428). -/
inductive ParkState
  | running | entering | parked | exiting
  deriving DecidableEq, Repr

/-- A debug session (R411). -/
structure Session where
  right : DebugRight
  /-- status of its last command: 0 done, 1 DENIED, 2 BADARG, 3 BUSY -/
  status : Nat
  /-- the strands, by number, that a HALT waits for: until none is left it is not answered (R412) -/
  awaits : List Nat
  deriving DecidableEq, Repr

/-- A packet that arrives on a queue pair (R430). -/
inductive NetPacket
  | write (addr : Word) (data : List Byte)
  | read (addr : Word) (len : Nat)
  | send (data : List Byte)
  deriving DecidableEq, Repr

/-- The state of a RoCEv2 queue pair (R190, R430). -/
structure QPair where
  live : Bool
  ctx : Nat
  part : Nat
  paused : Bool
  errored : Bool
  /-- packets kept while paused, oldest first -/
  buffer : List NetPacket
  /-- a packet was answered with RNR NAK: later ones are too, until delivery resumes -/
  naking : Bool
  /-- the address for which the kernel has NETPAGE -/
  pausedAt : Word
  /-- sends delivered, oldest first -/
  received : List (List Byte)
  /-- answers to reads -/
  sent : List (List Byte)
  rnrNaks : Nat
  deriving DecidableEq, Repr

/-- No queue pair. -/
def QPair.none : QPair :=
  { live := false, ctx := 0, part := 0, paused := false, errored := false, buffer := [], naking := false, pausedAt := 0, received := [],
    sent := [], rnrNaks := 0 }

/-- A Twine port (R431, R432). -/
structure TwinePort where
  trained : Bool
  version : Nat
  attempts : Nat
  /-- next sequence expected per virtual lane -/
  expected : FMap Nat
  /-- the retry buffers: of each flit that was not acknowledged in time its virtual lane 0–7 (R17), its sequence, and how often it was
  resent (R432) -/
  resends : List (Nat × Nat × Nat)
  /-- the virtual lanes that the partner has paused (R432) -/
  paused : BitVec 8
  delivered : Nat
  /-- the flit delivered last: 256 bytes (R17) -/
  flit : BitVec 2048
  duplicates : Nat
  deriving DecidableEq, Repr

/-- A port before training. -/
def TwinePort.reset : TwinePort :=
  { trained := false, version := 0, attempts := 0, expected := [], resends := [], paused := 0, delivered := 0, flit := 0, duplicates := 0 }

/-- How far an SPDM exchange has come on a port (R423), and its last answer. -/
structure Spdm where
  version : Bool
  capabilities : Bool
  negotiated : Bool
  refused : Bool
  answer : List Nat
  deriving DecidableEq, Repr

/-- No exchange. -/
def Spdm.reset : Spdm := { version := false, capabilities := false, negotiated := false, refused := false, answer := [] }

/-- Fumarole, power, debug and port state. -/
structure Pkg where
  /-- 0 before boot, else the last step done (R421) -/
  bootStep : Nat
  bootFailed : Option Nat
  /-- the image that takes effect at the next boot, and whether a recovery image is awaited (R422) -/
  nextImage : Option FirmwareImage
  image : Option FirmwareImage
  /-- the harvest map is applied (R9, R421): `Config.harvest` then gives the physical core of each enabled one -/
  harvested : Bool
  /-- the boot whose capability keys the cores hold (R304, R421), 0 before the first -/
  keySerial : Nat
  recovery : Bool
  hallKeys : FMap (Option Nat)
  capSeq : Word
  /-- the frame in force (R426), an accepted one that is not yet applied, and the seq of the one applied last (R427) -/
  frame : Option FrameInForce
  frameNext : Option FrameInForce
  appliedSeq : Word
  /-- frames that wait behind one being checked and applied, oldest first, each with the time of its receipt -/
  framesWaiting : List (CapFrame × Nat)
  framesDropped : Nat
  pkgLimit : Nat
  /-- bounds per island in MHz, 0 for none (R425) -/
  pkgBound : FMap Nat
  thermBound : FMap Nat
  currBound : FMap Nat
  /-- when the CURR bound of an island was set, in tenths of ns -/
  currAt : FMap Nat
  /-- capcause of each island (R427) -/
  capcause : FMap Word
  parkState : FMap ParkState
  sessions : List Session
  sysHalted : BitVec 16
  spdmHost : Spdm
  spdmMgmt : Spdm
  qpairs : FMap QPair
  twine : FMap TwinePort
  /-- answers to host requests, latest first: none for Unsupported Request (R429) -/
  hostAnswers : List (Option (List Byte))
  /-- statuses of storage commands, latest first: 0 done, 1 error (R430) -/
  storage : List Nat
  /-- what storage commands sent to the device, latest first, by the partition whose namespaces take it (R430) -/
  stored : List (Nat × List Byte)
  deriving DecidableEq, Repr

/-! ## The whole state -/

/-- The state of the package. -/
structure State where
  /-- scheduled events, the next first: the model's own field -/
  agenda : List Instr
  /-- counter of free values: the model's own field -/
  free : Nat
  /-- counter of bindings, list entries and results: the model's own field -/
  ages : Nat
  /-- device time in tenths of ns (R159) -/
  time : Nat
  /-- idle cycles of the package, in which no core issued but those that could: the model's own field (R420) -/
  idles : Word
  /-- the strand whose word is issued -/
  me : Strand
  /-- every other strand -/
  strands : List Strand
  mem : Mem
  cores : FMap Core
  eng : Eng
  hub : Hub
  pkg : Pkg
  deriving DecidableEq, Repr

/-- What every unlisted byte reads as: log 5. -/
abbrev Mem.byte0 : Byte := 0#8

/-- The descriptor RAW with scales 0x7F, which every unlisted block holds (R193). -/
abbrev Mem.desc0 : BitVec 48 := 0x007F7F7F7F00#48

/-- No redirect base set (R240). -/
def Redirect.reset : Redirect := { base := 0, ctx := none }

/-- The memory system after reset (R193, R240). -/
def Mem.reset : Mem :=
  { bytes := [], tags := [], descs := [], poison := [], selects := [], tables := [], vectors := [], owners := [],
    redirects := [], parked := [], waiters := [], tlb := [], icache := [], watch := [], ringBase := [],
    raceSeq := [], errors := [] }

/-- The engines after reset. -/
def Eng.reset : Eng :=
  { ops := [], nextOp := 1, acc := [], badAcc := [], banks := [], entries := [], teams := [], colls := [], collSeq := [],
    messages := [] }

/-- The hub after reset (R24, R26). -/
def Hub.reset : Hub :=
  { chip := 0, serial := 0, issueCounter := 1, watermark := 1, names := [], snaps := [], queues := [],
    launches := [], binds := [], ctxs := [], parts := [], attachCount := 0, acceptCount := 0, hvCmds := 0,
    hvStatus := [], hvPark := none, rings := [], asleep := [] }

/-- `capcause` with ceiling 2,500 and every other field 0 (R427). -/
abbrev capcause0 : Word := 0x09C40000#64

/-- Fumarole and the ports after reset. -/
def Pkg.reset : Pkg :=
  { bootStep := 0, bootFailed := none, nextImage := none, image := none, harvested := false, keySerial := 0, recovery := false, hallKeys := [],
    capSeq := 0, frame := none, frameNext := none, appliedSeq := 0, framesWaiting := [], framesDropped := 0, pkgLimit := 8000,
    pkgBound := [], thermBound := [], currBound := [], currAt := [], capcause := [], parkState := [], sessions := [],
    sysHalted := 0, spdmHost := Spdm.reset, spdmMgmt := Spdm.reset, qpairs := [], twine := [], hostAnswers := [],
    storage := [], stored := [] }

/-- The package right after reset, before BOOT (R421): no partition, no context, no strand. -/
def State.reset : State :=
  { agenda := [], free := 0, ages := 0, time := 0, idles := 0, me := Strand.empty, strands := [],
    mem := Mem.reset, cores := [], eng := Eng.reset, hub := Hub.reset, pkg := Pkg.reset }

end Sys2Proof.Machine
end

