-- ==== Sys2Proof/Machine/Ops.lean ====
section
/-!
DEFINITION. The shared operations: the instruction monad, raw memory by physical address, vcores and slots, the
event ring, saving and restoring a strand, taking an exception (R151, R380–R387) and returning from one (R152).
-/

namespace Sys2Proof.Machine

/-! ## The instruction monad -/

/-- Why a word does not complete: it traps, it waits (at issue, or parked), or the model stops. -/
inductive Exn where
  | trap (t : TrapInfo)
  | wait (w : Wait)
  | fault (f : Fault)
  deriving DecidableEq, Repr

/-- A step of an instruction on the current strand. -/
abbrev Act (α : Type) := EStateM Exn State α

/-- What the strand does after a word that completed. -/
inductive Flow
  /-- it goes on at the next word -/
  | next
  /-- it goes on at an address -/
  | jump (t : Word)
  /-- it has left its slot, or parks; the word has set pc and wait itself -/
  | left
  deriving DecidableEq, Repr

/-- Raises a trap. -/
def trapWith {α : Type} (c : Cause) (tinfo taddr : Word) : Act α :=
  throw (.trap { cause := c, tinfo := tinfo, taddr := taddr })

/-- Waits at issue (R165): nothing has happened. -/
def waitIssue {α : Type} : Act α := throw (.wait .issue)

/-- Changes the current strand. -/
def modMe (f : Strand → Strand) : Act Unit := modify fun s => { s with me := f s.me }

/-- Draws a free truth value. -/
def drawBit : Act Bool := fun s => .ok (Config.freeBit s.free) { s with free := s.free + 1 }

/-- Draws a free word. -/
def drawWord : Act Word := fun s => .ok (Config.freeWord s.free) { s with free := s.free + 1 }

/-- Draws a free lane. -/
def drawLane : Act Lane := fun s => .ok (Config.freeLane s.free) { s with free := s.free + 1 }

/-! ## Bytes -/

/-- Little-endian bytes of a number (R2). -/
def toLE : Nat → Nat → List Byte
  | 0, _ => []
  | n + 1, x => BitVec.ofNat 8 x :: toLE n (x / 256)

/-- The number that little-endian bytes hold. -/
def ofLE : List Byte → Nat
  | [] => 0
  | b :: bs => b.toNat + 256 * ofLE bs

/-- Bits `lo + w - 1` to `lo` of a number. -/
def bitsOf (x lo w : Nat) : Nat := (x / 2 ^ lo) % 2 ^ w

/-- A truth value as 0 or 1. -/
def natOf (b : Bool) : Nat := if b then 1 else 0

/-- The number of a memory in the flat key space. -/
def Space.index : Space → Nat
  | .hbm => 0
  | .sync => 1
  | .mmio => 2
  | .ls c => 8 * (c + 1) + 1
  | .pool p => 8 * (p + 1) + 2
  | .dsm d => 8 * (d + 1) + 3
  | .host x => 8 * (x + 1) + 4
  | .peer chip x => 8 * (chip * 65536 + x + 1) + 5

/-- The key of a physical byte. -/
def PAddr.key (p : PAddr) : Nat := p.space.index * 2 ^ 64 + p.off

/-- The key of an HBM byte. -/
def hbmKey (a : Nat) : Nat := PAddr.key { space := .hbm, off := a }

/-- `n` bytes from a key. -/
def Mem.bytesAt (m : Mem) (k n : Nat) : List Byte := FMap.getList Mem.byte0 m.bytes k n

/-- Writes bytes from a key. -/
def Mem.putBytes (m : Mem) (k : Nat) (bs : List Byte) : Mem :=
  { m with bytes := FMap.setList Mem.byte0 m.bytes k bs }

/-- Writes bytes from a key; the poison of every word written whole is cleared (R392). -/
def Mem.putWords (m : Mem) (k : Nat) (bs : List Byte) : Mem :=
  { m.putBytes k bs with poison := FMap.clear m.poison ((k + 7) / 8) ((k + bs.length) / 8) }

/-- A little-endian number of `n` bytes at an HBM address. -/
def State.hbmNat (s : State) (a n : Nat) : Nat := ofLE (s.mem.bytesAt (hbmKey a) n)

/-- Writes a little-endian number of `n` bytes at an HBM address. -/
def State.putHbm (s : State) (a n x : Nat) : State :=
  { s with mem := s.mem.putWords (hbmKey a) (toLE n x) }

/-! ## Cores, contexts, partitions -/

/-- The ply of a core (R8). -/
def corePly (c : Nat) : Nat := c / 16

/-- The die of a core: 20 plies each (R8). -/
def coreDie (c : Nat) : Nat := c / 320

/-- The island of a core: 5 plies each (R94). -/
def coreIsland (c : Nat) : Nat := c / 80

/-- A context. -/
def State.ctxOf (s : State) (c : Nat) : Ctx := FMap.get Ctx.none s.hub.ctxs c

/-- A partition. -/
def State.partOf (s : State) (p : Nat) : Part := FMap.get Part.none s.hub.parts p

/-- How many of the two 800GbE ports a mask names. -/
def portCount (b : BitVec 2) : Nat := natOf (b.getLsbD 0) + natOf (b.getLsbD 1)

/-- The queue pairs that a partition may have: its quota on the shared ports, and 16,384 for each port it owns whole (R414). -/
def Part.qpLimit (p : Part) : Nat := p.qpQuota + 16384 * portCount p.netPorts

/-- A launch. -/
def State.launchOf (s : State) (l : Nat) : Launch := FMap.get Launch.none s.hub.launches l

/-- A core. -/
def State.coreOf (s : State) (c : Nat) : Core := FMap.get Core.reset s.cores c

/-- Changes a core. -/
def State.setCore (s : State) (c : Nat) (f : Core → Core) : State :=
  { s with cores := FMap.set Core.reset s.cores c (f (s.coreOf c)) }

/-- Changes the hub. -/
def State.setHub (s : State) (f : Hub → Hub) : State := { s with hub := f s.hub }

/-- Changes a context. -/
def State.setCtx (s : State) (c : Nat) (f : Ctx → Ctx) : State :=
  s.setHub fun h => { h with ctxs := FMap.set Ctx.none h.ctxs c (f (FMap.get Ctx.none h.ctxs c)) }

/-- Changes a partition. -/
def State.setPart (s : State) (p : Nat) (f : Part → Part) : State :=
  s.setHub fun h => { h with parts := FMap.set Part.none h.parts p (f (FMap.get Part.none h.parts p)) }

/-- Changes a launch. -/
def State.setLaunch (s : State) (l : Nat) (f : Launch → Launch) : State :=
  s.setHub fun h => { h with launches := FMap.set Launch.none h.launches l (f (FMap.get Launch.none h.launches l)) }

/-- An op. -/
def State.opOf (s : State) (n : Nat) : Op := FMap.get Op.none s.eng.ops n

/-- Changes an op. -/
def State.setOp (s : State) (n : Nat) (f : Op → Op) : State :=
  { s with eng := { s.eng with ops := FMap.set Op.none s.eng.ops n (f (s.opOf n)) } }

/-- A bank's record. -/
def State.bankOf (s : State) (core b : Nat) : Bank := FMap.get Bank.reset s.eng.banks (4 * core + b)

/-- Changes a bank's record. -/
def State.setBank (s : State) (core b : Nat) (f : Bank → Bank) : State :=
  { s with eng := { s.eng with banks := FMap.set Bank.reset s.eng.banks (4 * core + b) (f (s.bankOf core b)) } }

/-- The position of an element in a list, counted from `n`. -/
def indexFrom (x : Nat) : Nat → List Nat → Option Nat
  | _, [] => none
  | n, y :: ys => if y = x then some n else indexFrom x (n + 1) ys

/-- The vcore index of a core in a context (R94). -/
def Ctx.vcoreIndex (c : Ctx) (core : Nat) : Option Nat :=
  (indexFrom (corePly core) 0 c.plies).map fun o => 16 * o + core % 16

/-- The core that a vcore index names (R94). -/
def Ctx.coreAt (c : Ctx) (index : Nat) : Option Nat :=
  (c.plies[index / 16]?).map fun p => 16 * p + index % 16

/-- The vcore word of a core (R93): 0xFFFF_FFFF where the core is not the context's. -/
def State.vcoreWord (s : State) (ctx core : Nat) : BitVec 32 :=
  match (s.ctxOf ctx).vcoreIndex core with
  | some i => BitVec.ofNat 32 (i + 4096 * s.hub.chip)
  | none => 0xFFFFFFFF#32

/-- The core of this chip that a vcore word names. -/
def State.coreOfVcore (s : State) (ctx v : Nat) : Option Nat :=
  if v / 4096 = s.hub.chip then (s.ctxOf ctx).coreAt (v % 4096) else none

/-- Device time in ns (R159). -/
def State.ns (s : State) : Word := BitVec.ofNat 64 (s.time / 10)

/-! ## Launches -/

/-- Strands of a launch, strands of a core group, and core groups (R51, R52). -/
def LaunchRec.strandCount (r : LaunchRec) : Nat := (r.levels.map (·.extent)).foldl (· * ·) 1
def LaunchRec.groupSize (r : LaunchRec) : Nat :=
  let below := (r.levels.reverse.dropWhile fun x => x.domain != 1).drop 1
  if r.levels.any fun x => x.domain == 1 then (below.map (·.extent)).foldl (· * ·) 1 else 1
def LaunchRec.groupCount (r : LaunchRec) : Nat := r.strandCount / r.groupSize

/-! ## The event ring -/

/-- Writes an event to a partition's ring, or holds it while the ring is full (R418, R419). -/
def State.postEvent (s : State) (p : Nat) (type : BitVec 8) (ctx : Nat) (body : List Word) : State :=
  s.setPart p fun q =>
    { q with
      events := q.events ++
        [{ type := type, ctx := BitVec.ofNat 16 ctx, seq := BitVec.ofNat 32 q.evSeq, time := s.ns, body := body }]
      evSeq := q.evSeq + 1
      interrupts := if q.events.length < 256 then q.interrupts + 1 else q.interrupts }

/-- A system event (R419 type 1). `slot` is 0xFF when none. -/
def State.systemEvent (s : State) (p : Nat) (code : Nat) (ctx : Nat) (vcore : BitVec 32) (slot : Nat)
    (addr handle kcause : Word) : State :=
  s.postEvent p 1 ctx
    [BitVec.ofNat 64 (code % 256 + 256 * (slot % 256) + 2 ^ 32 * vcore.toNat), addr, handle, kcause]

/-! ## Strands -/

/-- Whether a strand stands in a slot of a core. -/
def Strand.inSlot (t : Strand) (core slot : Nat) : Bool := decide (t.place = .slot core slot)

/-- The core a strand is on: in a slot, in its list, or on its way to it. -/
def Strand.core (t : Strand) : Nat :=
  match t.place with
  | .none => 0
  | .slot c _ => c
  | .pending c => c
  | .held c => c
  | .transit c => c
  | .buffered c => c

/-- The slot of a strand; 0xFF when it stands in none. -/
def Strand.slot (t : Strand) : Nat :=
  match t.place with
  | .slot _ n => n
  | _ => 255

/-- Whether a strand stands in any slot. -/
def Strand.bound (t : Strand) : Bool :=
  match t.place with
  | .slot _ _ => true
  | _ => false

/-- Whether a strand exists. -/
def Strand.isLive (t : Strand) : Bool := decide (t.place ≠ .none)

/-- Every strand, the current one first. -/
def State.all (s : State) : List Strand := s.me :: s.strands

/-- The strand in a slot. -/
def State.strandAt (s : State) (core slot : Nat) : Option Strand :=
  s.all.find? fun t => t.inSlot core slot

/-- Changes every strand. -/
def State.mapAll (s : State) (f : Strand → Strand) : State :=
  { s with me := f s.me, strands := s.strands.map f }

/-- Changes the strand in a slot. -/
def State.setStrand (s : State) (core slot : Nat) (f : Strand → Strand) : State :=
  s.mapAll fun t => if t.inSlot core slot then f t else t

/-- Adds a strand. -/
def State.addStrand (s : State) (t : Strand) : State := { s with strands := s.strands ++ [t] }

/-- Makes the strand in a slot the current one. -/
def State.switchTo (s : State) (core slot : Nat) : State :=
  if s.me.inSlot core slot then s
  else
    match s.strands.find? (fun t => t.inSlot core slot) with
    | none => s
    | some t =>
      let rest := s.strands.filter (fun u => !u.inSlot core slot)
      { s with me := t, strands := if s.me.isLive then rest ++ [s.me] else rest }

/-- The stack entry that a register names (R149). -/
def entryOf (cwp : BitVec 3) (r : Reg) : Nat := 8 * ((cwp.toNat + r.toNat / 8) % 8) + r.toNat % 8

/-- A register's stack entry, as it stands. -/
def Strand.g (t : Strand) (r : Reg) : Word := FMap.get 0 t.stack (entryOf t.cwp r)

/-- Writes a register's stack entry. -/
def Strand.setG (t : Strand) (r : Reg) (x : Word) : Strand :=
  { t with stack := FMap.set 0 t.stack (entryOf t.cwp r) x }

/-- A vector register's lanes; a dead register reads 0 (R127). -/
def Strand.v (t : Strand) (r : Reg) : List Lane :=
  if t.vlive.getLsbD r.toNat then FMap.getList 0 t.vregs (64 * r.toNat) 64 else List.replicate 64 0

/-- Writes a vector register, which becomes live (R127). -/
def Strand.setV (t : Strand) (r : Reg) (x : List Lane) : Strand :=
  { t with vregs := FMap.setList 0 t.vregs (64 * r.toNat) (x.take 64)
           vlive := t.vlive ||| BitVec.ofNat 16 (2 ^ r.toNat) }

/-- `pst` (R160). -/
def Strand.pst (t : Strand) : Word :=
  BitVec.ofNat 64 (natOf t.strict + 2 * natOf t.hm + 4 * natOf t.urg + 8 * natOf t.sysm + 16 * t.cwp.toNat
    + 256 * t.rdep.toNat + 65536 * t.mskcnt.toNat)

/-- Sets the fields of `pst` from a saved value. -/
def Strand.setPst (t : Strand) (x : Word) : Strand :=
  { t with strict := x.getLsbD 0, hm := x.getLsbD 1, urg := x.getLsbD 2, sysm := x.getLsbD 3
           cwp := x.extractLsb' 4 3, rdep := x.extractLsb' 8 3, mskcnt := x.extractLsb' 16 6 }

/-- Ends a strand's current attempt at a word: nothing of the word or its prefixes is left. -/
def Strand.clean (t : Strand) : Strand :=
  { t with pfx := Prefix.empty, unitLog := [], unitPos := 0, replay := Replay.none, reissue := false }

/-- Delivers a long result to a strand (R170, R127). -/
def Strand.deliver (t : Strand) (r : LongResult) : Strand :=
  let t := r.gdests.foldl (fun t x =>
    { t with stack := FMap.set 0 t.stack x.1 x.2, parity := t.parity.filter (· ≠ x.1) }) t
  let t := r.vdests.foldl (fun t x =>
    { t.setV (BitVec.ofNat 4 x.1) x.2 with parity := t.parity.filter (· ≠ 64 + x.1) }) t
  { t with outstanding := t.outstanding.filter (·.id ≠ r.id) }

/-- Changes a generator. -/
def Strand.setStream (t : Strand) (i : Nat) (f : Stream → Stream) : Strand :=
  { t with streams := FMap.set Stream.reset t.streams i (f (FMap.get Stream.reset t.streams i)) }

/-- Where the strand's instruction boundary lies: the group's first word (R130). -/
def Strand.boundary (t : Strand) : Word := if t.pfx.count = 0 then t.pc else t.pfx.first

/-! ## Saving and restoring (R388, R389) -/

/-- The four words of a generator (R235). -/
def Stream.words (g : Stream) : List Word :=
  [g.base, g.stride, g.p ++ g.n,
   BitVec.ofNat 64 (natOf g.bound + 2 * natOf g.write + 4 * g.reg.toNat + 16 * g.width.toNat + 64 * natOf g.signed)]

/-- A generator from its four words; nothing prefetched. -/
def Stream.ofWords (w0 w1 w2 w3 : Word) : Stream :=
  { base := w0, stride := w1, n := w2.extractLsb' 0 32, p := w2.extractLsb' 32 32, bound := w3.getLsbD 0
    write := w3.getLsbD 1, reg := w3.extractLsb' 2 2, width := w3.extractLsb' 4 2, signed := w3.getLsbD 6
    fetched := [], binding := 0, parked := [], stopped := [] }

/-- A token's four bytes (R176). -/
def tokenWord (o : Option Nat) : Nat :=
  match o with
  | some n => 2 ^ 31 + n % 2 ^ 31
  | none => 0

/-- The token that four bytes hold. -/
def tokenOf (x : Nat) : Option Nat := if x < 2 ^ 31 then none else some (x % 2 ^ 31)

/-- A shape slot's four bytes: the snapshot-slot index (R388). -/
def shapeWord (o : Option Nat) : Nat :=
  match o with
  | some k => k % 2 ^ 32
  | none => 0xFFFFFFFF

/-- The snapshot of a context that a slot index names. -/
def shapeOf (ctx x : Nat) : Option Nat := if x = 0xFFFFFFFF then none else some (ctx * 2 ^ 32 + x)

/-- The banks a strand holds: bits 3:0, and 7:4 those held in handler mode (R388). -/
def State.heldBanks (s : State) (core slot : Nat) : BitVec 8 :=
  BitVec.ofNat 8 <| [0, 1, 2, 3].foldl (fun a b =>
    match (s.bankOf core b).cond with
    | .held n hm => if n = slot then a + 2 ^ b + natOf hm * 2 ^ (4 + b) else a
    | _ => a) 0

/-- Whether the trap at which a strand is parked went to the kernel as DOUBLE (R384 rule 1, R386). -/
def Strand.doubled (t : Strand) : Bool := t.hm && !t.tdeleg.getLsbD t.kcause.toNat && !t.urg

/-- The kcause word (R388): the cause given to the kernel, and for DOUBLE the cause that entered the handler. -/
def Strand.kcauseWord (t : Strand) : Nat := t.kcause.toNat + if t.doubled then 256 * t.kentry.toNat else 0

/-- The fixed part of a save area: 832 bytes (R388). -/
def Strand.savedBytes (t : Strand) : List Byte :=
  let word (x : Word) := toLE 8 x.toNat
  word t.pc ++ word t.stk ++ word t.tvec ++ word t.epc ++ word t.wtmo ++ word t.srseed
  ++ toLE 8 (t.pst.toNat % 2 ^ 22 + t.tdeleg.toNat * 2 ^ 32 + t.rmode.toNat * 2 ^ 52)
  ++ toLE 8 (t.est.toNat % 2 ^ 22 + t.sflags.toNat * 2 ^ 22 + t.tcause.toNat * 2 ^ 32 + t.vlive.toNat * 2 ^ 48)
  ++ ((List.range 16).map fun k => toLE 4 (tokenWord (FMap.get none t.tokens k))).flatten
  ++ toLE 4 (shapeWord t.sh0) ++ toLE 4 (shapeWord t.sh1)
  ++ word t.taddr ++ word t.tinfo ++ word t.deadline ++ word t.budget
  ++ toLE 4 t.tnum.toNat
  ++ toLE 2 (match t.launch with | some l => l % 4096 | none => 4096)
  ++ toLE 1 t.banks.toNat ++ toLE 1 (natOf t.halted + 2 * natOf t.ktrap)
  ++ toLE 8 (if t.ktrap then t.kcauseWord else 0) ++ toLE 8 0
  ++ ((List.range 4).map fun i => ((FMap.get Stream.reset t.streams i).words.map word).flatten).flatten
  ++ ((List.range 64).map fun e => word (FMap.get 0 t.stack e)).flatten

/-- Writes the live vector registers of a strand to its area. -/
def saveVectors (t : Strand) (a : Nat) (m : Mem) : Mem :=
  (List.range 16).foldl (fun m r =>
    if t.vlive.getLsbD r then
      m.putWords (hbmKey (a + 0x340 + 256 * r))
        ((FMap.getList 0 t.vregs (64 * r) 64).map fun x => toLE 4 x.toNat).flatten
    else m) m

/-- Elements of a bank, row by row (R288). -/
def Eng.bankLanes (e : Eng) (core b : Nat) : List Lane := FMap.getList 0 e.acc (4096 * (4 * core + b)) 4096

/-- Writes the banks of a mask to an area (R388). -/
def saveBanks (e : Eng) (core : Nat) (mask : BitVec 8) (a : Nat) (m : Mem) : Mem :=
  (List.range 4).foldl (fun m b =>
    if mask.getLsbD b then
      m.putWords (hbmKey (a + 0x1340 + 16384 * b)) ((e.bankLanes core b).map fun x => toLE 4 x.toNat).flatten
    else m) m

/-- The address of area `i` of a context's pool (R388, R416). -/
def State.areaAddr (s : State) (ctx i : Nat) : Nat := (s.ctxOf ctx).savePool.1.toNat + 73728 * i

/-- The lowest free index below a count. -/
def lowestFree (used : List Nat) : Nat → Nat → Option Nat
  | 0, _ => none
  | n + 1, i => if used.contains i then lowestFree used n (i + 1) else some i

/-- Takes the lowest-numbered free area of a context's pool (R388). -/
def State.takeArea (s : State) (ctx : Nat) : Option (Nat × State) :=
  match lowestFree (s.ctxOf ctx).areas (s.ctxOf ctx).savePool.2 0 with
  | none => none
  | some i => some (i, s.setCtx ctx fun c => { c with areas := c.areas ++ [i] })

/-- Returns a strand's area to the pool (R388). -/
def State.dropArea (s : State) (ctx : Nat) (area : Option Nat) : State :=
  match area with
  | none => s
  | some i => s.setCtx ctx fun c => { c with areas := c.areas.filter (· ≠ i) }

/-- A strand as the bytes of its save area give it (R385, R389). The bank mask, strand number and launch are the
strand's own. -/
def Strand.restored (t : Strand) (m : Mem) (a : Nat) : Strand :=
  let n (o k : Nat) : Nat := ofLE (m.bytesAt (hbmKey (a + o)) k)
  let w (o : Nat) : Word := BitVec.ofNat 64 (n o 8)
  let live : BitVec 16 := BitVec.ofNat 16 (n 0x3E 2)
  let t := t.setPst (BitVec.ofNat 64 (n 0x30 8 % 2 ^ 22))
  { t with
    pc := w 0 &&& ~~~3#64, stk := w 8, tvec := w 0x10 &&& ~~~3#64, epc := w 0x18, wtmo := w 0x20, srseed := w 0x28
    tdeleg := BitVec.ofNat 20 (bitsOf (n 0x30 8) 32 20) &&& 0xFFFFE#20
    rmode := BitVec.ofNat 4 (bitsOf (n 0x30 8) 52 4)
    est := BitVec.ofNat 64 (n 0x38 8 % 2 ^ 22)
    sflags := BitVec.ofNat 9 (bitsOf (n 0x38 8) 22 9)
    tcause := BitVec.ofNat 6 (bitsOf (n 0x38 8) 32 6)
    vlive := live
    tokens := FMap.setList none t.tokens 0 ((List.range 16).map fun k => tokenOf (n (0x40 + 4 * k) 4))
    sh0 := shapeOf t.ctx (n 0x80 4), sh1 := shapeOf t.ctx (n 0x84 4)
    halted := decide (n 0xAF 1 % 2 = 1)
    taddr := w 0x88, tinfo := w 0x90, deadline := w 0x98, budget := w 0xA0
    streams := FMap.setList Stream.reset t.streams 0 ((List.range 4).map fun i =>
      Stream.ofWords (w (0xC0 + 32 * i)) (w (0xC8 + 32 * i)) (w (0xD0 + 32 * i)) (w (0xD8 + 32 * i)))
    stack := FMap.setList 0 t.stack 0 ((List.range 64).map fun e => w (0x140 + 8 * e))
    vregs := (List.range 16).foldl (fun v r =>
      FMap.setList 0 v (64 * r)
        (if live.getLsbD r then (List.range 64).map fun i => BitVec.ofNat 32 (n (0x340 + 256 * r + 4 * i) 4)
         else List.replicate 64 0)) t.vregs }

/-- A strand as its save area gives it, which goes on: the budget has fallen since the save (R103, R385). -/
def Strand.wentOn (t : Strand) (m : Mem) (a : Nat) : Strand :=
  let u := t.restored m a
  { u with budget := BitVec.ofNat 64 (u.budget.toNat - (t.savedBudget.toNat - t.budget.toNat)) }

/-- The flags byte of a strand's save area, where it has one (R388): HALTED and KTRAP as they now are. -/
def State.putFlags (s : State) (t : Strand) : State :=
  match t.area with
  | some i =>
    { s with mem := s.mem.putWords (hbmKey (s.areaAddr t.ctx i + 0xAF)) (toLE 1 (natOf t.halted + 2 * natOf t.ktrap)) }
  | none => s

/-- A strand that has reached its architectural state, or ended, holds back no debugger's answer any more (R412). -/
def State.reached (s : State) (uid : Nat) : State :=
  { s with pkg := { s.pkg with sessions := s.pkg.sessions.map fun x => { x with awaits := x.awaits.filter (· ≠ uid) } } }

/-- The banks of a mask as an area holds them, put back on a core (R389). -/
def restoreBanks (e : Eng) (m : Mem) (core slot : Nat) (launch : Option Nat) (mask : BitVec 8) (a : Nat) : Eng :=
  (List.range 4).foldl (fun e b =>
    if mask.getLsbD b then
      { e with
        acc := FMap.setList 0 e.acc (4096 * (4 * core + b)) ((List.range 4096).map fun i =>
          BitVec.ofNat 32 (ofLE (m.bytesAt (hbmKey (a + 0x1340 + 16384 * b + 4 * i)) 4)))
        banks := FMap.set Bank.reset e.banks (4 * core + b)
          { (FMap.get Bank.reset e.banks (4 * core + b)) with
            cond := .held slot (mask.getLsbD (4 + b)), launch := launch } }
    else e) e

/-- Sets every element of a bank to +0 (R288), which ends its parity errors. -/
def zeroBank (e : Eng) (core b : Nat) : Eng :=
  let lo := 4096 * (4 * core + b)
  { e with acc := FMap.clear e.acc lo (lo + 4096), badAcc := e.badAcc.filter fun k => decide (k < lo ∨ lo + 4096 ≤ k) }

/-- A slot gives up banks that it holds: each becomes Releasing with the next generation (R294). `p` chooses by the mode
it is held in. -/
def State.releaseBanks (s : State) (core slot : Nat) (p : Bool → Bool) : State :=
  (List.range 4).foldl (fun s b =>
    match (s.bankOf core b).cond with
    | .held n hm =>
      if n = slot ∧ p hm then s.setBank core b fun k => { k with cond := .releasing, gen := k.gen + 1 } else s
    | _ => s) s

/-! ## Taking an exception -/

/-- The cause code (R379). -/
def Cause.code : Cause → Nat
  | .illop => 0x01 | .priv => 0x02 | .align => 0x03 | .prot => 0x04 | .watch => 0x05 | .brk => 0x06
  | .sys => 0x07 | .spill => 0x08 | .fill => 0x09 | .runhaz => 0x0A | .budget => 0x0B | .tagtrap => 0x0C
  | .tagmix => 0x0D | .redirloop => 0x0E | .segx => 0x0F | .tokbusy => 0x10 | .stream => 0x11
  | .uncorr => 0x12 | .hopdeny => 0x13

/-- A strand parked at a kernel trap is saved, without its banks, as soon as its long results have returned and
an area is free; the kernel then receives the event (R385, R389). -/
def State.kernelSave (s : State) (core slot : Nat) : State :=
  match s.strandAt core slot with
  | none => s
  | some t =>
    if t.ktrap && t.outstanding.isEmpty && t.area.isNone then
      match s.takeArea t.ctx with
      | none => s
      | some (i, s) =>
        let t := { t with area := some i, banks := s.heldBanks core slot, savedBudget := t.budget }
        let a := s.areaAddr t.ctx i
        let m := saveVectors t a (s.mem.putWords (hbmKey a) t.savedBytes)
        let s := { s with mem := m }.setStrand core slot fun _ => t
        s.systemEvent t.part (if t.doubled then 0x17 else t.kcause.toNat)
          t.ctx (s.vcoreWord t.ctx core) slot t.taddr (BitVec.ofNat 64 a)
          (BitVec.ofNat 64 t.kcauseWord)
    else s

/-- Whether a trap goes to the resident kernel (R384, R387). -/
def Strand.kernelTakes (t : Strand) (c : Cause) : Bool :=
  t.urg || t.hm || t.tdeleg.getLsbD c.code || decide (t.tvec = 0)

/-- What a trap saves as the resume address: the first word of the prefix group, but for SYS and BRK their own word
(R153, R380). -/
def Strand.trapPc (t : Strand) (c : Cause) : Word := if c = .sys ∨ c = .brk then t.pc else t.boundary

/-- The current strand after a trap that enters its own handler (R151, R384 rule 4). -/
def Strand.enterHandler (t : Strand) (i : TrapInfo) : Strand :=
  { t.clean with
    tcause := BitVec.ofNat 6 i.cause.code, taddr := i.taddr, tinfo := i.tinfo
    kentry := BitVec.ofNat 6 i.cause.code
    mskcnt := 0
    est := t.pst, epc := t.trapPc i.cause
    hm := true, cwp := t.cwp + 1, rdep := t.rdep + 1
    pc := t.tvec, wait := .none, pendingTrap := none }

/-- The current strand after a trap that goes to the kernel: it parks in its slot (R385). -/
def Strand.enterKernel (t : Strand) (i : TrapInfo) : Strand :=
  { t.clean with
    tcause := BitVec.ofNat 6 i.cause.code, taddr := i.taddr, tinfo := i.tinfo
    mskcnt := 0
    pc := t.trapPc i.cause
    ktrap := true, kcause := BitVec.ofNat 6 i.cause.code
    wait := .kernel, pendingTrap := none }

/-- Takes a trap in the current strand (R380, R384–R387). -/
def State.takeTrap (s : State) (i : TrapInfo) : State :=
  if s.me.kernelTakes i.cause then
    { s with me := s.me.enterKernel i }.kernelSave s.me.core s.me.slot
  else { s with me := s.me.enterHandler i }

/-- `tret` (R152): back to the interrupted strand. -/
def Strand.leaveHandler (t : Strand) : Strand :=
  { t with
    strict := t.est.getLsbD 0, cwp := t.est.extractLsb' 4 3, rdep := t.est.extractLsb' 8 3
    hm := false }

end Sys2Proof.Machine
end

