-- ==== Sys2Proof/Machine/Numeric.lean ====
section
/-!
DEFINITION. Number formats and exact arithmetic (R196–R212, R222): element codes to exact values, exact sums and
products, Encode with its flags, stochastic rounding, block scales, and the brackets of the approximated functions.
-/

namespace Sys2Proof.Machine

/-! ## Formats -/

/-- Element formats (R196). -/
inductive Fmt where
  | f32 | bf16 | e4m3 | e5m2 | t8 | e2m1 | int8
  deriving DecidableEq, Repr

/-- Exact values: NaN (signalling or not), infinities, and (-1)^neg · m · 2^e. -/
inductive Val where
  | nan (signalling : Bool)
  | inf (neg : Bool)
  | fin (neg : Bool) (m : Nat) (e : Int)
  deriving DecidableEq, Repr

/-- Exponent bits, fraction bits and bias of the formats with an exponent field. -/
def Fmt.shape : Fmt → Nat × Nat × Nat
  | .f32 => (8, 23, 127)
  | .bf16 => (8, 7, 127)
  | .e4m3 => (4, 3, 7)
  | .e5m2 => (5, 2, 15)
  | .e2m1 => (2, 1, 1)
  | .t8 => (0, 0, 0)
  | .int8 => (0, 0, 0)

/-- The code of the largest finite magnitude (R196). -/
def Fmt.maxCode : Fmt → Nat
  | .f32 => 0x7F7FFFFF
  | .bf16 => 0x7F7F
  | .e4m3 => 0x7E
  | .e5m2 => 0x7B
  | .t8 => 0x7F
  | .e2m1 => 0x7
  | .int8 => 0x7F

/-- The weight of the sign bit. -/
def Fmt.signBit : Fmt → Nat
  | .f32 => 2 ^ 31
  | .bf16 => 2 ^ 15
  | .e2m1 => 8
  | .e4m3 | .e5m2 | .t8 | .int8 => 128

/-- The code of the positive infinity, where the format has one. -/
def Fmt.infCode : Fmt → Option Nat
  | .f32 => some 0x7F800000
  | .bf16 => some 0x7F80
  | .e5m2 => some 0x7C
  | _ => none

/-- The canonical NaN (R196); E2M1 and INT8 have none. -/
def Fmt.nanCode : Fmt → Nat
  | .f32 => 0x7FC00000
  | .bf16 => 0x7FC0
  | .e4m3 => 0x7F
  | .e5m2 => 0x7E
  | .t8 => 0x80
  | .e2m1 | .int8 => 0

/-- The canonical binary32 NaN. -/
abbrev nan32 : Lane := 0x7FC00000#32

/-- The equal bits of a T8 code from bit `i - 1` downward. -/
def t8Run (m b : Nat) : Nat → Nat
  | 0 => 0
  | i + 1 => if bitsOf m i 1 = b then 1 + t8Run m b i else 0

/-- DecodeT8 (R199): the magnitude of bits 6:0, as mantissa and exponent. -/
def t8Mag (m : Nat) : Nat × Int :=
  let b := bitsOf m 6 1
  let run := t8Run m b 7
  let k : Int := if b = 1 then (run : Int) - 1 else -(run : Int)
  let n := 6 - run
  let e := if n = 0 then 0 else bitsOf m (n - 1) 1
  let f := if n < 2 then 0 else m % 2 ^ (n - 1)
  (2 ^ (n - 1) + f, 2 * k + e - ((n - 1 : Nat) : Int))

/-- The exact value of an element code (R196, R199). -/
def Fmt.decode (f : Fmt) (c : Nat) : Val :=
  match f with
  | .int8 => if c < 128 then .fin false c 0 else .fin true (256 - c) 0
  | .t8 =>
    if c = 0 then .fin false 0 0
    else if c = 128 then .nan false
    else .fin (decide (128 ≤ c)) (t8Mag (c % 128)).1 (t8Mag (c % 128)).2
  | _ =>
    let (eb, p, bias) := f.shape
    let neg := decide (bitsOf c (eb + p) 1 = 1)
    let be := bitsOf c p eb
    let fr := c % 2 ^ p
    if be = 2 ^ eb - 1 ∧ (f = .f32 ∨ f = .bf16 ∨ f = .e5m2) then
      if fr = 0 then .inf neg
      else .nan (decide (f ≠ .e5m2 ∧ bitsOf fr (p - 1) 1 = 0))
    else if f = .e4m3 ∧ be = 15 ∧ fr = 7 then .nan false
    else if be = 0 then .fin neg fr (1 - (bias : Int) - p)
    else .fin neg (fr + 2 ^ p) ((be : Int) - bias - p)

/-- The exact value of a binary32 lane. -/
def laneVal (x : Lane) : Val := Fmt.decode .f32 x.toNat

/-- Whether a value is NaN. -/
def Val.isNaN : Val → Bool
  | .nan _ => true
  | _ => false

/-- Whether a value is a signalling NaN. -/
def Val.isSig : Val → Bool
  | .nan b => b
  | _ => false

/-- The sign, false for NaN. -/
def Val.neg? : Val → Bool
  | .nan _ => false
  | .inf n => n
  | .fin n _ _ => n

/-- The value with its sign inverted. -/
def Val.negate : Val → Val
  | .nan b => .nan b
  | .inf n => .inf (!n)
  | .fin n m e => .fin (!n) m e

/-- A value times 2^k. -/
def Val.scale (x : Val) (k : Int) : Val :=
  match x with
  | .fin n m e => if m = 0 then .fin n 0 0 else .fin n m (e + k)
  | y => y

/-- Magnitude as a fraction of naturals. -/
def magFrac (m : Nat) (e : Int) : Nat × Nat :=
  if 0 ≤ e then (m * 2 ^ e.toNat, 1) else (m, 2 ^ (-e).toNat)

/-- The signed mantissa of a finite value at exponent `e0`, which is at most its own. -/
def mantAt (e0 : Int) : Val → Int
  | .fin n m e => (if n then -1 else 1) * ((m * 2 ^ (e - e0).toNat : Nat) : Int)
  | _ => 0

/-- The least exponent of the non-zero finite values. -/
def minExp : List Val → Option Int
  | [] => none
  | .fin _ m e :: t => if m = 0 then minExp t else
    match minExp t with
    | none => some e
    | some f => some (if e ≤ f then e else f)
  | _ :: t => minExp t

/-- A finite value from a signed mantissa. -/
def finOf (s e : Int) : Val := .fin (decide (s < 0)) s.natAbs (if s = 0 then 0 else e)

/-- Exact sum over terms: NaN with a NaN term or infinities of both signs; −0 only when every term is −0
(R197, R198). -/
def sumVals (xs : List Val) : Val :=
  if xs.any Val.isNaN then .nan false
  else if xs.contains (.inf false) && xs.contains (.inf true) then .nan false
  else if xs.contains (.inf false) then .inf false
  else if xs.contains (.inf true) then .inf true
  else match minExp xs with
    | none => .fin (!xs.isEmpty && xs.all Val.neg?) 0 0
    | some e0 =>
      let s := xs.foldl (fun a x => a + mantAt e0 x) (0 : Int)
      if s = 0 then .fin false 0 0 else finOf s e0

/-- Whether a sum forms an invalid operation: infinities of both signs (R197). -/
def sumInvalid (xs : List Val) : Bool := xs.contains (.inf false) && xs.contains (.inf true)

/-- Exact product (R197). -/
def mulVal : Val → Val → Val
  | .nan _, _ => .nan false
  | _, .nan _ => .nan false
  | .inf a, .inf b => .inf (a != b)
  | .inf a, .fin b m _ => if m = 0 then .nan false else .inf (a != b)
  | .fin a m _, .inf b => if m = 0 then .nan false else .inf (a != b)
  | .fin a m e, .fin b n f => .fin (a != b) (m * n) (if m * n = 0 then 0 else e + f)

/-- Whether a product is the invalid one of a zero and an infinity. -/
def mulInvalid : Val → Val → Bool
  | .inf _, .fin _ m _ => m == 0
  | .fin _ m _, .inf _ => m == 0
  | _, _ => false

/-- Sum of two terms with the zero sign of IEEE 754 (R198): `rdn` is the mode RDN. -/
def addVal (a b : Val) (rdn : Bool) : Val :=
  match sumVals [a, b] with
  | .fin _ 0 _ => .fin ((a.neg? && b.neg?) || (rdn && (a.neg? != b.neg?))) 0 0
  | v => v

/-- Order of values that are no NaN: −0 below +0 (R217). -/
def valLess (a b : Val) : Bool :=
  match a, b with
  | .nan _, _ => false
  | _, .nan _ => false
  | .inf x, .inf y => x && !y
  | .inf x, .fin _ _ _ => x
  | .fin _ _ _, .inf y => !y
  | .fin n m e, .fin n' m' e' =>
    if m = 0 ∧ m' = 0 then n && !n'
    else
      let e0 := if e ≤ e' then e else e'
      decide (mantAt e0 (.fin n m e) < mantAt e0 (.fin n' m' e'))

/-- IEEE equality of values that are no NaN. -/
def valEq (a b : Val) : Bool :=
  match a, b with
  | .nan _, _ => false
  | _, .nan _ => false
  | .inf x, .inf y => x == y
  | .inf _, .fin _ _ _ => false
  | .fin _ _ _, .inf _ => false
  | .fin n m e, .fin n' m' e' =>
    let e0 := if e ≤ e' then e else e'
    decide (mantAt e0 (.fin n m e) = mantAt e0 (.fin n' m' e'))

/-! ## Rounding and Encode -/

/-- Rounding of a magnitude: to nearest even, towards zero, away from zero. -/
inductive How where
  | ne | tz | aw
  deriving DecidableEq, Repr

/-- How a mode (0 RNE, 1 RTZ, 2 RDN, 3 RUP) rounds a magnitude of a sign. -/
def howOf (mode : Nat) (neg : Bool) : How :=
  if mode = 0 then .ne
  else if mode = 1 then .tz
  else if mode = 2 then (if neg then .aw else .tz)
  else (if neg then .tz else .aw)

/-- Floor of log2 of n/d, both positive. -/
def log2Frac (n d : Nat) : Int :=
  let l : Int := (Nat.log2 n : Int) - Nat.log2 d
  let below : Bool := if 0 ≤ l then decide (n < d * 2 ^ l.toNat) else decide (n * 2 ^ (-l).toNat < d)
  if below then l - 1 else l

/-- n/d divided by 2^q, rounded to a natural; and whether it was exact. -/
def divRound (n d : Nat) (q : Int) (how : How) : Nat × Bool :=
  let n' := if 0 ≤ q then n else n * 2 ^ (-q).toNat
  let d' := if 0 ≤ q then d * 2 ^ q.toNat else d
  let f := n' / d'
  let r := n' % d'
  let up : Bool := match how with
    | .tz => false
    | .aw => decide (r ≠ 0)
    | .ne => decide (2 * r > d' ∨ (2 * r = d' ∧ f % 2 = 1))
  (if up then f + 1 else f, decide (r = 0))

/-- T8 magnitudes in units of 2^-12, by code. -/
def t8Units (c : Nat) : Nat :=
  if c = 0 then 0 else (t8Mag c).1 * 2 ^ ((t8Mag c).2 + 12).toNat

/-- The largest T8 code at most `c` whose magnitude is at most `x` units. -/
def t8Floor (x : Nat) : Nat → Nat
  | 0 => 0
  | c + 1 => if t8Units (c + 1) ≤ x then c + 1 else t8Floor x c

/-- RoundToGrid on the T8 grid, which goes on above 2^12 in factors of 4 (R205): units of 2^-12. -/
def t8Round (n d : Nat) (how : How) : Nat × Bool :=
  let u := n * 4096
  let x := u / d
  let (a, b, even) :=
    if x < 2 ^ 24 then
      let c := t8Floor x 127
      (t8Units c, t8Units (c + 1), decide (c % 2 = 0))
    else
      let k := (Nat.log2 x - 24) / 2
      (2 ^ (24 + 2 * k), 2 ^ (26 + 2 * k), decide ((127 + k) % 2 = 0))
  if a * d = u then (a, true)
  else
    let up : Bool := match how with
      | .tz => false
      | .aw => true
      | .ne => decide (2 * u > (a + b) * d ∨ (2 * u = (a + b) * d ∧ even = false))
    (if up then b else a, false)

/-- RoundToGrid (R205) of a magnitude n/d > 0: mantissa and exponent of the grid value, and exactness. -/
def roundGrid (f : Fmt) (n d : Nat) (how : How) : Nat × Int × Bool :=
  match f with
  | .t8 => let (a, x) := t8Round n d how; (a, -12, x)
  | .int8 => let (a, x) := divRound n d 0 how; (a, 0, x)
  | _ =>
    let (_, p, bias) := f.shape
    let l := log2Frac n d
    let lo : Int := 1 - bias
    let q := (if l ≤ lo then lo else l) - p
    let (a, x) := divRound n d q how
    (a, q, x)

/-- The largest finite magnitude as mantissa and exponent; INT8's is one greater below zero. -/
def Fmt.maxMag (f : Fmt) (neg : Bool) : Nat × Int :=
  match f with
  | .int8 => (if neg then 128 else 127, 0)
  | .t8 => (1, 12)
  | _ => match f.decode f.maxCode with
    | .fin _ m e => (m, e)
    | _ => (0, 0)

/-- Whether m·2^e > m'·2^e'. -/
def magGt (m : Nat) (e : Int) (m' : Nat) (e' : Int) : Bool :=
  let e0 := if e ≤ e' then e else e'
  decide (m * 2 ^ (e - e0).toNat > m' * 2 ^ (e' - e0).toNat)

/-- The exponent of the smallest normal; INT8 has none (R205). -/
def Fmt.minNormal : Fmt → Option Int
  | .f32 | .bf16 => some (-126)
  | .e4m3 => some (-6)
  | .e5m2 => some (-14)
  | .e2m1 => some 0
  | .t8 => some (-12)
  | .int8 => none

/-- The code of a grid magnitude within the format's range. -/
def Fmt.codeOf (f : Fmt) (m : Nat) (e : Int) : Nat :=
  match f with
  | .int8 => m * 2 ^ e.toNat
  | .t8 => t8Floor (m * 2 ^ (e + 12).toNat) 127
  | _ =>
    let (_, p, bias) := f.shape
    if m = 0 then 0
    else
      let x : Int := (Nat.log2 m : Int) + e
      let lo : Int := 1 - bias
      let q := (if x ≤ lo then lo else x) - p
      let k := if q ≤ e then m * 2 ^ (e - q).toNat else m / 2 ^ (q - e).toNat
      if x < lo then k else k - 2 ^ p + (x + bias).toNat * 2 ^ p

/-- Flags as bits of `sflags` (R161). -/
abbrev Flags := BitVec 9

abbrev flagFMTBAD : Flags := 0x002#9
abbrev flagEMPTYSEG : Flags := 0x004#9
abbrev flagDZ : Flags := 0x008#9
abbrev flagNV : Flags := 0x010#9
abbrev flagOF : Flags := 0x020#9
abbrev flagUF : Flags := 0x040#9
abbrev flagNX : Flags := 0x080#9
abbrev flagSAT : Flags := 0x100#9

/-- A flag where a condition holds. -/
def flagIf (b : Bool) (f : Flags) : Flags := if b then f else 0

/-- A signed code: the sign bit, or the two's complement of INT8. -/
def Fmt.signed (f : Fmt) (neg : Bool) (c : Nat) : Nat :=
  match f with
  | .int8 => if neg then (256 - c) % 256 else c
  | .t8 => if neg ∧ c ≠ 0 then c + 128 else c
  | _ => if neg then c + f.signBit else c

/-- The largest finite code of a sign. -/
def Fmt.maxSigned (f : Fmt) (neg : Bool) : Nat :=
  match f with
  | .int8 => if neg then 0x80 else 0x7F
  | _ => f.signed neg f.maxCode

/-- TowardZero (R205). -/
def towardZero (mode : Nat) (neg : Bool) : Bool :=
  decide (mode = 1) || (decide (mode = 2) && !neg) || (decide (mode = 3) && neg)

/-- Whether a magnitude n/d is below 2^k. -/
def fracBelow (n d : Nat) (k : Int) : Bool :=
  if 0 ≤ k then decide (n < d * 2 ^ k.toNat) else decide (n * 2 ^ (-k).toNat < d)

/-- Encode (R205) of a non-zero magnitude n/d of a sign, rounded as `how` says. -/
def Fmt.encodeFrac (f : Fmt) (neg : Bool) (n d mode : Nat) (sat : Bool) : Nat × Flags :=
  let (m, e, exact) := roundGrid f n d (howOf mode neg)
  let fl := flagIf (!exact) flagNX
    ||| flagIf (!exact && (match f.minNormal with | some k => fracBelow n d k | none => false)) flagUF
  if magGt m e (f.maxMag neg).1 (f.maxMag neg).2 then
    match f.infCode with
    | some c =>
      if !sat && !towardZero mode neg then (f.signed neg c, fl ||| flagOF)
      else (f.maxSigned neg, fl ||| flagOF ||| flagSAT)
    | none => (f.maxSigned neg, fl ||| flagOF ||| flagSAT)
  else (f.signed neg (f.codeOf m e), fl)

/-- Encode (R205): the code and the flags it sets. -/
def Fmt.encode (f : Fmt) (x : Val) (mode : Nat) (sat : Bool) : Nat × Flags :=
  match x with
  | .nan sig =>
    match f with
    | .int8 => (0, flagNV)
    | .e2m1 => (0, flagNV)
    | _ => (f.nanCode, flagIf sig flagNV)
  | .inf neg =>
    match f.infCode with
    | some c => if sat then (f.maxSigned neg, flagNV ||| flagSAT) else (f.signed neg c, 0)
    | none =>
      match f with
      | .e4m3 | .t8 => (f.nanCode, flagNV)
      | _ => (f.maxSigned neg, flagNV ||| flagSAT)
  | .fin neg m e =>
    if m = 0 then (f.signed neg 0, 0)
    else f.encodeFrac neg (magFrac m e).1 (magFrac m e).2 mode sat

/-- RoundNE32 (R212). -/
def roundNE32 (x : Val) : Lane := BitVec.ofNat 32 (Fmt.encode .f32 x 0 false).1

/-! ## Stochastic rounding (R208) -/

/-- NextRandom: the draw and the new seed. -/
def nextRandom (seed : Word) : Nat × Word :=
  let x := if seed = 0 then 0x9E3779B97F4A7C15#64 else seed
  let x := x ^^^ (x <<< 13)
  let x := x ^^^ (x >>> 7)
  let x := x ^^^ (x <<< 17)
  ((x >>> 48).toNat, x)

/-- EncodeSR. -/
def Fmt.encodeSR (f : Fmt) (x : Val) (sat : Bool) (seed : Word) : Nat × Flags × Word :=
  let (r, seed) := nextRandom seed
  match x with
  | .fin neg m e =>
    if m = 0 then let (c, fl) := f.encode x 0 sat; (c, fl, seed)
    else
      let (n, d) := magFrac m e
      let (am, ae, exact) := roundGrid f n d .tz
      if exact then let (c, fl) := f.encode x 0 sat; (c, fl, seed)
      else
        let (bm, be, _) := roundGrid f n d .aw
        let (an, ad) := magFrac am ae
        let (bn, bd) := magFrac bm be
        let num := (n * ad - an * d) * bd * 2 ^ 16
        let den := (bn * ad - an * bd) * d
        let y : Val := if r < num / den then .fin neg bm be else .fin neg am ae
        let (c, fl) := f.encode y 0 sat
        let uf := match f.minNormal with | some k => fracBelow n d k | none => false
        (c, fl ||| flagNX ||| flagIf uf flagUF, seed)
  | _ => let (c, fl) := f.encode x 0 sat; (c, fl, seed)

/-! ## Blocks (R200–R202, R210) -/

/-- The element format of an FMT code; none for a reserved code (R201). -/
def fmtOfCode (c : Nat) : Option Fmt :=
  match c with
  | 0 | 1 => some .f32
  | 2 => some .bf16
  | 3 => some .e4m3
  | 4 => some .e5m2
  | 5 => some .t8
  | 6 => some .e2m1
  | 7 => some .int8
  | _ => none

/-- Elements of a block by FMT code (R201). -/
def perBlock (c : Nat) : Nat :=
  match c with
  | 0 | 1 => 16
  | 2 => 32
  | 6 => 128
  | _ => 64

/-- The code of element `i` of a block (R201). -/
def elementCode (c : Nat) (bytes : List Byte) (i : Nat) : Nat :=
  let b (k : Nat) : Nat := match bytes[k]? with | some x => x.toNat | none => 0
  match c with
  | 0 | 1 => b (4 * i) + 256 * b (4 * i + 1) + 65536 * b (4 * i + 2) + 16777216 * b (4 * i + 3)
  | 2 => b (2 * i) + 256 * b (2 * i + 1)
  | 6 => if i % 2 = 0 then b (i / 2) % 16 else b (i / 2) / 16
  | _ => b i

/-- The scale of the quarter of element `i` (R200, R201). -/
def scaleOf (desc : BitVec 48) (c i : Nat) : Nat := bitsOf desc.toNat (8 + 8 * (4 * i / perBlock c)) 8

/-- Value (R202): NaN for a reserved FMT or a scale of 0xFF. -/
def elementVal (desc : BitVec 48) (bytes : List Byte) (i : Nat) : Val :=
  let c := desc.toNat % 256
  match fmtOfCode c with
  | none => .nan false
  | some f =>
    let sc := scaleOf desc c i
    if sc = 255 then .nan false else (f.decode (elementCode c bytes i)).scale ((sc : Int) - 127)

/-- EMax (R210). -/
def Fmt.emax : Fmt → Int
  | .e2m1 => 2
  | .e4m3 => 8
  | .e5m2 => 15
  | .t8 => 12
  | .int8 => 6
  | .f32 | .bf16 => 0

/-- The greatest Floor(Log2(|v|)) of the finite non-zero values. -/
def maxLog : List Val → Option Int
  | [] => none
  | .fin _ m e :: t => if m = 0 then maxLog t else
    let l : Int := (Nat.log2 m : Int) + e
    match maxLog t with
    | none => some l
    | some k => some (if k ≤ l then l else k)
  | _ :: t => maxLog t

/-- Scale (R210). -/
def quarterScale (f : Fmt) (vals : List Val) : Nat :=
  match f with
  | .f32 | .bf16 => 127
  | _ =>
    if f = .e2m1 ∧ vals.any (fun v => match v with | .fin _ _ _ => false | _ => true) then 255
    else match maxLog vals with
      | none => 127
      | some l =>
        let x := l - f.emax + 127
        if x < 0 then 0 else if 254 < x then 254 else x.toNat

/-- The rounding control of an instruction (R204): mode, saturate, stochastic. -/
structure Control where
  mode : Nat
  sat : Bool
  sr : Bool
  deriving DecidableEq, Repr

/-- The control that four bits hold (R159, R126). -/
def controlOf (x : BitVec 4) : Control :=
  { mode := (x.extractLsb' 0 2).toNat, sat := x.getLsbD 2, sr := x.getLsbD 3 }

/-- Codes of one quarter under its scale, with flags and the seed the draws leave. -/
def encodeQuarter (f : Fmt) (ctl : Control) (sc : Nat) : List Val → Word → List Nat × Flags × Word
  | [], seed => ([], 0, seed)
  | v :: vs, seed =>
    let (c, fl, seed) :=
      if sc = 255 then (0, flagNV, if ctl.sr then (nextRandom seed).2 else seed)
      else
        let x := v.scale (127 - (sc : Int))
        if ctl.sr then f.encodeSR x ctl.sat seed
        else let (c, fl) := f.encode x ctl.mode ctl.sat; (c, fl, seed)
    let (cs, fl', seed) := encodeQuarter f ctl sc vs seed
    (c :: cs, fl ||| fl', seed)

/-- Bytes of element codes (R201). -/
def codeBytes (f : Fmt) : List Nat → List Byte
  | [] => []
  | c :: cs =>
    match f with
    | .f32 => toLE 4 c ++ codeBytes f cs
    | .bf16 => toLE 2 c ++ codeBytes f cs
    | .e2m1 => [BitVec.ofNat 8 c] ++ codeBytes f cs
    | _ => toLE 1 c ++ codeBytes f cs

/-- Pairs of 4-bit codes as bytes. -/
def packNibbles : List Byte → List Byte
  | a :: b :: t => (a ||| (b <<< 4)) :: packNibbles t
  | t => t

/-- One quantized block (R210): its bytes, its descriptor, flags and seed. -/
def quantBlock (code : Nat) (f : Fmt) (ctl : Control) (vals : List Val) (seed : Word) :
    List Byte × BitVec 48 × Flags × Word :=
  let n := perBlock code / 4
  let q (i : Nat) := (vals.drop (n * i)).take n
  let s (i : Nat) := quarterScale f (q i)
  let (c0, f0, seed) := encodeQuarter f ctl (s 0) (q 0) seed
  let (c1, f1, seed) := encodeQuarter f ctl (s 1) (q 1) seed
  let (c2, f2, seed) := encodeQuarter f ctl (s 2) (q 2) seed
  let (c3, f3, seed) := encodeQuarter f ctl (s 3) (q 3) seed
  let bytes := codeBytes f (c0 ++ c1 ++ c2 ++ c3)
  (if f = .e2m1 then packNibbles bytes else bytes,
   BitVec.ofNat 48 (code + 2 ^ 8 * s 0 + 2 ^ 16 * s 1 + 2 ^ 24 * s 2 + 2 ^ 32 * s 3),
   f0 ||| f1 ||| f2 ||| f3, seed)

/-- Quantizes values into whole blocks, `n` of them (R210, R230). -/
def quantize (code : Nat) (f : Fmt) (ctl : Control) : Nat → List Val → Word →
    List (List Byte × BitVec 48) × Flags × Word
  | 0, _, seed => ([], 0, seed)
  | n + 1, vals, seed =>
    let (b, d, fl, seed) := quantBlock code f ctl (vals.take (perBlock code)) seed
    let (bs, fl', seed) := quantize code f ctl n (vals.drop (perBlock code)) seed
    ((b, d) :: bs, fl ||| fl', seed)

/-- binary32 addition by RNE without saturation (`amo.fadd` R345, reducing copies R327). -/
def add32 (a b : Lane) : Lane := roundNE32 (addVal (laneVal a) (laneVal b) false)

/-- The smaller or larger of two codes of a format with NaNs (R217), with NV for a signalling NaN. -/
def minMax (f : Fmt) (big : Bool) (a b : Nat) : Nat × Flags :=
  let x := f.decode a
  let y := f.decode b
  let nv := flagIf (x.isSig || y.isSig) flagNV
  if x.isNaN && y.isNaN then (f.nanCode, nv)
  else if x.isNaN then (b, nv)
  else if y.isNaN then (a, nv)
  else (if valLess x y == big then b else a, nv)

/-- Combine (R327) of destination and source element by reduce code, with flags. -/
def combine (code d s : Nat) : Nat × Flags :=
  let add (f : Fmt) : Nat × Flags :=
    let x := f.decode d
    let y := f.decode s
    let r := f.encode (addVal x y false) 0 false
    (r.1, (r.2 &&& ~~~flagSAT) ||| flagIf (x.isSig || y.isSig || sumInvalid [x, y]) flagNV)
  let i (x : Nat) : Int := (BitVec.ofNat 32 x).toInt
  match code with
  | 1 => add .f32
  | 2 => minMax .f32 false d s
  | 3 => minMax .f32 true d s
  | 4 => add .bf16
  | 5 => minMax .bf16 false d s
  | 6 => minMax .bf16 true d s
  | 7 => ((d + s) % 2 ^ 32, 0)
  | 8 => (if i s < i d then s else d, 0)
  | 9 => (if i d < i s then s else d, 0)
  | _ => (s, 0)

/-- Element bytes of a reduce code (R327). -/
def reduceSize (code : Nat) : Nat := if code = 4 ∨ code = 5 ∨ code = 6 then 2 else 4

/-! ## Approximated functions (R222, R233) -/

/-- Fraction bits of the interval arithmetic below. -/
abbrev fixP : Nat := 256

/-- Partial sum of z + z^3/3 + z^5/5 + …, in units of 2^-256; `p` is the current power. -/
def atanhSum (z2 : Nat) : Nat → Nat → Nat → Nat
  | 0, _, _ => 0
  | n + 1, k, p => p / k + atanhSum z2 n (k + 2) (p * z2 / 2 ^ fixP)

/-- Bounds of ln(n/d) for 1 ≤ n/d < 2, in units of 2^-256. -/
def lnFix (n d : Nat) : Nat × Nat :=
  let z := (n - d) * 2 ^ fixP / (n + d)
  let s := 2 * atanhSum (z * z / 2 ^ fixP) 100 1 z
  (s, s + 2 ^ 13)

/-- Bounds of ln 2. -/
def ln2Fix : Nat × Nat :=
  let z := 2 ^ fixP / 3
  let s := 2 * atanhSum (z * z / 2 ^ fixP) 100 1 z
  (s, s + 2 ^ 13)

/-- Partial sum of 1 + x + x²/2 + …; `p` is the current term. -/
def expSum (x : Nat) : Nat → Nat → Nat → Nat
  | 0, _, _ => 0
  | n + 1, k, p => p + expSum x n (k + 1) (p * x / 2 ^ fixP / k)

/-- Bounds of e^x for bounds of 0 ≤ x < 1, in units of 2^-256. -/
def expFix (lo hi : Nat) : Nat × Nat :=
  (expSum lo 90 1 (2 ^ fixP), expSum hi 90 1 (2 ^ fixP) + 2 ^ 14)

/-- Bounds of e^(n/d), n/d ≥ 0, as a mantissa in units of 2^-256 and a power of two. -/
def expMag (n d : Nat) : Nat × Nat × Nat :=
  let x := n * 2 ^ fixP / d
  let k := x / ln2Fix.2
  let lo := x - k * ln2Fix.2
  let hi := x + 1 - k * ln2Fix.1
  let (a, b) := expFix lo hi
  (a, b, k)

/-- The two neighbours on the binary32 grid of a positive real between lo·2^-s and hi·2^-s that is no binary32
value; none where the bounds do not settle them. Beyond the largest finite value they are that and +∞. -/
def bracketOf (lo hi s : Nat) : Option (Nat × Nat) :=
  if lo = 0 then none
  else
    let (m, e, _) := roundGrid .f32 lo (2 ^ s) .tz
    let (m', e', _) := roundGrid .f32 hi (2 ^ s) .tz
    if m = m' ∧ e = e' then
      if magGt m e (Fmt.maxMag .f32 false).1 (Fmt.maxMag .f32 false).2 then some (0x7F7FFFFF, 0x7F800000)
      else some (Fmt.codeOf .f32 m e, Fmt.codeOf .f32 m e + 1)
    else none

/-- The device's choice between two neighbours (R222). -/
def chooseBracket (fn : Nat) (a : Lane) (neg : Bool) (b : Option (Nat × Nat)) : Lane :=
  match b with
  | none => Config.bracketOpen fn a
  | some (lo, hi) =>
    let c := if Config.bracketUp fn a then hi else lo
    BitVec.ofNat 32 (if neg then c + 2 ^ 31 else c)

/-- A value known exactly as n/d: itself where it is a binary32 value, else one of its neighbours. -/
def exactOrBracket (fn : Nat) (a : Lane) (neg : Bool) (n d : Nat) : Lane :=
  let (m, e, exact) := roundGrid .f32 n d .tz
  if magGt m e (Fmt.maxMag .f32 false).1 (Fmt.maxMag .f32 false).2 then
    chooseBracket fn a neg (some (0x7F7FFFFF, 0x7F800000))
  else
    let c := Fmt.codeOf .f32 m e
    if exact then BitVec.ofNat 32 (if neg then c + 2 ^ 31 else c)
    else chooseBracket fn a neg (some (c, c + 1))

/-- `vrcp` (R222). -/
def rcp32 (a : Lane) : Lane × Flags :=
  match laneVal a with
  | .nan s => (nan32, flagIf s flagNV)
  | .inf n => (if n then 0x80000000#32 else 0, 0)
  | .fin n m e =>
    if m = 0 then (if n then 0xFF800000#32 else 0x7F800000#32, 0)
    else (exactOrBracket 0x15 a n (magFrac m e).2 (magFrac m e).1, 0)

/-- Floor of 2^k / √(n/d), exactly, and whether it is exact. -/
def rsqrtFloor (n d k : Nat) : Nat × Bool :=
  let x := 2 ^ (2 * k) * d
  let r := Nat.sqrt (x / n)
  (r, decide (r * r * n = x))

/-- `vrsq` (R222). -/
def rsq32 (a : Lane) : Lane × Flags :=
  match laneVal a with
  | .nan s => (nan32, flagIf s flagNV)
  | .inf n => if n then (nan32, flagNV) else (0, 0)
  | .fin n m e =>
    if m = 0 then (if n then 0xFF800000#32 else 0x7F800000#32, 0)
    else if n then (nan32, flagNV)
    else
      let (p, q) := magFrac m e
      let (r, exact) := rsqrtFloor p q fixP
      if exact then (exactOrBracket 0x16 a false r (2 ^ fixP), 0)
      else (chooseBracket 0x16 a false (bracketOf r (r + 1) fixP), 0)

/-- The least positive binary32 values 0 and 2^-149, which bracket a result below 2^-149. -/
abbrev tinyBracket : Option (Nat × Nat) := some (0, 1)

/-- `vexp2` (R222). -/
def exp232 (a : Lane) : Lane × Flags :=
  match laneVal a with
  | .nan s => (nan32, flagIf s flagNV)
  | .inf n => (if n then 0 else 0x7F800000#32, 0)
  | .fin n m e =>
    let (p, q) := magFrac m e
    if m = 0 then (0x3F800000#32, 0)
    else if !n && decide (128 * q ≤ p) then (0x7F800000#32, flagOF)
    else if n && decide (150 * q ≤ p) then (chooseBracket 0x17 a false tinyBracket, 0)
    else if p % q = 0 then
      (if n then (exactOrBracket 0x17 a false 1 (2 ^ (p / q)), 0) else (exactOrBracket 0x17 a false (2 ^ (p / q)) 1, 0))
    else
      let i : Int := if n then -((p / q : Nat) : Int) - 1 else ((p / q : Nat) : Int)
      let f := if n then q - p % q else p % q
      let g := f * 2 ^ fixP / q
      let (lo, hi) := expFix (g * ln2Fix.1 / 2 ^ fixP) (g * ln2Fix.2 / 2 ^ fixP + 1)
      let sh := (fixP : Int) - i
      (chooseBracket 0x17 a false (bracketOf lo hi sh.toNat), 0)

/-- `vlog2` (R222). -/
def log232 (a : Lane) : Lane × Flags :=
  match laneVal a with
  | .nan s => (nan32, flagIf s flagNV)
  | .inf n => if n then (nan32, flagNV) else (0x7F800000#32, 0)
  | .fin n m e =>
    if m = 0 then (0xFF800000#32, 0)
    else if n then (nan32, flagNV)
    else
      let l := Nat.log2 m
      let x : Int := (l : Int) + e
      if m = 2 ^ l then
        (if x = 0 then 0 else exactOrBracket 0x18 a (decide (x < 0)) x.natAbs 1, 0)
      else
        let (lo, hi) := lnFix m (2 ^ l)
        let flo := lo * 2 ^ fixP / ln2Fix.2
        let fhi := hi * 2 ^ fixP / ln2Fix.1 + 1
        if 0 ≤ x then
          (chooseBracket 0x18 a false (bracketOf (x.toNat * 2 ^ fixP + flo) (x.toNat * 2 ^ fixP + fhi) fixP), 0)
        else
          (chooseBracket 0x18 a true (bracketOf (x.natAbs * 2 ^ fixP - fhi) (x.natAbs * 2 ^ fixP - flo) fixP), 0)

/-- `vtanh` (R222). -/
def tanh32 (a : Lane) : Lane × Flags :=
  match laneVal a with
  | .nan s => (nan32, flagIf s flagNV)
  | .inf n => (if n then 0xBF800000#32 else 0x3F800000#32, 0)
  | .fin n m e =>
    if m = 0 then (a, 0)
    else
      let (p, q) := magFrac m e
      let c := a.toNat % 2 ^ 31
      if p * 2 ^ 12 < q then (chooseBracket 0x19 a n (some (c - 1, c)), 0)
      else if 10 * q < p then (chooseBracket 0x19 a n (some (0x3F7FFFFF, 0x3F800000)), 0)
      else
        let (lo, hi, k) := expMag (2 * p) q
        let one := 2 ^ fixP
        let lo := lo * 2 ^ k
        let hi := hi * 2 ^ k
        (chooseBracket 0x19 a n
          (bracketOf ((lo - one) * one / (lo + one)) ((hi - one) * one / (hi + one) + 1) fixP), 0)

/-- `vsig` (R222). -/
def sig32 (a : Lane) : Lane × Flags :=
  match laneVal a with
  | .nan s => (nan32, flagIf s flagNV)
  | .inf n => (if n then 0 else 0x3F800000#32, 0)
  | .fin n m e =>
    if m = 0 then (0x3F000000#32, 0)
    else
      let (p, q) := magFrac m e
      let one := 2 ^ fixP
      if n && decide (105 * q < p) then (chooseBracket 0x1A a false tinyBracket, 0)
      else if !n && decide (20 * q < p) then (chooseBracket 0x1A a false (some (0x3F7FFFFF, 0x3F800000)), 0)
      else
        let (lo, hi, k) := expMag p q
        let lo := lo * 2 ^ k
        let hi := hi * 2 ^ k
        let w := one * one
        if n then
          (chooseBracket 0x1A a false
            (bracketOf (w * one / (hi + one)) (w * one / (lo + one) + 1) (2 * fixP)), 0)
        else
          (chooseBracket 0x1A a false (bracketOf (lo * one / (lo + one)) (hi * one / (hi + one) + 1) fixP), 0)

/-- ExpF (R233): e^x for a value at most 0, as accurate as R222. -/
def expF (a : Lane) : Lane :=
  match laneVal a with
  | .nan _ => nan32
  | .inf n => if n then 0 else 0x7F800000#32
  | .fin n m e =>
    if m = 0 then 0x3F800000#32
    else
      let (p, q) := magFrac m e
      let one := 2 ^ fixP
      if n then
        if 105 * q < p then chooseBracket 0x26 a false tinyBracket
        else
          let (lo, hi, k) := expMag p q
          chooseBracket 0x26 a false
            (bracketOf (one * one / hi * one / 2 ^ k) ((one * one / lo + 1) * one / 2 ^ k + 1) (2 * fixP))
      else
        if 89 * q < p then 0x7F800000#32
        else
          let (lo, hi, k) := expMag p q
          chooseBracket 0x26 a false (bracketOf (lo * 2 ^ k) (hi * 2 ^ k) fixP)

/-- 1/√(n/d) rounded once by RNE (`vlnorm.fin` R234). -/
def rsqrtNE (n d : Nat) : Lane :=
  let (r, exact) := rsqrtFloor n d (2 * fixP)
  -- an inexact result lies strictly between r and r + 1
  if exact then BitVec.ofNat 32 (Fmt.encodeFrac .f32 false r (2 ^ (2 * fixP)) 0 false).1
  else BitVec.ofNat 32 (Fmt.encodeFrac .f32 false (2 * r + 1) (2 ^ (2 * fixP + 1)) 0 false).1

end Sys2Proof.Machine
end

