-- ==== Sys2Proof/Machine/Translate.lean ====
section
/-!
DEFINITION. Address translation (R178–R190) and the watch filters (R191, R192).
-/

namespace Sys2Proof.Machine

/-- A translation to make. -/
structure XReq where
  ctx : Nat
  sysm : Bool
  kind : XKind
  rd : Bool
  wr : Bool
  via : Via := .strand
  deriving DecidableEq, Repr

/-- The answer of a translation: a leaf or a fault (R183). -/
inductive XRes where
  | ok (l : Leaf)
  | fail (kind level : Nat) (remote : Bool)
  deriving DecidableEq, Repr

abbrev faultNONCANON : Nat := 1
abbrev faultNOMAP : Nat := 2
abbrev faultFORMAT : Nat := 3
abbrev faultTARGET : Nat := 4
abbrev faultSYSPAGE : Nat := 5
abbrev faultPERM : Nat := 6
abbrev faultNOTRES : Nat := 7
abbrev faultNOTPIN : Nat := 8
abbrev faultNOTAG : Nat := 9
abbrev faultPEERLOOP : Nat := 10
abbrev faultUNREACH : Nat := 11

/-- The access code of R183. -/
def Acc.code : Acc → Nat
  | .load => 0 | .store => 1 | .atomic => 2 | .fetch => 3 | .tag => 4

/-- The syndrome of R183. -/
def protInfo (kind : Nat) (acc : Acc) (level : Nat) (remote : Bool) : Word :=
  BitVec.ofNat 64 (kind % 256 + 256 * natOf (decide (acc = .fetch)) + 512 * acc.code + 4096 * (level % 8)
    + 32768 * natOf remote)

/-! ## Walking the tables -/

/-- The HBM byte address of the entry of a table for an address (R179). -/
def entryAddr (tf level va : Nat) : Nat := 4096 * tf + 8 * bitsOf va (12 + 9 * level) 9

/-- The caches that a request goes through: its TLBs of leaves, the first one first, and the ply whose walkers serve it (R185). -/
def XReq.path (q : XReq) (core : Nat) : List TlbId × Option Nat :=
  let ofCore (c : Nat) : List TlbId × Option Nat :=
    ([if q.kind = .fetch then .itlb c else .dtlb c, .ply (corePly c)], some (corePly c))
  match q.via with
  | .strand => ofCore core
  | .core c => ofCore c
  | .ply p => ([.ply p], some p)
  | .twister d => ([.twister d], some (20 * d))
  | .none => ([], .none)

/-- How many entries a cache holds (R185): a ply's four walkers keep 32 table pointers each. -/
def TlbId.size : TlbId → Nat
  | .dtlb _ => 64
  | .itlb _ => 32
  | .ply _ => 2048
  | .walkers _ => 128
  | .twister _ => 256

/-- Bytes that an entry of a level maps; a member of a 64 KiB group maps the group (R179, R182). -/
def entrySpan (e level : Nat) : Nat := if level = 0 ∧ bitsOf e 10 1 = 1 then 65536 else 4096 * 512 ^ level

/-- Whether a cached entry maps an address of a context. -/
def TlbEntry.maps (x : TlbEntry) (ctx va : Nat) : Bool :=
  x.ctx == ctx && decide (x.va ≤ va ∧ va < x.va + entrySpan x.entry x.level)

/-- Puts an entry into a cache. It takes the place of what the cache held for its addresses; a full cache loses an entry, and which one
is free (R185 names no policy). -/
def cacheEntry (x : TlbEntry) : Act Unit := modify fun s =>
  let same (y : TlbEntry) : Bool := y.cache == x.cache && y.level == x.level && y.maps x.ctx x.va
  let rest := s.mem.tlb.filter fun y => !same y
  let held := rest.filter fun y => y.cache == x.cache
  if held.length < x.cache.size then { s with mem := { s.mem with tlb := rest ++ [x] } }
  else
    match held[(Config.freeWord s.free).toNat % held.length]? with
    | some y => { s with free := s.free + 1, mem := { s.mem with tlb := rest.erase y ++ [x] } }
    | none => s

/-- Reads a table entry at an address for a walk served by a ply's walkers: as memory holds it, or, unless a fresh walk is made, as a
walker may have it cached (R185, R187). -/
def readPte (ctx va level : Nat) (ply : Option Nat) (fresh : Bool) (a : Nat) : Act Nat := do
  let s ← get
  let e := s.hbmNat a 8
  let held : Option TlbEntry := if fresh then none else ply.bind fun p =>
    s.mem.tlb.find? fun x => x.cache == .walkers p && x.level == level && x.maps ctx va && x.addr == a && x.entry != e
  match held with
  | none => pure e
  | some x => if ← drawBit then pure x.entry else pure e

/-- A walker keeps a table pointer that it has read (R185). -/
def notePointer (ctx va level : Nat) (ply : Option Nat) (a e : Nat) : Act Unit := do
  let s ← get
  match ply with
  | none => pure ()
  | some p =>
    let x : TlbEntry :=
      { cache := .walkers p, ctx := ctx, va := va - va % entrySpan e level, level := level, addr := a, entry := e }
    if s.mem.tlb.contains x then pure () else cacheEntry x

/-- The result of a walk: the leaf entry, its level, and the address that keeps A and D; or a fault. -/
inductive Walk where
  | leaf (entry level own adAddr : Nat)
  | bad (kind level : Nat)
  deriving DecidableEq, Repr

/-- The type field of a leaf (R180). -/
def leafType (e : Nat) : Nat := bitsOf e 13 3

/-- The frame or page number that a leaf of a type gives (R181). -/
def leafPage (e : Nat) : Nat :=
  match leafType e with
  | 0 => bitsOf e 16 36
  | 1 => bitsOf e 28 8
  | 2 => bitsOf e 24 10
  | 3 => bitsOf e 19 10
  | 5 => bitsOf e 16 36
  | 6 => bitsOf e 16 36
  | _ => 0

/-- Frames of 4 KiB that a leaf maps (R179). -/
def leafFrames (e level : Nat) : Nat :=
  if level = 0 then (if bitsOf e 10 1 = 1 then 16 else 1) else if level = 1 then 512 else 262144

/-- BadFields (R181, R182): a leaf whose fields break R181. The alignment of a 64 KiB group is GroupCheck's. -/
def badFields (chip e level : Nat) : Bool :=
  let n := if level = 0 then 1 else leafFrames e level
  let pg := leafPage e
  match leafType e with
  | 0 => decide (bitsOf e 52 12 ≠ 0 ∨ pg % n ≠ 0 ∨ pg + n > Config.hbmFrames)
  | 1 => decide (bitsOf e 36 28 ≠ 0 ∨ level ≠ 0)
  | 2 => decide (bitsOf e 34 30 ≠ 0 ∨ level ≠ 0 ∨ bitsOf e 16 8 ≥ Config.plies ∨ pg ≥ 704)
  | 3 => decide (bitsOf e 29 35 ≠ 0 ∨ level ≠ 0 ∨ bitsOf e 5 1 = 1)
  | 4 => decide (bitsOf e 25 39 ≠ 0 ∨ bitsOf e 16 9 > 383 ∨ bitsOf e 16 9 = chip)
  | 5 => decide (bitsOf e 52 12 ≠ 0 ∨ pg % n ≠ 0)
  | 6 => decide (bitsOf e 52 12 ≠ 0 ∨ level ≠ 0 ∨ bitsOf e 10 1 = 1)
  | _ => true

/-- What must agree within a 64 KiB group (R182): bits 15:0 other than A and D, and the target but its page. -/
def groupKey (e : Nat) : Nat × Nat :=
  let low := bitsOf e 0 11 + 8192 * bitsOf e 13 3
  match leafType e with
  | 1 => (low, bitsOf e 16 12)
  | 2 => (low, bitsOf e 16 8)
  | 3 => (low, bitsOf e 16 3)
  | 4 => (low, bitsOf e 16 48)
  | _ => (low, 0)

/-- GroupCheck (R182): the 16 aligned level-0 entries from `base` agree and name consecutive pages. -/
def groupOk (chip : Nat) (es : List Nat) : Bool :=
  match es with
  | [] => false
  | e0 :: _ =>
    let f := leafPage e0
    let paged : Bool := decide (leafType e0 ≠ 4)
    (decide (f % 16 = 0) || !paged)
      && (indexed es).all fun p =>
        decide (bitsOf p.2 0 2 = 3 ∧ bitsOf p.2 10 1 = 1 ∧ groupKey p.2 = groupKey e0)
          && (decide (leafPage p.2 = f + p.1) || !paged) && !badFields chip p.2 0
where
  indexed (es : List Nat) : List (Nat × Nat) := (List.range es.length).zip es

/-- An entry with the A and D of another. -/
def withADOf (e e0 : Nat) : Nat := e - bitsOf e 11 2 * 2048 + bitsOf e0 11 2 * 2048

/-- The lowest bit of a leaf's frame or page field (R181). -/
def leafShift (e : Nat) : Nat :=
  match leafType e with
  | 1 => 28
  | 2 => 24
  | 3 => 19
  | _ => 16

/-- Entry 0 of a 64 KiB group, from the entry of an address in it, and back: a PEER leaf names no page (R181, R182). -/
def groupFirst (e va : Nat) : Nat :=
  if bitsOf e 10 1 = 0 ∨ leafType e = 4 then e else e - (va / 4096 % 16) * 2 ^ leafShift e
def groupMember (e0 va : Nat) : Nat :=
  if bitsOf e0 10 1 = 0 ∨ leafType e0 = 4 then e0 else e0 + (va / 4096 % 16) * 2 ^ leafShift e0

/-- Walk (R182) from a table of a level, served by a ply's walkers. -/
def walkFrom (ctx va : Nat) (ply : Option Nat) (fresh : Bool) : (level : Nat) → (tf : Nat) → Act Walk
  | level, tf => do
    let a := entryAddr tf level va
    let e ← readPte ctx va level ply fresh a
    let s ← get
    if bitsOf e 0 1 = 0 then pure (.bad faultNOMAP level)
    else if bitsOf e 1 1 = 0 then
      match level with
      | 0 => pure (.bad faultFORMAT 0)
      | below + 1 =>
        if bitsOf e 1 15 ≠ 0 ∨ bitsOf e 52 12 ≠ 0 then pure (.bad faultFORMAT level)
        else do
          if !fresh then notePointer ctx va level ply a e
          walkFrom ctx va ply fresh below (bitsOf e 16 36)
    else if level > 2 ∨ (bitsOf e 10 1 = 1 ∧ level ≠ 0) ∨ badFields s.hub.chip e level then
      pure (.bad faultFORMAT level)
    else if bitsOf e 10 1 = 1 then
      let base := a - a % 128
      let es := (List.range 16).map fun j => s.hbmNat (base + 8 * j) 8
      if groupOk s.hub.chip es then
        -- A and D are kept in entry 0
        pure (.leaf (withADOf e (s.hbmNat base 8)) level a base)
      else pure (.bad faultFORMAT level)
    else pure (.leaf e level a a)

/-- The physical address of an address under a leaf (R181). -/
def leafAddr (s : State) (ctx va e level : Nat) : PAddr :=
  let size := 4096 * (if level = 0 then 1 else leafFrames e level)
  let off := 4096 * leafPage e + va % size
  match leafType e with
  | 0 => { space := .hbm, off := off }
  | 1 => { space := .ls (((s.ctxOf ctx).coreAt (bitsOf e 16 12)).getD 0), off := off }
  | 2 => { space := .pool (bitsOf e 16 8), off := off }
  | 3 => { space := .dsm (bitsOf e 16 3), off := off }
  | 4 => { space := .peer (bitsOf e 16 9) ctx, off := va }
  | 5 => { space := .host ctx, off := off }
  | _ => { space := .mmio, off := off }

/-- Whether a leaf's target lies outside the context (R181). -/
def outsideContext (s : State) (ctx e level : Nat) : Bool :=
  let c := s.ctxOf ctx
  match leafType e with
  | 0 =>
    let f := leafPage e / 262144
    let l := (leafPage e + (if level = 0 then 1 else leafFrames e level) - 1) / 262144
    !((s.partOf c.part).hbm.any fun r => decide (r.1 ≤ f ∧ f < r.1 + r.2)
      && decide (r.1 ≤ l ∧ l < r.1 + r.2))
  | 1 => (c.coreAt (bitsOf e 16 12)).isNone
  | 2 => !c.plies.contains (bitsOf e 16 8)
  | 6 => !Config.registerWindow c.part (leafPage e)
  | _ => false

/-- Whether R184 turns an access away from a target type: 4 TARGET, 9 NOTAG, 0 allowed. -/
def targetRule (k : XKind) (type : Nat) : Nat :=
  match k with
  | .scalar n => if type = 6 ∧ n ≠ 4 ∧ n ≠ 8 then faultTARGET else 0
  | .vector => if type = 6 then faultTARGET else 0
  | .atomic => if type = 5 ∨ type = 6 then faultTARGET else 0
  | .tag => if type = 0 ∨ type = 3 ∨ type = 5 ∨ type = 6 then faultNOTAG else 0
  | .table =>
    if type = 4 then faultTARGET else if type = 0 ∨ type = 3 ∨ type = 5 ∨ type = 6 then faultNOTAG else 0
  | .fetch => if type = 0 ∨ type = 1 ∨ type = 2 then 0 else faultTARGET
  | .engine => if type = 3 ∨ type = 6 then faultTARGET else 0

/-- Whether an access is a strand's data access, which needs a resident, pinned leaf (R188). -/
def XKind.strandData : XKind → Bool
  | .fetch => false
  | .engine => false
  | _ => true

/-- The checks of R183 at a sound leaf, in order: 0 when the access may proceed. -/
def leafFault (s : State) (q : XReq) (e level : Nat) : Nat :=
  let t := leafType e
  if outsideContext s q.ctx e level then faultTARGET
  else if targetRule q.kind t ≠ 0 then targetRule q.kind t
  else if t = 4 ∧ !(s.partOf (s.ctxOf q.ctx).part).reach.contains (bitsOf e 16 9) then faultUNREACH
  else if (bitsOf e 5 1 = 0 ∨ t = 3) ∧ !q.sysm then faultSYSPAGE
  else if (q.rd ∧ bitsOf e 2 1 = 0) ∨ (q.wr ∧ bitsOf e 3 1 = 0) ∨ (q.kind = .fetch ∧ bitsOf e 4 1 = 0) then
    faultPERM
  else if bitsOf e 6 1 = 0 then faultNOTRES
  else if q.kind.strandData ∧ bitsOf e 7 1 = 0 then faultNOTPIN
  else 0

/-- A walker sets A, and D for a write, in the entry that keeps them, and caches the leaf (R186). -/
def setAD (q : XReq) (va e level ad : Nat) : Act Unit := do
  let s ← get
  let e' := s.hbmNat ad 8 ||| 2048 ||| (if q.wr then 4096 else 0)
  if e' ≠ s.hbmNat ad 8 then set (s.putHbm ad 8 e')
  (q.path s.me.core).1.forM fun c => cacheEntry
    { cache := c, ctx := q.ctx, va := va - va % entrySpan e level, level := level, addr := ad
      entry := withADOf (groupFirst e va) e' }

/-- One walk with the checks at its leaf. -/
def tryWalk (q : XReq) (va : Nat) (fresh : Bool) : Act (Walk × Nat) := do
  let s ← get
  let w ← walkFrom q.ctx va (q.path s.me.core).2 fresh 4 (s.ctxOf q.ctx).root
  match w with
  | .bad k l => pure (.bad k l, k)
  | .leaf e l own ad => pure (.leaf e l own ad, leafFault s q e l)

/-- The leaf that a TLB on the way of a request holds for an address, as a walk would give it. -/
def State.tlbLeaf (s : State) (q : XReq) (va : Nat) : Option Walk :=
  (q.path s.me.core).1.findSome? fun c =>
    (s.mem.tlb.find? fun x => x.cache == c && x.maps q.ctx va).map fun x =>
      .leaf (groupMember x.entry va) x.level x.addr x.addr

/-- Whether a walk leads to a cached leaf, with its A and D set still. -/
def Walk.findsLeaf : Walk → Walk → Bool
  | .leaf e l _ a, .leaf c l' _ a' =>
    decide (withADOf e 0 = withADOf c 0 ∧ l = l' ∧ a = a') && (bitsOf e 11 2 &&& bitsOf c 11 2) == bitsOf c 11 2
  | _, _ => false

/-- A lookup (R185–R187): a leaf that a TLB holds, or a walk. Where a walk would find another leaf, or none, either may be used;
whether the leaf that is used was cached. -/
def lookupLeaf (q : XReq) (va : Nat) : Act (Walk × Nat × Bool) := do
  let s ← get
  let walked : Act (Walk × Nat × Bool) := do
    let (w, k) ← tryWalk q va false
    pure (w, k, false)
  match s.tlbLeaf q va with
  | some (.leaf e l own ad) =>
    let cached : Walk × Nat × Bool := (.leaf e l own ad, leafFault s q e l, true)
    let fresh : Bool := match tryWalk q va true s with
      | .ok (w, _) _ => w.findsLeaf (.leaf e l own ad)
      | .error _ _ => false
    if fresh then pure cached
    else if ← drawBit then pure cached
    else walked
  | _ => walked

/-- The answer of the peer chip for an access that a PEER leaf sends there (R181). -/
def peerAnswer (q : XReq) (l : Leaf) (va : Nat) : Act XRes := do
  let s ← get
  let k := (q.wr.toNat + 2 * q.rd.toNat : Nat)
  match l.pa.space with
  | .peer chip _ =>
    let f := Config.peerFault chip q.ctx va k s.free
    set { s with free := s.free + 1 }
    if f = 0 then pure (.ok l)
    else pure (.fail f.toNat (Config.peerLevel chip q.ctx va k s.free).toNat true)
  | _ => pure (.ok l)

/-- Translates an address (R182–R187). A permission, residency or pin failure, and a write that meets a leaf
without D, are settled by a fresh walk. A walk caches its leaf and sets A and D only for an access that passes R183's checks (log 117). -/
def translate (q : XReq) (va : Nat) : Act XRes := do
  if va / 2 ^ 57 ≠ 0 then pure (.fail faultNONCANON 7 false)
  else
    let (w, k, cached) ← lookupLeaf q va
    let again : Bool := match w with
      | .bad _ _ => false
      | .leaf e _ _ _ => decide (k = faultPERM ∨ k = faultNOTRES ∨ k = faultNOTPIN)
          || (q.wr && decide (bitsOf e 12 1 = 0))
    let (w, k) ← if again then tryWalk q va true else pure (w, k)
    match w with
    | .bad kind level => pure (.fail kind level false)
    | .leaf e level own ad =>
      if k ≠ 0 then pure (.fail k level false)
      else do
        let s ← get
        -- a walk's compare-and-swap against the entry that it read
        if (again || !cached) && s.hbmNat own 8 % 2 ^ 11 == e % 2 ^ 11 then setAD q va e level ad
        let l : Leaf := { entry := e, level := level, pa := leafAddr s q.ctx va e level }
        peerAnswer q l va

/-! ## Watch filters -/

/-- Whether filter `n` of a ply watches a byte of a context for an access (R192). -/
def filterHits (m : Mem) (ply ctx : Nat) (acc : Acc) (x n : Nat) : Bool :=
  let r (i : Nat) : Nat := (FMap.get 0 m.watch (12 * ply + 3 * n + i)).toNat
  let ctl := r 1
  let count := if bitsOf ctl 0 24 = 0 then 2 ^ 24 else bitsOf ctl 0 24
  let kind := match acc with | .load => 40 | .store => 41 | .atomic => 42 | .fetch => 43 | .tag => 43
  decide (bitsOf ctl 63 1 = 1 ∧ bitsOf ctl 24 16 = ctx ∧ kind < 43 ∧ bitsOf ctl kind 1 = 1)
    && decide (r 0 ≤ x ∧ x < r 0 + 64 * count) && decide (bitsOf (r 2) (x % 64) 1 = 1)

/-- The first true hit among bytes, in their order: the byte and the filter. -/
def watchHit (m : Mem) (ply ctx : Nat) (acc : Acc) : List Nat → Option (Nat × Nat)
  | [] => none
  | x :: xs =>
    match [0, 1, 2, 3].find? (filterHits m ply ctx acc x) with
    | some n => some (x, n)
    | none => watchHit m ply ctx acc xs

/-- The WATCH syndrome (R192). -/
def watchInfo (n : Nat) (acc : Acc) : Word := BitVec.ofNat 64 (n + 4 * acc.code)

end Sys2Proof.Machine
end

