-- ==== Sys2Proof/Machine/Access.lean ====
section
/-!
DEFINITION. Access to memory: tags and action tables (R240–R257), units and parking (R245–R251), what a unit does
at its memory (R194, R345, R353), uncorrectable errors (R391), wakes (R354) and the race trace (R368).
-/

namespace Sys2Proof.Machine

/-! ## Keys -/

/-- Whether a memory holds tags (R240). -/
def Space.tagged : Space → Bool
  | .ls _ => true
  | .pool _ => true
  | _ => false

/-- The key of a physical address's word, block and region. -/
def PAddr.word (p : PAddr) : Nat := p.key / 8
def PAddr.block (p : PAddr) : Nat := p.key / 64
def PAddr.region (p : PAddr) : Nat := p.key / 4096

/-- The key of a table entry, and of a table's vector and owner, and of a redirect base. -/
def tableKey (sp : Space) (t e : Nat) : Nat := (sp.index * 8 + t) * 128 + e
def slotKey (sp : Space) (t : Nat) : Nat := sp.index * 8 + t

/-- The code of an access kind (R242). -/
def AKind.code : AKind → Nat
  | .ld => 0 | .st => 1 | .amo => 2 | .rld => 3 | .rst => 4 | .erd => 5 | .ewr => 6 | .stk => 7

/-- Whether a strand on a core is local to a memory (R242). -/
def Space.localTo (sp : Space) (core : Nat) : Bool :=
  match sp with
  | .ls c => c == core
  | .pool p => p == corePly core
  | _ => false

/-- The access kind of a strand's load, store or atomic (R242). -/
def strandKind (sp : Space) (core : Nat) (acc : Acc) : AKind :=
  if sp.localTo core then (match acc with | .store => .st | .atomic => .amo | _ => .ld)
  else (match acc with | .store => .rst | .atomic => .rst | _ => .rld)

/-- The die of the home port of a physical address (R361, R15). HBM stack `s` holds 56 GiB: log 9. -/
def PAddr.die (p : PAddr) : Nat :=
  match p.space with
  | .hbm => p.off / (56 * 2 ^ 30) / 2
  | .ls c => coreDie c
  | .pool y => y / 20
  | .dsm d => d
  | _ => 0

/-- The home port of a physical address, by a number of its own (R361): each HBM stack has one (log 9). -/
def PAddr.port (p : PAddr) : Nat :=
  match p.space with
  | .hbm => 8 * (p.off / (56 * 2 ^ 30))
  | _ => p.space.index

/-- Word offsets within the block that bytes touch, ascending. -/
def wordsOf (offs : List Nat) : List Nat := (List.range 8).filter fun w => offs.any fun o => o / 8 == w

/-- Keys of the words that a unit touches. -/
def AccessUnit.words (u : AccessUnit) : List Nat := (wordsOf u.offs).map fun w => 8 * u.pa.block + w

/-! ## The lookup (R245) -/

/-- What a lookup decides. `pass` lists the tags that RETSET writes. -/
inductive Verdict where
  | pass (sets : List (Nat × BitVec 4))
  | waits
  | redir (sel : Nat) (syn : Nat)
  | trap (syn : Nat)
  | mix (syn : Nat)
  deriving DecidableEq, Repr

/-- The class of an entry, 5–7 read as TRAP (R243). -/
def entryClass (e : Nat) : Nat := if bitsOf e 13 3 ≥ 4 then 4 else bitsOf e 13 3

/-- The selected table of a region (R240). -/
def Mem.selectOf (m : Mem) (p : PAddr) : Nat := (FMap.get 0 m.selects p.region).toNat

/-- The entry that governs a word for an access kind (R243); table 0 is RET. -/
def Mem.entryOf (m : Mem) (sp : Space) (t : Nat) (kind : AKind) (word : Nat) : Nat :=
  if t = 0 then 0
  else (FMap.get 0 m.tables (tableKey sp t (16 * kind.code + (FMap.get 0 m.tags word).toNat))).toNat

/-- The syndrome of a tag trap without TAGMIX's words (R255). -/
def tagSyn (m : Mem) (u : AccessUnit) (t w e : Nat) : Nat :=
  16 * u.kind.code + (FMap.get 0 m.tags w).toNat + 128 * natOf (decide (bitsOf e 13 3 > 4)) + 256 * bitsOf e 0 6
    + 2 ^ 14 * natOf u.redirected + 2 ^ 15 * natOf (match u.pa.space with | .pool _ => true | _ => false)
    + 2 ^ 16 * t

/-- LookupUnit (R245). -/
def lookupUnit (m : Mem) (u : AccessUnit) : Verdict :=
  if !u.pa.space.tagged then .pass []
  else
    let t := m.selectOf u.pa
    let ws := u.words
    let ent (w : Nat) := m.entryOf u.pa.space t u.kind w
    match ws with
    | [] => .pass []
    | w0 :: _ =>
      let e0 := ent w0
      let syn := tagSyn m u t w0 e0
      if ws.all fun w => decide (entryClass (ent w) ≤ 1) then
        .pass ((ws.filter fun w => entryClass (ent w) == 1).map fun w => (w, BitVec.ofNat 4 (bitsOf (ent w) 9 4)))
      else
        match ws.find? (fun w => entryClass (ent w) != entryClass e0) with
        | some w => .mix (syn + 2 ^ 24 * (w % 8) + 2 ^ 28 * (w0 % 8))
        | none =>
          if entryClass e0 = 3 then
            match ws.find? (fun w => bitsOf (ent w) 6 3 != bitsOf e0 6 3) with
            | some w => .mix (syn + 2 ^ 24 * (w % 8) + 2 ^ 28 * (w0 % 8))
            | none => .redir (bitsOf e0 6 3) syn
          else if entryClass e0 = 2 then .waits
          else .trap syn

/-! ## What a unit does -/

/-- The new value of an `amo` (R345); 32-bit forms act on the low 32 bits. -/
def amoNew (sub : BitVec 5) (old b : Word) : Word :=
  if sub = 0x09#5 then (add32 (old.extractLsb' 0 32) (b.extractLsb' 0 32)).setWidth 64
  else
    let w : Nat := if sub.getLsbD 4 then 32 else 64
    let x := old.toNat % 2 ^ w
    let y := b.toNat % 2 ^ w
    let sx : Int := if x < 2 ^ (w - 1) then x else (x : Int) - 2 ^ w
    let sy : Int := if y < 2 ^ (w - 1) then y else (y : Int) - 2 ^ w
    BitVec.ofNat 64 (match (sub.extractLsb' 0 4).toNat with
      | 0 => (x + y) % 2 ^ w
      | 1 => x &&& y
      | 2 => x ||| y
      | 3 => x ^^^ y
      | 4 => if sy < sx then y else x
      | 5 => if sx < sy then y else x
      | 6 => if y < x then y else x
      | 7 => if x < y then y else x
      | _ => y)

/-- Bytes of an `amo` (R345). -/
def amoSize (sub : BitVec 5) : Nat := if sub.getLsbD 4 ∨ sub = 0x09#5 then 4 else 8

/-- Writes bytes at offsets of a block. -/
def Mem.putAt (m : Mem) (block : Nat) (data : List (Nat × Byte)) : Mem :=
  { m with bytes := data.foldl (fun b x => FMap.set Mem.byte0 b (64 * block + x.1) x.2) m.bytes }

/-- The bytes of a unit that reducing combines write, element by element (R327). -/
def reduceData (m : Mem) (block code : Nat) : Nat → List (Nat × Byte) → List (Nat × Byte) × Flags
  | 0, _ => ([], 0)
  | n + 1, data =>
    match data with
    | [] => ([], 0)
    | (o, b) :: t =>
      let z := reduceSize code
      let src := ofLE (b :: (t.take (z - 1)).map (·.2))
      let (x, fl) := combine code (ofLE (m.bytesAt (64 * block + o) z)) src
      let (r, fl') := reduceData m block code n (t.drop (z - 1))
      ((indices o (toLE z x)) ++ r, fl ||| fl')
where
  indices (o : Nat) : List Byte → List (Nat × Byte)
    | [] => []
    | b :: t => (o, b) :: indices (o + 1) t

/-- Bytes with their offsets from `o`. -/
def withOffsets (o : Nat) (bs : List Byte) : List (Nat × Byte) := reduceData.indices o bs

/-- Writes a block's descriptor: its reserved bits 47:40 are stored as zero (R200). -/
def Mem.setDesc (m : Mem) (block : Nat) (desc : BitVec 48) : Mem :=
  { m with descs := FMap.set Mem.desc0 m.descs block (desc &&& 0xFFFFFFFFFF#48) }

/-- The memories whose blocks have descriptors (R193), here or at a peer chip: the targets of a reducing copy too (R327). -/
def Space.described (sp : Space) : Bool :=
  match sp with
  | .hbm => true
  | .ls _ => true
  | .pool _ => true
  | .peer _ _ => true
  | _ => false

/-- Whether a unit must stand in such a memory: a reducing copy's (R327), and the pair of `ncas` (R45), which is not in die service memory
(log 97). -/
def UnitAct.needsDescribed : UnitAct → Bool
  | .reduce _ _ _ => true
  | .look => true
  | _ => false

/-- The data effect of a unit (R194, R203, R345): memory, answer, and the byte offsets written. -/
def applyAct (m : Mem) (u : AccessUnit) : Mem × UnitRes × List Nat :=
  let bk := u.pa.block
  let none48 : BitVec 48 := Mem.desc0
  match u.act with
  | .read => (m, { bytes := u.offs.map fun o => FMap.get Mem.byte0 m.bytes (64 * bk + o), desc := none48, flags := 0 }, [])
  | .readBlock =>
    (m, { bytes := m.bytesAt (64 * bk) 64, desc := FMap.get Mem.desc0 m.descs bk, flags := 0 }, [])
  | .write data => (m.putAt bk data, { bytes := [], desc := none48, flags := 0 }, data.map (·.1))
  | .writeBlock data desc =>
    let m := m.putAt bk (withOffsets 0 data)
    (if u.pa.space.described then m.setDesc bk desc else m,
     { bytes := [], desc := none48, flags := 0 }, List.range 64)
  | .amo off sub b =>
    let n := amoSize sub
    let old := ofLE (m.bytesAt (64 * bk + off) n)
    let new := amoNew sub (BitVec.ofNat 64 old) b
    (m.putAt bk (withOffsets off (toLE n new.toNat)), { bytes := toLE n old, desc := none48, flags := 0 },
     (List.range n).map (off + ·))
  | .cas off n expected new =>
    let old := ofLE (m.bytesAt (64 * bk + off) n)
    let res : UnitRes := { bytes := toLE n old, desc := none48, flags := 0 }
    if old = expected.toNat % 2 ^ (8 * n) then
      (m.putAt bk (withOffsets off (toLE n new.toNat)), res, (List.range n).map (off + ·))
    else (m, res, [])
  | .wwait off gb =>
    let old := ofLE (m.bytesAt (64 * bk + off) 8)
    let cap := match u.pa.space with | .ls _ => 64 | _ => 256
    let here := m.waiters.filter fun w => w.pa.space = u.pa.space
    match u.who with
    | .strand core slot =>
      if !u.pa.space.tagged then (m, { bytes := [1#8], desc := none48, flags := 0 }, [])
      else if old ≠ gb.toNat then (m, { bytes := [0#8], desc := none48, flags := 0 }, [])
      else if cap ≤ here.length then (m, { bytes := [1#8], desc := none48, flags := 0 }, [])
      else
        ({ m with waiters := m.waiters ++ [{ core := core, slot := slot, pa := u.pa, gb := gb }] },
         { bytes := [3#8], desc := none48, flags := 0 }, [])
    | _ => (m, { bytes := [0#8], desc := none48, flags := 0 }, [])
  | .land data desc _ =>
    let m := m.putAt bk data
    (if u.pa.space.described then m.setDesc bk desc else m,
     { bytes := [], desc := none48, flags := 0 }, data.map (·.1))
  | .reduce code data _ =>
    let (d, fl) := reduceData m bk code 64 data
    (m.putAt bk d, { bytes := [], desc := none48, flags := fl }, d.map (·.1))
  | .look => (m, { bytes := [], desc := none48, flags := 0 }, [])

/-- The tags a unit leaves: the landing tag in place of RETSET's (R264). -/
def landingTags (u : AccessUnit) (sets : List (Nat × BitVec 4)) : List (Nat × BitVec 4) :=
  match u.act with
  | .land _ _ (some t) => if u.pa.space.tagged then u.words.map fun w => (w, t) else []
  | .reduce _ _ (some t) => if u.pa.space.tagged then u.words.map fun w => (w, t) else []
  | _ => sets

/-- A wake of a strand with its reason (R354). A `wwait` that registered when its parked unit was performed finds the reason
as its answer. -/
def Strand.wake (t : Strand) (reason : Nat) : Strand :=
  if t.wait = .wwait then { t with wait := .woken reason }
  else { t with unitLog := t.unitLog.map fun r => if r.bytes = [3#8] then { r with bytes := [BitVec.ofNat 8 reason] } else r }

/-- Stores to the wake word of a queue reach the front end (R76), which acts on each in its turn: on the whole word as it stands after
the store, so that a store of other bytes of it reaches it with the RESUME bit that stands there (log 95). -/
def State.noteWakes (s : State) (words : List Nat) : State :=
  let hit (q : Queue) : Bool := decide (q.state ≠ .none ∧ q.state ≠ .closed) && words.contains q.wakeKey
  let note (q : Queue) : Queue :=
    if hit q then { q with wakes := q.wakes ++ [BitVec.ofNat 64 (ofLE (s.mem.bytesAt (8 * q.wakeKey) 8))] } else q
  if s.hub.queues.any (fun x => hit x.2) then
    s.setHub fun h => { h with queues := h.queues.map fun x => (x.1, note x.2) }
  else s

/-- Wakes every waiter on the words written (R354). -/
def State.wakeWords (s : State) (words : List Nat) : State :=
  let s := s.noteWakes words
  let hit := s.mem.waiters.filter fun w => words.contains w.pa.word
  if hit.isEmpty then s
  else
    let s := { s with mem := { s.mem with waiters := s.mem.waiters.filter fun w => !words.contains w.pa.word } }
    hit.foldl (fun s w =>
      let now := ofLE (s.mem.bytesAt (8 * w.pa.word) 8)
      s.setStrand w.core w.slot fun t => t.wake (natOf (decide (now = w.gb.toNat)))) s

/-- Logs a write in the race trace ring of the home port's die (R368). A write of a peer chip's memory is logged there. -/
def State.raceLog (s : State) (u : AccessUnit) (kind : BitVec 8) (size : Nat) : State :=
  let d := u.pa.die
  let hdr := PAddr.key { space := .dsm d, off := (FMap.get 0 s.mem.ringBase (2 * d)).toNat }
  let n (o k : Nat) := ofLE (s.mem.bytesAt (hdr + o) k)
  let away : Bool := match u.pa.space with | .peer _ _ => true | _ => false
  if away ∨ n 0x0C 4 % 2 = 0 then s
  else
    let head := n 0x10 8
    let tail := n 0x18 8
    if n 0x08 4 ≤ (head + 2 ^ 64 - tail) % 2 ^ 64 then
      { s with mem := s.mem.putWords (hdr + 0x20) (toLE 8 (n 0x20 8 + 1)) }
    else
      let port := u.pa.port
      let seq := FMap.get 0 s.mem.raceSeq port
      let rec_ := PAddr.key { space := .dsm d, off := n 0 8 + 32 * (head % n 0x08 4) }
      let lg := if 2 ^ Nat.log2 size = size then Nat.log2 size else (Config.freeWord s.free).toNat % 7
      let bytes := toLE 8 s.ns.toNat ++ toLE 8 (u.va % 2 ^ 57) ++ toLE 4 (s.vcoreWord u.ctx u.core).toNat
        ++ toLE 2 u.ctx ++ toLE 1 kind.toNat ++ toLE 1 lg ++ toLE 8 seq
      { s with free := s.free + 1
               mem := { ((s.mem.putWords rec_ bytes).putWords (hdr + 0x10) (toLE 8 (head + 1))) with
                        raceSeq := FMap.set 0 s.mem.raceSeq port (seq + 1) } }

/-- Words of the unit that the bytes written cover whole. -/
def wholeWords (block : Nat) (offs : List Nat) : List Nat :=
  ((List.range 8).filter fun w => (List.range 8).all fun b => offs.contains (8 * w + b)).map (8 * block + ·)

/-- Performs a unit whose lookup passed: data, tags, descriptor, poison, wakes and trace in one step (R245). -/
def State.perform (s : State) (u : AccessUnit) (sets : List (Nat × BitVec 4)) : State × UnitRes :=
  let (m, r, offs) := applyAct s.mem u
  let tags := landingTags u sets
  let whole := wholeWords u.pa.block offs
  let m := { m with
    tags := tags.foldl (fun t x => FMap.set 0 t x.1 x.2) m.tags
    poison := whole.foldl (fun p w => FMap.set 0 p w 0) m.poison }
  let s := { s with mem := m }
  let s := s.wakeWords ((wordsOf offs).map (8 * u.pa.block + ·) ++ tags.map (·.1))
  match u.trace with
  | some k => (if offs.isEmpty then s else s.raceLog u k offs.eraseDups.length, r)
  | none => (s, r)

/-! ## Uncorrectable errors -/

/-- The `where` code of R391. -/
def Space.whereCode (sp : Space) (tagErr : Bool) : Nat :=
  match sp with
  | .ls _ => if tagErr then 1 else 0
  | .pool _ => if tagErr then 1 else 2
  | .hbm => 3
  | .dsm _ => 4
  | .peer _ _ => 7
  | _ => 7

/-- The bytes a unit writes outright, without reading them first. -/
def UnitAct.written : UnitAct → List Nat
  | .write data => data.map (·.1)
  | .writeBlock _ _ => List.range 64
  | .land data _ _ => data.map (·.1)
  | _ => []

/-- Whether no Twine path of the package is up (R431). -/
def State.noTwine (s : State) : Bool := !(s.pkg.twine.any fun p => p.2.trained)

/-- The UNCORR of a unit that meets a poisoned word, or a peer that no path reaches (R391, R392, R431). -/
def uncorrOf (s : State) (u : AccessUnit) : Option TrapInfo :=
  let whole := wholeWords u.pa.block u.act.written
  let peerDown : Bool := match u.pa.space with
    | .peer _ _ => s.noTwine
    | _ => false
  let info (w : Nat) : TrapInfo :=
    { cause := .uncorr, tinfo := BitVec.ofNat 64 (w + 256 * u.acc.code), taddr := BitVec.ofNat 64 u.va }
  if peerDown then some (info 7)
  else
    match u.words.find? (fun w => FMap.get 0 s.mem.poison w != 0 && !whole.contains w) with
    | some w => some (info (u.pa.space.whereCode (FMap.get 0 s.mem.poison w == 2)))
    | none => none

/-! ## Attempting a unit -/

/-- What an attempt at a unit gives. -/
inductive Attempt where
  | done (r : UnitRes) (tagged : List Nat)
  /-- the lookup passed, and the effect is still to come, at this unit (R45) -/
  | looked (u : AccessUnit) (sets : List (Nat × BitVec 4))
  | waits (u : AccessUnit)
  | stops (t : TrapInfo)
  /-- the memory's island is parked: its exit starts, and the access waits for it (R428) -/
  | asleep
  deriving DecidableEq, Repr

/-- A tag trap's record (R255). -/
def tagStop (c : Cause) (syn : Nat) (u : AccessUnit) : Attempt :=
  .stops { cause := c, tinfo := BitVec.ofNat 64 syn, taddr := BitVec.ofNat 64 u.va
           place := match u.who with | .op _ _ => some u.pa | _ => none }

/-- The island of a memory, if it lies in one (R428). -/
def Space.island (sp : Space) : Option Nat :=
  match sp with
  | .ls c => some (coreIsland c)
  | .pool p => some (p / 5)
  | _ => none

/-- Notes that an access of the front end, the hub or a port has met a memory whose island is not running (R428). -/
def State.meets (s : State) (sp : Space) : State :=
  match sp.island with
  | some i =>
    if FMap.get ParkState.running s.pkg.parkState i = .running ∨ s.hub.asleep.contains i then s
    else s.setHub fun h => { h with asleep := i :: h.asleep }
  | none => s

/-- Whether a memory's island is not running, and the state with its exit started (R428). -/
def State.wakeIsland (s : State) (sp : Space) : Option State :=
  match sp.island with
  | none => none
  | some i =>
    match FMap.get ParkState.running s.pkg.parkState i with
    | .running => none
    | .parked => some { s with pkg := { s.pkg with parkState := FMap.set ParkState.running s.pkg.parkState i .exiting } }
    | _ => some s

/-- What a load of the device register space answers: a free value, as the manual gives no register (log 90). -/
def deviceAnswer (u : AccessUnit) (r : UnitRes) : Act UnitRes := do
  if u.pa.space = .mmio ∧ u.act = .read then pure { r with bytes := toLE u.offs.length (← drawWord).toNat } else pure r

/-- Attempts a unit at its memory; `again` takes a redirect. -/
def attemptWith (again : Nat → Nat → Act Attempt) (u : AccessUnit) : Act Attempt := do
  match (← get).wakeIsland u.pa.space with
  | some s' => do
    set s'
    return .asleep
  | none => pure ()
  let s ← get
  match uncorrOf s u with
  | some t => pure (.stops t)
  | none =>
    match lookupUnit s.mem u with
    | .pass sets =>
      if u.act = .look then return .looked u sets
      let (s', r) := s.perform u sets
      set s'
      pure (.done (← deviceAnswer u r) ((landingTags u sets).map (·.1)))
    | .waits => pure (.waits u)
    | .trap syn => pure (tagStop .tagtrap syn u)
    | .mix syn => pure (tagStop .tagmix syn u)
    | .redir sel syn => again sel syn

/-- The translation that a unit needs. -/
def AccessUnit.req (u : AccessUnit) : XReq :=
  { ctx := u.ctx, sysm := u.sysm, kind := u.xk, via := u.via
    rd := decide (u.acc = .load ∨ u.acc = .atomic), wr := decide (u.acc = .store ∨ u.acc = .atomic) }

/-- Attempts a unit: lookup and effect at its memory, or at its redirect target (R245, R253, R254). -/
def attemptUnit (u : AccessUnit) : Act Attempt :=
  attemptWith (fun sel syn =>
    if u.redirected then pure (tagStop .redirloop syn u)
    else do
      let s ← get
      let rd := FMap.get Redirect.reset s.mem.redirects (slotKey u.pa.space sel)
      if rd.ctx ≠ some u.ctx then
        pure (.stops { cause := .prot, tinfo := protInfo faultTARGET u.acc 7 false, taddr := BitVec.ofNat 64 u.va })
      else
        let va := (rd.base.toNat + u.va % 4096) % 2 ^ 64
        match ← translate u.req va with
        | .fail k l rem =>
          pure (.stops { cause := .prot, tinfo := protInfo k u.acc l rem, taddr := BitVec.ofNat 64 va })
        | .ok leaf =>
          if u.act.needsDescribed && !leaf.pa.space.described then
            return .stops { cause := .prot, tinfo := protInfo faultTARGET u.acc leaf.level false, taddr := BitVec.ofNat 64 va }
          let trace := if bitsOf leaf.entry 9 1 = 1 ∧ (u.kind ≠ .erd ∧ u.kind ≠ .ewr) then
              u.trace.or (some (if u.xk = .vector then 3 else if u.acc = .atomic then 1 else 0)) else none
          let u' := { u with va := va, pa := leaf.pa, redirected := true, trace := trace, origin := some u.pa }
          attemptWith (fun _ syn => pure (tagStop .redirloop syn u')) u') u

/-! ## Parking and re-evaluation -/

/-- Bytes of a width code (R235). -/
def widthBytes (w : BitVec 2) : Nat := 2 ^ w.toNat

/-- Extends `n` bytes to a register. -/
def extendBytes (n x : Nat) (signed : Bool) : Word :=
  let v := BitVec.ofNat 64 x
  if signed then
    match n with
    | 1 => (v.setWidth 8).signExtend 64
    | 2 => (v.setWidth 16).signExtend 64
    | 4 => (v.setWidth 32).signExtend 64
    | _ => v
  else v

/-- Parks a unit at its memory (R249). -/
def State.park (s : State) (u : AccessUnit) : State := { s with mem := { s.mem with parked := s.mem.parked ++ [u] } }

/-- The reads of other ops that a read of an op serves, since they were combined with it (R303): op and key. -/
def State.followers (s : State) (n k : Nat) : List (Nat × Nat) :=
  s.eng.ops.flatMap fun x => (x.2.follows.filter fun f => f.2 == (n, k)).map fun f => (x.1, f.1)

/-- A piece of an op's work is no longer parked, by its key. -/
def Op.unparked (o : Op) (k : Nat) : Op :=
  { o with parked := o.parked.filter (· ≠ k), follows := o.follows.filter fun f => f.1 != k }

/-- The reads that were combined with one that does not perform are made again. -/
def State.unfollow (s : State) (n k : Nat) : State := (s.followers n k).foldl (fun s x => s.setOp x.1 fun o => o.unparked x.2) s

/-- Delivers the values of acquires: they have returned before a later access of the strand is performed (R343, R344). -/
def Strand.acquired (t : Strand) : Strand :=
  (t.outstanding.filter fun r => decide (r.wait = .acquire)).foldl Strand.deliver t

/-- A pop that waits at issue for an element may issue (R239). -/
def Strand.elementReady (t : Strand) (sg : Nat) : Strand := if t.wait = .element sg then { t with wait := .none } else t

/-- Gives a performed parked unit's answer to its strand or op (R250, R267). An element that is read returns as any later access does: the
strand's acquires have returned before it (R344). -/
def State.unitDone (s : State) (u : AccessUnit) (r : UnitRes) : State :=
  match u.who with
  | .strand core slot => s.setStrand core slot fun t =>
      if t.wait = .unit then
        { t with wait := .none, unitLog := t.unitLog ++ [r] }
      else t
  | .op n k => ((n, k) :: s.followers n k).foldl (fun s x =>
      s.setOp x.1 fun o => { o.unparked x.2 with unitLog := o.unitLog ++ [(x.2, r)] }) s
  | .mailbox => s
  | .prefetch core slot sg b k => s.setStrand core slot fun t =>
      let g := FMap.get Stream.reset t.streams sg
      if g.binding = b ∧ g.parked.contains k then
        (t.acquired.elementReady sg).setStream sg fun g =>
          { g with parked := g.parked.filter (· ≠ k)
                   fetched := g.fetched ++ [(k, extendBytes (widthBytes g.width) (ofLE r.bytes) g.signed)] }
      else t

/-- Gives what the lookup of a parked unit found to its strand, whose word goes on from there (R45). -/
def State.unitLooked (s : State) (u : AccessUnit) (sets : List (Nat × BitVec 4)) : State :=
  match u.who with
  | .strand core slot => s.setStrand core slot fun t =>
      if t.wait = .unit then { t with wait := .none, replay := { t.replay with looked := some (u, sets) } } else t
  | _ => s

/-- The key of a copy unit's write at one receiver (R321, R330). -/
def Flight.key (f : Flight) : Nat := 4 * (16 * f.unit + f.recv) + 2

/-- Whether an op is a copy: a piece of key `k` then belongs to unit `k / 64`. -/
def Op.copies (o : Op) : Bool := o.kind == .cpy || o.kind == .cpym

/-- A piece of an op's work did not perform: its flight, if it is one, is the one before which the op stops. Units after it
that are parked are withdrawn (R189, R257). -/
def State.markStop (s : State) (n key : Nat) (t : TrapInfo) : State :=
  let later (k : Nat) : Bool := (s.opOf n).copies && decide (key / 64 < k / 64)
  let gone (u : AccessUnit) : Bool := match u.who with
    | .op m k => m == n && later k
    | _ => false
  let s := { s with mem := { s.mem with parked := s.mem.parked.filter fun u => !gone u } }
  s.setOp n fun o =>
    { o with
      parked := o.parked.filter fun k => k != key && !later k
      pendingStop := some (key, t)
      flight := o.flight.map fun f => if f.key = key then { f with stopped := true } else f }

/-- Gives a parked unit's trap to its strand or op (R266, R250). -/
def State.unitStopped (s : State) (who : Parker) (t : TrapInfo) : State :=
  match who with
  | .strand core slot => s.setStrand core slot fun x =>
      if x.wait = .unit then { x with wait := .none, unitLog := [], replay := Replay.none, pendingTrap := some t }
      else x
  | .op n k => (s.unfollow n k).markStop n k t
  | .mailbox => s
  | .prefetch core slot sg b k => s.setStrand core slot fun x =>
      let g := FMap.get Stream.reset x.streams sg
      if g.binding = b ∧ g.parked.contains k then
        let y := x.setStream sg fun g => { g with parked := g.parked.filter (· ≠ k) }
        if x.wait = .element sg then { y with wait := .none, replay := Replay.none, pendingTrap := some t }
        else y.setStream sg fun g => { g with stopped := g.stopped ++ [(k, t)] }
      else x

/-- One pass over parked units that an event affects, in park-list order (R250): the words whose tags it wrote. A unit whose memory's
island is parked stays in the list until that island runs again (R428), when it is looked up afresh. -/
def sweepPass (affected : AccessUnit → Bool) : List AccessUnit → Act (List Nat)
  | [] => pure []
  | u :: us => do
    let s ← get
    if affected u && s.mem.parked.contains u then
      let out ← attemptUnit u
      let rest (s : State) : State := { s with mem := { s.mem with parked := s.mem.parked.erase u } }
      let more ← match out with
        | .asleep => pure []
        | .waits u' => do
          if u' ≠ u then modify fun s => (rest s).park u'
          pure []
        | .done r ws => do
          modify fun s => (rest s).unitDone u r
          pure ws
        | .looked u' sets => do
          modify fun s => (rest s).unitLooked u' sets
          pure []
        | .stops t => do
          modify fun s => (rest s).unitStopped u.who t
          pure []
      return more ++ (← sweepPass affected us)
    else sweepPass affected us

/-- The whole re-evaluation (R250): passes go on while a tag of a parked word was written. -/
def sweep : Nat → (AccessUnit → Bool) → Act Unit
  | 0, _ => pure ()
  | n + 1, affected => do
    let ws ← sweepPass affected (← get).mem.parked
    let s ← get
    if s.mem.parked.any fun u => u.words.any ws.contains then sweep n (fun _ => true)

/-- Re-evaluates the units that a change affects. -/
def reevaluate (affected : AccessUnit → Bool) : Act Unit := do
  let s ← get
  sweep (2 * s.mem.parked.length + 1) affected

/-- Attempts a unit and re-evaluates parked units whose tags it wrote. -/
def runUnit (u : AccessUnit) : Act Attempt := do
  let r ← attemptUnit u
  match r with
  | .done _ [] => pure r
  | .done _ ws => do
    reevaluate fun p => p.words.any ws.contains
    pure r
  | _ => pure r

/-! ## Accesses of the current strand -/

/-- A unit to access: its lowest address, the bytes it touches as offsets in the block, and its effect. -/
structure Piece where
  va : Nat
  offs : List Nat
  act : UnitAct
  deriving DecidableEq, Repr

/-- The translation that the word's next access has settled: of the same address, which a word that reads its format anew may have
changed (R229). -/
def Replay.leafAt (r : Replay) (va : Nat) : Option Leaf :=
  match r.leaves[r.leafPos]? with
  | some (a, l) => if a = va then some l else Option.none
  | .none => Option.none

/-- The leaf of the word's next access: the one that it used before it parked (R183, R187), or a translation now, which its later
accesses follow. -/
def settledLeaf (q : XReq) (va : Nat) : Act XRes := do
  let s ← get
  let r := s.me.replay
  match r.leafAt va with
  | some l =>
    modMe fun t => { t with replay := { r with leafPos := r.leafPos + 1 } }
    pure (.ok l)
  | none =>
    let x ← translate q va
    match x with
    | .ok l =>
      modMe fun t => { t with replay := { r with leaves := r.leaves.take r.leafPos ++ [(va, l)], leafPos := r.leafPos + 1
                                                 watched := min r.watched r.watchPos } }
      pure x
    | _ => pure x

/-- Translates the units of a strand access, before any effect (R226): PROT at the first that fails, then WATCH. -/
def translatePieces (xk : XKind) (acc : Acc) (rd wr : Bool) : List Piece → Act (List (Piece × Leaf))
  | [] => pure []
  | p :: ps => do
    let s ← get
    match ← settledLeaf { ctx := s.me.ctx, sysm := s.me.sysm, kind := xk, rd := rd, wr := wr } p.va with
    | .fail k l rem => trapWith .prot (protInfo k acc l rem) (BitVec.ofNat 64 p.va)
    | .ok leaf => return (p, leaf) :: (← translatePieces xk acc rd wr ps)

/-- What a unit hits of the watch filters (R192). -/
def State.pieceHit (s : State) (acc : Acc) (p : Piece) (l : Leaf) : Option (Nat × Nat) :=
  if bitsOf l.entry 8 1 = 1 then
    watchHit s.mem (corePly s.me.core) s.me.ctx acc (p.offs.map (p.va - p.va % 64 + ·))
  else none

/-- The WATCH check of translated units (R192), in their order. A unit that the filters passed before its word parked is not checked
again. -/
def watchPieces (acc : Acc) : List (Piece × Leaf) → Act Unit
  | [] => pure ()
  | (p, l) :: ps => do
    let s ← get
    let r := s.me.replay
    if r.watchPos < r.watched then
      modMe fun t => { t with replay := { r with watchPos := r.watchPos + 1 } }
      watchPieces acc ps
    else
      match s.pieceHit acc p l with
      | some (x, n) => trapWith .watch (watchInfo n acc) (BitVec.ofNat 64 x)
      | none => do
        modMe fun t => { t with replay := { r with watched := r.watched + 1, watchPos := r.watchPos + 1 } }
        watchPieces acc ps

/-- The translations that are still to be used (R187): those of units that wait at a memory, of words that wait, and of appends that are
not stored: context, address and place. -/
def State.usedLeaves (s : State) : List (Nat × Nat × PAddr) :=
  s.mem.parked.map (fun u => (u.ctx, u.va, u.pa))
  ++ s.all.flatMap fun t =>
    t.replay.leaves.map (fun x => (t.ctx, x.1, x.2.pa))
    ++ (match t.replay.looked with | some x => [(t.ctx, x.1.va, x.1.pa)] | none => [])
    ++ (match t.appends with | some a => [(t.ctx, a.va.toNat, a.leaf.pa)] | none => [])

/-- The unit of a strand's access. -/
def State.unitOf (s : State) (who : Parker) (kind : AKind) (xk : XKind) (acc : Acc) (trace : Option (BitVec 8)) (p : Piece)
    (l : Leaf) : AccessUnit :=
  { who := who, ctx := s.me.ctx, sysm := s.me.sysm, core := s.me.core, va := p.va, pa := l.pa, xk := xk, via := .core s.me.core
    kind := kind, acc := acc, offs := p.offs, act := p.act, trace := trace, redirected := false }

/-- Performs translated units in order; those in the word's log are done already. `kindOf` gives the access kind at a memory
for a strand of a core. -/
def performAs (kindOf : Space → Nat → AKind) (xk : XKind) (acc : Acc) (racek : BitVec 8) :
    List (Piece × Leaf) → Act (List UnitRes)
  | [] => pure []
  | (p, l) :: ps => do
    let s ← get
    match s.me.unitLog[s.me.unitPos]? with
    | some r => do
      modMe fun t => { t with unitPos := t.unitPos + 1 }
      return r :: (← performAs kindOf xk acc racek ps)
    | none => do
      modMe Strand.acquired
      let done (r : UnitRes) : Act Unit := modMe fun t => { t with unitLog := t.unitLog ++ [r], unitPos := t.unitPos + 1 }
      let u := s.unitOf (.strand s.me.core s.me.slot) (kindOf l.pa.space s.me.core) xk acc
        (if bitsOf l.entry 9 1 = 1 then some racek else none) p l
      match ← runUnit u with
      | .done r _ => do
        done r
        return r :: (← performAs kindOf xk acc racek ps)
      | .stops t => throw (.trap t)
      | .waits u => do
        modify fun s => s.park u
        throw (.wait .unit)
      | _ => waitIssue

/-- Performs translated units as loads, stores or atomics of the strand (R242). -/
def performPieces (xk : XKind) (acc : Acc) (racek : BitVec 8) (ps : List (Piece × Leaf)) : Act (List UnitRes) :=
  performAs (fun sp core => strandKind sp core acc) xk acc racek ps

/-- A strand's data access: every unit is translated and watched, then performed in order (R226, R245). -/
def strandAccess (xk : XKind) (acc : Acc) (racek : BitVec 8) (ps : List Piece) : Act (List UnitRes) := do
  let ls ← translatePieces xk acc (acc = .load ∨ acc = .atomic) (acc = .store ∨ acc = .atomic) ps
  watchPieces acc ls
  performPieces xk acc racek ls

/-- Offsets in its block of `n` bytes from an address. -/
def blockOffs (va n : Nat) : List Nat := (List.range n).map (va % 64 + ·)

/-- The parts of `n` bytes from an address in aligned 64-byte blocks (R245); `f` gives a part's effect from its
start within the access and its length. Addresses wrap at 2^64. -/
def splitUnits (f : Nat → Nat → UnitAct) : (fuel : Nat) → (va start n : Nat) → List Piece
  | 0, _, _, _ => []
  | k + 1, va, start, n =>
    if n = 0 then []
    else
      let len := if n ≤ 64 - va % 64 then n else 64 - va % 64
      { va := va, offs := blockOffs va len, act := f start len }
        :: splitUnits f k ((va + len) % 2 ^ 64) (start + len) (n - len)

/-- Loads `n` bytes of an aligned access that lies in one block (R145). -/
def loadOne (xk : XKind) (va n : Nat) : Act Nat := do
  let r ← strandAccess xk .load 0 [{ va := va, offs := blockOffs va n, act := .read }]
  match r with
  | x :: _ => pure (ofLE x.bytes)
  | [] => pure 0

/-- Stores `n` bytes of an aligned access that lies in one block (R145). -/
def storeOne (xk : XKind) (va n x : Nat) : Act Unit := do
  let _ ← strandAccess xk .store 0
    [{ va := va, offs := blockOffs va n, act := .write (withOffsets (va % 64) (toLE n x)) }]

/-- A misaligned address (R382). -/
def checkAlign (va size : Nat) (acc : Acc) : Act Unit :=
  if va % size ≠ 0 then trapWith .align (BitVec.ofNat 64 (512 * acc.code)) (BitVec.ofNat 64 va) else pure ()

end Sys2Proof.Machine
end

