-- ==== Sys2Proof/Machine/Operands.lean ====
section
/-!
DEFINITION. Every operand form: registers under the run rules (R137, R170–R175), stream registers (R138, R238),
guards (R116), masks (R118), widened immediates (R131); long results; and the issue of a word (R114, R128–R130,
R165, R380).
-/

namespace Sys2Proof.Machine

/-! ## Registers -/

/-- The generator bound to a register, outside handler mode (R237, R238). -/
def Strand.boundGen (t : Strand) (r : Reg) : Option Nat :=
  if t.hm ∨ r.toNat < 12 then none
  else [0, 1, 2, 3].find? fun i =>
    let g := FMap.get Stream.reset t.streams i
    g.bound && decide (12 + g.reg.toNat = r.toNat)

/-- The latest outstanding value of a stack entry (R173). -/
def lastG (e : Nat) : List LongResult → Option Word
  | [] => none
  | r :: rs => (lastG e rs).or ((r.gdests.find? fun x => x.1 == e).map (·.2))

/-- Destinations written in order: a later one to the same entry is the one that holds (R39). -/
def lastWins : List (Nat × Word) → List (Nat × Word)
  | [] => []
  | x :: xs => if xs.any fun y => y.1 == x.1 then lastWins xs else x :: lastWins xs

/-- The latest outstanding value of a vector register. -/
def lastV (v : Nat) : List LongResult → Option (List Lane)
  | [] => none
  | r :: rs => (lastV v rs).or ((r.vdests.find? fun x => x.1 == v).map (·.2))

/-- The RUNHAZ syndrome of a general register (R175). -/
def hazG (kind : Nat) (r : Reg) (entry : Nat) : Word := BitVec.ofNat 64 (kind + 256 * r.toNat + 65536 * entry)

/-- The RUNHAZ syndrome of a vector register. -/
def hazV (kind : Nat) (v : Reg) : Word := BitVec.ofNat 64 (kind + 4 + 256 * v.toNat)

/-- Whether a word would be the ninth outstanding long result: it waits at issue (R174). -/
def waitNinth : Act Unit := do
  let s ← get
  if 8 ≤ s.me.outstanding.length then waitIssue

/-- Raises RUNHAZ for the first register read, or written, whose result is outstanding, in strict mode (R175). -/
def strictG (kind : Nat) : List Reg → Act Unit
  | [] => pure ()
  | r :: rs => do
    let s ← get
    let e := entryOf s.me.cwp r
    if s.me.strict && (s.me.boundGen r).isNone && (lastG e s.me.outstanding).isSome then
      trapWith .runhaz (hazG kind r e) 0
    else strictG kind rs

/-- The same for vector registers. -/
def strictV (kind : Nat) : List Reg → Act Unit
  | [] => pure ()
  | r :: rs => do
    let s ← get
    if s.me.strict && (lastV r.toNat s.me.outstanding).isSome then trapWith .runhaz (hazV kind r) 0
    else strictV kind rs

/-- A bound register as a destination raises STREAM subcode 1 (R138). -/
def streamDest : List Reg → Act Unit
  | [] => pure ()
  | r :: rs => do
    let s ← get
    match s.me.boundGen r with
    | some i => trapWith .stream (BitVec.ofNat 64 (1 + 256 * i)) 0
    | none => streamDest rs

/-- STREAM of the operands that pop, before any element is read (R381): a write stream, or too few elements left (R238). `popped` are
the generators of the operands before. -/
def streamReads : List Reg → List Nat → Act Unit
  | [], _ => pure ()
  | r :: rs, popped => do
    let t := (← get).me
    match t.boundGen r with
    | none => streamReads rs popped
    | some i => do
      let g := FMap.get Stream.reset t.streams i
      if g.write then trapWith .stream (BitVec.ofNat 64 (3 + 256 * i)) 0
      if g.n.toNat ≤ g.p.toNat + popped.count i then trapWith .stream (BitVec.ofNat 64 (2 + 256 * i)) 0
      streamReads rs (i :: popped)

/-- The checks before a word reads anything: the ninth result, RUNHAZ, STREAM (R381). -/
def prologue (long : Bool) (gr gw vr vw : List Reg) : Act Unit := do
  if long then waitNinth
  strictG 1 gr
  strictV 1 vr
  strictG 2 gw
  strictV 2 vw
  streamDest gw
  streamReads gr []

/-- A register-file parity error raises UNCORR at the first instruction that reads it (R391). A word that is issued again has read its
operands. -/
def parityCheck (key where_ entry : Nat) : Act Unit := do
  let s ← get
  if !s.me.reissue && s.me.parity.contains key then
    trapWith .uncorr (BitVec.ofNat 64 (where_ + 65536 * entry)) 0

/-- Reads a stack entry: while its result is outstanding, the old value or the new one, and the same for every read of one word (R173). -/
def readEntry (e : Nat) : Act Word := do
  parityCheck e 5 e
  let s ← get
  let r := s.me.replay
  match r.gs.find? (fun x => x.1 == e), lastG e s.me.outstanding with
  | some x, _ => pure x.2
  | none, none => pure (FMap.get 0 s.me.stack e)
  | none, some x => do
    let y := if ← drawBit then x else FMap.get 0 s.me.stack e
    modMe fun t => { t with replay := { r with gs := r.gs ++ [(e, y)] } }
    pure y

/-- Makes a stack entry's outstanding results end with a value (R173): they stay outstanding. -/
def settleG (e : Nat) (y : Word) (rs : List LongResult) : List LongResult :=
  rs.map fun r => { r with gdests := r.gdests.map fun x => if x.1 = e then (e, y) else x }

/-- Writes a stack entry; with its result outstanding it ends with one of the two values (R173). -/
def writeEntry (e : Nat) (x : Word) : Act Unit := do
  let s ← get
  if (lastG e s.me.outstanding).isSome then
    if ← drawBit then modMe fun t => { t with outstanding := settleG e x t.outstanding }
  modMe fun t => { t with stack := FMap.set 0 t.stack e x, parity := t.parity.filter (· ≠ e) }

/-- Writes a register as a short result (R137). -/
def writeReg (r : Reg) (x : Word) : Act Unit := do
  let s ← get
  writeEntry (entryOf s.me.cwp r) x

/-- The address of element `p` of a generator (R235). -/
def Stream.addr (g : Stream) (p : BitVec 32) : Word := g.base + p.setWidth 64 * g.stride

/-- Reads an element of a generator of the current strand, as a load (R238). A unit that parks is performed by a re-evaluation, and the
element's pop waits at issue (R239). -/
def readElement (i k : Nat) (g : Stream) : Act Word := do
  let n := widthBytes g.width
  let va := (g.addr (BitVec.ofNat 32 k)).toNat
  checkAlign va n .load
  let s ← get
  let p : Piece := { va := va, offs := blockOffs va n, act := .read }
  match ← translate { ctx := s.me.ctx, sysm := s.me.sysm, kind := .scalar n, rd := true, wr := false } va with
  | .fail kind level rem => trapWith .prot (protInfo kind .load level rem) (BitVec.ofNat 64 va)
  | .ok l => do
    match s.pieceHit .load p l with
    | some (x, f) => trapWith .watch (watchInfo f .load) (BitVec.ofNat 64 x)
    | none => pure ()
    modMe Strand.acquired
    let u := s.unitOf (.prefetch s.me.core s.me.slot i g.binding k) (strandKind l.pa.space s.me.core .load) (.scalar n) .load none p l
    match ← runUnit u with
    | .done r _ => pure (extendBytes n (ofLE r.bytes) g.signed)
    | .stops t => throw (.trap t)
    | .waits u => do
      modify fun s => s.park u
      modMe fun t => t.setStream i fun g => { g with parked := g.parked ++ [k] }
      throw (.wait (.element i))
    | _ => waitIssue

/-- Pops the next element of a generator (R238, R239). -/
def popStream (i : Nat) : Act Word := do
  let s ← get
  let g := FMap.get Stream.reset s.me.streams i
  let k := g.p.toNat
  if g.write then trapWith .stream (BitVec.ofNat 64 (3 + 256 * i)) 0
  else if g.n.toNat ≤ k then trapWith .stream (BitVec.ofNat 64 (2 + 256 * i)) 0
  else if g.parked.contains k then throw (.wait (.element i))
  else do
    match g.stopped.find? (fun f => f.1 == k) with
    | some t => throw (.trap t.2)
    | none => pure ()
    let x ← match g.fetched.find? (fun f => f.1 == k) with
      | some f => pure f.2
      | none => readElement i k g
    modMe fun t =>
      { (t.setStream i fun g => { g with p := g.p + 1, fetched := g.fetched.filter fun f => decide (k < f.1) }) with
        replay := { t.replay with pops := t.replay.pops ++ [(i, k, x)] } }
    pure x

/-- A strand whose word does not pop after all: what an attempt at the word read of its streams, and what is parked, stays ready (R239). -/
def Strand.keepReads (t tried : Strand) : Strand :=
  if tried.streams = t.streams then t
  else [0, 1, 2, 3].foldl (fun u i =>
    let h := FMap.get Stream.reset tried.streams i
    u.setStream i fun g =>
      { g with fetched := (tried.replay.pops.filter fun x => x.1 == i).map (fun x => (x.2.1, x.2.2)) ++ h.fetched
               parked := h.parked, stopped := h.stopped }) t

/-- Reads a register operand: a bound one pops its stream (R138). -/
def readReg (r : Reg) : Act Word := do
  let s ← get
  match s.me.boundGen r with
  | some i => popStream i
  | none => readEntry (entryOf s.me.cwp r)

/-- Reads a register pair as 128 bits, the even register low (R22). -/
def readPair (r : Reg) : Act Name := do
  let lo ← readReg r
  let hi ← readReg (r + 1)
  pure (hi ++ lo)

/-- Reads a vector register (R127, R173). -/
def readV (r : Reg) : Act (List Lane) := do
  parityCheck (64 + r.toNat) 6 r.toNat
  let s ← get
  let q := s.me.replay
  match q.vs.find? (fun x => x.1 == r.toNat), lastV r.toNat s.me.outstanding with
  | some x, _ => pure x.2
  | none, none => pure (s.me.v r)
  | none, some x => do
    let y := if ← drawBit then x else s.me.v r
    modMe fun t => { t with replay := { q with vs := q.vs ++ [(r.toNat, y)] } }
    pure y

/-! ## Long results -/

/-- Starts a long result (R170): its values reach the stack entries and vector registers when it returns. -/
def startLong (gd : List (Nat × Word)) (vd : List (Nat × List Lane)) (w : ResultWait) : Act Unit := do
  let s ← get
  set { s with ages := s.ages + 1 }
  modMe fun t =>
    { t with outstanding := t.outstanding ++ [{ id := s.ages, gdests := lastWins gd, vdests := vd, wait := w, name := none }] }

/-- A result of a lookup of a name, by the counter of its entry: the core acknowledges a shoot-down of the name only after it has
returned (R35). -/
def startLookup (gd : List (Nat × Word)) (w : ResultWait) (name : Option Nat) : Act Unit := do
  let s ← get
  set { s with ages := s.ages + 1 }
  modMe fun t =>
    { t with outstanding := t.outstanding ++ [{ id := s.ages, gdests := lastWins gd, vdests := [], wait := w, name := name }] }

/-- What the word has settled at this point of it: what it found before it parked, or what it finds now. -/
def settled (f : Act (Nat × Nat × Word × Word)) : Act (Nat × Nat × Word × Word) := do
  let r := (← get).me.replay
  match r.answers[r.answerPos]? with
  | some x =>
    modMe fun t => { t with replay := { r with answerPos := r.answerPos + 1 } }
    pure x
  | none =>
    let x ← f
    modMe fun t => { t with replay := { t.replay with answers := r.answers ++ [x], answerPos := r.answerPos + 1 } }
    pure x

/-- The wait of a result whose access has an order and a scope: that of an acquire returns before a later access is performed; scope
strand makes every order act as rlx (R343). -/
def orderWait (order scope : Nat) : ResultWait :=
  if scope ≠ 0 ∧ (order = 1 ∨ order = 3 ∨ order = 4) then .acquire else .none

/-- The strand forgets the elements that it has read ahead: its pops are later accesses (R344). -/
def Strand.dropAhead (t : Strand) : Strand :=
  [0, 1, 2, 3].foldl (fun t i =>
    if (FMap.get Stream.reset t.streams i).fetched = [] then t else t.setStream i fun g => { g with fetched := [] }) t

/-- What follows the performance of an access whose result has this wait (R344). -/
def afterOrdered (w : ResultWait) : Act Unit := if w = .acquire then modMe Strand.dropAhead else pure ()

/-- A long result in one register, bound at issue to the stack entry it names (R137). -/
def longReg (r : Reg) (x : Word) : Act Unit := do
  let s ← get
  startLong [(entryOf s.me.cwp r, x)] [] .none

/-- The result of an access with an order, in one register (R343). -/
def orderedReg (w : ResultWait) (r : Reg) (x : Word) : Act Unit := do
  afterOrdered w
  let s ← get
  startLong [(entryOf s.me.cwp r, x)] [] w

/-- A long result in a vector register. -/
def longV (r : Reg) (x : List Lane) : Act Unit := startLong [] [(r.toNat, x)] .none

/-- A result that counts but writes no register (R263). -/
def longNone (w : ResultWait) : Act Unit := startLong [] [] w

/-! ## Guards, masks, immediates, control -/

/-- Whether an SR word's guard lets it execute (R116). Its register is read first; where it is bound and the guard is off, the word pops
nothing (R238). -/
def guardOn (g : Guard) : Act Bool :=
  if g = { reg := 0, bit := 0, sense := false } then pure true
  else do
    strictG 1 [g.reg]
    streamReads [g.reg] []
    let s ← get
    let x ← readReg g.reg
    let on : Bool := x.getLsbD g.bit.toNat != g.sense
    if !on ∧ (s.me.boundGen g.reg).isSome then
      modMe fun t => { { t with streams := s.me.streams }.keepReads t with replay := { t.replay with pops := [] } }
    pure on

/-- The lanes a mask enables (R118), as 64 bits. -/
def readMask (m : Mask) : Act Word :=
  if m.reg = 0 ∧ m.sense = false then pure (BitVec.allOnes 64)
  else do
    let x ← readReg m.reg
    pure (if m.sense then ~~~x else x)

/-- Registers a mask reads. -/
def maskRegs (m : Mask) : List Reg := if m.reg = 0 ∧ m.sense = false then [] else [m.reg]

/-- A target's immediate of `w0` bits, widened by its `xi` prefixes (R131), before extension: value and width. -/
def widen (w0 imm : Nat) (xis : List (BitVec 24)) : Nat × Nat :=
  match xis with
  | [] => (imm, w0)
  | [p] => ((p.toNat * 2 ^ w0 + imm) % 2 ^ (min 63 (w0 + 24)), min 63 (w0 + 24))
  | p :: q :: _ => (((p.toNat * 2 ^ 24 + q.toNat) * 2 ^ w0 + imm) % 2 ^ (min 63 (w0 + 48)), min 63 (w0 + 48))

/-- Extends a value of a width to 64 bits. -/
def extendTo64 (signed : Bool) (v w : Nat) : Word :=
  if signed ∧ 2 ^ (w - 1) ≤ v then BitVec.ofNat 64 (v + 2 ^ 64 - 2 ^ w) else BitVec.ofNat 64 v

/-- The 64-bit immediate of the current word (R131). -/
def immOf (signed : Bool) (w0 imm : Nat) : Act Word := do
  let s ← get
  let (v, w) := widen w0 imm s.me.pfx.xis
  pure (extendTo64 signed v w)

/-- The rounding control of the current word: its `mod` prefix or `rmode` (R204). -/
def controlNow : Act Control := do
  let s ← get
  pure (controlOf (s.me.pfx.mod.getD s.me.rmode))

/-- Sets sticky flags (R161). -/
def setFlags (f : Flags) : Act Unit := modMe fun t => { t with sflags := t.sflags ||| f }

/-! ## Issue -/

/-- What prefixes a word accepts (R129, R131), and the hints that are no targets. -/
inductive Takes where
  | plain
  /-- has an immediate: `xi` -/
  | imm
  /-- creates an engine op: `prio`, `after` -/
  | engine
  /-- a hint that is no prefix -/
  | hint
  /-- `msk`: sets the hold-off count it would otherwise lower -/
  | msk
  /-- a prefix hint, which checks its own place in the group -/
  | pre
  deriving DecidableEq, Repr

/-- The ILLOP syndrome (R134). -/
def illopInfo (sub pos : Nat) (word : Lane) : Word := BitVec.ofNat 64 (sub + 256 * (pos % 256) + 2 ^ 32 * word.toNat)

/-- Whether a word breaks its prefix group (R129, R131). -/
def Takes.breaks (k : Takes) (p : Prefix) : Bool :=
  match k with
  | .plain => !p.xis.isEmpty || p.prio.isSome || p.after.isSome
  | .imm => p.prio.isSome || p.after.isSome
  | .engine => !p.xis.isEmpty
  | .hint => decide (p.count ≠ 0)
  | .msk => decide (p.count ≠ 0)
  | .pre => false

/-- Whether a shift or single-bit word has a count of more than six bits under its prefixes: subcode 1, which comes before a breach of
its prefix group (R135, R142). -/
def wideCount (i : Instr) (p : Prefix) : Bool :=
  let wide (n : BitVec 6) : Bool := decide (64 ≤ (widen 15 n.toNat p.xis).1)
  match i with
  | .shli _ _ _ n => wide n
  | .shri _ _ _ n => wide n
  | .sari _ _ _ n => wide n
  | .bseti _ _ _ n => wide n
  | .bclri _ _ _ n => wide n
  | .binvi _ _ _ n => wide n
  | _ => false

/-- The trap of a breach at an instruction (R129, R134). -/
def breachOf (i : Instr) (p : Prefix) : TrapInfo :=
  { cause := .illop, tinfo := illopInfo (if wideCount i p then 1 else 4) p.count ((encode i).getD 0), taddr := 0 }

/-- Whether a budget that reaches zero withdraws what the strand waits for (R355, R357). -/
def Wait.withdraws : Wait → Bool
  | .wwait => true
  | .woken _ => true
  | .barrier _ _ => true
  | _ => false

/-- One cycle of a strand's budget (R103). -/
def Strand.spend (t : Strand) (n : Nat) : Strand :=
  if t.halted ∨ t.urg then t
  else
    let left := t.budget.toNat - n
    { t with budget := BitVec.ofNat 64 left
             budgetDue := t.budgetDue || (decide (left = 0) && !t.budgetTaken && !t.wait.withdraws) }

/-- Whether a strand that has issued keeps a hold-off in force (R169). -/
def State.holdOff (s : State) (core : Nat) : Bool :=
  s.all.any fun t => t.bound && t.core == core && t.mskcnt != 0

/-- Whether a strand's word has been issued and now goes on: a re-evaluation or an answer has ended its wait (R267). -/
def Strand.continues (t : Strand) : Bool := t.reissue && decide (t.wait = .none) && t.pendingTrap.isNone

/-- Whether a bound strand may issue (R165). One that is to halt stops at once (R398), but for a word whose access has been performed. -/
def State.eligible (s : State) (t : Strand) : Bool :=
  t.bound && decide (t.wait = .none) && !t.halted && (!t.haltReq || t.continues) && !(s.ctxOf t.ctx).killing
    && !(t.urg && t.issued == 0 && s.holdOff t.core)

/-- Whether a strand in this condition is parked (R162). -/
def Wait.parks : Wait → Bool
  | .marker => true
  | .passedMarker => true
  | .unit => true
  | .wwait => true
  | .woken _ => true
  | .barrier _ _ => true
  | .fetch => true
  | .kernel => true
  | _ => false

/-- `n` cycles of a core: the budgets of its bound strands fall (R103), strands that passed or waited at issue
may be tried again (R165, R168), and a greedy strand that was not eligible is greedy no longer (R167). `issued` says
whether a word issued. -/
def State.coreCycles (s : State) (core n : Nat) (issued : Bool) : State :=
  let keep (g : Option Nat) : Option Nat := g.filter fun x =>
    match s.strandAt core x with
    | some t => s.eligible t
    | none => false
  let s := s.mapAll fun t =>
    match t.place with
    | .slot c _ =>
      if c = core then
        let t := t.spend n
        let t := if t.wait.parks then { t with parkedCycles := t.parkedCycles + n } else t
        if t.wait = .passed ∨ t.wait = .issue then { t with wait := .none }
        else if t.wait = .passedMarker then { t with wait := .marker }
        else t
      else t
    | _ => t
  s.setCore core fun c =>
    if issued then { c with sissue := c.sissue + 1, greedy := keep c.greedy }
    else { c with sidle := c.sidle + BitVec.ofNat 64 n, greedy := keep c.greedy }

/-- `sidle` of a core (R420): the idle cycles of the package, and what the core counts beside them. -/
def State.sidleOf (s : State) (core : Nat) : Word := s.idles + (s.coreOf core).sidle

/-- Cycles of one core, with the device's clock. -/
def State.cycles (s : State) (core n : Nat) (issued : Bool) : State :=
  let s := s.coreCycles core n issued
  { s with time := s.time + 4 * n }

/-- The hold-off count reaches zero by decrement: MSKOVF is set (R128). -/
def Strand.holdOffEnds (t : Strand) : Strand := { t with mskcnt := 0, sflags := t.sflags ||| 0x001#9 }

/-- A word counts as issued (R162) and lowers the hold-off count (R128). -/
def Strand.countWord (t : Strand) (isMsk : Bool) : Strand :=
  let t := { t with issued := t.issued + 1 }
  if isMsk ∨ t.mskcnt = 0 then t
  else if t.mskcnt = 1 then t.holdOffEnds
  else { t with mskcnt := t.mskcnt - 1 }

/-- The core after a strand's slot issued: greedy strand and RR pointer (R167). Under RR, too, the last strand that issued is the
greedy one, should the policy turn to GTO (log 116). -/
def Core.noteIssue (c : Core) (slot : Nat) (waits : Bool) : Core :=
  if slot < 8 then { c with greedy := if waits then none else some slot, rr := slot } else c

/-- The current strand after a word, at its next address; a marked one parks while results are outstanding
(R114, R170). -/
def Strand.wordDone (t : Strand) (sw : Bool) (pc : Word) (w : Wait) : Strand :=
  { t with pc := pc, pfx := Prefix.empty, unitLog := [], unitPos := 0, replay := Replay.none, reissue := false
           wait := if sw && !t.outstanding.isEmpty then (if w = .passed then .passedMarker else .marker) else w }

/-- A word that completed (R114, R128, R166). One that is issued again took its cycle when it parked. -/
def completeWord (sw : Bool) (k : Takes) (f : Flow) (s s' : State) : State :=
  let core := s.me.core
  let slot := s.me.slot
  let again := s.me.reissue
  let t := if again then s'.me else s'.me.countWord (decide (k = .msk))
  let note (s : State) (waits : Bool) : State := if again then s else s.setCore core fun c => c.noteIssue slot waits
  match f with
  | .left =>
    let s' := if again then s' else s'.cycles core 1 true
    let s' := if s'.me.isLive then
        { s' with me := { s'.me with issued := t.issued, mskcnt := t.mskcnt, sflags := t.sflags, replay := Replay.none
                                     reissue := false } }
      else s'
    note s' true
  | .next =>
    let keep := s'.me.wait
    let s' := if again then s' else s'.cycles core 1 true
    let me := { s'.me with issued := t.issued, mskcnt := t.mskcnt, sflags := t.sflags }
    let me := if k = .pre then { me with pc := s.me.pc + 4, replay := Replay.none, reissue := false }
      else me.wordDone sw (s.me.pc + 4) keep
    note { s' with me := me } (decide (me.wait ≠ Wait.none))
  | .jump pc =>
    let s' := if again then s' else s'.cycles core 1 true
    let me := { s'.me with issued := t.issued, mskcnt := t.mskcnt, sflags := t.sflags }
    let me := me.wordDone sw pc .none
    note { s' with me := me } (decide (me.wait ≠ Wait.none))

/-- The strand without the record of a prefetch whose trap is now raised (R239): its element is read again. -/
def Strand.dropStopped (t : Strand) (i : TrapInfo) : Strand :=
  [0, 1, 2, 3].foldl (fun t k => t.setStream k fun g => { g with stopped := g.stopped.filter fun x => x.2 ≠ i }) t

/-- A word that trapped: the strand is as before it, but for units already performed (R247, R380). It takes a cycle, unless it took one when
it parked, and does not count as issued (log 110). -/
def trapWord (t : TrapInfo) (s s' : State) : State :=
  let again := s.me.reissue
  let s' := { s' with me := s.me.dropStopped t }
  let s' := (if again then s' else s'.cycles s.me.core 1 true).takeTrap t
  if again then s' else s'.setCore s.me.core fun c => c.noteIssue s.me.slot (decide (s'.me.wait ≠ .none))

/-- Whether what a word waits for is an access that it has made (R249, R239). -/
def Wait.performs : Wait → Bool
  | .unit => true
  | .element _ => true
  | _ => false

/-- Whether a word that waits in this way has issued: it has performed a unit, or is parked for a memory, a remote answer or the
strand's results. -/
def Strand.hasIssued (tried : Strand) (w : Wait) : Bool :=
  decide (w = .unit ∨ w = .remote ∨ w = .returns) || !tried.unitLog.isEmpty

/-- A word that waits: it is issued again (R165, R249), and what it has settled stays settled if it has issued. The results of acquires
have returned before its units (R343). -/
def waitWord (w : Wait) (s s' : State) : State :=
  let parked := s'.me.hasIssued w
  let first := parked && !s.me.reissue
  let t := if first then s.me.countWord false else s.me
  let t := if w.performs ∨ !s'.me.unitLog.isEmpty then t.acquired else t
  let me := { t with
    wait := w, unitLog := s'.me.unitLog, unitPos := 0, reissue := t.reissue || parked
    replay := if parked then s'.me.replay.again else t.replay }
  let me := me.keepReads s'.me
  let s' := { s' with me := s.me }
  let s' := if first then s'.cycles s.me.core 1 true else s'
  ({ s' with me := { me with budget := s'.me.budget, budgetDue := s'.me.budgetDue } }).setCore s.me.core fun c =>
    if first then c.noteIssue s.me.slot true
    else if s.me.slot < 8 then { c with greedy := if c.greedy = some s.me.slot then none else c.greedy } else c

/-- The issue of a word by the current strand: prefix check, effect, and what follows it (R114, R129, R166). -/
def issue (i : Instr) (sw : Bool) (k : Takes) (body : Act Flow) (s : State) :
    Host.Outcome State Fault Refusal :=
  if k.breaks s.me.pfx then .next (trapWord (breachOf i s.me.pfx) s s)
  else
    match body s with
    | .ok f s' => .next (completeWord sw k f s s')
    | .error (.trap t) s' => .next (trapWord t s s')
    | .error (.wait w) s' => .next (waitWord w s s')
    | .error (.fault f) _ => .fault f

end Sys2Proof.Machine
end

