-- ==== Sys2Proof/Machine/Front.lean ====
section
/-!
DEFINITION. Memory as the front end and the ports reach it: by virtual address through a context, without a tag lookup
(R242 gives these accesses no kind: log 13).
-/

namespace Sys2Proof.Machine

/-- The physical address that the front end reaches, if the context maps it with the needed permission and the page is
resident (R90); the translation sets A and D (R186). Where it lies in a parked island, the step under way notes it and is made again once
the island's exit is complete (R428; log 44). -/
def State.vtranslate (s : State) (ctx va : Nat) (write : Bool) : Option (PAddr × State) :=
  match translate { ctx := ctx, sysm := true, kind := .engine, rd := !write, wr := write, via := .none } va s with
  | .ok (.ok l) s' => some (l.pa, s'.meets l.pa.space)
  | _ => none

/-- The fault kind and level of such an access; 0 when it succeeds. -/
def State.vfault (s : State) (ctx va : Nat) (write : Bool) : Nat :=
  match translate { ctx := ctx, sysm := true, kind := .engine, rd := !write, wr := write, via := .none } va s with
  | .ok (.fail k _ _) _ => k
  | _ => 0

/-- The 64-byte pieces of a range: address and length. -/
def pieces64 : (fuel : Nat) → (va n : Nat) → List (Nat × Nat)
  | 0, _, _ => []
  | k + 1, va, n =>
    if n = 0 then []
    else
      let len := min n (64 - va % 64)
      (va, len) :: pieces64 k ((va + len) % 2 ^ 64) (n - len)

/-- Reads a range through a context; none where a page is not mapped or not resident. -/
def State.vread (s : State) (ctx va n : Nat) : Option (List Byte × State) :=
  (pieces64 (n / 64 + 2) va n).foldl (fun acc p =>
    match acc with
    | none => none
    | some (bs, s) =>
      match s.vtranslate ctx p.1 false with
      | none => none
      | some (pa, s) => some (bs ++ s.mem.bytesAt pa.key p.2, s)) (some ([], s))

/-- Reads a little-endian number through a context. -/
def State.vreadNat (s : State) (ctx va n : Nat) : Option (Nat × State) :=
  (s.vread ctx va n).map fun r => (ofLE r.1, r.2)

/-- Writes bytes at a physical address as one store: poison of whole words is cleared (R392) and waiters on the words
wake (R354). -/
def State.storeAt (s : State) (pa : PAddr) (bs : List Byte) : State :=
  let words := ((List.range bs.length).map fun i => (pa.key + i) / 8).eraseDups
  { s with mem := s.mem.putWords pa.key bs }.wakeWords words

/-- Writes a range through a context; none where a page does not translate, and then nothing is written from there. -/
def State.vwrite (s : State) (ctx va : Nat) (bs : List Byte) : Option State :=
  ((pieces64 (bs.length / 64 + 2) va bs.length).foldl (fun acc p =>
    match acc with
    | none => none
    | some (rest, s) =>
      match s.vtranslate ctx p.1 true with
      | none => none
      | some (pa, s) => some (rest.drop p.2, s.storeAt pa (rest.take p.2))) (some (bs, s))).map (·.2)

/-- Writes a number through a context, where it translates (log 101). -/
def State.vput (s : State) (ctx va n x : Nat) : State := (s.vwrite ctx va (toLE n x)).getD s

/-- Reads a number through a context; 0 where it does not translate. The spec does not say what the front end does while the page of a
queue's descriptor is not resident: it reads 0 there, and what it writes there is lost (log 101). -/
def State.vget (s : State) (ctx va n : Nat) : Nat := ((s.vreadNat ctx va n).map (·.1)).getD 0

/-- Whether the page of an address is mapped and not resident: the front end waits until it is (R90; log 101). -/
def State.pagedOut (s : State) (ctx va : Nat) : Bool := s.vfault ctx va true == faultNOTRES

/-- The first page of a range whose translation fails: fault kind and address (R90). A page that is merely not resident
is no failure. -/
def State.vcheck (s : State) (ctx va n : Nat) (write : Bool) : Option (Nat × Nat) :=
  let pages := (va + n + 4095) / 4096 - va / 4096
  (List.range pages).findSome? fun k =>
    let a := if k = 0 then va else 4096 * (va / 4096 + k)
    let f := if 2 ^ 57 ≤ a then faultNONCANON else s.vfault ctx a write
    if f = 0 ∨ f = faultNOTRES then none else some (f, a)

end Sys2Proof.Machine
end

