-- ==== Sys2Proof/Machine/ScalarMem.lean ====
section
/-!
DEFINITION. Scalar loads, stores and atomics (07_scalar_and_control.md R144–R147, 18_synchronisation.md R345–R347).
Every access is performed whole, in step order (log 7); an acquire's value returns before a later access is performed (R343).
-/

namespace Sys2Proof.Machine

/-! ## Shared forms -/

/-- The effective address gB + Sext(off) × unit (R145), the offset widened by its prefixes (R131). -/
def offsetAddr (base : Word) (w0 off unit : Nat) : Act Word := do
  let o ← immOf true w0 off
  pure (base + o * BitVec.ofNat 64 unit)

/-- The rest of a load after its address (R145). -/
def loadTo (xk : XKind) (w : ResultWait) (d : Reg) (ea : Word) (n : Nat) (signed : Bool) : Act Flow := do
  checkAlign ea.toNat n .load
  let x ← loadOne xk ea.toNat n
  orderedReg w d (extendBytes n x signed)
  pure .next

/-- A load with an offset in units of its size. -/
def loadForm (xk : XKind) (w : ResultWait) (d b : Reg) (w0 off n : Nat) (signed : Bool) : Act Flow := do
  prologue true [b] [d] [] []
  let ea ← offsetAddr (← readReg b) w0 off n
  loadTo xk w d ea n signed

/-- A store with an offset in units of its size; the stored register is read first (R238). -/
def storeForm (xk : XKind) (t b : Reg) (w0 off n : Nat) : Act Flow := do
  prologue false [t, b] [] [] []
  let x ← readReg t
  let ea ← offsetAddr (← readReg b) w0 off n
  checkAlign ea.toNat n .store
  storeOne xk ea.toNat n x.toNat
  pure .next

/-- The second register of a pair. -/
def pairOf (r : Reg) : Reg := r + 1

/-- The address of an indexed access (R146). -/
def indexedAddr (b x : Reg) (h : BitVec 3) : Act Word := do
  let base ← readReg b
  let ix ← readReg x
  pure (base + (ix <<< h.toNat))

/-- One atomic unit (R346): the bytes that the location held. -/
def atomicAccess (ea : Word) (n : Nat) (act : UnitAct) : Act Nat := do
  checkAlign ea.toNat n .atomic
  let r ← strandAccess .atomic .atomic 1 [{ va := ea.toNat, offs := blockOffs ea.toNat n, act := act }]
  match r with
  | x :: _ => pure (ofLE x.bytes)
  | [] => pure 0

/-! ## Loads and stores -/

/-- R144, R145. -/
def execLdB (sw : Bool) (t b : Reg) (o : BitVec 15) (s : State) : Host.Outcome State Fault Refusal :=
  issue (.ldB sw t b o) sw .imm (loadForm (.scalar 1) .none t b 15 o.toNat 1 false) s

/-- R144, R145. -/
def execLdBs (sw : Bool) (t b : Reg) (o : BitVec 15) (s : State) : Host.Outcome State Fault Refusal :=
  issue (.ldBs sw t b o) sw .imm (loadForm (.scalar 1) .none t b 15 o.toNat 1 true) s

/-- R144, R145. -/
def execLdH (sw : Bool) (t b : Reg) (o : BitVec 15) (s : State) : Host.Outcome State Fault Refusal :=
  issue (.ldH sw t b o) sw .imm (loadForm (.scalar 2) .none t b 15 o.toNat 2 false) s

/-- R144, R145. -/
def execLdHs (sw : Bool) (t b : Reg) (o : BitVec 15) (s : State) : Host.Outcome State Fault Refusal :=
  issue (.ldHs sw t b o) sw .imm (loadForm (.scalar 2) .none t b 15 o.toNat 2 true) s

/-- R144, R145. -/
def execLdW (sw : Bool) (t b : Reg) (o : BitVec 15) (s : State) : Host.Outcome State Fault Refusal :=
  issue (.ldW sw t b o) sw .imm (loadForm (.scalar 4) .none t b 15 o.toNat 4 false) s

/-- R144, R145. -/
def execLdWs (sw : Bool) (t b : Reg) (o : BitVec 15) (s : State) : Host.Outcome State Fault Refusal :=
  issue (.ldWs sw t b o) sw .imm (loadForm (.scalar 4) .none t b 15 o.toNat 4 true) s

/-- R144, R145. -/
def execLdD (sw : Bool) (t b : Reg) (o : BitVec 15) (s : State) : Host.Outcome State Fault Refusal :=
  issue (.ldD sw t b o) sw .imm (loadForm (.scalar 8) .none t b 15 o.toNat 8 false) s

/-- R144, R145: 16 bytes as one unit, counted once (R174). -/
def execLdp (sw : Bool) (t b : Reg) (o : BitVec 15) (s : State) : Host.Outcome State Fault Refusal :=
  issue (.ldp sw t b o) sw .imm (do
    prologue true [b] [t, pairOf t] [] []
    let ea ← offsetAddr (← readReg b) 15 o.toNat 16
    checkAlign ea.toNat 16 .load
    let x ← loadOne (.scalar 16) ea.toNat 16
    let s ← get
    startLong [(entryOf s.me.cwp t, BitVec.ofNat 64 (x % 2 ^ 64)),
      (entryOf s.me.cwp (pairOf t), BitVec.ofNat 64 (x / 2 ^ 64))] [] .none
    pure .next) s

/-- R144, R145. -/
def execStB (sw : Bool) (t b : Reg) (o : BitVec 15) (s : State) : Host.Outcome State Fault Refusal :=
  issue (.stB sw t b o) sw .imm (storeForm (.scalar 1) t b 15 o.toNat 1) s

/-- R144, R145. -/
def execStH (sw : Bool) (t b : Reg) (o : BitVec 15) (s : State) : Host.Outcome State Fault Refusal :=
  issue (.stH sw t b o) sw .imm (storeForm (.scalar 2) t b 15 o.toNat 2) s

/-- R144, R145. -/
def execStW (sw : Bool) (t b : Reg) (o : BitVec 15) (s : State) : Host.Outcome State Fault Refusal :=
  issue (.stW sw t b o) sw .imm (storeForm (.scalar 4) t b 15 o.toNat 4) s

/-- R144, R145. -/
def execStD (sw : Bool) (t b : Reg) (o : BitVec 15) (s : State) : Host.Outcome State Fault Refusal :=
  issue (.stD sw t b o) sw .imm (storeForm (.scalar 8) t b 15 o.toNat 8) s

/-- R144, R145: 16 bytes as one unit. -/
def execStp (sw : Bool) (t b : Reg) (o : BitVec 15) (s : State) : Host.Outcome State Fault Refusal :=
  issue (.stp sw t b o) sw .imm (do
    prologue false [t, pairOf t, b] [] [] []
    let x ← readReg t
    let y ← readReg (pairOf t)
    let ea ← offsetAddr (← readReg b) 15 o.toNat 16
    checkAlign ea.toNat 16 .store
    storeOne (.scalar 16) ea.toNat 16 (x.toNat + 2 ^ 64 * y.toNat)
    pure .next) s

/-- R146: the size code `z` is log2 of the bytes. -/
def execLdx (sw : Bool) (t b x : Reg) (h : BitVec 3) (z : BitVec 2) (g : Bool) (s : State) :
    Host.Outcome State Fault Refusal :=
  issue (.ldx sw t b x h z g) sw .plain (do
    prologue true [b, x] [t] [] []
    let ea ← indexedAddr b x h
    loadTo (.scalar (2 ^ z.toNat)) .none t ea (2 ^ z.toNat) g) s

/-- R146. -/
def execStx (sw : Bool) (t b x : Reg) (h : BitVec 3) (z : BitVec 2) (s : State) : Host.Outcome State Fault Refusal :=
  issue (.stx sw t b x h z) sw .plain (do
    prologue false [t, b, x] [] [] []
    let v ← readReg t
    let ea ← indexedAddr b x h
    checkAlign ea.toNat (2 ^ z.toNat) .store
    storeOne (.scalar (2 ^ z.toNat)) ea.toNat (2 ^ z.toNat) v.toNat
    pure .next) s

/-! ## Ordered loads and stores (R347) -/

/-- R347: the targets of an atomic (R184). -/
def execLdAcq (sw : Bool) (t b : Reg) (c : BitVec 3) (o : BitVec 12) (s : State) : Host.Outcome State Fault Refusal :=
  issue (.ldAcq sw t b c o) sw .imm (loadForm .atomic (orderWait 1 c.toNat) t b 12 o.toNat 8 false) s

/-- R347: the targets of an atomic (R184). -/
def execStRel (sw : Bool) (t b : Reg) (c : BitVec 3) (o : BitVec 12) (s : State) : Host.Outcome State Fault Refusal :=
  issue (.stRel sw t b c o) sw .imm (storeForm .atomic t b 12 o.toNat 8) s

/-! ## Atomics (R345, R346) -/

/-- R345, R346. -/
def execAmo (sw : Bool) (t b r : Reg) (o c : BitVec 3) (u : BitVec 5) (s : State) : Host.Outcome State Fault Refusal :=
  issue (.amo sw t b r o c u) sw .plain (do
    prologue true [b, r] [t] [] []
    let ea ← readReg b
    let y ← readReg r
    let old ← atomicAccess ea (amoSize u) (.amo (ea.toNat % 64) u y)
    orderedReg (orderWait o.toNat c.toNat) t (BitVec.ofNat 64 old)
    pure .next) s

/-- R345, R346: 32 bits with `w`, else 64. -/
def execCas (sw : Bool) (t b r : Reg) (o c : BitVec 3) (w : Bool) (s : State) : Host.Outcome State Fault Refusal :=
  issue (.cas sw t b r o c w) sw .plain (do
    prologue true [t, b, r] [t] [] []
    let n : Nat := if w then 4 else 8
    let x ← readReg t
    let ea ← readReg b
    let y ← readReg r
    let old ← atomicAccess ea n (.cas (ea.toNat % 64) n (x.setWidth 128) (y.setWidth 128))
    orderedReg (orderWait o.toNat c.toNat) t (BitVec.ofNat 64 old)
    pure .next) s

/-- R345, R346: 16 bytes in register pairs, counted once (R174). -/
def execCas2 (sw : Bool) (t b r : Reg) (o c : BitVec 3) (s : State) : Host.Outcome State Fault Refusal :=
  issue (.cas2 sw t b r o c) sw .plain (do
    prologue true [t, pairOf t, b, r, pairOf r] [t, pairOf t] [] []
    let x0 ← readReg t
    let x1 ← readReg (pairOf t)
    let ea ← readReg b
    let y0 ← readReg r
    let y1 ← readReg (pairOf r)
    let old ← atomicAccess ea 16 (.cas (ea.toNat % 64) 16 (x1 ++ x0) (y1 ++ y0))
    let w := orderWait o.toNat c.toNat
    afterOrdered w
    let s ← get
    startLong [(entryOf s.me.cwp t, BitVec.ofNat 64 (old % 2 ^ 64)),
      (entryOf s.me.cwp (pairOf t), BitVec.ofNat 64 (old / 2 ^ 64))] [] w
    pure .next) s

end Sys2Proof.Machine
end

