-- ==== Sys2Proof/Machine/Names.lean ====
section
/-!
DEFINITION. Permanent names (02_permanent_names.md R22–R46): resolution, the name table and caches, shoot-downs, and
the seven name instructions.
-/

namespace Sys2Proof.Machine

/-! ## Names (R22–R28) -/

abbrev nameClass (n : Name) : BitVec 8 := n.extractLsb' 120 8
abbrev nameChip (n : Name) : Nat := (n.extractLsb' 104 16).toNat
abbrev nameSerial (n : Name) : Nat := (n.extractLsb' 64 40).toNat
abbrev nameCounter (n : Name) : Nat := (n.extractLsb' 0 64).toNat

abbrev classOP : BitVec 8 := 1
abbrev classQUEUE : BitVec 8 := 2
abbrev classSHAPE : BitVec 8 := 3
abbrev classSYNC : BitVec 8 := 4
abbrev classLAUNCH : BitVec 8 := 6
abbrev classTEAM : BitVec 8 := 7

abbrev stLIVE : Nat := 0
abbrev stDYING : Nat := 1
abbrev stGONE : Nat := 2
abbrev stNEVER : Nat := 3
abbrev stUNREACHABLE : Nat := 4
abbrev stNULL : Nat := 5
abbrev stFULL : Nat := 6
abbrev stBADCLASS : Nat := 7
abbrev stBADADDR : Nat := 8
abbrev stSATURATED : Nat := 9
abbrev stUNDERFLOW : Nat := 10
abbrev stMISMATCH : Nat := 11
abbrev stBADSHAPE : Nat := 12
abbrev stOVERLAP : Nat := 13

/-- A class that names are issued with (R23). -/
def issuable (c : BitVec 8) : Bool := decide (1 ≤ c.toNat ∧ c.toNat ≤ 7) || decide (0x40 ≤ c.toNat ∧ c.toNat ≤ 0x7F)

/-- A class that `nnew` creates (R40). -/
def creatable (c : BitVec 8) : Bool := issuable c && c != classOP && c != classLAUNCH

/-- The home die of a counter: the XOR of its low eight groups of three bits (R27). -/
def homeDie (c : Nat) : Nat :=
  [0, 3, 6, 9, 12, 15, 18, 21].foldl (fun a k => a ^^^ bitsOf c k 3) 0

/-- A name of this chip and boot. -/
def Hub.nameOf (h : Hub) (cls : BitVec 8) (c : Nat) : Name :=
  cls ++ BitVec.ofNat 16 h.chip ++ h.serial ++ BitVec.ofNat 64 c

/-- The entry of a counter. -/
def State.nameEntry (s : State) (c : Nat) : NameEntry := FMap.get NameEntry.none s.hub.names c

/-- Changes the entry of a counter. -/
def State.setName (s : State) (c : Nat) (f : NameEntry → NameEntry) : State :=
  s.setHub fun h => { h with names := FMap.set NameEntry.none h.names c (f (FMap.get NameEntry.none h.names c)) }

/-! ## Resolution (R31, R32) -/

/-- What the resolution of a name gives. -/
inductive Answer where
  /-- decided without an entry -/
  | status (st : Nat)
  /-- an entry, LIVE or DYING, by its counter -/
  | found (st : Nat) (c : Nat)
  /-- the home chip must be asked -/
  | remote
  deriving DecidableEq, Repr

/-- Resolve (R31), for a partition of this chip. -/
def State.resolve (s : State) (part : Nat) (n : Name) : Answer :=
  if n = 0 then .status stNULL
  else if !issuable (nameClass n) then .status stNEVER
  else if nameChip n > 383 then .status stNEVER
  else if nameChip n ≠ s.hub.chip then
    if (s.partOf part).reach.contains (nameChip n) then .remote else .status stUNREACHABLE
  else if nameSerial n < s.hub.serial.toNat then .status stGONE
  else if nameSerial n > s.hub.serial.toNat then .status stNEVER
  else
    let c := nameCounter n
    let e := s.nameEntry c
    if e.state ≠ .free ∧ e.cls = nameClass n ∧ e.part = part then
      .found (if e.state = .live then stLIVE else stDYING) c
    else if c < s.hub.watermark then .status stGONE
    else .status stNEVER

/-- What a word learns of a name at its home entry: status, and the entry's counter when it is on this chip; the
answer of a remote chip's address and version. -/
structure Resolved where
  st : Nat
  counter : Option Nat
  addr : Word
  version : Word
  deriving DecidableEq, Repr

/-- Resolves a name at its home entry, once for each issue of the word; for a foreign name the word waits for the answer and is issued
again (R32). -/
def resolveHome (n : Name) : Act Resolved := do
  let (st, c, addr, version) ← settled do
    let s ← get
    match s.resolve s.me.part n with
    | .status st => pure (st, 0, 0, 0)
    | .found st c => pure (st, c + 1, (s.nameEntry c).addr, (s.nameEntry c).version)
    | .remote => throw (.wait .remote)
  pure { st := st, counter := if c = 0 then none else some (c - 1), addr := addr, version := version }

/-! ## Issue, shoot-down and removal (R24–R26, R35, R37) -/

/-- Whether the home shard of a counter is full (R27). -/
def Hub.shardFull (h : Hub) (c : Nat) : Bool :=
  decide (Config.shardEntries ≤ (h.names.filter fun x => homeDie x.1 == homeDie c).length)

/-- Takes the next counter value; none when it is exhausted (R40). -/
def State.takeCounter (s : State) : Option (Nat × State) :=
  if s.hub.issueCounter = 2 ^ 64 - 1 then none
  else
    let c := s.hub.issueCounter
    some (c, s.setHub fun h => { h with issueCounter := c + 1, watermark := c + 1 })

/-- Issues a name with an entry (R40): the name, or none with FULL. -/
def State.issueName (s : State) (cls : BitVec 8) (part : Nat) (addr : Word) (op : Option Nat) :
    Option Name × State :=
  match s.takeCounter with
  | none => (none, s)
  | some (c, s) =>
    if s.hub.shardFull c then (none, s)
    else
      let e : NameEntry := { NameEntry.none with cls := cls, part := part, addr := addr, state := .live, refcount := 1, op := op }
      (some (s.hub.nameOf cls c), s.setName c fun _ => e)

/-- The enabled cores of a partition on this chip (R35). -/
def State.partCores (s : State) (p : Nat) : List Nat :=
  ((List.range 32).filter fun i => (s.partOf p).islands.getLsbD i).flatMap fun i => (List.range 80).map (80 * i + ·)

/-- Removes an entry that is DYING, shot down and unreferenced (R37). -/
def State.removeDead (s : State) (c : Nat) : State :=
  let e := s.nameEntry c
  if e.state = .dying ∧ e.sdone ∧ e.refcount = 0 then s.setName c fun _ => NameEntry.none else s

/-- Ends a name: DYING, with its shoot-down under way (R35). -/
def State.startShootdown (s : State) (c : Nat) (dropRef : Bool) : State :=
  let cores := s.partCores (s.nameEntry c).part
  s.setName c fun e => { e with state := .dying, sdone := false, acks := cores, dropRef := dropRef }

/-- Drops one reference, as by `nrel` (R43). -/
def State.dropNameRef (s : State) (c : Nat) : State :=
  (s.setName c fun e => { e with refcount := e.refcount - 1 }).removeDead c

/-! ## Name caches (R34) -/

/-- Puts a name at the most recent end of a core's cache of 16. -/
def Core.remember (c : Core) (n : Name) (addr : Word) : Core :=
  let rest := c.names.filter fun x => x.1 != n
  let rest := if 16 ≤ rest.length then rest.drop 1 else rest
  { c with names := rest ++ [(n, addr)] }

/-- Drops a name of this chip from a core's cache. -/
def Core.forget (c : Core) (counter : Nat) : Core :=
  { c with names := c.names.filter fun x => nameCounter x.1 != counter }

/-! ## The instructions -/

/-- The stack entry of a register now. -/
def entryNow (r : Reg) : Act Nat := do pure (entryOf (← get).me.cwp r)

/-- A status as a long result. -/
def statusTo (gc : Reg) (st : Nat) : Act Unit := do
  startLong [(← entryNow gc, BitVec.ofNat 64 st)] [] .none

/-- A status as the long result of a lookup of a name. -/
def statusFor (name : Option Nat) (gc : Reg) (st : Nat) : Act Unit := do
  startLookup [(← entryNow gc, BitVec.ofNat 64 st)] .none name

/-- A value and a status as one long result of a lookup; the status is written last (R39). -/
def valueStatus (name : Option Nat) (gd gc : Reg) (x : Word) (st : Nat) : Act Unit := do
  startLookup [(← entryNow gd, x), (← entryNow gc, BitVec.ofNat 64 st)] .none name

/-- A pair and a status as one long result. -/
def pairStatus (gd gc : Reg) (n : Name) (st : Nat) : Act Unit := do
  startLong [(← entryNow gd, n.extractLsb' 0 64), (← entryNow (gd + 1), n.extractLsb' 64 64),
    (← entryNow gc, BitVec.ofNat 64 st)] [] .none

/-- A long result that a remote chip will give (R32). Until it returns the registers' new values are not known. -/
def remoteLong (use : Nat → Nat → RemoteUse) (gd gc : Reg) : Act Unit := do
  let d ← entryNow gd
  let c ← entryNow gc
  let x ← drawWord
  let y ← drawWord
  startLong [(d, x), (c, y)] [] (.remote (use d c))

/-- R40. -/
def execNnew (sw : Bool) (d a b c : Reg) (s : State) : Host.Outcome State Fault Refusal :=
  issue (.nnew sw d a b c) sw .plain (do
    prologue true [a, b] [d, d + 1, c] [] []
    let cls ← readReg a
    let addr ← readReg b
    if cls.toNat ≥ 256 ∨ !creatable (cls.setWidth 8) then pairStatus d c 0 stBADCLASS
    else if addr.toNat % 64 ≠ 0 ∨ addr.toNat ≥ 2 ^ 57 then pairStatus d c 0 stBADADDR
    else
      let s ← get
      let (n, s') := s.issueName (cls.setWidth 8) s.me.part addr none
      set s'
      match n with
      | some n => pairStatus d c n stLIVE
      | none => pairStatus d c 0 stFULL
    pure .next) s

/-- R41: from the core's cache if it holds the name, else from the home entry. While the entry is DYING and the
shoot-down has not reached the core, either answer is allowed (R34–R36). -/
def execNres (sw : Bool) (d a c : Reg) (s : State) : Host.Outcome State Fault Refusal :=
  issue (.nres sw d a c) sw .plain (do
    prologue true [a, a + 1] [d, c] [] []
    let n ← readPair a
    let s ← get
    let core := s.me.core
    let gd ← entryNow d
    let gc ← entryNow c
    let home := s.resolve s.me.part n
    let cached := ((s.coreOf core).names.find? fun x => x.1 == n).map (·.2)
    let useCache ← match cached, home with
      | none, _ => pure false
      | some _, .found 0 _ => pure true
      | some _, _ => drawBit
    match cached, useCache with
    | some addr, true =>
      modify fun s => s.setCore core fun k => k.remember n addr
      startLookup [(gd, addr), (gc, 0)] .none (some (nameCounter n))
    | _, _ =>
      match home with
      | .status st => valueStatus none d c 0 st
      | .found 0 k =>
        let addr := (s.nameEntry k).addr
        modify fun s => s.setCore core fun q => q.remember n addr
        startLookup [(gd, addr), (gc, 0)] .none (some k)
      | .found st k => valueStatus (some k) d c 0 st
      | .remote => remoteLong .addr d c
    pure .next) s

/-- R41. -/
def execNresV (sw : Bool) (d a c : Reg) (s : State) : Host.Outcome State Fault Refusal :=
  issue (.nresV sw d a c) sw .plain (do
    prologue true [a, a + 1] [d, c] [] []
    let n ← readPair a
    let s ← get
    match s.resolve s.me.part n with
    | .status st => valueStatus none d c 0 st
    | .found st k => valueStatus (some k) d c (s.nameEntry k).version st
    | .remote => remoteLong .version d c
    pure .next) s

/-- The information word of an entry (R42). -/
def NameEntry.info (e : NameEntry) : Word :=
  BitVec.ofNat 64 (e.refcount % 65536 + 2 ^ 16 * e.cls.toNat + 2 ^ 24 * (e.part % 16) + 2 ^ 28 * natOf e.sdone)

/-- R42. -/
def execNstat (sw : Bool) (d a c : Reg) (s : State) : Host.Outcome State Fault Refusal :=
  issue (.nstat sw d a c) sw .plain (do
    prologue true [a, a + 1] [d, c] [] []
    let n ← readPair a
    let s ← get
    match s.resolve s.me.part n with
    | .status st => valueStatus none d c 0 st
    | .found st k => valueStatus (some k) d c (s.nameEntry k).info st
    | .remote => remoteLong (fun x y => .info x y (nameClass n)) d c
    pure .next) s

/-- The codes that a home chip may answer a lookup with (R31). -/
def homeCodes : List Nat := [stLIVE, stDYING, stGONE, stNEVER]

/-- The codes of `nkill` (R43): a name of class OP or LAUNCH that has an entry answers BADCLASS. -/
def nkillCodes (cls : BitVec 8) : List Nat :=
  if cls = classOP ∨ cls = classLAUNCH then [stBADCLASS, stGONE, stNEVER] else [stLIVE, stDYING, stGONE, stNEVER]

/-- The shared part of `nkill`, `nref` and `nrel` (R43); `codes` are those that a name of a class can answer. -/
def updateName (a c : Reg) (codes : BitVec 8 → List Nat) (f : Nat → Nat → Act Unit) : Act Flow := do
  prologue true [a, a + 1] [c] [] []
  let n ← readPair a
  let s ← get
  match s.resolve s.me.part n with
  | .status st => statusTo c st
  | .found st k => f st k
  | .remote => do
    let gc ← entryNow c
    startLong [(gc, ← drawWord)] [] (.remote (.status gc (codes (nameClass n))))
  pure .next

/-- Packets of a queue that have started stay; the rest are discarded, and nothing more is consumed (R74). -/
def Queue.close (q : Queue) : Queue :=
  { q with
    state := .closed, awaiting := [], skein := .none
    packets := q.packets.filter fun p => decide (p.state = .started ∨ p.state = .complete) }

/-- Changes a queue. -/
def State.setQueue (s : State) (c : Nat) (f : Queue → Queue) : State :=
  s.setHub fun h => { h with queues := FMap.set Queue.none h.queues c (f (FMap.get Queue.none h.queues c)) }

/-- A queue. -/
def State.queueOf (s : State) (c : Nat) : Queue := FMap.get Queue.none s.hub.queues c

/-- The state field of a queue's descriptor (R72, R74). -/
def QState.code : QState → Nat
  | .none => 0 | .idle => 0 | .mapped => 1 | .error => 2 | .paged => 3 | .closed => 4

/-- Writes a field of a queue's descriptor (R72) through the queue's context. -/
def State.putQueueField (s : State) (c off n x : Nat) : State :=
  s.vput (s.queueOf c).ctx ((s.queueOf c).desc.toNat + off) n x

/-- Reads a field of a queue's descriptor (R72). -/
def State.queueField (s : State) (c off n : Nat) : Nat := s.vget (s.queueOf c).ctx ((s.queueOf c).desc.toNat + off) n

/-- Sets a queue's state, in the descriptor too. -/
def State.setQueueState (s : State) (c : Nat) (q : QState) : State :=
  (s.setQueue c fun x => { x with state := q }).putQueueField c 0x19 1 q.code

/-- Whether strands of a launch have still to start, whose shape slots refer to its snapshots from then on (R65). -/
def State.startsMore (s : State) (l : Nat) : Bool :=
  let x := s.launchOf l
  x.live && (decide (x.nextGroup < x.lrec.groupCount) || s.hub.binds.any fun b => b.2.valid && b.2.lslot == l)

/-- Whether a shape slot or an op that is not terminal refers to a snapshot (R64), or one of a strand that has still to start. -/
def State.snapUsed (s : State) (k : Nat) : Bool :=
  (s.all.any fun t => t.isLive && (t.sh0 == some k || t.sh1 == some k))
    || (s.eng.ops.any fun o => o.2.snapshot == some k
        && decide (o.2.state ≠ .done ∧ o.2.state ≠ .failed ∧ o.2.state ≠ .cancelled ∧ o.2.state ≠ .free))
    || (s.hub.launches.any fun l => s.startsMore l.1 && l.2.snaps.contains (some k))

/-- Frees the snapshots that nothing refers to. -/
def State.freeSnaps (s : State) : State :=
  s.setHub fun h => { h with snaps := h.snaps.filter fun x => s.snapUsed x.1 }

/-- Accepted launches whose packets are discarded hold nothing more: their references are dropped and their names end. -/
def State.discardLaunches (s : State) (q : Nat) : State :=
  (s.hub.launches.filter fun x => x.2.live && !x.2.started && x.2.queue == q).foldl (fun s x =>
    let names := x.2.lrec.shapes ++ x.2.bindings.map (·.name)
    let s := (names.filter fun n => nameChip n == s.hub.chip && n != 0).foldl (fun s n => s.dropNameRef (nameCounter n)) s
    ((s.setLaunch x.1 fun _ => Launch.none).startShootdown (nameCounter x.2.name) true).freeSnaps) s

/-- Closes a queue (R74). -/
def State.closeQueue (s : State) (c : Nat) : State :=
  if (s.queueOf c).state = .none ∨ (s.queueOf c).state = .closed then s
  else ((s.setQueue c Queue.close).putQueueField c 0x19 1 QState.closed.code).discardLaunches c

/-- R43, R44: the status returns only after the shoot-down is complete. -/
def execNkill (sw : Bool) (a c : Reg) (s : State) : Host.Outcome State Fault Refusal :=
  issue (.nkill sw a c) sw .plain (updateName a c nkillCodes fun st k => do
    let s ← get
    let e := s.nameEntry k
    if e.cls = classOP ∨ e.cls = classLAUNCH then statusFor (some k) c stBADCLASS
    else
      if st = stLIVE then
        modify fun s => s.startShootdown k false
        if e.cls = classQUEUE then modify fun s => s.closeQueue k
      startLong [(← entryNow c, BitVec.ofNat 64 st)] [] (.shootdown k)) s

/-- R43. -/
def execNref (sw : Bool) (a c : Reg) (s : State) : Host.Outcome State Fault Refusal :=
  issue (.nref sw a c) sw .plain (updateName a c (fun _ => homeCodes ++ [stSATURATED]) fun st k => do
    let s ← get
    if st = stDYING then statusFor (some k) c stDYING
    else if (s.nameEntry k).refcount ≥ 65535 then statusFor (some k) c stSATURATED
    else
      modify fun s => s.setName k fun e => { e with refcount := e.refcount + 1 }
      statusFor (some k) c stLIVE) s

/-- R43. -/
def execNrel (sw : Bool) (a c : Reg) (s : State) : Host.Outcome State Fault Refusal :=
  issue (.nrel sw a c) sw .plain (updateName a c (fun _ => homeCodes ++ [stUNDERFLOW]) fun st k => do
    let s ← get
    if (s.nameEntry k).refcount = 0 then statusFor (some k) c stUNDERFLOW
    else
      modify fun s => s.dropNameRef k
      statusFor (some k) c st) s

/-- Looks up the unit of a strand's `ncas` once, without its effect (R45): it traps, parks, or gives the unit to access, at its redirect
target where one governs it, with the tags that RETSET writes. A word that waits after the lookup keeps what it found. -/
def lookOnly (p : Piece) (l : Leaf) : Act (AccessUnit × List (Nat × BitVec 4)) := do
  let s ← get
  match s.me.replay.looked with
  | some x => pure x
  | none =>
    let u := s.unitOf (.strand s.me.core s.me.slot) (strandKind l.pa.space s.me.core .atomic) .atomic .atomic
      (if bitsOf l.entry 9 1 = 1 then some 1 else none) { p with act := .look } l
    match ← runUnit u with
    | .looked u sets => do
      modMe fun t => { t with replay := { t.replay with looked := some (u, sets) } }
      pure (u, sets)
    | .stops t => throw (.trap t)
    | .waits u => do
      modify fun s => s.park u
      throw (.wait .unit)
    | _ => waitIssue

/-- Performs a unit that has been looked up (R45): its effect with the tags that its lookup found, and the re-evaluation that they cause. -/
def performLooked (u : AccessUnit) (sets : List (Nat × BitVec 4)) : Act UnitRes := do
  modMe Strand.acquired
  let s ← get
  match s.wakeIsland u.pa.space, uncorrOf s u with
  | some s', _ => do
    set s'
    waitIssue
  | none, some t => throw (.trap t)
  | none, none => do
    let (s', r) := s.perform u sets
    set s'
    let ws := (landingTags u sets).map (·.1)
    if ws ≠ [] then reevaluate fun p => p.words.any ws.contains
    pure r

/-- R45, R46: the tag action comes first, but for the tags of RETSET, which are written with the pair: a new name that does not resolve LIVE
leaves the tags as they were (log 109); then the new name is resolved and the pair is compared in one step, so no `nkill` falls between
them and a hold delays none. -/
def execNcas (sw : Bool) (d a b c : Reg) (o p : BitVec 3) (s : State) : Host.Outcome State Fault Refusal :=
  issue (.ncas sw d a b c o p) sw .plain (do
    prologue true [a, b, b + 1, c, c + 1] [d] [] []
    let ea ← readReg a
    let expected ← readPair b
    let new ← readPair c
    checkAlign ea.toNat 16 .atomic
    let piece : Piece :=
      { va := ea.toNat, offs := blockOffs ea.toNat 16, act := .cas (ea.toNat % 64) 16 expected new }
    let ls ← translatePieces .atomic .atomic true true [piece]
    match ls with
    | (_, l) :: _ =>
      if !l.pa.space.described then trapWith .prot (protInfo faultTARGET .atomic l.level false) ea
      watchPieces .atomic ls
      let (u, sets) ← lookOnly piece l
      let r ← if new = 0 then pure { st := stLIVE, counter := none, addr := 0, version := 0 } else resolveHome new
      if r.st ≠ stLIVE then statusFor r.counter d r.st
      else
        let old := ofLE (← performLooked { u with act := piece.act } sets).bytes
        let w := orderWait o.toNat p.toNat
        afterOrdered w
        startLookup [(← entryNow d, BitVec.ofNat 64 (if old = expected.toNat then stLIVE else stMISMATCH))] w r.counter
    | [] => pure ()
    pure .next) s

/-! ## The steps of the name unit -/

/-- R35: the core drops the name and acknowledges, unless a lookup of the name is outstanding there. -/
def execShootdownInvalidate (counter core : Nat) (s : State) : Host.Outcome State Fault Refusal :=
  let busy := s.all.any fun t => t.core == core && t.outstanding.any fun r => r.name == some counter
  if busy ∨ !(s.nameEntry counter).acks.contains core then .next s
  else .next ((s.setCore core fun c => c.forget counter).setName counter fun e =>
    { e with acks := e.acks.filter (· ≠ core) })

/-- R35: every acknowledgement has arrived. -/
def execShootdownComplete (counter : Nat) (s : State) : Host.Outcome State Fault Refusal :=
  let e := s.nameEntry counter
  if e.state = .dying ∧ e.acks = [] ∧ !e.sdone then
    let s := s.setName counter fun e => { e with sdone := true, dropRef := false
                                                 refcount := if e.dropRef then e.refcount - 1 else e.refcount }
    .next (s.removeDead counter)
  else .next s

/-- The bits of an entry's address (R28). -/
abbrev addrBits : Word := 0x01FFFFFFFFFFFFC0#64

/-- The information word that an entry of a class may have, from an open word (R42): a LIVE entry's shoot-down is not complete. -/
def infoOf (cls : BitVec 8) (live : Bool) (x : Word) : Word :=
  (x &&& (if live then 0x0F00FFFF#64 else 0x1F00FFFF#64)) ||| (cls.setWidth 64 <<< 16)

/-- A remote answer reaches a long result: its registers' values (R32, R41–R43). -/
def RemoteUse.dests (u : RemoteUse) (st : Nat) (addr version : Word) : List (Nat × Word) :=
  let code := BitVec.ofNat 64 st
  let known : Bool := decide (st = stLIVE ∨ st = stDYING)
  match u with
  | .addr gd gc => [(gd, if st = stLIVE then addr &&& addrBits else 0), (gc, code)]
  | .version gd gc => [(gd, if known then version else 0), (gc, code)]
  | .info gd gc cls => [(gd, if known then infoOf cls (decide (st = stLIVE)) addr else 0), (gc, code)]
  | .status gc _ => [(gc, code)]

/-- The codes that a home chip may answer with: those of a lookup (R31), or of an update of its entry (R43). -/
def RemoteUse.codes : RemoteUse → List Nat
  | .status _ codes => codes
  | _ => homeCodes

/-- The codes that may answer what a strand waits for: a long result, or its word. -/
def State.answerCodes (s : State) (core slot id : Nat) : List Nat :=
  match s.strandAt core slot with
  | none => []
  | some t =>
    match t.outstanding.find? (fun r => r.id == id) with
    | some r => (match r.wait with | .remote u => u.codes | _ => [])
    | none => if t.wait = .remote then homeCodes else []

/-- Gives a remote home chip's answer to the strand that waits for it (R32). -/
def State.answerRemote (s : State) (core slot id st : Nat) (addr version : Word) : State :=
  match s.strandAt core slot with
  | none => s
  | some t =>
    match t.outstanding.find? (fun r => r.id == id) with
    | some r =>
      match r.wait with
      | .remote u =>
        let r' := { r with gdests := lastWins (u.dests st addr version), wait := .none }
        s.setStrand core slot fun t =>
          { t with outstanding := t.outstanding.map fun x => if x.id = id then r' else x }
      | _ => s
    | none =>
      if t.wait = .remote then
        s.setStrand core slot fun t =>
          { t with
            wait := .none
            replay := { t.replay with answers := t.replay.answers ++ [(st, 0, addr &&& addrBits, version)] } }
      else s

/-- R32: the home chip answers, with a code that it can give, over a Twine path (R431). For `nstat` the address operand is the
information word. -/
def execRemoteResolve (core slot id : Nat) (status : BitVec 4) (addr version : Word) (s : State) :
    Host.Outcome State Fault Refusal :=
  if (s.answerCodes core slot id).contains status.toNat ∧ !s.noTwine then .next (s.answerRemote core slot id status.toNat addr version)
  else .next s

/-- R32: no answer within 100 µs. -/
def execResolveTimeout (core slot id : Nat) (s : State) : Host.Outcome State Fault Refusal :=
  .next (s.answerRemote core slot id stUNREACHABLE 0 0)

end Sys2Proof.Machine
end

