-- ==== Sys2Proof/Machine/Packets.lean ====
section
/-!
DEFINITION. The packets of a queue in their order (R78–R82, R87, R91): which may start, what starts of itself, and what
follows a packet's completion.
-/

namespace Sys2Proof.Machine

/-! ## Packets (R78, R80) -/

/-- A field of a packet. -/
def Packet.field (p : Packet) (off n : Nat) : Nat := ofLE ((p.bytes.drop off).take n)

/-- The header. -/
def Packet.header (p : Packet) : Nat := p.field 0 8

/-- The type. -/
def Packet.type (p : Packet) : Nat := p.field 0 1

abbrev ptLAUNCH : Nat := 1
abbrev ptAMSG : Nat := 2
abbrev ptCOPY : Nat := 3
abbrev ptBARRIER : Nat := 4
abbrev ptSIGNAL : Nat := 5
abbrev ptBEGIN : Nat := 6
abbrev ptCOMMIT : Nat := 7
abbrev ptINDIRECT : Nat := 8
abbrev ptTEXTSYNC : Nat := 9
abbrev ptNOP : Nat := 10

/-- ORDER and NOTIFY (R78). -/
def Packet.order (p : Packet) : Bool := decide (bitsOf p.header 8 1 = 1)
def Packet.notify (p : Packet) : Bool := decide (bitsOf p.header 9 1 = 1)

/-- A packet's place in its queue: its ring index and, in a buffer, its ordinal. -/
def Packet.place (p : Packet) : Nat := 2 ^ 17 * p.index + p.sub

/-- The places of the INDIRECT packets above a packet (R87). -/
def ancestors (ps : List Packet) : (depth : Nat) → Packet → List Nat
  | 0, _ => []
  | n + 1, p =>
    if p.sub = 0 then []
    else
      match ps.find? (fun x => x.index == p.index && x.sub == p.parent) with
      | some x => x.place :: ancestors ps n x
      | none => []

/-- The packets before a packet, without those above it. -/
def Queue.before (q : Queue) (p : Packet) : List Packet :=
  let up := ancestors q.packets 5 p
  (q.packets.takeWhile fun x => x.place != p.place).filter fun x => !up.contains x.place

/-- Whether a packet waits for every earlier one to complete (R78, R80). -/
def Packet.ordered (p : Packet) : Bool := p.order || p.type == ptBARRIER || p.type == ptSIGNAL || p.type == ptTEXTSYNC

/-- Whether every packet before a packet has completed. -/
def Queue.reached (q : Queue) (p : Packet) : Bool := (q.before p).all fun x => decide (x.state = .complete)

/-- Whether an INDIRECT above a packet holds it back: an INDIRECT with ORDER set waits for what stands before it, and so do the packets
of its buffer (R78; log 41). -/
def Queue.heldAbove (q : Queue) (p : Packet) : Bool :=
  let up := ancestors q.packets 5 p
  q.packets.any fun x => up.contains x.place && x.order && !q.reached x

/-- Whether a ready packet may start (R78, R80, R91): members start in queue order, a BARRIER or TEXTSYNC holds every later
packet, a SIGNAL none. A queue without a hardware context starts nothing (R74), nor does one that is being torn down (R92). -/
def Queue.mayStart (q : Queue) (p : Packet) : Bool :=
  decide (p.state = .ready) && decide (q.state = .mapped ∨ q.state = .error) && !q.teardown && !q.heldAbove p
    && (q.before p).all fun x =>
      decide (x.state = .complete)
        || (!p.ordered && x.type != ptBARRIER && x.type != ptTEXTSYNC && (decide (x.state = .started) || x.type == ptSIGNAL))

/-- A packet by its place. -/
def Queue.at? (q : Queue) (place : Nat) : Option Packet := q.packets.find? fun p => p.place == place

/-- Changes a packet. -/
def State.setPacket (s : State) (q place : Nat) (f : Packet → Packet) : State :=
  s.setQueue q fun k => { k with packets := k.packets.map fun p => if p.place = place then f p else p }

/-! ## Completion (R72, R78, R80) -/

/-- The queue completion event (R78, R419 type 3); a LAUNCH raises that of R403 instead. -/
def State.notifyPacket (s : State) (q : Nat) (p : Packet) : State :=
  let k := s.queueOf q
  if p.notify ∧ p.type ≠ ptLAUNCH then
    s.postEvent k.part 3 k.ctx [k.name.extractLsb' 0 64, k.name.extractLsb' 64 64, BitVec.ofNat 64 p.index, 0]
  else s

/-- Marks a packet complete, and the INDIRECT packets whose buffers are then complete. -/
def State.markComplete : (depth : Nat) → State → (q place : Nat) → State
  | 0, s, _, _ => s
  | n + 1, s, q, place =>
    match (s.queueOf q).at? place with
    | none => s
    | some p =>
      if p.state = .complete then s
      else
        let s := (s.setPacket q place fun p => { p with state := .complete }).notifyPacket q p
        if p.sub = 0 then s
        else if (s.queueOf q).packets.all fun x =>
            decide (x.state = .complete) || x.index != p.index || x.sub == 0 || x.parent != p.parent then
          s.markComplete n q (2 ^ 17 * p.index + p.parent)
        else s

/-- doneidx passes the complete packets at the head of the queue (R72). -/
def State.advanceDone : (fuel : Nat) → State → (q : Nat) → State
  | 0, s, _ => s
  | n + 1, s, q =>
    let k := s.queueOf q
    match k.packets with
    | [] => s
    | p :: _ =>
      if p.state = .complete then
        let s := s.setQueue q fun k => { k with packets := k.packets.filter fun x => x.index != p.index }
        (s.vput k.ctx (k.desc.toNat + 0x30) 8 (p.index + 1)).advanceDone n q
      else s

/-! ## Starting (R80, R81, R91) -/

/-- The name that a packet holds at an offset (R22). -/
def Packet.nameAt (p : Packet) (off : Nat) : Name := BitVec.ofNat 128 (p.field off 16)

/-- An attached queue that a QUEUE name of this chip names. -/
def State.queueNamed (s : State) (n : Name) : Option Nat :=
  if nameChip n = s.hub.chip ∧ (s.queueOf (nameCounter n)).state ≠ .none ∧ (s.queueOf (nameCounter n)).name = n then
    some (nameCounter n)
  else none

/-- The queues that a BARRIER of kind 1 names. -/
def State.barrierQueues (s : State) (p : Packet) : List Nat :=
  if p.field 8 1 = 1 then (List.range (p.field 9 1)).filterMap fun i => s.queueNamed (p.nameAt (0x10 + 16 * i)) else []

/-- Their wridx as the BARRIER starts (R81). -/
def State.barrierTargets (s : State) (p : Packet) : List (Nat × Word) :=
  (s.barrierQueues p).map fun q => (q, BitVec.ofNat 64 (s.queueField q 0x20 8))

/-- Whether a packet starts of itself now: a NOP, a LAUNCH, or a BARRIER once each wridx it takes can be read (R81; log 101). -/
def State.startsItself (s : State) (q : Nat) (p : Packet) : Bool :=
  (s.queueOf q).mayStart p && (p.type == ptNOP || p.type == ptLAUNCH
    || (p.type == ptBARRIER && (s.barrierQueues p).all fun b =>
      (s.vreadNat (s.queueOf b).ctx ((s.queueOf b).desc.toNat + 0x20) 8).isSome))

/-- Starts the packets that start of themselves: a NOP, which completes at once, a BARRIER, and a LAUNCH, which is then
placed. -/
def State.settleQueue : (fuel : Nat) → State → (q : Nat) → State
  | 0, s, _ => s
  | n + 1, s, q =>
    let s := s.advanceDone ((s.queueOf q).packets.length) q
    let k := s.queueOf q
    match k.packets.find? (s.startsItself q) with
    | none => s
    | some p =>
      let s := if p.type = ptNOP then s.markComplete 6 q p.place
        else if p.type = ptBARRIER then
          s.setPacket q p.place fun x => { x with state := .started, targets := s.barrierTargets p }
        else
          let s := s.setPacket q p.place fun x => { x with state := .started }
          match p.launch with
          | some l => s.setLaunch l fun x => { x with started := true }
          | none => s
      s.settleQueue n q

/-- What follows a change of a queue's packets. -/
def State.settle (s : State) (q : Nat) : State := s.settleQueue ((s.queueOf q).packets.length + 1) q

/-- A packet completes (R80). -/
def State.completePacket (s : State) (p : Option (Nat × Nat)) : State :=
  match p with
  | none => s
  | some (q, place) => (s.markComplete 6 q place).settle q

end Sys2Proof.Machine
end

