-- ==== Sys2Proof/Machine/Messages.lean ====
section
/-!
DEFINITION. Active messages on their way: the owner of an address (R83, R84) and sending (R156, R257).
-/

namespace Sys2Proof.Machine

/-! ## MsgOwner (R83, R84) -/

/-- The owner of an address. -/
inductive Owner where
  | core (c : Nat)
  /-- a core of a peer chip, chosen there -/
  | peer (chip : Nat)
  | nobody
  deriving DecidableEq, Repr

/-- The message cores of a context: the list set, or every core of the context in vcore order (R84). -/
def Ctx.messageCores (c : Ctx) : List Nat :=
  if c.msgCores.isEmpty then c.plies.flatMap fun p => (List.range 16).map (16 * p + ·) else c.msgCores

/-- MsgOwner of an address that translates to a place (R83). -/
def State.msgOwner (s : State) (ctx va : Nat) (pa : PAddr) : Owner :=
  let c := s.ctxOf ctx
  match pa.space with
  | .ls k => .core k
  | .pool p => if c.plies.contains p then .core (16 * p + va / 4096 % 16) else .nobody
  | .hbm =>
    let x := va / 4096
    let h := bitsOf x 0 16 ^^^ bitsOf x 16 16 ^^^ bitsOf x 32 13
    let cs := c.messageCores
    match cs[h % cs.length]? with
    | some k => .core k
    | none => .nobody
  | .peer chip _ => .peer chip
  | _ => .nobody

/-! ## Sending -/

/-- A message sets out: its launch gains a strand at once, so that it does not retire before (R156). -/
def State.sendMessage (s : State) (m : Message) : State :=
  let s := { s with eng := { s.eng with messages := s.eng.messages ++ [m] } }
  match m.launch with
  | some l => s.setLaunch l fun x => { x with strands := x.strands + 1 }
  | none => s

/-- A message without payload or sender. -/
def Message.blank : Message :=
  { dest := 0, urgent := false, pc := 0, regs := [], ctx := 0, part := 0, launch := none, ntok := 16
    deadline := BitVec.allOnes 64, slicebud := BitVec.allOnes 64, high := false, sender := none, packet := none }

/-- The privileged priority of a launch (R47). -/
def State.highLaunch (s : State) (l : Option Nat) : Bool :=
  match l with
  | some k => decide ((s.launchOf k).lrec.priority = 1)
  | none => false

end Sys2Proof.Machine
end

