-- ==== Sys2Proof/Machine/Shapes.lean ====
section
/-!
DEFINITION. Shape records and snapshots (03_describing_work.md R61–R71) and the three shape instructions.
-/

namespace Sys2Proof.Machine

/-! ## Segments (R63) -/

/-- The largest index whose start is at or below a row, counted from `i`. -/
def lastStart (row : Nat) : Nat → List Nat → Option Nat
  | _, [] => none
  | i, x :: xs => (lastStart row (i + 1) xs).or (if x ≤ row then some i else none)

/-- Segment(sh, row) (R63): none for padding and beyond. -/
def Snapshot.segment (sh : Snapshot) (row : Nat) : Option Nat :=
  if (sh.start[sh.nseg]?).getD 0 ≤ row then .none else lastStart row 0 (sh.start.take (sh.nseg + 1))

/-- First row of a segment and the row after its last. -/
def Snapshot.bounds (sh : Snapshot) (g : Nat) : Nat × Nat := ((sh.start[g]?).getD 0, (sh.start[g + 1]?).getD 0)

/-! ## Records (R61, R62) -/

/-- Whether starts do not decrease. -/
def risingStarts : List Nat → Bool
  | a :: b :: t => decide (a ≤ b) && risingStarts (b :: t)
  | _ => true

/-- The snapshot that the bytes of a well-formed record give (R62, R64). -/
def parseShape (ctx : Nat) (name : Name) (version : Word) (b : List Byte) : Option Snapshot :=
  let f (o n : Nat) : Nat := ofLE ((b.drop o).take n)
  let rows := f 0x10 4
  let cols := f 0x14 4
  let nseg := f 0x18 4
  let flags := f 0x1C 4
  let start := (List.range (nseg + 1)).map fun i => f (0x30 + 4 * i) 4
  if f 0 16 = name.toNat ∧ 1 ≤ rows ∧ rows ≤ 65536 ∧ 1 ≤ cols ∧ cols ≤ 65536 ∧ nseg ≤ 1024 ∧ flags < 4 ∧ f 0x28 8 = 0
      ∧ f 0x30 4 = 0 ∧ risingStarts start ∧ f (0x30 + 4 * nseg) 4 ≤ rows then
    some { live := true, ctx := ctx, name := name, version := version, rows := rows, cols := cols, nseg := nseg
           strict := decide (flags % 2 = 1), causal := decide (flags / 2 = 1), start := start }
  else none

/-! ## Snapshots (R64, R65) -/

/-- A snapshot. -/
def State.snapOf (s : State) (k : Nat) : Snapshot := FMap.get Snapshot.none s.hub.snaps k

/-- The snapshot of a context with a name and version, if there is one. -/
def State.findSnap (s : State) (ctx : Nat) (name : Name) (version : Word) : Option Nat :=
  (s.hub.snaps.find? fun x => x.2.live && x.2.ctx == ctx && x.2.name == name && x.2.version == version).map (·.1)

/-- A free slot of a context's area, if the area has one. -/
def State.freeSnapSlot (s : State) (ctx : Nat) : Option Nat :=
  lowestFree ((s.hub.snaps.filter fun x => x.1 / 2 ^ 32 == ctx).map fun x => x.1 % 2 ^ 32) (s.ctxOf ctx).snapArea.2 0

/-- Puts a snapshot in a slot. The bytes of the slot in the area are not written: their layout is not stated (log 98). -/
def State.putSnap (s : State) (ctx i : Nat) (x : Snapshot) : State :=
  s.setHub fun h => { h with snaps := FMap.set Snapshot.none h.snaps (ctx * 2 ^ 32 + i) x }

/-- The snapshot that a shape slot of a strand refers to. -/
def Strand.shape (t : Strand) (slot : Bool) : Option Nat := if slot then t.sh1 else t.sh0

/-- Makes a shape slot refer to a snapshot, or unbinds it. -/
def Strand.setShape (t : Strand) (slot : Bool) (k : Option Nat) : Strand :=
  if slot then { t with sh1 := k } else { t with sh0 := k }

/-- The core's shape cache after a word has used a snapshot (R64): it keeps the four used last (log 124). -/
def Core.useShape (c : Core) (x : Snapshot) : Core :=
  let e := (x.ctx, x.name, x.version)
  { c with shapes := (e :: c.shapes.filter (· ≠ e)).take 4 }

/-- The state after the current strand has used a snapshot. -/
def State.usesShape (s : State) (k : Nat) : State := s.setCore s.me.core fun c => c.useShape (s.snapOf k)

/-- The snapshot that a word needs; SEGX from an unbound slot (R65). -/
def needShape (slot : Bool) : Act Snapshot := do
  let s ← get
  match s.me.shape slot with
  | some k => do
    set (s.usesShape k)
    pure (s.snapOf k)
  | none => trapWith .segx 1 0

/-! ## The instructions -/

/-- Raises PROT of kind TARGET when a unit's memory is not allowed. -/
def checkSpaces (ok : Space → Bool) (acc : Acc) : List (Piece × Leaf) → Act Unit
  | [] => pure ()
  | (p, l) :: ps =>
    if ok l.pa.space then checkSpaces ok acc ps
    else trapWith .prot (protInfo faultTARGET acc l.level false) (BitVec.ofNat 64 p.va)

/-- Memories that may hold a shape record (R68). -/
def Space.holdsRecords : Space → Bool
  | .ls _ => true
  | .pool _ => true
  | .hbm => true
  | .peer _ _ => true
  | _ => false

/-- Reads a range of a shape record as strand loads (R68). -/
def readRecord (va n : Nat) : Act (List Byte) := do
  let ps := splitUnits (fun _ _ => .read) (n / 64 + 2) va 0 n
  let ls ← translatePieces (.scalar 64) .load true false ps
  checkSpaces Space.holdsRecords .load ls
  watchPieces .load ls
  let rs ← performPieces (.scalar 64) .load 0 ls
  pure (rs.map (·.bytes)).flatten

/-- R68. The record is read in two ranges, its fixed part and its starts, so its first block is looked up for each (log 96). -/
def execShbind (sw : Bool) (a d : Reg) (n : Bool) (s : State) : Host.Outcome State Fault Refusal :=
  issue (.shbind sw a d n) sw .plain (do
    prologue true [a, a + 1] [d] [] []
    let name ← readPair a
    let r ← resolveHome name
    let s ← get
    if r.st ≠ stLIVE then statusFor r.counter d r.st
    else if nameClass name ≠ classSHAPE then statusFor r.counter d stBADCLASS
    else
      modMe Strand.dropAhead
      match s.findSnap s.me.ctx name r.version with
      | some k =>
        modMe fun t => t.setShape n (some k)
        modify State.freeSnaps
        statusFor r.counter d stLIVE
      | none =>
        let head ← readRecord r.addr.toNat 0x30
        let nseg := ofLE ((head.drop 0x18).take 4)
        let tail ← if nseg ≤ 1024 then readRecord (r.addr.toNat + 0x30) (4 * (nseg + 1)) else pure []
        match if nseg ≤ 1024 then parseShape s.me.ctx name r.version (head ++ tail) else none with
        | none => statusFor r.counter d stBADSHAPE
        | some x =>
          let s ← get
          if (s.ctxOf s.me.ctx).snapArea.2 = 0 then statusFor r.counter d stFULL
          else
            match s.freeSnapSlot s.me.ctx with
            | some i =>
              modify fun s => s.putSnap s.me.ctx i x
              modMe fun t => t.setShape n (some (t.ctx * 2 ^ 32 + i))
              modify State.freeSnaps
              statusFor r.counter d stLIVE
            | none =>
              let gd ← entryNow d
              startLong [(gd, 0)] [] (.snapshot n gd x)
    pure .next) s

/-- R69. -/
def execShrel (sw : Bool) (n : Bool) (s : State) : Host.Outcome State Fault Refusal :=
  issue (.shrel sw n) sw .plain (do
    modMe fun t => t.setShape n none
    modify State.freeSnaps
    pure .next) s

/-- The next version of an entry that is still in the table (R27, R70). -/
def NameEntry.bump (e : NameEntry) : NameEntry := if e.state = .free then e else { e with version := e.version + 1 }

/-- R70. -/
def execShpub (sw : Bool) (a d : Reg) (s : State) : Host.Outcome State Fault Refusal :=
  issue (.shpub sw a d) sw .plain (do
    prologue true [a, a + 1] [d] [] []
    let name ← readPair a
    let r ← resolveHome name
    if r.st ≠ stLIVE then statusFor r.counter d r.st
    else if nameClass name ≠ classSHAPE then statusFor r.counter d stBADCLASS
    else
      storeOne (.scalar 8) (r.addr.toNat + 0x20) 8 (r.version + 1).toNat
      match r.counter with
      | some c => modify fun s => s.setName c NameEntry.bump
      | none => pure ()
      statusFor r.counter d stLIVE
    pure .next) s

/-- R64: a slot has freed, and a waiting `shbind` takes its snapshot. -/
def execSnapshotWaitEnd (core slot id : Nat) (s : State) : Host.Outcome State Fault Refusal :=
  match s.strandAt core slot with
  | none => .next s
  | some t =>
    match t.outstanding.find? (fun r => r.id == id) with
    | none => .next s
    | some r =>
      match r.wait with
      | .snapshot n _ x =>
        let s := s.freeSnaps
        let put : Option (Nat × State) :=
          match s.findSnap t.ctx x.name x.version with
          | some k => some (k, s)
          | none => (s.freeSnapSlot t.ctx).map fun i => (t.ctx * 2 ^ 32 + i, s.putSnap t.ctx i x)
        match put with
        | none => .next s
        | some (k, s) =>
          .next (s.setStrand core slot fun t =>
            { (t.setShape n (some k)) with
              outstanding := t.outstanding.map fun y => if y.id = id then { y with wait := .none } else y }).freeSnaps
      | _ => .next s

end Sys2Proof.Machine
end

