-- ==== Sys2Proof/Machine/EngineOps.lean ====
section
/-!
DEFINITION. Engine ops and tokens (14_engine_operations.md R268–R286): the op record, its ends and pauses, the access
of one unit, and the token and op instructions.
-/

namespace Sys2Proof.Machine

/-! ## Op records (R270, R271, R281–R283) -/

/-- The code of a state (R270). -/
def OpState.code : OpState → Nat
  | .free => 0 | .pending => 1 | .queued => 2 | .running => 3 | .paused => 4 | .done => 5 | .failed => 6
  | .cancelled => 7

/-- A terminal state (R270). -/
def OpState.terminal : OpState → Bool
  | .done => true
  | .failed => true
  | .cancelled => true
  | _ => false

/-- An op that exists and is not terminal. -/
def Op.live (o : Op) : Bool := !o.state.terminal && decide (o.state ≠ .free)

abbrev opTAGTRAP : BitVec 8 := 0x20
abbrev opTAGMIX : BitVec 8 := 0x21
abbrev opREDIRLOOP : BitVec 8 := 0x22
abbrev opUNCORR : BitVec 8 := 0x23
abbrev opCAPDENIED : BitVec 8 := 0x24
abbrev opDEPFAIL : BitVec 8 := 0x25
abbrev opLINK : BitVec 8 := 0x26
abbrev opDESC : BitVec 8 := 0x27
abbrev opTEAM : BitVec 8 := 0x28
abbrev opMEMBER : BitVec 8 := 0x29

/-- A fault kind that an op may record (R283, R319), by an open number. -/
def openKind (x : Nat) : BitVec 8 := BitVec.ofNat 8 (if x % 21 < 11 then x % 21 + 1 else x % 21 + 21)

/-- The status of an op (R271); 1 while it is not terminal. -/
def Op.status (o : Op) : Nat :=
  match o.state with
  | .done => 0
  | .cancelled => 3
  | .failed => if o.fault = opCAPDENIED then 4 else if o.fault = opDEPFAIL then 5 else 2
  | _ => 1

/-- The engine code (R282). -/
def Engine.code : Engine → Nat
  | .matrix _ => 0
  | .reel _ => 1
  | .twister _ => 2

/-- The TLBs that an engine translates through (R185). -/
def Engine.via : Engine → Via
  | .matrix c => .ply (corePly c)
  | .reel p => .ply p
  | .twister d => .twister d

/-- Op word 0 (R282). -/
def Op.word0 (o : Op) : Word :=
  BitVec.ofNat 64 (o.state.code + 2 ^ 8 * o.status + 2 ^ 16 * o.fault.toNat + 2 ^ 24 * o.engine.code
    + 2 ^ 32 * o.prio.toNat + 2 ^ 36 * o.slack.toNat + 2 ^ 40 * natOf o.name.isSome + 2 ^ 41 * natOf o.orphan
    + 2 ^ 48 * o.flags.toNat)

/-- A selected word of an op's record (R282). -/
def Op.recordWord (o : Op) (sel : Nat) : Word :=
  match sel with
  | 0 => o.word0
  | 1 => o.synd
  | 2 => o.faddr
  | 3 => BitVec.ofNat 64 o.units
  | 4 => BitVec.ofNat 64 (o.vcore.toNat + 2 ^ 32 * (match o.launch with | some l => l % 65536 | .none => 4096))
  | _ => 0

/-- The fault handle of an op's pause (R281). -/
def State.opHandle (s : State) (n : Nat) : Word :=
  BitVec.ofNat 64 (n % 2 ^ 39 + 2 ^ 39 * (s.hub.chip % 512) + 2 ^ 48 * (s.opOf n).gen.toNat)

/-- The op that a handle names on this chip; none where its reference names no op (R281). -/
def State.opOfHandle (s : State) (h : Word) : Option Nat :=
  let n := bitsOf h.toNat 0 39
  if bitsOf h.toNat 39 9 ≠ s.hub.chip ∨ (s.opOf n).state = .free ∨ (s.opOf n).reaped then none else some n

/-! ## The units of a copy (R316, R320) and the rounds of a collective (R336) -/

/-- A field of an op's descriptor: `n` bytes at an offset. -/
def Op.field (o : Op) (off n : Nat) : Nat := ofLE ((o.desc.drop off).take n)

/-- A copy unit: source, destination and length. -/
structure CopyUnit where
  src : Nat
  dst : Nat
  len : Nat
  deriving DecidableEq, Repr

/-- Units of a row whose destination starts at `d`. -/
def rowUnits (d n : Nat) : Nat := (d % 64 + n + 63) / 64

/-- Unit `k` of the rows from `r` on. -/
def Op.unitFrom (o : Op) : (rows r k : Nat) → Option CopyUnit
  | 0, _, _ => .none
  | m + 1, r, k =>
    let n := o.field 0x1C 4
    let s := (o.field 8 8 + r * o.field 0x20 8) % 2 ^ 64
    let d := (o.field 0x10 8 + r * o.field 0x28 8) % 2 ^ 64
    let c := rowUnits d n
    if k < c then
      let x := if k = 0 then 0 else 64 * k - d % 64
      some { src := (s + x) % 2 ^ 64, dst := (d + x) % 2 ^ 64, len := min (n - x) (64 - (d + x) % 64) }
    else o.unitFrom m (r + 1) (k - c)

/-- Unit `k` of a copy; none past its last. -/
def Op.unitAt (o : Op) (k : Nat) : Option CopyUnit := o.unitFrom (o.field 0x18 4) 0 k

/-- Whether every unit of a copy is issued. -/
def Op.allIssued (o : Op) : Bool := (o.unitAt o.issuedUnits).isNone

/-- The key of a collective. -/
def collKey (team seq : Nat) : Nat := team * 2 ^ 32 + seq

/-- A collective. -/
def State.collOf (s : State) (team seq : Nat) : Collective := FMap.get Collective.none s.eng.colls (collKey team seq)

/-- Whether the last unit of an op has been performed, so that a request to cancel it comes too late (R277): a matrix op then is
terminal, a copy may await acknowledgements or its completion, and a collective has its last round behind it. -/
def State.lastUnitDone (s : State) (n : Nat) : Bool :=
  let o := s.opOf n
  match o.kind with
  | .cpy => o.state != .pending && o.allIssued && o.flight.all (·.written)
  | .cpym => o.state != .pending && o.allIssued && o.flight.all (·.written)
  | .coll =>
    o.state != .pending && (match o.team with | some (t, q) => (s.collOf t q).met && (s.collOf t q).final | _ => false)
  | _ => false

/-! ## Ends and pauses -/

/-- Withdraws the parked units of an op (R251); reads that were combined with one of them are made again. -/
def State.withdrawOp (s : State) (n : Nat) : State :=
  let mine (u : AccessUnit) : Bool := match u.who with | .op m _ => m == n | _ => false
  let s := (s.opOf n).parked.foldl (fun s k => s.unfollow n k) s
  ({ s with mem := { s.mem with parked := s.mem.parked.filter fun u => !mine u } }).setOp n fun o =>
    { o with parked := [], follows := [] }

/-- Closes the multicast entry of an op without an increment (R331). -/
def State.closeEntry (s : State) (n : Nat) : State :=
  { s with eng := { s.eng with entries := s.eng.entries.filter fun e => decide (e.op ≠ n) } }

/-- An op becomes terminal: its units are gone, its snapshot may free, its COPY packet completes, and a multicast that did
not complete closes its entry (R80, R270, R331). -/
def State.endOp (s : State) (n : Nat) (st : OpState) : State :=
  if (s.opOf n).state.terminal then s
  else
    let s := (s.withdrawOp n).setOp n fun o =>
      { o with
        state := st, flight := [], unitLog := [], pendingStop := .none, cancelReq := false, under := false
        suspended := false
        units := if o.fault = opLINK then o.units else o.units + (o.flight.filter (·.written)).length }
    let s := if st = .done then s else s.closeEntry n
    s.freeSnaps.completePacket (s.opOf n).packet

/-- An op fails with a fault recorded (R270, R283). -/
def State.failOp (s : State) (n : Nat) (kind : BitVec 8) (synd faddr : Word) : State :=
  if (s.opOf n).state.terminal then s
  else (s.setOp n fun o => { o with fault := kind, synd := synd, faddr := faddr }).endOp n .failed

/-- An op pauses before a unit, with the next generation (R257, R281). -/
def State.pauseOp (s : State) (n : Nat) (kind : BitVec 8) (synd faddr : Word) : State :=
  s.setOp n fun o =>
    { o with state := .paused, fault := kind, synd := synd, faddr := faddr, gen := o.gen + 1 }

/-- OPPAGE: the op pauses and the resident kernel receives the event (R189, R385). -/
def State.opPage (s : State) (n : Nat) (synd faddr : Word) : State :=
  let s := s.pauseOp n (BitVec.ofNat 8 faultNOTRES) synd faddr
  let o := s.opOf n
  s.systemEvent o.part 0x15 o.ctx o.vcore 255 faddr (s.opHandle n) 0

/-- An engine tag trap (R257): the op pauses, and the handler of the engine vector of the memory whose lookup it was is sent an urgent
message; without a handler or a core to send to, the op fails. -/
def State.opTagTrap (s : State) (n : Nat) (t : TrapInfo) : State :=
  let (synd, faddr) := (t.tinfo, t.taddr)
  let s := s.pauseOp n opTAGTRAP synd faddr
  let o := s.opOf n
  match t.place with
  | some pa =>
    let v := FMap.get 0 s.mem.vectors (slotKey pa.space (bitsOf synd.toNat 16 3))
    if v = 0 then s.endOp n .failed
    else
      match s.msgOwner o.ctx faddr.toNat pa with
      | .core c =>
        s.sendMessage
          { Message.blank with
            dest := c, urgent := true, pc := v
            regs := [synd, s.opHandle n, 0, 0, faddr, o.vcore.setWidth 64]
            ctx := o.ctx, part := o.part, launch := o.launch
            ntok := (match o.launch with | some k => (s.launchOf k).lrec.ntok | none => 16)
            high := s.highLaunch o.launch }
      | _ => s.endOp n .failed
  | none => s.endOp n .failed

/-- The unit before which a copy stops: that of its first flight that stopped, or the next to be issued. -/
def Op.stopAt (o : Op) : Nat := ((o.flight.filter (·.stopped)).map (·.unit)).foldl min o.issuedUnits

/-- The address of a copy's first unit that is not acknowledged (R328), where that is not the one that stopped at an address: its
destination. -/
def Op.firstUnacked (o : Op) (faddr : Word) : Word :=
  let k := (o.flight.map (·.unit)).foldl min o.stopAt
  if !o.copies || k == o.stopAt then faddr
  else match o.unitAt k with | some u => BitVec.ofNat 64 u.dst | .none => faddr

/-- Whether a request to cancel an op takes effect: its last unit has not been performed (R277), or its context is being killed (R287). -/
def State.cancels (s : State) (n : Nat) : Bool :=
  (s.opOf n).cancelReq && (!s.lastUnitDone n || (s.ctxOf (s.opOf n).ctx).killing)

/-- What a piece that did not perform does to its op (R189, R257, R283). An op that is being cancelled does not pause: it is cancelled
before that unit (R277; log 92). -/
def State.stopOp (s : State) (n : Nat) (t : TrapInfo) : State :=
  let cancels := s.cancels n
  match t.cause with
  | .tagtrap => if cancels then s.endOp n .cancelled else s.opTagTrap n t
  | .tagmix => s.failOp n opTAGMIX t.tinfo t.taddr
  | .redirloop => s.failOp n opREDIRLOOP t.tinfo t.taddr
  | .uncorr =>
    if t.tinfo.toNat % 256 = 7 ∧ s.noTwine then s.failOp n opLINK 0 ((s.opOf n).firstUnacked t.taddr)
    else s.failOp n opUNCORR 0 t.taddr
  | _ =>
    if t.tinfo.toNat % 256 = faultNOTRES then
      if cancels then s.endOp n .cancelled else s.opPage n t.tinfo t.taddr
    else s.failOp n (t.tinfo.setWidth 8) t.tinfo t.taddr

/-- Whether every unit before the one that stops has been performed (R189, R257, R329). -/
def Op.stopDue (o : Op) : Bool := o.flight.all fun f => f.written || decide (o.stopAt ≤ f.unit)

/-- Applies what stopped a piece of an op, once every earlier unit has been performed; true when it did (R189, R250, R257,
R329). -/
def State.applyStop (s : State) (n : Nat) : Bool × State :=
  match (s.opOf n).pendingStop with
  | some (_, t) =>
    if (s.opOf n).stopDue then (true, (s.setOp n fun o => { o with pendingStop := .none }).stopOp n t) else (false, s)
  | none => (false, s)

/-- A unit of an op did not perform. -/
def State.stopUnit (s : State) (n key : Nat) (t : TrapInfo) : State := ((s.markStop n key t).applyStop n).2

/-- Applies what stopped an op, if it is due; true when there was such a stop. -/
def settleStop (n : Nat) : Act Bool := do
  let (b, s) := (← get).applyStop n
  set s
  pure b

/-- Cancels a copy at a unit that is parked: that unit and those after it that are not performed are withdrawn, and count as
not issued (R251, R277). -/
def Op.cutAt (o : Op) : Op :=
  if o.copies && !o.parked.isEmpty then
    let cut := (o.parked.map (· / 64)).foldl min o.issuedUnits
    { o with
      issuedUnits := cut
      flight := o.flight.filter fun f => f.written || (decide (f.unit ≤ cut) && !o.parked.contains f.key) }
  else o

/-- Requests cancellation (R277). A running op whose unit is parked is cancelled there; other running ops at their next
cancellation point. An op whose last unit has been performed is not cancelled, but a context kill withdraws what it has parked and
ends it (R251, R287). -/
def State.cancelOp (s : State) (n : Nat) (kill : Bool) : State :=
  let o := s.opOf n
  if s.lastUnitDone n && !kill then s
  else
    match o.state with
    | .pending => s.endOp n .cancelled
    | .queued => s.endOp n .cancelled
    | .paused => s.endOp n .cancelled
    | .running =>
      let s := (s.setOp n fun o => { o.cutAt with cancelReq := true }).withdrawOp n
      if !o.parked.isEmpty ∧ (s.opOf n).flight.isEmpty then s.endOp n .cancelled else s
    | _ => s

/-! ## Units of ops (R189, R283) -/

/-- The trap record of an engine translation fault. -/
def engineFault (acc : Acc) (kind level : Nat) (remote : Bool) (va : Nat) : TrapInfo :=
  { cause := .prot, tinfo := protInfo kind acc level remote, taddr := BitVec.ofNat 64 va }

/-- The access unit of a piece of an op's work. -/
def opUnit (n : Nat) (o : Op) (key : Nat) (acc : Acc) (p : Piece) (pa : PAddr) : AccessUnit :=
  { who := .op n key, ctx := o.ctx, sysm := o.sysm, core := o.core, va := p.va, pa := pa, xk := .engine, via := o.engine.via
    kind := if acc = .load then .erd else .ewr, acc := acc, offs := p.offs, act := p.act, trace := none
    redirected := false }

/-- Whether a unit of a copy before a piece's has not yet been performed, so that the piece cannot park (R249). -/
def Op.parksLater (o : Op) (key : Nat) : Bool := o.copies && o.flight.any fun f => !f.written && decide (f.unit < key / 64)

/-- Attempts a piece at a translated place: its answer, or none where it parks, pauses or fails its op. A unit of a copy that would
park while an earlier one is not performed is tried again. -/
def opPieceAt (n key : Nat) (acc : Acc) (p : Piece) (pa : PAddr) : Act (Option UnitRes) := do
  let s ← get
  match ← runUnit (opUnit n (s.opOf n) key acc p pa) with
  | .done r _ => do
    modify fun s => s.setOp n fun o => { o with unitLog := o.unitLog ++ [(key, r)] }
    pure (some r)
  | .asleep => pure none
  | .looked _ _ => pure none
  | .waits u => do
    if (s.opOf n).parksLater key then set s
    else modify fun s => (s.park u).setOp n fun o => { o with parked := o.parked ++ [key] }
    pure none
  | .stops t => do
    modify fun s => s.stopUnit n key t
    pure none

/-- The place of a piece of an op's work; none where it does not translate, or lies in a memory that is not `ok`. -/
def opPlace (n key : Nat) (acc : Acc) (ok : Space → Bool) (p : Piece) : Act (Option PAddr) := do
  let o := (← get).opOf n
  match ← translate { ctx := o.ctx, sysm := o.sysm, kind := .engine, rd := decide (acc = .load), wr := decide (acc = .store)
                      via := o.engine.via } p.va with
  | .fail k l rem => do
    modify fun s => s.stopUnit n key (engineFault acc k l rem p.va)
    pure none
  | .ok l =>
    if ok l.pa.space then pure (some l.pa)
    else do
      modify fun s => s.stopUnit n key (engineFault acc faultTARGET l.level false p.va)
      pure none

/-- Performs one piece of an op's work, by its key: from its log, or by translating and attempting it. `ok` is the
memories that it may lie in. -/
def opPiece (n key : Nat) (acc : Acc) (ok : Space → Bool) (p : Piece) : Act (Option UnitRes) := do
  let o := (← get).opOf n
  match o.unitLog.find? (fun x => x.1 == key) with
  | some x => pure (some x.2)
  | none =>
    if o.parked.contains key then pure none
    else
      match ← opPlace n key acc ok p with
      | none => pure none
      | some pa => opPieceAt n key acc p pa

/-- Performs some pieces in order; none where one of them did not perform. -/
def opPieces (n : Nat) (acc : Acc) (ok : Space → Bool) : List (Nat × Piece) → Act (Option (List (Nat × UnitRes)))
  | [] => pure (some [])
  | (k, p) :: ps => do
    match ← opPiece n k acc ok p with
    | none => pure none
    | some r =>
      match ← opPieces n acc ok ps with
      | none => pure none
      | some rs => pure (some ((k, r) :: rs))

/-- Forgets the answers of a unit that is complete. -/
def clearLog (n : Nat) (keep : Nat → Bool) : Act Unit :=
  modify fun s => s.setOp n fun o => { o with unitLog := o.unitLog.filter fun x => keep x.1 }

/-- An engine event as an outcome: its state, whatever it did. -/
def runEvent (a : Act Unit) (s : State) : Host.Outcome State Fault Refusal :=
  match a s with
  | .ok _ s' => .next s'
  | .error (.fault f) _ => .fault f
  | .error _ s' => .next s'

/-! ## Creation (R268, R272) -/

/-- The token of a word: TOKBUSY at or above `ntok` (R53, R274). -/
def needToken (k : Reg) : Act (Option Nat) := do
  let s ← get
  if s.me.ntok ≤ k.toNat then trapWith .tokbusy (BitVec.ofNat 64 k.toNat) 0
  else pure (FMap.get none s.me.tokens k.toNat)

/-- The token of a word that creates or adopts an op: TOKBUSY when it holds one (R268). The token that `after` names is checked with
its number (R53; log 100). -/
def needEmptyToken (k : Reg) : Act Unit := do
  let held ← needToken k
  match (← get).me.pfx.after with
  | some r => let _ ← needToken r
  | none => pure ()
  match held with
  | some _ => trapWith .tokbusy (BitVec.ofNat 64 k.toNat) 0
  | none => pure ()

/-- Changes a token. -/
def Strand.setToken (t : Strand) (k : Nat) (x : Option Nat) : Strand :=
  { t with tokens := FMap.set none t.tokens k x }

/-- Adds an op record. -/
def State.addOp (s : State) (o : Op) : Nat × State :=
  let n := s.eng.nextOp
  (n, { s with eng := { s.eng with ops := FMap.set Op.none s.eng.ops n o, nextOp := n + 1 }, ages := s.ages + 1 })

/-- Creates an op for the current strand, held by a token (R268 step 5): earlier acquires have returned (R273, R344). -/
def createOp (k : Reg) (kind : OpKind) (engine : Engine) (desc : List Byte) : Act Nat := do
  modMe Strand.acquired
  let s ← get
  let t := s.me
  let (slack, prio) := t.pfx.prio.getD (15, 0)
  let after := t.pfx.after.bind fun r => FMap.get none t.tokens r.toNat
  let o : Op :=
    { Op.none with
      state := .pending, kind := kind, engine := engine, ctx := t.ctx, part := t.part, sysm := t.sysm
      launch := t.launch, vcore := s.vcoreWord t.ctx t.core, core := t.core, tnum := t.tnum, strand := t.uid
      hm := t.hm, after := after, prio := prio, slack := slack, effSlack := slack.toNat, desc := desc
      rnd := t.pfx.mod.getD t.rmode, srseed := t.srseed, issue := s.ages, reach := s.ages }
  let (n, s) := s.addOp o
  set s
  modMe fun t => t.setToken k.toNat (some n)
  pure n

/-- Reads a descriptor as a strand load of kind LD (R298, R323). -/
def readDescriptor (va n : Nat) : Act (List Byte) := do
  checkAlign va n .load
  let rs ← strandAccess (.scalar n) .load 0 [{ va := va, offs := blockOffs va n, act := .read }]
  pure (rs.map (·.bytes)).flatten

/-- Whether two ops are of one strand and one engine instance (R272). -/
def Op.sameStrand (o p : Op) : Bool := o.strand == p.strand && o.packet.isNone && p.packet.isNone && o.engine == p.engine

/-- Whether an earlier op of the same strand and engine is in one of some states. -/
def State.earlierIn (s : State) (n : Nat) (st : OpState → Bool) : Bool :=
  let o := s.opOf n
  s.eng.ops.any fun p => p.2.sameStrand o && decide (p.2.issue < o.issue) && st p.2.state

/-- Whether an op may start at its engine: earlier ops of its strand there have started (R272). -/
def State.startable (s : State) (n : Nat) : Bool :=
  !s.earlierIn n fun st => decide (st = .pending ∨ st = .queued)

/-- What an op's `after` op says: 0 go on, 1 wait, 2 it ended other than DONE (R272). -/
def State.afterState (s : State) (n : Nat) : Nat :=
  match (s.opOf n).after with
  | none => 0
  | some a => if (s.opOf a).state = .done then 0 else if (s.opOf a).live then 1 else 2

/-! ## Detaching, orphans, names (R278–R280, R284) -/

/-- Gives an op an OP name (R278): none when the issue fails. -/
def State.nameOp (s : State) (n : Nat) (orphan : Bool) : Option Name × State :=
  match s.issueName classOP (s.opOf n).part 0 (some n) with
  | (some x, s) => (some x, s.setOp n fun o => { o with name := some (nameCounter x), orphan := o.orphan || orphan })
  | (none, s) => (none, s)

/-- Ends an OP name (R280): the reference of `odetach` is dropped when the shoot-down completes. -/
def State.endOpName (s : State) (c : Nat) : State :=
  match (s.nameEntry c).op with
  | some n => (s.startShootdown c true).setOp n fun o => { o with name := .none }
  | none => s.startShootdown c true

/-- The list write of one orphan (R284): the state, whether the name stands in the list, and whether every access of the list
translated. The count is incremented whenever its word can be written; ORPHFAIL also stands for a capacity
that could not be read (log 119). -/
def State.appendOrphan (s : State) (ctx : Nat) (list : Nat) (x : Option Name) : State × Bool × Bool :=
  let (cap, s) : Option Nat × State := match s.vreadNat ctx list 16 with
    | some (h, s) => (some (h % 2 ^ 64), s)
    | none => (none, s)
  match s.vtranslate ctx (list + 8) true with
  | none => (s, false, false)
  | some (pa, s) =>
    let count := ofLE (s.mem.bytesAt pa.key 8)
    let s := s.storeAt pa (toLE 8 (count + 1))
    match cap, x with
    | none, _ => (s, false, false)
    | some _, none => (s, false, true)
    | some cap, some name =>
      if count < cap then
        match s.vwrite ctx (list + 0x40 + 16 * count) (toLE 16 name.toNat) with
        | some s => (s, true, true)
        | none => (s, false, false)
      else (s, false, true)

/-- Detaches an op held by an ending strand onto its launch's orphan list, or cancels it (R284); the name issued for an op that
cannot be listed ends at once (log 118). -/
def State.orphanOp (s : State) (launch : Option Nat) (n : Nat) : State :=
  match launch with
  | none => s.cancelOp n false
  | some l =>
    let list := (s.launchOf l).lrec.orphaddr.toNat
    if list = 0 then s.cancelOp n false
    else
      let (x, s) := s.nameOp n true
      let (s, listed, reached) := s.appendOrphan (s.launchOf l).ctx list x
      let s := if reached then s else s.setLaunch l fun k => { k with orphfail := true }
      if listed then s
      else
        let s := match x with | some c => s.endOpName (nameCounter c) | none => s
        s.cancelOp n false

/-- Every token of an ending strand, in ascending number (R284). -/
def State.orphanTokens (s : State) (t : Strand) : State :=
  (List.range 16).foldl (fun s k =>
    match FMap.get none t.tokens k with
    | some n => s.orphanOp t.launch n
    | none => s) s

/-! ## The instructions (R274–R282) -/

/-- The status of an op in a register: DONE acquires the op's writes (R273). -/
def opStatus (d : Reg) (st : Nat) : Act Unit := orderedReg (if st = 0 then .acquire else .none) d (BitVec.ofNat 64 st)

/-- R275: waits at issue while the op is not terminal; then reaps it. -/
def execOwait (sw : Bool) (k d : Reg) (s : State) : Host.Outcome State Fault Refusal :=
  issue (.owait sw k d) sw .plain (do
    prologue true [] [d] [] []
    match ← needToken k with
    | none => statusTo d 6
    | some n =>
      let s ← get
      if (s.opOf n).live then waitIssue
      modMe fun t => t.setToken k.toNat none
      modify fun s => s.setOp n fun o => { o with reaped := true }
      opStatus d (s.opOf n).status
    pure .next) s

/-- R276. -/
def execOtest (sw : Bool) (k d : Reg) (s : State) : Host.Outcome State Fault Refusal :=
  issue (.otest sw k d) sw .plain (do
    prologue true [] [d] [] []
    match ← needToken k with
    | none => statusTo d 6
    | some n => opStatus d ((← get).opOf n).status
    pure .next) s

/-- R277: it completes when the op is terminal. -/
def execOcancel (sw : Bool) (k : Reg) (s : State) : Host.Outcome State Fault Refusal :=
  issue (.ocancel sw k) sw .plain (do
    prologue true [] [] [] []
    match ← needToken k with
    | none => longNone .none
    | some n =>
      modify fun s => s.cancelOp n false
      longNone (.op n)
    pure .next) s

/-- R277: resolution and the end of the name are one step. -/
def execOcancelN (sw : Bool) (a c : Reg) (s : State) : Host.Outcome State Fault Refusal :=
  issue (.ocancelN sw a c) sw .plain (do
    prologue true [a, a + 1] [c] [] []
    let name ← readPair a
    let r ← resolveHome name
    if r.st ≠ stLIVE then statusFor r.counter c r.st
    else if nameClass name ≠ classOP then statusFor r.counter c stBADCLASS
    else
      let gc ← entryNow c
      match r.counter with
      | none => statusTo c stLIVE
      | some e =>
        let s ← get
        let n := ((s.nameEntry e).op).getD 0
        modify fun s => (s.endOpName e).cancelOp n false
        startLong [(gc, BitVec.ofNat 64 stLIVE)] [] (.op n)
    pure .next) s

/-- R278. -/
def execOdetach (sw : Bool) (k d c : Reg) (s : State) : Host.Outcome State Fault Refusal :=
  issue (.odetach sw k d c) sw .plain (do
    prologue true [] [d, d + 1, c] [] []
    match ← needToken k with
    | none => pairStatus d c 0 stNULL
    | some n =>
      let s ← get
      let (x, s') := s.nameOp n false
      set s'
      match x with
      | none => pairStatus d c 0 stFULL
      | some x =>
        modMe fun t => t.setToken k.toNat none
        pairStatus d c x stLIVE
    pure .next) s

/-- R279: the name is taken and ended in the step that finds it LIVE. A foreign op stays on its chip (R278). -/
def execOadopt (sw : Bool) (k a c : Reg) (s : State) : Host.Outcome State Fault Refusal :=
  issue (.oadopt sw k a c) sw .plain (do
    prologue true [a, a + 1] [c] [] []
    needEmptyToken k
    let name ← readPair a
    let r ← resolveHome name
    if r.st ≠ stLIVE then statusFor r.counter c r.st
    else if nameClass name ≠ classOP then statusFor r.counter c stBADCLASS
    else
      match r.counter with
      | some e =>
        let s ← get
        modMe fun t => t.setToken k.toNat (s.nameEntry e).op
        modify fun s => s.endOpName e
      | none =>
        let s ← get
        let (n, s) := s.addOp { Op.none with state := .running, kind := .foreign (nameChip name), ctx := s.me.ctx
                                             part := s.me.part, launch := none, strand := s.me.uid }
        set s
        modMe fun t => t.setToken k.toNat (some n)
      statusFor r.counter c stLIVE
    pure .next) s

/-- Settles the pause that a handle names (R281): the answer 0 ACTED, 1 STALE, 2 DENIED. An op that goes on has no fault
recorded (log 93). -/
def State.settleOp (s : State) (ctx : Nat) (h : Word) (resume : Bool) : Nat × State :=
  match s.opOfHandle h with
  | none => (2, s)
  | some n =>
    let o := s.opOf n
    if o.ctx ≠ ctx then (2, s)
    else if o.state ≠ .paused ∨ o.gen.toNat ≠ h.toNat / 2 ^ 48 then (1, s)
    else if resume then
      (0, s.setOp n fun o =>
        { o with
          state := .running, fault := 0, synd := 0, faddr := 0, pendingStop := .none
          flight := o.flight.map fun f => { f with stopped := false } })
    else (0, s.endOp n .failed)

/-- Whether a handle is of a pause on another chip, which answers there (R281). -/
def State.handleAway (s : State) (ctx : Nat) (h : Word) : Bool :=
  let chip := bitsOf h.toNat 39 9
  decide (chip ≠ s.hub.chip) && (s.partOf (s.ctxOf ctx).part).reach.contains chip

/-- The settlement that a handle asks for (R281); what an op of another chip answers is free among the three outcomes. -/
def State.settlement (s : State) (ctx : Nat) (h : Word) (resume : Bool) : Nat × State :=
  if s.handleAway ctx h then ((Config.freeWord s.free).toNat % 3, { s with free := s.free + 1 })
  else s.settleOp ctx h resume

/-- `ofault` (R281). -/
def ofaultForm (a c : Reg) (resume : Bool) : Act Flow := do
  prologue true [a] [c] [] []
  let h ← readReg a
  let s ← get
  let (st, s') := s.settlement s.me.ctx h resume
  set s'
  statusTo c st
  pure .next

/-- R281. -/
def execOfaultResume (sw : Bool) (a c : Reg) (s : State) : Host.Outcome State Fault Refusal :=
  issue (.ofaultResume sw a c) sw .plain (ofaultForm a c true) s

/-- R281. -/
def execOfaultFail (sw : Bool) (a c : Reg) (s : State) : Host.Outcome State Fault Refusal :=
  issue (.ofaultFail sw a c) sw .plain (ofaultForm a c false) s

/-- Whether a fault of a kind has a syndrome: translation and tag faults (R282, R283). -/
def hasSyndrome (kind : BitVec 8) : Bool :=
  decide (1 ≤ kind.toNat ∧ kind.toNat ≤ 11) || kind == opTAGTRAP || kind == opTAGMIX || kind == opREDIRLOOP

/-- A word of a record that stands on another chip (R282), from two open words: the fields that R282 leaves to the op are open, the
others are as it says, and the state agrees with what this chip knows of the op. -/
def Op.awayWord (o : Op) (chip : Nat) (sel : Nat) (x y : Word) : Word :=
  let n := x.toNat
  let paused := decide (o.state = .running) && n % 4 == 3
  let st := if o.live then 1 + n % 4 else o.state.code
  let fault := if paused then (if x.getLsbD 2 then opTAGTRAP else BitVec.ofNat 8 faultNOTRES) else o.fault
  match sel with
  | 0 => BitVec.ofNat 64 (st + 2 ^ 8 * o.status + 2 ^ 16 * fault.toNat + 2 ^ 24 * (bitsOf n 8 8 % 3) + 2 ^ 32 * bitsOf n 16 3
      + 2 ^ 36 * bitsOf n 20 4 + 2 ^ 40 * natOf o.name.isSome + 2 ^ 41 * bitsOf n 25 1 + 2 ^ 48 * bitsOf n 32 5)
  | 1 => if hasSyndrome fault then y else 0
  | 2 => if paused ∨ o.state = .failed then y else 0
  | 3 => y
  | 4 => BitVec.ofNat 64 (bitsOf y.toNat 0 12 + 2 ^ 12 * chip + 2 ^ 32 * bitsOf y.toNat 12 12)
  | _ => 0

/-- R282. -/
def execOstat (sw : Bool) (k d : Reg) (p : BitVec 3) (s : State) : Host.Outcome State Fault Refusal :=
  issue (.ostat sw k d p) sw .plain (do
    prologue true [] [d] [] []
    match ← needToken k with
    | none => longReg d 0
    | some n =>
      let s ← get
      match (s.opOf n).kind with
      | .foreign chip => do
        let x ← drawWord
        longReg d ((s.opOf n).awayWord chip p.toNat x (← drawWord))
      | _ => longReg d ((s.opOf n).recordWord p.toNat)
    pure .next) s

/-- An op of another chip under a name that is LIVE there, in a state that this chip does not know. -/
def drawAway : Act Op := do
  let x ← drawWord
  let states : List OpState := [.running, .done, .failed, .cancelled]
  let st := (states[x.toNat % 4]?).getD .running
  pure { Op.none with
    state := st, name := some 0
    fault := if st = .failed then openKind (bitsOf x.toNat 8 8) else 0 }

/-- R282. -/
def execOstatN (sw : Bool) (a d c : Reg) (p : BitVec 3) (s : State) : Host.Outcome State Fault Refusal :=
  issue (.ostatN sw a d c p) sw .plain (do
    prologue true [a, a + 1] [d, c] [] []
    let name ← readPair a
    let r ← resolveHome name
    if r.st ≠ stLIVE then valueStatus r.counter d c 0 r.st
    else if nameClass name ≠ classOP then valueStatus r.counter d c 0 stBADCLASS
    else
      match r.counter with
      | none => do
        let o ← drawAway
        let x ← drawWord
        valueStatus none d c (o.awayWord (nameChip name) p.toNat x (← drawWord)) stLIVE
      | some e =>
        let s ← get
        valueStatus (some e) d c ((s.opOf (((s.nameEntry e).op).getD 0)).recordWord p.toNat) stLIVE
    pure .next) s

end Sys2Proof.Machine
end

