-- ==== Sys2Proof/Machine/Matrix.lean ====
section
/-!
DEFINITION. The matrix unit (15_matrix_instructions.md R288–R315): banks, the matrix instructions, and the events of
matrix ops.
-/

namespace Sys2Proof.Machine

/-! ## Banks (R288–R291) -/

/-- The control doubleword of an `mma` or `mmv` descriptor (R296, R310). -/
def Op.control (o : Op) : Nat := o.field 0x10 8

/-- The number of the last K-block (R296, R310). -/
def Op.lastBlock (o : Op) : Nat :=
  match o.kind with
  | .mmv _ => bitsOf o.control 0 11
  | _ => bitsOf o.control 0 7

/-- The bank of a matrix op (R292, R296, R310). -/
def Op.bank (o : Op) : Nat :=
  match o.kind with
  | .mma _ => bitsOf o.control 30 2
  | .mmv _ => bitsOf o.control 23 2
  | .mld b _ _ => b
  | .mst b _ _ _ => b
  | _ => 4

/-- Whether an op is accepted on a bank and not terminal (R291). A suspended `mmv` is on no bank (R314). -/
def Op.onBank (o : Op) (core b : Nat) : Bool :=
  o.accepted && o.live && !o.suspended && o.engine == .matrix core && o.bank == b

/-- The ops accepted on a bank. -/
def State.bankOps (s : State) (core b : Nat) : List (Nat × Op) := s.eng.ops.filter fun x => x.2.onBank core b

/-- The strand that holds a bank. -/
def State.bankHolder (s : State) (core b : Nat) : Option Strand :=
  match (s.bankOf core b).cond with
  | .held slot _ => s.strandAt core slot
  | _ => none

/-- Whether the current strand holds a bank of its core in its current mode (R289). -/
def State.holdsBank (s : State) (b : Nat) : Bool := decide ((s.bankOf s.me.core b).cond = .held s.me.slot s.me.hm)

/-- Whether pre-emption has stopped a strand (R394). -/
def Strand.preempted (t : Strand) : Bool := decide (t.wait = .draining)

/-- The key of a bank element (R288). -/
def accKey (core b r c : Nat) : Nat := 4096 * (4 * core + b) + 64 * r + c

/-- A bank element. -/
def Eng.elem (e : Eng) (core b r c : Nat) : Lane := FMap.get 0 e.acc (accKey core b r c)

/-- Writes a run of elements of one bank row, whose parity is then good. -/
def Eng.setRow (e : Eng) (core b r c : Nat) (xs : List Lane) : Eng :=
  let k := accKey core b r c
  { e with acc := FMap.setList 0 e.acc k xs
           badAcc := e.badAcc.filter fun x => decide (x < k ∨ k + xs.length ≤ x) }

/-- Whether a run of elements has a parity error (R390). -/
def Eng.badIn (e : Eng) (core b r c n : Nat) : Bool :=
  e.badAcc.any fun x => decide (accKey core b r c ≤ x ∧ x < accKey core b r c + n)

/-! ## The bank instructions (R293–R295) -/

/-- The allowance of a launch on a core (R289): nbank for each of its core groups placed there and not ended. -/
def State.allowance (s : State) (launch : Option Nat) (core : Nat) : Nat :=
  match launch with
  | none => 0
  | some l =>
    let x := s.launchOf l
    x.lrec.nbank * (x.groups.filter fun g => g.2.core == core && decide (g.2.left ≠ 0)).length

/-- The banks of a core that a launch holds. -/
def State.launchHolds (s : State) (launch : Option Nat) (core : Nat) : Nat :=
  ((List.range 4).filter fun b =>
    let k := s.bankOf core b
    k.launch == launch && (match k.cond with | .held _ _ => true | _ => false)).length

/-- `macq` (R293): its result is short. -/
def macqForm (d : Reg) (want : List Nat) (specific : Bool) : Act Flow := do
  prologue false [] [d] [] []
  let s ← get
  let core := s.me.core
  let a := s.allowance s.me.launch core
  if a = 0 then writeReg d 4
  else
    match if specific then want.find? s.holdsBank else none with
    | some b => writeReg d (BitVec.ofNat 64 b)
    | none =>
      if a ≤ s.launchHolds s.me.launch core then waitIssue
      match want.find? fun b => decide ((s.bankOf core b).cond = .free) with
      | none => waitIssue
      | some b =>
        modify fun s => s.setBank core b fun k =>
          { cond := .held s.me.slot s.me.hm, launch := s.me.launch, gen := k.gen + 1 }
        writeReg d (BitVec.ofNat 64 b)
  pure .next

/-- R293. -/
def execMacq (sw : Bool) (d : Reg) (s : State) : Host.Outcome State Fault Refusal :=
  issue (.macq sw d) sw .plain (macqForm d [0, 1, 2, 3] false) s

/-- R293. -/
def execMacqSpecific (sw : Bool) (d : Reg) (b : BitVec 2) (s : State) : Host.Outcome State Fault Refusal :=
  issue (.macqSpecific sw d b) sw .plain (macqForm d [b.toNat] true) s

/-- R294 step 1; it counts as an outstanding result until step 2. -/
def execMrel (sw : Bool) (b : BitVec 2) (s : State) : Host.Outcome State Fault Refusal :=
  issue (.mrel sw b) sw .plain (do
    prologue true [] [] [] []
    let s ← get
    if s.holdsBank b.toNat then
      modify fun s => s.setBank s.me.core b.toNat fun k => { k with cond := .releasing, gen := k.gen + 1 }
      longNone (.bank s.me.core b.toNat)
    else longNone .none
    pure .next) s

/-- R295. -/
def execMzero (sw : Bool) (b : BitVec 2) (s : State) : Host.Outcome State Fault Refusal :=
  issue (.mzero sw b) sw .plain (do
    let s ← get
    if s.holdsBank b.toNat then
      if !(s.bankOps s.me.core b.toNat).isEmpty then waitIssue
      modify fun s => { s with eng := zeroBank s.eng s.me.core b.toNat }
    pure .next) s

/-- The generations of the banks of a mask, in ascending bank number (R304). -/
def State.maskGens (s : State) (core : Nat) (mask : Nat) : List Nat :=
  ((List.range 4).filter fun b => bitsOf mask b 1 == 1).map fun b => (s.bankOf core b).gen

/-- Units of 1,024 ns of `time` (R304). -/
def State.capClock (s : State) : Nat := s.ns.toNat / 1024

/-- The capability key of a core (R304, R421). -/
def State.coreKey (s : State) (core : Nat) : Word := Config.capKey s.pkg.keySerial core

/-- R304. -/
def execMcap (sw : Bool) (d i l : Reg) (m : BitVec 4) (s : State) : Host.Outcome State Fault Refusal :=
  issue (.mcap sw d i l m) sw .plain (do
    prologue true [i, l] [d] [] []
    let gi ← readReg i
    let gl ← readReg l
    let s ← get
    let core := s.me.core
    let held := (List.range 4).all fun b => !m.getLsbD b || s.holdsBank b
    if !held ∨ 4096 ≤ gi.toNat ∨ ((s.ctxOf s.me.ctx).coreAt gi.toNat).isNone ∨ gl = 0 ∨ 32767 < gl.toNat then longReg d 0
    else
      let c := gi.toNat + 2 ^ 12 * ((s.vcoreWord s.me.ctx core).toNat % 4096) + 2 ^ 24 * m.toNat
        + 2 ^ 28 * ((s.capClock + gl.toNat) % 65536)
      let check := Config.capCheck (s.coreKey core) (BitVec.ofNat 44 c) s.me.ctx (s.maskGens core m.toNat)
      longReg d (BitVec.ofNat 64 (c + 2 ^ 44 * check.toNat))
    pure .next) s

/-- R294 step 2: the last accepted op on a Releasing bank is terminal. -/
def execBankReleaseComplete (core : Nat) (bank : BitVec 2) (s : State) : Host.Outcome State Fault Refusal :=
  let b := bank.toNat
  if (s.bankOf core b).cond = .releasing ∧ (s.bankOps core b).isEmpty then
    .next ({ s with eng := zeroBank s.eng core b }.setBank core b fun k => { k with cond := .free, launch := none })
  else .next s

/-! ## Creating matrix ops (R290, R291, R298, R306, R308–R311) -/

/-- Creates a local matrix op: it waits at issue while its bank has two (R291), and is accepted or fails at issue (R290). -/
def createLocal (k : Reg) (kind : OpKind) (b : Nat) (desc : List Byte) (snap : Option Nat) : Act Unit := do
  let s ← get
  if 2 ≤ (s.bankOps s.me.core b).length then waitIssue
  let ok := s.holdsBank b
  let n ← createOp k kind (.matrix s.me.core) desc
  modify fun s => s.setOp n fun o => { o with snapshot := snap }
  modify fun s => if ok then s.setOp n fun o => { o with accepted := true } else s.failOp n opCAPDENIED 0 0

/-- The core that a capability's grantor field names (R305, R307). -/
def State.capTarget (s : State) (ctx cap : Nat) : Option Nat := (s.ctxOf ctx).coreAt (bitsOf cap 12 12)

/-- Creates the op of a remote command (R306): its command reaches the grantor's unit later. -/
def createRemote (k : Reg) (kind : OpKind) (cap : Nat) (desc : List Byte) (snap : Option Nat) : Act Unit := do
  let s ← get
  match s.capTarget s.me.ctx cap with
  | some core =>
    let n ← createOp k kind (.matrix core) desc
    modify fun s => s.setOp n fun o => { o with snapshot := snap }
  | none =>
    let n ← createOp k kind (.matrix s.me.core) desc
    modify fun s => s.failOp n opCAPDENIED 0 0

/-- `mma` (R298). -/
def mmaForm (k a : Reg) (z : Bool) : Act Flow := do
  prologue false [a] [] [] []
  needEmptyToken k
  let va ← readReg a
  let desc ← readDescriptor va.toNat 32
  let c := ofLE ((desc.drop 0x10).take 8)
  let cap := ofLE ((desc.drop 0x18).take 8)
  let snap ← if bitsOf c 27 2 = 0 then pure none
    else do
      let _ ← needShape (decide (bitsOf c 29 1 = 1))
      pure ((← get).me.shape (decide (bitsOf c 29 1 = 1)))
  if cap = 0 then createLocal k (.mma z) (bitsOf c 30 2) desc snap
  else createRemote k (.mma z) cap desc snap
  pure .next

/-- R299. -/
def execMma (sw : Bool) (k a : Reg) (s : State) : Host.Outcome State Fault Refusal :=
  issue (.mma sw k a) sw .engine (mmaForm k a false) s

/-- R299: the bank is zeroed with the first K-block. -/
def execMmaZ (sw : Bool) (k a : Reg) (s : State) : Host.Outcome State Fault Refusal :=
  issue (.mmaZ sw k a) sw .engine (mmaForm k a true) s

/-- `mmv` (R310). -/
def mmvForm (k a : Reg) (z : Bool) : Act Flow := do
  prologue false [a] [] [] []
  needEmptyToken k
  let va ← readReg a
  let desc ← readDescriptor va.toNat 32
  createLocal k (.mmv z) (bitsOf (ofLE ((desc.drop 0x10).take 8)) 23 2) desc none
  pure .next

/-- R311. -/
def execMmv (sw : Bool) (k a : Reg) (s : State) : Host.Outcome State Fault Refusal :=
  issue (.mmv sw k a) sw .engine (mmvForm k a false) s

/-- R311. -/
def execMmvZ (sw : Bool) (k a : Reg) (s : State) : Host.Outcome State Fault Refusal :=
  issue (.mmvZ sw k a) sw .engine (mmvForm k a true) s

/-- R308. -/
def execMld (sw : Bool) (k a p : Reg) (b : BitVec 2) (s : State) : Host.Outcome State Fault Refusal :=
  issue (.mld sw k a p b) sw .engine (do
    prologue false [a, p] [] [] []
    needEmptyToken k
    let addr ← readReg a
    let stride ← readReg p
    checkAlign addr.toNat 64 .load
    checkAlign stride.toNat 64 .load
    createLocal k (.mld b.toNat addr stride) b.toNat [] none
    pure .next) s

/-- The seed after the 4,096 draws of an `mst` (R209). -/
def drawMany : Nat → Word → Word
  | 0, x => x
  | n + 1, x => drawMany n (nextRandom x).2

/-- R309: its draws are taken from a copy of `srseed`, which moves past them at issue (R209). -/
def execMst (sw : Bool) (k a p : Reg) (f : BitVec 4) (b : BitVec 2) (s : State) : Host.Outcome State Fault Refusal :=
  issue (.mst sw k a p f b) sw .engine (do
    prologue false [a, p] [] [] []
    needEmptyToken k
    let addr ← readReg a
    let stride ← readReg p
    checkAlign addr.toNat 64 .store
    checkAlign stride.toNat 64 .store
    createLocal k (.mst b.toNat addr stride f.toNat) b.toNat [] none
    let c ← controlNow
    if c.sr then modMe fun t => { t with srseed := drawMany 4096 t.srseed }
    pure .next) s

/-! ## Remote commands (R306) -/

/-- The checks of a remote command at the grantor's unit, in one step. -/
def State.capOk (s : State) (o : Op) (core : Nat) : Bool :=
  let cap := o.field 0x18 8
  let b := o.bank
  let live : Bool := match s.bankHolder core b with
    | some t => !t.preempted
    | none => false
  decide (bitsOf cap 0 12 = o.vcore.toNat % 4096) && bitsOf cap (24 + b) 1 == 1 && live
    && (Config.capCheck (s.coreKey core) (BitVec.ofNat 44 cap) o.ctx (s.maskGens core (bitsOf cap 24 4))).toNat == bitsOf cap 44 20
    && (let d := (bitsOf cap 28 16 + 65536 - s.capClock % 65536) % 65536
        decide (1 ≤ d ∧ d ≤ 32767))

/-- Whether a remote command is the first of those that wait for its bank in the command buffer of a core's unit (R291). -/
def State.firstInBuffer (s : State) (n core : Nat) : Bool :=
  let o := s.opOf n
  s.eng.ops.all fun x =>
    !(x.2.live && x.2.arrived && !x.2.accepted && x.2.engine == .matrix core && x.2.bank == o.bank) || decide (o.reach ≤ x.2.reach)

/-- Whether an earlier remote command of an op's strand for its bank is still on its way: one strand's ops on a bank take effect in issue
order (R291). -/
def State.behindOwn (s : State) (n : Nat) : Bool :=
  let o := s.opOf n
  s.eng.ops.any fun x => x.2.sameStrand o && decide (x.2.issue < o.issue) && x.2.live && !x.2.arrived && !x.2.accepted && x.2.bank == o.bank

/-- R306: a command arrives at the command buffer, after the earlier ones of its strand for its bank; then, once its bank has room and
those that arrived before it have gone, it reaches the unit and is checked. -/
def execRemoteCommand (op : Nat) (s : State) : Host.Outcome State Fault Refusal :=
  let o := s.opOf op
  match o.kind, o.engine with
  | .mma _, .matrix core =>
    if !o.live ∨ o.accepted then .next s
    else if !o.arrived then
      if s.behindOwn op then .next s
      else .next ({ s with ages := s.ages + 1 }.setOp op fun o => { o with arrived := true, reach := s.ages })
    else if (s.bankOps core o.bank).length < 2 ∧ s.firstInBuffer op core then
      if s.capOk o core then
        .next ({ s with ages := s.ages + 1 }.setOp op fun o => { o with accepted := true, reach := s.ages })
      else .next (s.failOp op opCAPDENIED 0 0)
    else .next s
  | _, _ => .next s

/-! ## K-blocks (R211, R297, R299–R302, R311) -/

/-- Memories that may hold an operand: the local stores and the pool of a ply (R301, R310). -/
def Space.inPly (sp : Space) (ply : Nat) : Bool :=
  match sp with
  | .ls c => decide (corePly c = ply)
  | .pool p => decide (p = ply)
  | _ => false

/-- The key of block `i` of operand row `r`. -/
def rowKey (r i : Nat) : Nat := 65536 * r + i

/-- Blocks of a row that K-block `kb` uses, for a row of `e` elements a block (R296). -/
def rowBlocks (e kb : Nat) : List Nat :=
  (List.range ((32 * kb + 31) / e + 1 - 32 * kb / e)).map (32 * kb / e + ·)

/-- One block of an operand row. -/
structure RowBlock where
  bytes : List Byte
  desc : BitVec 48
  deriving DecidableEq, Repr

/-- The value of element `k` of a row of format `f` (R297): NaN where its block has another format, or one that is no
matrix format. -/
def rowValue (f : Nat) (blocks : List (Nat × RowBlock)) (k : Nat) : Val :=
  match blocks.find? (fun b => b.1 == k / perBlock f) with
  | none => .nan false
  | some b =>
    if b.2.desc.toNat % 256 = f ∧ 2 ≤ f ∧ f ≤ 7 then elementVal b.2.desc b.2.bytes (k % perBlock f) else .nan false

/-- The blocks of a row among an op's answers. -/
def Op.rowOf (o : Op) (r : Nat) : List (Nat × RowBlock) :=
  (o.unitLog.filter fun x => x.1 / 65536 == r).map fun x => (x.1 % 65536, { bytes := x.2.bytes, desc := x.2.desc })

/-- The 32 values of a row in a K-block. -/
def Op.rowVals (o : Op) (r kb : Nat) : List Val :=
  let f := (o.fmts[r]?).getD 0
  let bs := o.rowOf r
  (List.range 32).map fun k => rowValue f bs (32 * kb + k)

/-- An operand tile: its rows' numbers from `first`, where row `r` lies, and the memories that may hold it. -/
structure Tile where
  first : Nat
  rows : Nat
  base : Nat
  stride : Nat
  ok : Space → Bool

/-- The read of block `i` of row `r` of a tile. -/
def Tile.read (t : Tile) (r i : Nat) : Nat × Piece :=
  (rowKey (t.first + r) i,
   { va := (t.base - t.base % 64 + 64 * t.stride * r + 64 * i) % 2 ^ 64, offs := List.range 64, act := .readBlock })

/-- The operand tiles of an `mma` (R296, R301). -/
def Op.mmaTiles (o : Op) (core : Nat) : List Tile :=
  let c := o.control
  [{ first := 0, rows := 64, base := o.field 0 8, stride := bitsOf c 7 10, ok := fun sp => sp.inPly (corePly core) },
   { first := 64, rows := 64, base := o.field 8 8, stride := bitsOf c 17 10, ok := fun sp => sp.inPly (corePly core) }]

/-- Outputs and vectors of an `mmv` (R310). -/
def Op.outs (o : Op) : Nat := bitsOf o.control 11 9 + 1
def Op.vecs (o : Op) : Nat := bitsOf o.control 20 3 + 1

/-- The operand tiles of an `mmv` (R310, R311). -/
def Op.mmvTiles (o : Op) (core : Nat) : List Tile :=
  [{ first := 0, rows := o.outs, base := o.field 0 8, stride := o.field 0x18 4, ok := fun sp => decide (sp = .hbm) },
   { first := o.outs, rows := o.vecs, base := o.field 8 8, stride := o.field 0x1C 2
     ok := fun sp => sp.inPly (corePly core) }]

/-- The operand tiles of an op on a core's unit. -/
def Op.tiles (o : Op) (core : Nat) : List Tile :=
  match o.kind with
  | .mma _ => o.mmaTiles core
  | .mmv _ => o.mmvTiles core
  | _ => []

/-- The format of an operand row, once it is known. -/
def Op.rowFormat (o : Op) (r : Nat) : Nat := (o.fmts[r]?).getD 0

/-- The blocks of a row that a K-block uses. -/
def Op.blocksOf (o : Op) (r kb : Nat) : List Nat := rowBlocks (perBlock (o.rowFormat r)) kb

/-- Whether operands may be fetched (R302): from QUEUED on. -/
def Op.mayFetch (o : Op) : Bool :=
  decide (o.state = .queued ∨ o.state = .running) && !o.haltReq && !o.suspended && !o.cancelReq && o.parked.isEmpty

/-- An operand block that an op may fetch, chosen by an open word (R302): of the K-block that it adds next, or of the one after. The
first block of a row comes first, since it gives the row's format. -/
def Op.pickRead (o : Op) (core : Nat) (w : Word) : Option (Tile × Nat × Piece) :=
  let r := w.toNat % 1024
  let kb := o.units + bitsOf w.toNat 10 1
  let bs := if o.fmts.isEmpty then [0] else o.blocksOf r kb
  match (o.tiles core).find? fun t => decide (t.first ≤ r ∧ r < t.first + t.rows ∧ kb ≤ o.lastBlock) with
  | some t => some (t, t.read (r - t.first) ((bs[bitsOf w.toNat 11 3 % bs.length]?).getD 0))
  | .none => .none

/-- Serves by one read a request that another matrix unit of the ply makes for the same block (R303): which one is open. It takes the
answer of that read, or waits for it where the read has parked. -/
def shareRead (n key core : Nat) (pa : PAddr) (got : Option UnitRes) : Act Unit := do
  let w ← drawWord
  let s ← get
  let others := s.eng.ops.filter fun x => decide (x.1 ≠ n) && x.2.mayFetch && (match x.2.engine with
    | .matrix c => decide (c ≠ core ∧ corePly c = corePly core)
    | _ => false)
  match others[bitsOf w.toNat 16 40 % others.length]? with
  | none => pure ()
  | some (m, o) =>
    match o.engine with
    | .matrix c =>
      match o.pickRead c w with
      | none => pure ()
      | some (t, k, p) =>
        if o.unitLog.any fun x => x.1 == k then pure ()
        else
          match ← translate { ctx := o.ctx, sysm := o.sysm, kind := .engine, rd := true, wr := false, via := o.engine.via } p.va with
          | .ok l =>
            if l.pa = pa ∧ t.ok l.pa.space then
              modify fun s => s.setOp m fun o => match got with
                | some r => { o with unitLog := o.unitLog ++ [(k, r)] }
                | none => { o with parked := o.parked ++ [k], follows := o.follows ++ [(k, n, key)] }
          | .fail _ _ _ => pure ()
    | _ => pure ()

/-- Some requests are combined with a read: at most one of each other unit. -/
def shareReads (n key core : Nat) (pa : PAddr) (got : Option UnitRes) : Nat → Act Unit
  | 0 => pure ()
  | k + 1 => do
    if ← drawBit then
      shareRead n key core pa got
      shareReads n key core pa got k

/-- Reads an operand block of an op, which may serve other units of the ply too (R303); false where it did not perform. -/
def readBlock (n core : Nat) (ok : Space → Bool) (key : Nat) (p : Piece) : Act Bool := do
  let o := (← get).opOf n
  if o.unitLog.any fun x => x.1 == key then return true
  if o.parked.contains key then return false
  match ← opPlace n key .load ok p with
  | none => pure false
  | some pa =>
    match ← opPieceAt n key .load p pa with
    | some r => do
      shareReads n key core pa (some r) 15
      pure true
    | none => do
      if ((← get).opOf n).parked.contains key then shareReads n key core pa none 15
      pure false

/-- Reads operand blocks in order; false where one did not perform. -/
def readBlocks (n core : Nat) : List (Tile × Nat × Piece) → Act Bool
  | [] => pure true
  | (t, key, p) :: ps => do
    if ← readBlock n core t.ok key p then readBlocks n core ps else pure false

/-- Some blocks of the rows of some tiles. -/
def tileReads (tiles : List Tile) (which : Nat → List Nat) : List (Tile × Nat × Piece) :=
  tiles.flatMap fun t => (List.range t.rows).flatMap fun r => (which (t.first + r)).map fun i => (t, t.read r i)

/-- Reads the operands of a K-block: at the first the formats of the rows (R297, R302). -/
def readOperands (n core kb : Nat) : Act Bool := do
  let o := (← get).opOf n
  let tiles := o.tiles core
  let firsts ← if o.fmts.isEmpty then readBlocks n core (tileReads tiles fun _ => [0]) else pure true
  if !firsts then return false
  modify fun s => s.setOp n fun o =>
    if o.fmts.isEmpty then
      { o with fmts := (List.range (tiles.foldl (fun a t => a + t.rows) 0)).map fun r =>
          match (o.rowOf r).head? with
          | some b => b.2.desc.toNat % 256
          | none => 0 }
    else o
  let o := (← get).opOf n
  readBlocks n core (tileReads tiles fun r => o.blocksOf r kb)

/-- Included (R300). -/
def includedIn (sh : Snapshot) (mode rowA rowB i j k : Nat) : Bool :=
  if mode = 0 then true
  else
    match sh.segment (rowA + i) with
    | none => false
    | some g =>
      if mode = 3 then decide (sh.segment (rowB + k) = some g)
      else if sh.segment (rowB + j) ≠ some g then false
      else if mode = 2 ∨ sh.causal then decide (rowB + j ≤ rowA + i)
      else true

/-- One element after a K-block: one rounding of the sum of its included products (R211, R212). -/
def accStep (acc : Lane) (a b : List Val) (inc : Nat → Bool) : Lane :=
  let ps := ((List.range 32).zip (a.zip b)).filterMap fun x => if inc x.1 then some (mulVal x.2.1 x.2.2) else none
  roundNE32 (addVal (laneVal acc) (sumVals ps) false)

/-- An `mmv` that runs, between K-blocks, stops while the strand that holds its bank stops to be saved (R314). -/
def State.suspendOp (s : State) (n : Nat) : State :=
  let o := s.opOf n
  match o.kind, o.engine with
  | .mmv _, .matrix core =>
    match s.bankHolder core o.bank with
    | some t => if t.preempted ∧ (o.state = .running ∨ o.state = .paused) ∧ o.accepted ∧ !o.under then s.setOp n fun o => { o with suspended := true } else s
    | none => s
  | _, _ => s

/-- The `mmv` ops on the banks of a core stop where their holders do. -/
def State.suspendOps (s : State) (core : Nat) : State :=
  (s.eng.ops.filter fun x => x.2.engine == .matrix core).foldl (fun s x => s.suspendOp x.1) s

/-- What a K-block event needs: a running op, not halted; with a cancel request only a K-block under way (R277). -/
def Op.mayGoOn (o : Op) : Bool :=
  decide (o.state = .running) && !o.haltReq && !o.suspended && (!o.cancelReq || o.under) && o.parked.isEmpty

/-! ## The order of service (R291, R314, R394) -/

/-- Whether an op is the first of those accepted on its bank (R291). -/
def State.firstOnBank (s : State) (n core : Nat) : Bool :=
  let o := s.opOf n
  o.accepted && !o.suspended && (s.bankOps core o.bank).all fun x => decide (o.reach ≤ x.2.reach)

/-- Whether the strand that holds a bank stops to be saved, so that the bank's ops drain (R314). -/
def State.drains (s : State) (core b : Nat) : Bool :=
  match s.bankHolder core b with
  | some t => t.preempted
  | none => false

/-- Whether every operand block of an op's next K-block has been read. -/
def Op.inHand (o : Op) (core : Nat) : Bool :=
  !o.fmts.isEmpty && (tileReads (o.tiles core) fun r => o.blocksOf r o.units).all fun x => o.unitLog.any fun y => y.1 == x.2.1

/-- Whether an op stands before another at a matrix unit: priority, then arrival (R291). -/
def Op.ahead (a b : Op) : Bool := decide (b.prio.toNat < a.prio.toNat ∨ (a.prio = b.prio ∧ a.reach < b.reach))

/-- Whether a unit can serve an op now. -/
def State.canServe (s : State) (n core : Nat) : Bool :=
  let o := s.opOf n
  o.engine == .matrix core && s.firstOnBank n core
    && (o.mayGoOn || (decide (o.state = .queued) && !o.haltReq && s.startable n))

/-- Whether a core's matrix unit serves an op next: no op that it can serve is on a draining bank instead (R394), and none whose
K-block has its operands in hand stands before it (R291). A K-block under way goes on. -/
def State.unitServes (s : State) (n core : Nat) : Bool :=
  let o := s.opOf n
  o.under || s.eng.ops.all fun x =>
    x.1 == n || !s.canServe x.1 core
      || (if s.drains core x.2.bank = s.drains core o.bank then !(x.2.ahead o && x.2.inHand core) else !s.drains core x.2.bank)

/-- A K-block ends: units count, and the op ends with its last (R299). What has been read for the next K-block alone is kept; a block
that both use may be kept or read again (R302). -/
def endKblock (n : Nat) : Act Unit := do
  let o := (← get).opOf n
  let keep ← drawBit
  let kb := o.units + 1
  modify fun s => s.setOp n fun o =>
    { o with units := kb, under := false
             unitLog := o.unitLog.filter fun x =>
               let r := x.1 / 65536
               let i := x.1 % 65536
               (o.blocksOf r kb).contains i && (keep || !(o.blocksOf r (kb - 1)).contains i) }
  if o.lastBlock < kb then modify fun s => s.endOp n .done
  else if o.cancelReq then modify fun s => s.endOp n .cancelled
  else modify fun s => s.suspendOp n

/-- Reads one operand block ahead, chosen freely, where it performs (R302); a block that does not is met again. -/
def fetchAhead (n core : Nat) : Act Unit := do
  let w ← drawWord
  let s ← get
  match (s.opOf n).pickRead core w with
  | none => pure ()
  | some (t, k, p) => if !(← readBlock n core t.ok k p) then set s

/-- One K-block of an `mma` (R299). -/
def mmaBlock (n core : Nat) (z : Bool) : Act Unit := do
  if ← settleStop n then return
  let o := (← get).opOf n
  if !o.mayGoOn || !(← get).unitServes n core then return
  let c := o.control
  let kb := o.units
  modify fun s => s.setOp n fun o => { o with under := true }
  let got ← readOperands n core kb
  if !got then return
  if z ∧ kb = 0 then modify fun s => { s with eng := zeroBank s.eng core o.bank }
  let s ← get
  let o := s.opOf n
  if s.eng.badIn core o.bank 0 0 4096 then
    modify fun s => s.failOp n opUNCORR 0 0
    return
  let sh := match o.snapshot with | some k => s.snapOf k | none => Snapshot.none
  let cols := (List.range 64).map fun j => o.rowVals (64 + j) kb
  let rows := (List.range 64).map fun i =>
    let a := o.rowVals i kb
    (i, ((List.range 64).zip cols).map fun x =>
      accStep (s.eng.elem core o.bank i x.1) a x.2
        fun k => includedIn sh (bitsOf c 27 2) (bitsOf c 32 16) (bitsOf c 48 16) i x.1 (32 * kb + k))
  set { s with eng := rows.foldl (fun (e : Eng) (r : Nat × List Lane) => e.setRow core o.bank r.1 0 r.2) s.eng }
  endKblock n

/-- R299: one K-block, or an operand block of one read ahead (R302). -/
def execMmaKblock (op : Nat) (s : State) : Host.Outcome State Fault Refusal :=
  match (s.opOf op).kind, (s.opOf op).engine with
  | .mma z, .matrix core =>
    runEvent (do
      if (s.opOf op).mayFetch && (← drawBit) then fetchAhead op core else mmaBlock op core z) s
  | _, _ => .next s

/-- One K-block of an `mmv` (R311). -/
def mmvBlock (n core : Nat) (z : Bool) : Act Unit := do
  if ← settleStop n then return
  let o := (← get).opOf n
  if !o.mayGoOn || !(← get).unitServes n core then return
  let kb := o.units
  let outs := o.outs
  let vecs := o.vecs
  modify fun s => s.setOp n fun o => { o with under := true }
  let got ← readOperands n core kb
  if !got then return
  if z ∧ kb = 0 then modify fun s => { s with eng := zeroBank s.eng core o.bank }
  let s ← get
  let o := s.opOf n
  let rowsOf : List (Nat × Nat × Nat) := (List.range vecs).flatMap fun b =>
    (List.range ((outs + 63) / 64)).map fun g => (b, g, min 64 (outs - 64 * g))
  if rowsOf.any fun x => s.eng.badIn core o.bank (8 * x.2.1 + x.1) 0 x.2.2 then
    modify fun s => s.failOp n opUNCORR 0 0
    return
  let ws := (List.range outs).map fun m => o.rowVals m kb
  let eng := rowsOf.foldl (fun (e : Eng) (x : Nat × Nat × Nat) =>
    let r := 8 * x.2.1 + x.1
    let v := o.rowVals (outs + x.1) kb
    let w := (ws.drop (64 * x.2.1)).take x.2.2
    e.setRow core o.bank r 0 (((List.range x.2.2).zip w).map fun y =>
      accStep (s.eng.elem core o.bank r y.1) y.2 v fun _ => true)) s.eng
  set { s with eng := eng }
  endKblock n

/-- R311: one K-block, or an operand block of one read ahead. -/
def execMmvKblock (op : Nat) (s : State) : Host.Outcome State Fault Refusal :=
  match (s.opOf op).kind, (s.opOf op).engine with
  | .mmv z, .matrix core =>
    runEvent (do
      if (s.opOf op).mayFetch && (← drawBit) then fetchAhead op core else mmvBlock op core z) s
  | _, _ => .next s

/-! ## mld and mst (R308, R309) -/

/-- A unit of bank rows ends. -/
def endRowUnit (n total : Nat) : Act Unit := do
  let o := (← get).opOf n
  modify fun s => s.setOp n fun o => { o with units := o.units + 1, under := false, unitLog := [] }
  if total ≤ o.units + 1 then modify fun s => s.endOp n .done
  else if o.cancelReq then modify fun s => s.endOp n .cancelled

/-- 32-bit little-endian words of bytes. -/
def lanesOf : Nat → List Byte → List Lane
  | 0, _ => []
  | n + 1, bs => BitVec.ofNat 32 (ofLE (bs.take 4)) :: lanesOf n (bs.drop 4)

/-- The next block of a unit of bank rows that has not been read or written: each block is a step of its own (R308). -/
def Op.nextBlock (o : Op) (ps : List (Nat × Piece)) : Option (Nat × Piece) := ps.find? fun x => !(o.unitLog.any fun y => y.1 == x.1)

/-- A block of a bank row is loaded (R308, R309). The row enters the bank with its last block. -/
def mldRow (n core b : Nat) (addr stride : Word) : Act Unit := do
  let u := ((← get).opOf n).units
  modify fun s => s.setOp n fun o => { o with under := true }
  let base := (addr.toNat + u * stride.toNat) % 2 ^ 64
  let ps := (List.range 4).map fun i =>
    (i, ({ va := (base + 64 * i) % 2 ^ 64, offs := List.range 64, act := .read } : Piece))
  match ((← get).opOf n).nextBlock ps with
  | some (k, p) => let _ ← opPiece n k .load (fun _ => true) p
  | none => pure ()
  let o := (← get).opOf n
  if o.live ∧ (o.nextBlock ps).isNone then
    let lanes := lanesOf 64 (ps.flatMap fun x => ((o.unitLog.find? fun y => y.1 == x.1).map (·.2.bytes)).getD [])
    modify fun s => { s with eng := s.eng.setRow core b u 0 lanes }
    endRowUnit n 64

/-- One or two bank rows are quantized, and a block of them is stored (R308, R309). -/
def mstRow (n core b : Nat) (addr stride : Word) (fmt : Nat) : Act Unit := do
  let s ← get
  let o := s.opOf n
  let u := o.units
  let per := if fmt = 6 then 2 else 1
  if s.eng.badIn core b (per * u) 0 (64 * per) then
    modify fun s => s.failOp n opUNCORR 0 0
    return
  modify fun s => s.setOp n fun o => { o with under := true }
  let vals := (FMap.getList 0 s.eng.acc (accKey core b (per * u) 0) (64 * per)).map laneVal
  let (blocks, fl, seed) := quantize fmt ((fmtOfCode fmt).getD .f32) (controlOf o.rnd) (64 * per / perBlock fmt) vals o.srseed
  let base := (addr.toNat + u * stride.toNat) % 2 ^ 64
  let ps := ((List.range blocks.length).zip blocks).map fun x =>
    (x.1, ({ va := (base + 64 * x.1) % 2 ^ 64, offs := List.range 64, act := .writeBlock x.2.1 x.2.2 } : Piece))
  match o.nextBlock ps with
  | some (k, p) => let _ ← opPiece n k .store (fun _ => true) p
  | none => pure ()
  let o := (← get).opOf n
  if o.live ∧ (o.nextBlock ps).isNone then
    modify fun s => s.setOp n fun o => { o with srseed := seed, flags := o.flags ||| fl.extractLsb' 4 5 }
    endRowUnit n (64 / per)

/-- R308. -/
def execMldMstUnit (op : Nat) (s : State) : Host.Outcome State Fault Refusal :=
  runEvent (do
    if ← settleStop op then return
    let o := (← get).opOf op
    if !o.mayGoOn then return
    match o.kind, o.engine with
    | .mld b a p, .matrix core => if (← get).unitServes op core then mldRow op core b a p
    | .mst b a p f, .matrix core => if (← get).unitServes op core then mstRow op core b a p f
    | _, _ => pure ()) s

end Sys2Proof.Machine
end

