-- ==== Sys2Proof/Machine/Tags.lean ====
section
/-!
DEFINITION. The tag and table instructions (12_tags_and_action_tables.md R258–R263).
-/

namespace Sys2Proof.Machine

/-! ## Targets (R262) -/

/-- A tag or table instruction's target: translated with access code tag as a read or a write, then watched as a load or a store. -/
def tagTarget (xk : XKind) (write store : Bool) (ga : Word) (offs : List Nat) : Act Leaf := do
  let ls ← translatePieces xk .tag (!write) write [{ va := ga.toNat, offs := offs, act := .read }]
  watchPieces (if store then .store else .load) ls
  match ls with
  | (_, l) :: _ => do
    match (← get).wakeIsland l.pa.space with
    | some s' => do
      set s'
      waitIssue
    | none => do
      modMe Strand.acquired
      pure l
  | [] => trapWith .prot (protInfo faultNOTAG .tag 0 false) ga

/-- The target of a tag instruction: a word, aligned. -/
def wordTarget (write : Bool) (ga : Word) : Act Leaf := do
  checkAlign ga.toNat 8 .load
  tagTarget .tag write write ga (blockOffs ga.toNat 8)

/-- The target of a table instruction. -/
def tableTarget (write : Bool) (ga : Word) : Act Leaf := tagTarget .table write write ga (blockOffs ga.toNat 1)

/-- UNCORR of a peer that no path reaches, or of a word in error, of which a tag is part (R241): a read of it, and a write of the tag
alone, which reads the word first (R391). -/
def checkTagWord (l : Leaf) (whole : Bool) (ga : Word) : Act Unit := do
  let s ← get
  let trap (w : Nat) : Act Unit := trapWith .uncorr (BitVec.ofNat 64 (w + 256 * 4)) ga
  match l.pa.space with
  | .peer _ _ => if !(s.pkg.twine.any fun p => p.2.trained) then trap 7
  | _ => pure ()
  let err := FMap.get 0 s.mem.poison l.pa.word
  if !whole && err != 0 then trap (l.pa.space.whereCode (err == 2))

/-- Whether a context owns a table of a memory (R240). -/
def Mem.ownsTable (m : Mem) (sp : Space) (t ctx : Nat) : Bool :=
  decide (FMap.get none m.owners (slotKey sp t) = some ctx)

/-- PROT of kind TARGET where the context lacks a table (R262). -/
def needOwner (ok : Bool) (l : Leaf) (ga : Word) : Act Unit :=
  if ok then pure () else trapWith .prot (protInfo faultTARGET .tag l.level false) ga

/-- Logs a tag write of a traced page (R368): kind 2. -/
def logTag (l : Leaf) (ga : Word) (size : Nat) : Act Unit := do
  if bitsOf l.entry 9 1 = 1 then
    modify fun s => s.raceLog
      { who := .strand s.me.core s.me.slot, ctx := s.me.ctx, sysm := s.me.sysm, core := s.me.core, va := ga.toNat
        pa := l.pa, xk := .tag, via := .core s.me.core, kind := .st, acc := .tag, offs := [], act := .read, trace := none, redirected := false }
      2 size

/-- Writes the tag of a word, with its data if given, without a lookup; then waiters wake (R354) and parked units of the
word are re-evaluated (R250, R263). -/
def writeTag (l : Leaf) (ga : Word) (data : Option Word) (tag : BitVec 4) : Act Unit := do
  let w := l.pa.word
  modify fun s =>
    let m := match data with
      | some x => s.mem.putBytes (8 * w) (toLE 8 x.toNat)
      | none => s.mem
    { s with mem := { m with tags := FMap.set 0 m.tags w tag
                             poison := if data.isSome then FMap.set 0 m.poison w 0 else m.poison } }
  modify fun s => s.wakeWords [w]
  logTag l ga (if data.isSome then 8 else 0)
  reevaluate fun u => u.words.contains w

/-- `tst` and `tset` after their operands are read. -/
def tagStore (ga : Word) (data : Option Word) (tag : BitVec 4) : Act Flow := do
  let l ← wordTarget true ga
  checkTagWord l data.isSome ga
  writeTag l ga data tag
  pure .next

/-! ## The instructions -/

/-- R261–R263: no lookup. -/
def execTld (sw : Bool) (d a : Reg) (s : State) : Host.Outcome State Fault Refusal :=
  issue (.tld sw d a) sw .plain (do
    prologue true [a] [d] [] []
    let ga ← readReg a
    let l ← wordTarget false ga
    checkTagWord l false ga
    let s ← get
    longReg d ((FMap.get 0 s.mem.tags l.pa.word).setWidth 64)
    pure .next) s

/-- R261–R263. -/
def execTst (sw : Bool) (a b : Reg) (s : State) : Host.Outcome State Fault Refusal :=
  issue (.tst sw a b) sw .plain (do
    prologue false [a, b] [] [] []
    let ga ← readReg a
    let t ← readReg b
    tagStore ga none (t.setWidth 4)) s

/-- R261–R263. -/
def execTstImm (sw : Bool) (a : Reg) (t : BitVec 4) (s : State) : Host.Outcome State Fault Refusal :=
  issue (.tstImm sw a t) sw .plain (do
    prologue false [a] [] [] []
    tagStore (← readReg a) none t) s

/-- R261–R263. -/
def execTset (sw : Bool) (a b c : Reg) (s : State) : Host.Outcome State Fault Refusal :=
  issue (.tset sw a b c) sw .plain (do
    prologue false [a, b, c] [] [] []
    let ga ← readReg a
    let x ← readReg b
    let t ← readReg c
    tagStore ga (some x) (t.setWidth 4)) s

/-- R261–R263. -/
def execTsetImm (sw : Bool) (a b : Reg) (t : BitVec 4) (s : State) : Host.Outcome State Fault Refusal :=
  issue (.tsetImm sw a b t) sw .plain (do
    prologue false [a, b] [] [] []
    let ga ← readReg a
    let x ← readReg b
    tagStore ga (some x) t) s

/-- The 128 entries of a table image (R243). -/
def imageEntries (bs : List Byte) : List (BitVec 16) :=
  (List.range 128).map fun e => BitVec.ofNat 16 (ofLE ((bs.drop (2 * e)).take 2))

/-- Units that a lookup has redirected, or has let pass for an `ncas` (R45), and that are not yet performed. -/
def State.redirectedUnits (s : State) : List AccessUnit :=
  (s.mem.parked.filter (·.redirected)) ++ s.all.filterMap fun t => t.replay.looked.map (·.1)

/-- What waits for those of such units whose lookup was at a place. -/
def State.unitsFrom (s : State) (here : PAddr → Bool) : ResultWait :=
  match s.redirectedUnits.filter fun u => here (u.origin.getD u.pa) with
  | [] => .none
  | us => .units us

/-- R259: the image is read as a strand load, then installed in one step. -/
def execTabld (sw : Bool) (a b c : Reg) (n : BitVec 3) (s : State) : Host.Outcome State Fault Refusal :=
  issue (.tabld sw a b c n) sw .plain (do
    prologue true [a, b, c] [] [] []
    let ga ← readReg a
    let img ← readReg b
    let vec ← readReg c
    checkAlign img.toNat 64 .load
    let l ← tableTarget true ga
    let s ← get
    needOwner (s.mem.ownsTable l.pa.space n.toNat s.me.ctx) l ga
    let rs ← strandAccess (.scalar 64) .load 0 (splitUnits (fun _ _ => .read) 5 img.toNat 0 256)
    let es := imageEntries (rs.map (·.bytes)).flatten
    let sp := l.pa.space
    let old ← get
    let before := old.unitsFrom fun p => decide (p.space = sp) && old.mem.selectOf p == n.toNat
    modify fun s => { s with mem := { s.mem with
      tables := FMap.setList 0 s.mem.tables (tableKey sp n.toNat 0) es
      vectors := FMap.set 0 s.mem.vectors (slotKey sp n.toNat) (vec &&& ~~~3#64) } }
    let s ← get
    reevaluate fun u => decide (u.pa.space = sp) && s.mem.selectOf u.pa == n.toNat
    longNone before
    pure .next) s

/-- R258. -/
def execTabsel (sw : Bool) (a : Reg) (n : BitVec 3) (s : State) : Host.Outcome State Fault Refusal :=
  issue (.tabsel sw a n) sw .plain (do
    prologue true [a] [] [] []
    let ga ← readReg a
    let l ← tableTarget true ga
    let s ← get
    needOwner (decide (n = 0) || s.mem.ownsTable l.pa.space n.toNat s.me.ctx) l ga
    modify fun s => { s with mem := { s.mem with selects := FMap.set 0 s.mem.selects l.pa.region n } }
    reevaluate fun u => u.pa.region == l.pa.region
    longNone .none
    pure .next) s

/-- R258: every unit is performed in the step of its lookup (log 7), but for those that were redirected and wait at their target. It is
watched as a store (R262). -/
def execTabsync (sw : Bool) (a : Reg) (s : State) : Host.Outcome State Fault Refusal :=
  issue (.tabsync sw a) sw .plain (do
    prologue true [a] [] [] []
    let ga ← readReg a
    let l ← tagTarget .table false true ga (blockOffs ga.toNat 1)
    longNone ((← get).unitsFrom fun p => p.region == l.pa.region)
    pure .next) s

/-- R263: table 0 reads 0. -/
def execTabrd (sw : Bool) (d a b : Reg) (n : BitVec 3) (s : State) : Host.Outcome State Fault Refusal :=
  issue (.tabrd sw d a b n) sw .plain (do
    prologue true [a, b] [d] [] []
    let ga ← readReg a
    let e ← readReg b
    let l ← tableTarget false ga
    let s ← get
    longReg d (if n = 0 then 0
      else (FMap.get 0 s.mem.tables (tableKey l.pa.space n.toNat (e.toNat % 128))).setWidth 64)
    pure .next) s

/-- R263. -/
def execTabrdSel (sw : Bool) (d a : Reg) (s : State) : Host.Outcome State Fault Refusal :=
  issue (.tabrdSel sw d a) sw .plain (do
    prologue true [a] [d] [] []
    let ga ← readReg a
    let l ← tableTarget false ga
    let s ← get
    longReg d (BitVec.ofNat 64 (s.mem.selectOf l.pa))
    pure .next) s

/-- R263: recorded with the accessing context. -/
def execRdset (sw : Bool) (a b : Reg) (p : BitVec 3) (s : State) : Host.Outcome State Fault Refusal :=
  issue (.rdset sw a b p) sw .plain (do
    prologue false [a, b] [] [] []
    let ga ← readReg a
    let base ← readReg b
    checkAlign base.toNat 4096 .load
    let l ← tableTarget true ga
    let s ← get
    let sp := l.pa.space
    let owns (t : Nat) := s.mem.ownsTable sp t s.me.ctx
    needOwner (if p = 0 then [1, 2, 3, 4, 5, 6, 7].any owns else owns p.toNat) l ga
    modify fun s => { s with mem := { s.mem with
      redirects := FMap.set Redirect.reset s.mem.redirects (slotKey sp p.toNat)
        { base := base &&& 0x01FFFFFFFFFFF000#64, ctx := some s.me.ctx } } }
    pure .next) s

end Sys2Proof.Machine
end

