-- ==== Sys2Proof/Machine/Copies.lean ====
section
/-!
DEFINITION. Copies (16_copies_and_collectives.md R316–R332): the descriptor, the copy instructions, the units of a copy and
their service at the reel, completion, and multicast frees.
-/

namespace Sys2Proof.Machine

/-! ## The descriptor (R316–R318) -/

/-- The header fields of a copy (R78). -/
def Op.reduceCode (o : Op) : Nat := bitsOf (o.field 0 8) 27 5
def Op.mcast (o : Op) : Nat := bitsOf (o.field 0 8) 32 16
def Op.tile (o : Op) : Nat := bitsOf (o.field 0 8) 48 16

/-- Completion address and landing control (R316). -/
def Op.compaddr (o : Op) : Nat := o.field 0x30 8
def Op.land (o : Op) : Nat := o.field 0x3C 4

/-- The landing tag (R264). -/
def Op.landTag (o : Op) : Option (BitVec 4) :=
  if bitsOf o.land 4 1 = 1 then some (BitVec.ofNat 4 o.land) else .none

/-- Whether a copy is a multicast (R330). -/
def Op.multi (o : Op) : Bool := decide (o.kind = .cpym)

/-- Set bits of a multicast mask. -/
def maskBits (m : Nat) : List Nat := (List.range 16).filter fun b => bitsOf m b 1 == 1

/-- The rules of R318 on a copy's 64 bytes. -/
def copyRules (multi : Bool) (d : List Byte) : Bool :=
  let f (o n : Nat) : Nat := ofLE ((d.drop o).take n)
  let land := f 0x3C 4
  let code := bitsOf (f 0 8) 27 5
  let z := reduceSize code
  decide (1 ≤ f 0x18 4 ∧ f 0x18 4 ≤ 65536 ∧ 1 ≤ f 0x1C 4 ∧ f 0x1C 4 ≤ 16777216 ∧ bitsOf land 5 3 = 0
      ∧ bitsOf land 14 18 = 0 ∧ f 0x30 8 % (if multi then 8 else 4) = 0)
    && (code == 0 || [f 0x1C 4, f 8 8, f 0x10 8, f 0x20 8, f 0x28 8].all fun x => x % z == 0)

/-- The rules of R317 for an instruction's descriptor. -/
def copyHeader (multi : Bool) (d : List Byte) : Bool :=
  let h := ofLE (d.take 8)
  let code := bitsOf h 27 5
  let m := maskBits (bitsOf h 32 16)
  decide (bitsOf h 0 8 = 3 ∧ bitsOf h 10 6 = 0 ∧ bitsOf h 16 4 = 1)
    && (if multi then code == 0 && decide (1 ≤ m.length ∧ m.length ≤ 15) else decide (code ≤ 9) && m.isEmpty)

/-! ## Creation (R323, R325) -/

/-- ARM (R325): the tag of the completion word is written as by `tst`; where that cannot be done, or the word is in error (R391), the op
fails before any unit. -/
def armOp (n : Nat) : Act Unit := do
  let o := (← get).opOf n
  let va := o.compaddr
  if bitsOf o.land 9 1 = 1 ∧ va ≠ 0 ∧ !o.multi then
    match ← translate { ctx := o.ctx, sysm := o.sysm, kind := .tag, rd := false, wr := true
                        via := o.engine.via } (va - va % 8) with
    | .fail k l rem => modify fun s => s.failOp n (BitVec.ofNat 8 k) (protInfo k .tag l rem) (BitVec.ofNat 64 va)
    | .ok l =>
      let ga := BitVec.ofNat 64 (va - va % 8)
      match checkTagWord l false ga (← get) with
      | .error (.trap t) _ => modify fun s => s.stopOp n { t with taddr := BitVec.ofNat 64 va }
      | _ => writeTag l ga none (BitVec.ofNat 4 (bitsOf o.land 10 4))

/-- `cpy` and `cpym` (R323). -/
def copyForm (k a : Reg) (multi : Bool) : Act Flow := do
  prologue false [a] [] [] []
  needEmptyToken k
  let va ← readReg a
  let desc ← readDescriptor va.toNat 64
  let s ← get
  let n ← createOp k (if multi then .cpym else .cpy) (.reel (corePly s.me.core)) desc
  if copyHeader multi desc && copyRules multi desc then armOp n
  else modify fun s => s.failOp n opDESC 0 0
  pure .next

/-- R323. -/
def execCpy (sw : Bool) (k a : Reg) (s : State) : Host.Outcome State Fault Refusal :=
  issue (.cpy sw k a) sw .engine (copyForm k a false) s

/-- R330. -/
def execCpym (sw : Bool) (k a : Reg) (s : State) : Host.Outcome State Fault Refusal :=
  issue (.cpym sw k a) sw .engine (copyForm k a true) s

/-! ## Units (R320) -/

/-- The receiver positions of a unit: one for a plain copy (R330). -/
def Op.receivers (o : Op) : List Nat := if o.multi then maskBits o.mcast else [0]

/-! ## Service at the reel (R321, R324) -/

/-- Whether a copy op has a unit ready (R324). While one of its units is parked, none is issued (R249). -/
def State.unitReady (s : State) (n : Nat) : Bool :=
  let o := s.opOf n
  let going : Bool := match o.state with
    | .running => true
    | .queued => s.startable n
    | _ => false
  going && !o.haltReq && !o.cancelReq && !o.allIssued && (o.pendingStop.isNone || o.stopDue) && decide (o.flight.length + o.receivers.length ≤ 16)
    && o.parked.isEmpty

/-- Whether an op stands before another in the reel's order (R324). -/
def Op.serves (a b : Op) : Bool :=
  if a.effSlack ≠ b.effSlack then decide (a.effSlack < b.effSlack)
  else if a.prio ≠ b.prio then decide (b.prio.toNat < a.prio.toNat)
  else decide (a.issue < b.issue)

/-- The first of some ops in the reel's order. -/
def firstServed : List (Nat × Op) → Option (Nat × Op)
  | [] => none
  | x :: xs =>
    match firstServed xs with
    | none => some x
    | some y => if y.2.serves x.2 then some y else some x

/-- The copy op that heads a reel's order. -/
def State.reelHead (s : State) (ply : Nat) : Option Nat :=
  (firstServed (s.eng.ops.filter fun x =>
    x.2.engine == .reel ply && (x.2.kind == .cpy || x.2.kind == .cpym) && s.unitReady x.1)).map (·.1)

/-- The checks of a multicast before any unit (R330): its destination is a local store of the reel's ply, whose cores are
the context's. -/
def multicastTarget (n ply : Nat) : Act Bool := do
  let o := (← get).opOf n
  let d := o.field 0x10 8
  match ← translate { ctx := o.ctx, sysm := o.sysm, kind := .engine, rd := false, wr := true, via := o.engine.via } d with
  | .fail k l rem => do
    modify fun s => s.stopOp n (engineFault .store k l rem d)
    pure false
  | .ok l => do
    let ok : Bool := match l.pa.space with
      | .ls c => decide (corePly c = ply)
      | _ => false
    if ok && (((← get).ctxOf o.ctx).plies.contains ply) then pure true
    else
      modify fun s => s.stopOp n (engineFault .store faultTARGET l.level false d)
      pure false

/-- The reel issues the next unit of an op: its source is read (R320, R321). -/
def issueUnit (n ply : Nat) : Act Unit := do
  if ← settleStop n then return
  modify fun s => s.setOp n fun o => { o with state := .running }
  let o := (← get).opOf n
  let k := o.issuedUnits
  match o.unitAt k with
  | none => pure ()
  | some u =>
    if k = 0 ∧ o.multi then
      if !(← multicastTarget n ply) then return
    let whole := decide (u.src % 64 = 0 ∧ u.len = 64 ∧ o.reduceCode = 0)
    let ps := splitUnits (fun _ _ => if whole then .readBlock else .read) 3 u.src 0 u.len
    match ← opPieces n .load (fun _ => true) (((List.range ps.length).map (64 * k + ·)).zip ps) with
    | none => pure ()
    | some rs =>
      let data := (rs.map fun (x : Nat × UnitRes) => x.2.bytes).flatten
      let desc := if whole then (rs.head?).map fun (x : Nat × UnitRes) => x.2.desc else none
      modify fun s => s.setOp n fun o =>
        { o with
          issuedUnits := k + 1, effSlack := o.slack.toNat
          unitLog := o.unitLog.filter fun x => x.1 / 64 != k
          flight := o.flight ++ o.receivers.map fun b =>
            { unit := k, data := data, desc := desc, recv := b, written := false, stopped := false } }

/-- R324: one unit of the op that heads the order. -/
def execReelUnitIssue (ply : Nat) (s : State) : Host.Outcome State Fault Refusal :=
  match s.reelHead ply with
  | none => .next s
  | some n => runEvent (issueUnit n ply) s

/-- The memory of a destination address, if it translates. -/
def State.destSpace (s : State) (o : Op) (va : Nat) : Option Space :=
  match translate { ctx := o.ctx, sysm := o.sysm, kind := .engine, rd := false, wr := true, via := o.engine.via } va s with
  | .ok (.ok l) _ => some l.pa.space
  | _ => none

/-- Whether an earlier unit of an op to the same memory is not yet performed (R320). -/
def State.unitBlocked (s : State) (o : Op) (f : Flight) : Bool :=
  let va (g : Flight) : Nat := match o.unitAt g.unit with | some u => u.dst | none => 0
  o.flight.any fun g =>
    decide (g.unit < f.unit ∧ g.recv = f.recv) && !g.written
      && (o.multi || (match s.destSpace o (va g), s.destSpace o (va f) with
          | some a, some b => decide (a = b)
          | _, _ => false))

/-- The write of a unit at its destination (R195, R264, R320, R327). -/
def Op.unitPiece (o : Op) (f : Flight) (u : CopyUnit) : Piece :=
  let data := withOffsets (u.dst % 64) f.data
  { va := u.dst, offs := blockOffs u.dst u.len
    act := if o.reduceCode = 0 then .land data (if u.len = 64 then f.desc.getD Mem.desc0 else Mem.desc0) o.landTag
      else .reduce o.reduceCode data o.landTag }

/-- Performs a unit at its destination; at a receiver of a multicast, at the same place of its own local store (R330). -/
def performUnit (n : Nat) (o : Op) (f : Flight) (u : CopyUnit) : Act (Option UnitRes) := do
  if o.multi then
    match o.engine with
    | .reel ply =>
      match o.unitLog.find? (fun x => x.1 == f.key) with
      | some x => pure (some x.2)
      | none =>
        match ← translate { ctx := o.ctx, sysm := o.sysm, kind := .engine, rd := false, wr := true
                            via := o.engine.via } u.dst with
        | .fail k l rem => do
          modify fun s => s.stopUnit n f.key (engineFault .store k l rem u.dst)
          pure none
        | .ok l =>
          let ok : Bool := match l.pa.space with
            | .ls c => decide (corePly c = ply)
            | _ => false
          if ok then opPieceAt n f.key .store (o.unitPiece f u) { space := .ls (16 * ply + f.recv), off := l.pa.off }
          else do
            modify fun s => s.stopUnit n f.key (engineFault .store faultTARGET l.level false u.dst)
            pure none
    | _ => pure none
  else opPiece n f.key .store (fun sp => o.reduceCode == 0 || sp.described) (o.unitPiece f u)

/-- A unit was performed at its destination: it awaits its acknowledgement (R321, R328). -/
def Op.unitWritten (o : Op) (w : Nat) (flags : BitVec 9) : Op :=
  { o with
    flight := o.flight.map fun f => if 16 * f.unit + f.recv = w then { f with written := true } else f
    applied := if o.applied.contains w then o.applied else o.applied ++ [w]
    unitLog := o.unitLog.filter fun x => x.1 != 4 * w + 2
    flags := o.flags ||| flags.extractLsb' 4 5 }

/-- Whether a unit of a copy waits behind one that stopped its op, or that is parked (R189, R249, R257, R329). -/
def Op.heldBack (o : Op) (f : Flight) : Bool :=
  f.stopped || ((o.pendingStop.isSome || o.state == .paused) && decide (o.stopAt ≤ f.unit))
    || o.parked.any fun k => decide (k / 64 < f.unit)

/-- A unit reaches its destination port. The last unit before one that stopped lets its op stop. -/
def writeUnit (n w : Nat) : Act Unit := do
  if ← settleStop n then return
  let s ← get
  let o := s.opOf n
  match o.flight.find? fun f => 16 * f.unit + f.recv == w with
  | none => pure ()
  | some f =>
    match o.unitAt f.unit with
    | none => pure ()
    | some u =>
      if o.state ≠ .running ∨ f.written ∨ o.heldBack f ∨ o.parked.contains f.key then pure ()
      else if o.applied.contains w then
        set (s.setOp n fun o => o.unitWritten w 0)
        let _ ← settleStop n
      else if s.unitBlocked o f then pure ()
      else
        match ← performUnit n o f u with
        | some r =>
          modify fun s => s.setOp n fun o => o.unitWritten w r.flags
          let _ ← settleStop n
        | none => pure ()

/-- R321: the unit is named by its number and receiver, 16 × unit + receiver. -/
def execUnitDestWrite (op unit : Nat) (s : State) : Host.Outcome State Fault Refusal := runEvent (writeUnit op unit) s

/-- R321: the acknowledgement of a unit; with the last, an op without a completion ends (R326, R330). -/
def execUnitAck (op unit : Nat) (s : State) : Host.Outcome State Fault Refusal :=
  let o := s.opOf op
  match o.flight.find? fun f => 16 * f.unit + f.recv == unit && f.written with
  | none => .next s
  | some _ =>
    let s := s.setOp op fun o =>
      { o with
        units := o.units + 1
        flight := o.flight.filter fun f => 16 * f.unit + f.recv != unit
        applied := o.applied.filter (· ≠ unit) }
    let o := s.opOf op
    if o.state = .running ∧ o.flight.isEmpty ∧ o.allIssued ∧ (o.multi ∨ o.compaddr = 0) then .next (s.endOp op .done)
    else .next s

/-! ## Completion (R326) -/

/-- The completion write: a store or an atomic add of 32 bits. -/
def Op.completionPiece (o : Op) : Piece :=
  let va := o.compaddr
  let x := o.field 0x38 4
  { va := va, offs := blockOffs va 4
    act := if bitsOf o.land 8 1 = 1 then .amo (va % 64) 0x10 (BitVec.ofNat 64 x) else .write (withOffsets (va % 64) (toLE 4 x)) }

/-- Whether an op only has its completion write left. A collective's destination is complete when it says so. -/
def Op.awaitsCompletion (o : Op) : Bool :=
  decide (o.state = .running) && !o.haltReq && decide (o.compaddr ≠ 0) && o.flight.isEmpty && o.parked.isEmpty
    && (match o.kind with
        | .cpy => o.allIssued
        | .coll => decide (o.issuedUnits = 1)
        | _ => false)

/-- Writes the completion of an op and ends it. -/
def writeCompletion (n : Nat) : Act Unit := do
  if ← settleStop n then return
  let o := (← get).opOf n
  if o.awaitsCompletion then
    match ← opPiece n 3 .store (fun _ => true) o.completionPiece with
    | some _ => modify fun s => s.endOp n .done
    | none => pure ()

/-! ## Multicast entries (R331, R332) -/

/-- Whether a multicast's free entry may open, or what its mailbox meets (R331): it lies in a memory of the ply, whether its page is
resident or not. -/
def entryRoom (o : Op) (ply : Nat) : Act (Except TrapInfo Bool) := do
  let va := o.compaddr
  let q : XReq := { ctx := o.ctx, sysm := o.sysm, kind := .engine, rd := false, wr := true, via := o.engine.via }
  let fails (k l : Nat) : Act (Except TrapInfo Bool) := pure (.error (engineFault .store k l false va))
  if va / 2 ^ 57 ≠ 0 then fails faultNONCANON 7
  else
    match ← tryWalk q va true with
    | (.bad k l, _) => fails k l
    | (.leaf e l _ _, k) => do
      let s ← get
      if k ≠ 0 ∧ k ≠ faultNOTRES then fails k l
      else if !(leafAddr s o.ctx va e l).space.inPly ply then fails faultTARGET l
      else
        let open_ := s.eng.entries.filter fun e => e.ply == ply
        pure (.ok (decide (open_.length < 128)
          && !(open_.any fun e => e.ctx == o.ctx && e.mailbox == va && e.tile == o.tile)))

/-- Opens the entry of a multicast (R331). -/
def State.openEntry (s : State) (n ply : Nat) : State :=
  let o := s.opOf n
  { s with eng := { s.eng with entries := s.eng.entries ++
    [{ ply := ply, ctx := o.ctx, mailbox := o.compaddr, tile := o.tile, receivers := BitVec.ofNat 16 o.mcast, freed := 0
       compval := BitVec.ofNat 32 (o.field 0x38 4), op := n }] } }

/-- The single add to a mailbox (R332), as one engine atomic of kind EWR in the op's context. One that the memory turns away
is lost with the entry. -/
def addMailbox (e : FreeEntry) (sysm : Bool) (core : Nat) : Act Unit := do
  let via := Via.ply e.ply
  match ← translate { ctx := e.ctx, sysm := sysm, kind := .engine, rd := false, wr := true, via := via } e.mailbox with
  | .fail _ _ _ => pure ()
  | .ok l =>
    let u : AccessUnit :=
      { who := .mailbox, ctx := e.ctx, sysm := sysm, core := core, va := e.mailbox, pa := l.pa, xk := .engine, via := via, kind := .ewr
        acc := .store, offs := blockOffs e.mailbox 8, act := .amo (e.mailbox % 64) 0 (e.compval.setWidth 64), trace := none
        redirected := false }
    match ← runUnit u with
    | .waits u => modify fun s => s.park u
    | _ => pure ()

/-- R332. -/
def execCpyfree (sw : Bool) (d m t : Reg) (s : State) : Host.Outcome State Fault Refusal :=
  issue (.cpyfree sw d m t) sw .plain (do
    prologue true [m, t] [d] [] []
    let gm ← readReg m
    let gt ← readReg t
    let s ← get
    match ← translatePieces (.scalar 8) .load true false [{ va := gm.toNat, offs := [], act := .read }] with
    | (_, l) :: _ =>
      match (← get).wakeIsland l.pa.space with
      | some s' => do
        set s'
        waitIssue
      | none => pure ()
    | [] => pure ()
    let core := s.me.core
    let p := core % 16
    let mine (e : FreeEntry) : Bool :=
      decide (e.ply = corePly core ∧ e.ctx = s.me.ctx ∧ e.mailbox = gm.toNat ∧ e.tile = gt.toNat % 65536)
    match s.eng.entries.find? mine with
    | none => longReg d 1
    | some e =>
      if !e.receivers.getLsbD p then longReg d 1
      else if e.freed.getLsbD p then longReg d 2
      else
        let e' := { e with freed := e.freed ||| BitVec.ofNat 16 (2 ^ p) }
        if e'.freed = e.receivers then
          modify fun s => { s with eng := { s.eng with entries := s.eng.entries.erase e } }
          addMailbox e' (s.opOf e.op).sysm (s.opOf e.op).core
        else
          modify fun s => { s with eng := { s.eng with entries := s.eng.entries.map fun x => if x = e then e' else x } }
        longReg d 0
    pure .next) s

end Sys2Proof.Machine
end

