-- ==== Sys2Proof/Machine/Collectives.lean ====
section
/-!
DEFINITION. Teams and collectives (16_copies_and_collectives.md R333–R340): `coll`, the rendezvous and the rounds. Members on
other chips are outside agents: what they contribute is free.
-/

namespace Sys2Proof.Machine

/-! ## The descriptor (R334) -/

/-- Fields of a collective's descriptor. -/
def Op.cTeam (o : Op) : Name := BitVec.ofNat 128 (o.field 0 16)
def Op.cOp (o : Op) : Nat := o.field 0x10 1
def Op.cCode (o : Op) : Nat := o.field 0x11 1
def Op.cRoot (o : Op) : Nat := o.field 0x12 2
def Op.cRank (o : Op) : Nat := o.field 0x14 2
def Op.cCount (o : Op) : Nat := o.field 0x18 8
def Op.cSrc (o : Op) : Nat := o.field 0x20 8
def Op.cDst (o : Op) : Nat := o.field 0x28 8

/-- Bytes of an element: 1 where nothing is combined. -/
def Op.cWidth (o : Op) : Nat := if o.cCode = 0 then 1 else reduceSize o.cCode

/-- Source and destination bytes of a member (R335). -/
def Op.cSrcLen (o : Op) (n : Nat) : Nat :=
  match o.cOp with
  | 2 => n * o.cCount * o.cWidth
  | 4 => n * o.cCount
  | _ => o.cCount * o.cWidth
def Op.cDstLen (o : Op) (n : Nat) : Nat :=
  match o.cOp with
  | 1 => n * o.cCount
  | 4 => n * o.cCount
  | _ => o.cCount * o.cWidth

/-- The rules that need no team record (R334, R318). -/
def Op.collRules (o : Op) : Bool :=
  let combining := decide (o.cOp = 0 ∨ o.cOp = 2)
  decide (o.field 0x16 2 = 0 ∧ o.cOp ≤ 4 ∧ 1 ≤ o.cCount ∧ bitsOf o.land 5 3 = 0 ∧ bitsOf o.land 14 18 = 0
      ∧ o.compaddr % 4 = 0)
    && (if combining then decide (1 ≤ o.cCode ∧ o.cCode ≤ 9 ∧ o.cSrc % o.cWidth = 0 ∧ o.cDst % o.cWidth = 0) else o.cCode == 0)
    && (o.cOp == 3 || o.cRoot == 0)

/-! ## Issue (R323, R334, R336) -/

/-- Changes a collective. -/
def State.setColl (s : State) (team seq : Nat) (f : Collective → Collective) : State :=
  { s with eng := { s.eng with
      colls := FMap.set Collective.none s.eng.colls (collKey team seq) (f (s.collOf team seq)) } }

/-- The op joins the collective that its member's count gives it (R336). -/
def State.joinColl (s : State) (n : Nat) : State :=
  let o := s.opOf n
  let team := o.cTeam.toNat
  let k := team * 2 ^ 32 + o.vcore.toNat
  let seq := FMap.get 0 s.eng.collSeq k
  let s := { s with eng := { s.eng with collSeq := FMap.set 0 s.eng.collSeq k (seq + 1) } }
  (s.setOp n fun o => { o with team := some (team, seq) }).setColl team seq fun c =>
    { c with members := c.members ++ [(o.vcore.toNat, n)] }

/-- R334. -/
def execColl (sw : Bool) (k a : Reg) (s : State) : Host.Outcome State Fault Refusal :=
  issue (.coll sw k a) sw .engine (do
    prologue false [a] [] [] []
    needEmptyToken k
    let va ← readReg a
    let desc ← readDescriptor va.toNat 64
    let s ← get
    let n ← createOp k .coll (.twister (coreDie s.me.core)) desc
    modify fun s => s.joinColl n
    if ((← get).opOf n).collRules then armOp n else modify fun s => s.failOp n opDESC 0 0
    pure .next) s

/-! ## Teams (R333, R334) -/

/-- Whether a vcore word is of a context: on this chip, or on a chip of the partition's reach. -/
def State.isMember (s : State) (ctx part v : Nat) : Bool :=
  decide (v < 2 ^ 21)
    && (if v / 4096 = s.hub.chip then ((s.ctxOf ctx).coreAt (v % 4096)).isSome else (s.partOf part).reach.contains (v / 4096))

/-- The member list that a record's bytes give; none where it breaks R333. -/
def State.parseTeam (s : State) (ctx part : Nat) (team : Name) (head rest : List Byte) : Option (List Nat) :=
  let n := ofLE ((head.drop 0x10).take 4)
  let ms := (List.range n).map fun i => ofLE ((rest.drop (4 * i)).take 4)
  if ofLE (head.take 16) = team.toNat ∧ 1 ≤ n ∧ n ≤ 4096 ∧ ofLE ((head.drop 0x14).take 12) = 0
      ∧ ms.all (s.isMember ctx part) ∧ ms.eraseDups.length = n then some ms
  else none

/-- What an op's team gives: a wait, a fault kind, or its members. -/
inductive TeamRes where
  | waits
  | fails (kind : BitVec 8)
  | members (ms : List Nat)
  deriving DecidableEq, Repr

/-- Reads a team record once and keeps it (R333). A page that is not resident is waited for. -/
def State.teamRecord (s : State) (o : Op) (addr : Nat) : TeamRes × State :=
  match FMap.get none s.eng.teams o.cTeam.toNat with
  | some ms => (.members ms, s)
  | none =>
    match s.vread o.ctx addr 0x20 with
    | none => (match s.vcheck o.ctx addr 0x20 false with | some x => .fails (BitVec.ofNat 8 x.1) | none => .waits, s)
    | some (head, s) =>
      let n := ofLE ((head.drop 0x10).take 4)
      if n = 0 ∨ 4096 < n then (.fails opDESC, s)
      else
        match s.vread o.ctx (addr + 0x20) (4 * n) with
        | none =>
          (match s.vcheck o.ctx (addr + 0x20) (4 * n) false with | some x => .fails (BitVec.ofNat 8 x.1) | none => .waits, s)
        | some (rest, s) =>
          match s.parseTeam o.ctx o.part o.cTeam head rest with
          | none => (.fails opDESC, s)
          | some ms => (.members ms, { s with eng := { s.eng with teams := FMap.set none s.eng.teams o.cTeam.toNat (some ms) } })

/-- Resolves an op's team at its home entry (R334). -/
def resolveTeam (o : Op) : Act TeamRes := do
  let s ← get
  if nameClass o.cTeam ≠ classTEAM then return .fails opTEAM
  match s.resolve o.part o.cTeam with
  | .status _ => pure (.fails opTEAM)
  | .found st c => do
    if st ≠ stLIVE then return .fails opTEAM
    let (r, s') := s.teamRecord o (s.nameEntry c).addr.toNat
    set s'
    pure r
  | .remote => do
    if ← drawBit then
      let a ← drawWord
      let (r, s') := (← get).teamRecord o (64 * (a.toNat % 2 ^ 51))
      set s'
      pure r
    else pure (.fails opTEAM)

/-- A collective op reaches its twister, or fails (R334, R336): true where it becomes QUEUED. -/
def admitColl (n : Nat) : Act Bool := do
  let o := (← get).opOf n
  match ← resolveTeam o with
  | .waits => pure false
  | .fails k => do
    modify fun s => s.failOp n k 0 0
    pure false
  | .members ms =>
    let m := ms.length
    if m ≤ o.cRank ∨ m ≤ o.cRoot ∨ 2 ^ 40 < o.cSrcLen m ∨ 2 ^ 40 < o.cDstLen m then
      modify fun s => s.failOp n opDESC 0 0
      pure false
    else if ms[o.cRank]? ≠ some o.vcore.toNat then
      modify fun s => s.failOp n opTEAM 0 0
      pure false
    else pure true

/-! ## Rendezvous (R336, R337) -/

/-- The op of a member. -/
def Collective.opOf (c : Collective) (v : Nat) : Option Nat := (c.members.find? fun x => x.1 == v).map (·.2)

/-- Members of this chip: rank, vcore. -/
def State.localRanks (s : State) (ms : List Nat) : List (Nat × Nat) :=
  ((List.range ms.length).zip ms).filter fun x => x.2 / 4096 == s.hub.chip

/-- Whether a team has members on other chips. -/
def State.hasForeign (s : State) (ms : List Nat) : Bool := ms.any fun v => v / 4096 != s.hub.chip

/-- The members' ops of a collective (R336): an op that a vcore outside the team issued is none of them. -/
def State.teamOps (s : State) (team : Nat) (c : Collective) : List (Nat × Nat) :=
  match FMap.get none s.eng.teams team with
  | some ms => c.members.filter fun x => ms.contains x.1
  | none => []

/-- Ends the other members' ops after a member's failure or cancellation (R337). -/
def State.endMembers (s : State) (ops : List (Nat × Nat)) (cancelled : Bool) : State :=
  ops.foldl (fun s x =>
    if (s.opOf x.2).live then (if cancelled then s.endOp x.2 .cancelled else s.failOp x.2 opMEMBER 0 0) else s) s

/-- Whether a member's op of this chip ended other than DONE: none, or whether cancellation was the cause. -/
def State.memberEnded (s : State) (ops : List (Nat × Nat)) : Option Bool :=
  let st := ops.map fun x => (s.opOf x.2).state
  if st.contains .failed then some false else if st.contains .cancelled then some true else none

/-- The same of members on other chips, whose ops end as they may (log 42). -/
def foreignEnded (ms : List Nat) : Act (Option Bool) := do
  if (← get).hasForeign ms then
    let w ← drawWord
    pure (match w.toNat % 4 with | 0 => some true | 1 => some false | _ => none)
  else pure none

/-- R336: every member's op has reached its twister. -/
def rendezvous (team seq : Nat) : Act Unit := do
  let s ← get
  let c := s.collOf team seq
  let mine := s.teamOps team c
  let ended ← match s.memberEnded mine, FMap.get none s.eng.teams team with
    | some cancelled, _ => pure (some cancelled)
    | none, some ms => foreignEnded ms
    | none, none => pure none
  let s ← get
  match ended, FMap.get none s.eng.teams team with
  | some cancelled, _ => if !c.met then set (s.endMembers mine cancelled)
  | none, none => pure ()
  | none, some ms =>
    let ops := (s.localRanks ms).filterMap fun x => c.opOf x.2
    let here := decide (ops.length = (s.localRanks ms).length)
      && ops.all fun n => decide ((s.opOf n).state = .queued) && s.startable n && !(s.opOf n).haltReq
    if c.met ∨ !here then pure ()
    else
      let odd ← if s.hasForeign ms then drawBit else pure false
      let s ← get
      let sig (n : Nat) := let o := s.opOf n; (o.cOp, o.cCode, o.cCount, o.cRoot)
      let same := match ops with
        | [] => true
        | x :: xs => xs.all fun y => decide (sig y = sig x)
      if odd ∨ !same then set (ops.foldl (fun s n => s.failOp n opDESC 0 0) s)
      else
        set ((ops.foldl (fun s n => s.setOp n fun o => { o with state := .running }) s).setColl team seq fun c =>
          { c with met := true })

/-- R336. -/
def execCollRendezvous (team seq : Nat) (s : State) : Host.Outcome State Fault Refusal := runEvent (rendezvous team seq) s

/-! ## Combining (R327, R335, R338) -/

/-- Combine over bytes, element by element. -/
def combineBytes (code : Nat) : Nat → List Byte → List Byte → List Byte × Flags
  | 0, _, _ => ([], 0)
  | n + 1, a, b =>
    if a.isEmpty then ([], 0)
    else
      let z := reduceSize code
      let (x, fl) := combine code (ofLE (a.take z)) (ofLE (b.take z))
      let (r, fl') := combineBytes code n (a.drop z) (b.drop z)
      (toLE z x ++ r, fl ||| fl')

/-- ⌈log2 n⌉. -/
def ceilLog2 (n : Nat) : Nat := if 2 ^ Nat.log2 n = n then Nat.log2 n else Nat.log2 n + 1

/-- The lower exponent of a sum of two different powers of two (R338 form B). -/
def twoPowers (n : Nat) : Option Nat :=
  let r := n - 2 ^ Nat.log2 n
  if n = 0 ∨ r = 0 then none else if 2 ^ Nat.log2 r = r then some (Nat.log2 r) else none

/-- Rounds of the small all-reduce (R338). -/
def smallRounds (n : Nat) : Nat := if 2 ^ Nat.log2 n = n then ceilLog2 n else ceilLog2 n + 1

/-- What a member does in a round: keeps its value, takes another's, or combines two. -/
inductive RoundAct where
  | keep
  | take (r : Nat)
  | both (lo hi : Nat)
  deriving DecidableEq, Repr

/-- An exchange with the partner that differs in a bit, among the ranks below a limit. -/
def exchange (i k limit : Nat) : RoundAct :=
  let p := i ^^^ 2 ^ k
  if i < limit ∧ p < limit then .both (min i p) (max i p) else .keep

/-- Round `j` of the small all-reduce of `n` members, for rank `i` (R338). -/
def smallRound (n j i : Nat) : RoundAct :=
  let l := ceilLog2 n
  if 2 ^ Nat.log2 n = n then exchange i j n
  else
    match twoPowers n with
    | some b =>
      if j < l then exchange i j n
      else if 2 ^ b ≤ i ∧ i < 2 ^ (l - 1) then .take (2 ^ (l - 1) + i % 2 ^ b)
      else .keep
    | none =>
      let p := 2 ^ (l - 1)
      if j = 0 then (if i < p ∧ i + p < n then .both i (i + p) else .keep)
      else if j < l then exchange i (j - 1) p
      else if p ≤ i then .take (i - p)
      else .keep

/-- The values after a round, with the flags of each rank. -/
def roundVals (code n j : Nat) (vals : FMap (List Byte)) : List (Nat × List Byte × Flags) :=
  let v (r : Nat) : List Byte := FMap.get [] vals r
  (List.range n).map fun i =>
    match smallRound n j i with
    | .keep => (i, v i, 0)
    | .take r => (i, v r, 0)
    | .both lo hi => let (x, fl) := combineBytes code 128 (v lo) (v hi); (i, x, fl)

/-- Combines values in an order that the twisters choose (R339, R340): any tree over them. -/
def combineTree (code : Nat) : Nat → List Nat → Act (Nat × Flags)
  | 0, xs => pure (xs.headD 0, 0)
  | k + 1, xs =>
    match xs with
    | [] => pure (0, 0)
    | [x] => pure (x, 0)
    | _ => do
      let i := (← drawWord).toNat % xs.length
      let x := (xs[i]?).getD 0
      let rest := xs.eraseIdx i
      let j := (← drawWord).toNat % rest.length
      let y := (rest[j]?).getD 0
      let (z, fl) := combine code x y
      let (r, fl') ← combineTree code k (z :: rest.eraseIdx j)
      pure (r, fl ||| fl')

/-- Combines `count` elements, from element `first` of every member's value. -/
def combineMany (code : Nat) (srcs : List (List Byte)) : (count first : Nat) → Act (List Byte × Flags)
  | 0, _ => pure ([], 0)
  | k + 1, e => do
    let z := reduceSize code
    let (x, fl) ← combineTree code srcs.length (srcs.map fun v => ofLE ((v.drop (z * e)).take z))
    let (r, fl') ← combineMany code srcs k (e + 1)
    pure (toLE z x ++ r, fl ||| fl')

/-! ## Reading and writing (R335) -/

/-- Pieces of a range, one for each 64-byte block. -/
def blockPieces (act : Nat → Nat → UnitAct) (va n : Nat) : List Piece := splitUnits act (n / 64 + 2) va 0 n

/-- Bytes that a member on another chip contributes: free. -/
def freeBytes : Nat → Act (List Byte)
  | 0 => pure []
  | k + 1 => do
    let x ← drawWord
    return x.setWidth 8 :: (← freeBytes k)

/-- Whether a member's source is read: of a broadcast only the root's. -/
def Op.reads (o : Op) (rank : Nat) : Bool := o.cOp != 3 || o.cRoot == rank

/-- The key of a source block's descriptor: the rank and the block's offset in the source. -/
def descKey (rank off : Nat) : Nat := 2 ^ 41 * rank + off

/-- Reads the source of a member of this chip: its bytes, and the descriptors of its whole blocks with their offsets. -/
def readSource (n len : Nat) : Act (Option (List Byte × List (Nat × BitVec 48))) := do
  let o := (← get).opOf n
  let ps := blockPieces (fun _ _ => .read) o.cSrc len
  let ps := ps.map fun p => if p.offs.length = 64 then { p with act := .readBlock } else p
  match ← opPieces n .load (fun _ => true) (((List.range ps.length).map (4 * ·)).zip ps) with
  | none => pure none
  | some rs =>
    let whole := (ps.zip rs).filter fun x => x.1.act == .readBlock
    pure (some ((rs.map fun (x : Nat × UnitRes) => x.2.bytes).flatten,
      whole.map fun x => ((x.1.va + 2 ^ 64 - o.cSrc) % 2 ^ 64, x.2.2.desc)))

/-- The source of a member on another chip: its bytes, where its blocks lie, and their descriptors are free. -/
def freeSource (len : Nat) : Act (List Byte × List (Nat × BitVec 48)) := do
  let bytes ← freeBytes len
  let first := (← drawWord).toNat % 64
  let offs := ((List.range (len / 64 + 1)).map fun j => first + 64 * j).filter fun x => decide (x + 64 ≤ len)
  let rec descs : List Nat → Act (List (Nat × BitVec 48))
    | [] => pure []
    | x :: xs => do
      let w ← drawWord
      return (x, w.setWidth 48) :: (← descs xs)
  return (bytes, ← descs offs)

/-- Reads every member's source, its value and its blocks' descriptors; none where one did not perform. -/
def readSources (o : Op) (c : Collective) (n : Nat) (chip : Nat) :
    List (Nat × Nat) → Act (Option (FMap (List Byte) × FMap (BitVec 48)))
  | [] => pure (some ([], []))
  | (r, v) :: rest => do
    let here : Option (List Byte × List (Nat × BitVec 48)) ←
      if !o.reads r then pure (some ([], []))
      else if v / 4096 = chip then
        match c.opOf v with
        | some k => readSource k (o.cSrcLen n)
        | none => pure none
      else do pure (some (← freeSource (o.cSrcLen n)))
    match here with
    | none => pure none
    | some (x, ds) =>
      match ← readSources o c n chip rest with
      | none => pure none
      | some (m, d) => pure (some (FMap.set [] m r x, ds.foldl (fun d y => FMap.set Mem.desc0 d (descKey r y.1) y.2) d))

/-- What a destination's byte `x` comes from at rank `r`, where nothing is combined: the member and its source offset. -/
def Op.origin (o : Op) (r x : Nat) : Option (Nat × Nat) :=
  match o.cOp with
  | 1 => some (x / o.cCount, x % o.cCount)
  | 3 => some (o.cRoot, x)
  | 4 => some (x / o.cCount, r * o.cCount + x % o.cCount)
  | _ => .none

/-- The descriptor that a whole destination block takes (R195): that of one whole aligned source block, else RAW. -/
def blockDesc (o : Op) (c : Collective) (r x : Nat) : BitVec 48 :=
  match o.origin r x, o.origin r (x + 63) with
  | some (q, a), some (q', b) => if q = q' ∧ b = a + 63 then FMap.get Mem.desc0 c.descs (descKey q a) else Mem.desc0
  | _, _ => Mem.desc0

/-- The writes of a member's destination. -/
def destPieces (o : Op) (c : Collective) (r : Nat) (data : List Byte) : List (Nat × Nat) → Nat → List (Nat × Piece)
  | [], _ => []
  | (va, len) :: rest, x =>
    let desc := if len = 64 then blockDesc o c r x else Mem.desc0
    let p : Piece := { va := va, offs := blockOffs va len
                       act := .land (withOffsets (va % 64) ((data.drop x).take len)) desc o.landTag }
    (4 * (x / 64 + (if x % 64 = 0 then 0 else 1)) + 2, p) :: destPieces o c r data rest (x + len)

/-- Writes the destination of a member of this chip; then its completion is left, or it ends (R326, R335). -/
def writeDest (n : Nat) (c : Collective) (r : Nat) : Act Unit := do
  let o := (← get).opOf n
  if o.state ≠ .running ∨ o.issuedUnits = 1 then return
  let data := FMap.get [] c.vals r
  let ps := destPieces o c r data (pieces64 (data.length / 64 + 2) o.cDst data.length) 0
  match ← opPieces n .store (fun _ => true) ps with
  | none => pure ()
  | some _ =>
    modify fun s => s.setOp n fun o => { o with issuedUnits := 1 }
    if o.compaddr = 0 then modify fun s => s.endOp n .done

/-! ## Rounds (R336–R339) -/

/-- Adds flags to the op of each rank, and one round to its count; its slack is its own again (R324). -/
def countRound (c : Collective) (ms : List Nat) (fl : Nat → Flags) : Act Unit :=
  modify fun s => (s.localRanks ms).foldl (fun s x =>
    match c.opOf x.2 with
    | some n => s.setOp n fun o => { o with units := o.units + 1, effSlack := o.slack.toNat, flags := o.flags ||| (fl x.1).extractLsb' 4 5 }
    | none => s) s

/-- The destinations of a collective that is no small all-reduce (R335). -/
def largeResult (o : Op) (n : Nat) (vals : FMap (List Byte)) : Act (FMap (List Byte) × (Nat → Flags)) := do
  let v (r : Nat) : List Byte := FMap.get [] vals r
  let srcs := (List.range n).map v
  let each (f : Nat → List Byte) : FMap (List Byte) := FMap.setList [] [] 0 ((List.range n).map f)
  match o.cOp with
  | 0 => do
    let (x, fl) ← combineMany o.cCode srcs o.cCount 0
    pure (each fun _ => x, fun _ => fl)
  | 2 => do
    let (x, fl) ← combineMany o.cCode srcs (n * o.cCount) 0
    let z := o.cCount * o.cWidth
    pure (each fun r => (x.drop (r * z)).take z, fun _ => fl)
  | 1 => pure (each fun _ => srcs.flatten, fun _ => 0)
  | 3 => pure (each fun _ => v o.cRoot, fun _ => 0)
  | _ => pure (each fun r => (srcs.map fun x => (x.drop (r * o.cCount)).take o.cCount).flatten, fun _ => 0)

/-- Applies what re-evaluations raised at the members of a collective. -/
def settleMembers : List (Nat × Nat) → Act Unit
  | [] => pure ()
  | x :: xs => do
    if ((← get).opOf x.2).state = .running then let _ ← settleStop x.2
    settleMembers xs

/-- Writes every member's destination. -/
def writeDests (c : Collective) : List (Nat × Nat) → Act Unit
  | [] => pure ()
  | (r, v) :: rest => do
    match c.opOf v with
    | some n => writeDest n c r
    | none => pure ()
    writeDests c rest

/-- One round (R338); a collective that is no small all-reduce takes rounds of the twisters' choosing (R339). -/
def oneRound (team seq : Nat) (o : Op) (c : Collective) (ms : List Nat) : Act Unit := do
  let n := ms.length
  let small := decide (o.cOp = 0 ∧ o.cCount * o.cWidth ≤ 256)
  let put (f : Collective → Collective) : Act Unit := modify fun s => s.setColl team seq f
  if small then
    if c.round < smallRounds n then
      let rs := roundVals o.cCode n c.round c.vals
      put fun c => { c with round := c.round + 1, vals := FMap.setList [] [] 0 (rs.map (·.2.1))
                            final := decide (smallRounds n ≤ c.round + 1) }
      countRound c ms fun r => ((rs.find? fun x => x.1 == r).map (·.2.2)).getD 0
    else put fun c => { c with final := true }
  else if ← drawBit then
    put fun c => { c with round := c.round + 1 }
    countRound c ms fun _ => 0
  else
    let (vals, fl) ← largeResult o n c.vals
    put fun c => { c with round := c.round + 1, vals := vals, final := true }
    countRound c ms fl

/-- Whether a collective has a round to take: its members have met, and no op of one is halted, paused, parked or ended. -/
def State.roundReady (s : State) (team seq : Nat) : Bool :=
  let c := s.collOf team seq
  c.met && !c.final && (s.teamOps team c).all fun x =>
    let o := s.opOf x.2
    decide (o.state = .running) && !o.haltReq && o.parked.isEmpty && o.pendingStop.isNone

/-- The ops of a collective's members on this chip. -/
def State.collOps (s : State) (team seq : Nat) : List (Nat × Op) :=
  (s.teamOps team (s.collOf team seq)).map fun x => (x.2, s.opOf x.2)

/-- The op that stands for a collective in the order of its twisters: of its members' on this chip, the one that comes first in that order
(log 99). -/
def State.leadOp (s : State) (team seq : Nat) : Op := ((firstServed (s.collOps team seq)).map (·.2)).getD Op.none

/-- Whether two collectives have members at one twister. -/
def State.shareTwister (s : State) (team seq t q : Nat) : Bool :=
  (s.collOps team seq).any fun x => (s.collOps t q).any fun y => x.2.engine == y.2.engine

/-- Whether its twisters serve a collective's round next (R324): no other collective with a round to take at one of them stands before
it. -/
def State.twisterServes (s : State) (team seq : Nat) : Bool :=
  let o := s.leadOp team seq
  s.eng.colls.all fun x =>
    let t := x.1 / 2 ^ 32
    let q := x.1 % 2 ^ 32
    x.1 == collKey team seq || !s.roundReady t q || !s.shareTwister team seq t q || !(s.leadOp t q).serves o

/-- A round of a collective: its members' ends (R337), the reading of the sources, a round, or the writing of the
destinations. After the last round there is no next one at which a member's end ends the others. -/
def collStep (team seq : Nat) : Act Unit := do
  let s ← get
  let c := s.collOf team seq
  let mine := s.teamOps team c
  match FMap.get none s.eng.teams team with
  | none => pure ()
  | some ms =>
    if !c.met then return
    settleMembers mine
    if c.final then
      let s ← get
      if mine.any fun x => (s.opOf x.2).haltReq || decide ((s.opOf x.2).state = .paused) || !(s.opOf x.2).parked.isEmpty then return
      writeDests c (s.localRanks ms)
    else
      modify fun s => mine.foldl (fun s x =>
        if (s.opOf x.2).state = .running ∧ (s.opOf x.2).cancelReq then s.endOp x.2 .cancelled else s) s
      if s.hasForeign ms ∧ s.noTwine then
        modify fun s => mine.foldl (fun s x => if (s.opOf x.2).live then s.failOp x.2 opLINK 0 0 else s) s
      let away ← foreignEnded ms
      let s ← get
      match (s.memberEnded mine).or away with
      | some cancelled => set (s.endMembers mine cancelled)
      | none =>
        if !s.roundReady team seq || !s.twisterServes team seq then return
        let o := s.leadOp team seq
        if c.vals.isEmpty then
          match ← readSources o c ms.length s.hub.chip ((List.range ms.length).zip ms) with
          | none => pure ()
          | some (vals, descs) => modify fun s => s.setColl team seq fun c => { c with vals := vals, descs := descs }
        else oneRound team seq o c ms

/-- R338. -/
def execCollRound (team seq : Nat) (s : State) : Host.Outcome State Fault Refusal := runEvent (collStep team seq) s

end Sys2Proof.Machine
end

