-- ==== Sys2Proof/Machine/EngineEvents.lean ====
section
/-!
DEFINITION. What moves an op from state to state at its engine (R270, R272, R277, R291, R323, R326, R331): admission, start,
the failure of its `after` op, its completion write, and cancellation points.
-/

namespace Sys2Proof.Machine

/-! ## Admission (R270, R272, R311, R323) -/

/-- Whether an op holds one of a reel's 64 slots. -/
def Op.onReel (o : Op) (ply : Nat) : Bool :=
  match o.kind with
  | .cpy => o.engine == .reel ply && decide (o.state = .queued ∨ o.state = .running ∨ o.state = .paused)
  | .cpym => o.engine == .reel ply && decide (o.state = .queued ∨ o.state = .running ∨ o.state = .paused)
  | .mmv _ =>
    (match o.engine with | .matrix c => decide (corePly c = ply) | _ => false)
      && decide (o.state = .queued ∨ o.state = .running)
  | _ => false

/-- Whether a reel has a free slot. -/
def State.reelRoom (s : State) (ply : Nat) : Bool :=
  decide ((s.eng.ops.filter fun x => x.2.onReel ply).length < 64)

/-- Whether there is room for an op at its engine; a multicast's free entry opens as it is admitted (R331), and a collective's
team is read (R334). -/
def admitRoom (n : Nat) : Act Bool := do
  let s ← get
  let o := s.opOf n
  match o.kind, o.engine with
  | .cpy, .reel ply => pure (s.reelRoom ply)
  | .cpym, .reel ply =>
    if !s.reelRoom ply then pure false
    else if o.compaddr = 0 then pure true
    else
      match ← entryRoom o ply with
      | .error t => do
        modify fun s => s.stopOp n t
        pure false
      | .ok room => do
        if room then modify fun s => s.openEntry n ply
        pure room
  | .coll, _ => admitColl n
  | .mmv _, .matrix c => pure (o.accepted && s.reelRoom (corePly c))
  | .mma _, _ => pure o.accepted
  | .mld _ _ _, _ => pure o.accepted
  | .mst _ _ _ _, _ => pure o.accepted
  | _, _ => pure false

/-- Admits an op. -/
def admitOp (n : Nat) : Act Unit := do
  let s ← get
  if (s.opOf n).state = .pending ∧ s.afterState n = 0 ∧ !(s.earlierIn n fun st => decide (st = .pending)) then
    if ← admitRoom n then modify fun s => s.setOp n fun o => { o with state := .queued }

/-- R270: a PENDING op becomes QUEUED. -/
def execOpAdmit (op : Nat) (s : State) : Host.Outcome State Fault Refusal := runEvent (admitOp op) s

/-! ## Start (R272, R291, R324) -/

/-- Whether an engine serves an op next. A collective starts at its rendezvous (R336). -/
def State.servesNext (s : State) (n : Nat) : Bool :=
  match (s.opOf n).engine with
  | .matrix core => s.firstOnBank n core
  | .reel ply => s.reelHead ply == some n
  | .twister _ => false

/-- R270: a QUEUED op becomes RUNNING. -/
def execOpStart (op : Nat) (s : State) : Host.Outcome State Fault Refusal :=
  let o := s.opOf op
  if o.state = .queued ∧ !o.haltReq ∧ s.startable op ∧ s.servesNext op then
    .next (s.setOp op fun o => { o with state := .running })
  else .next s

/-- R272. -/
def execDepfail (op : Nat) (s : State) : Host.Outcome State Fault Refusal :=
  if (s.opOf op).state = .pending ∧ s.afterState op = 2 then .next (s.failOp op opDEPFAIL 0 0) else .next s

/-- Whether an op has a unit or a round that its engine could serve (R324). -/
def State.hasReady (s : State) (n : Nat) : Bool :=
  match (s.opOf n).kind, (s.opOf n).team with
  | .coll, some (t, q) => s.roundReady t q
  | .coll, none => false
  | _, _ => s.unitReady n

/-- R324: the op had a ready unit and received none for 4,096 cycles. -/
def execSlackAging (op : Nat) (s : State) : Host.Outcome State Fault Refusal :=
  if s.hasReady op then .next (s.setOp op fun o => { o with effSlack := o.effSlack - 1 }) else .next s

/-! ## Ends (R277, R326) -/

/-- The end of an op on another chip, which this chip does not see coming: it is free (R278). -/
def endForeign (n : Nat) : Act Unit := do
  let x ← drawWord
  modify fun s =>
    if x.getLsbD 0 then s.endOp n .done
    else if x.getLsbD 1 then s.endOp n .cancelled
    else s.failOp n (openKind (bitsOf x.toNat 8 8)) 0 0

/-- R326: the completion value is written, and the op ends DONE. -/
def execCompletionWrite (op : Nat) (s : State) : Host.Outcome State Fault Refusal :=
  match (s.opOf op).kind with
  | .foreign _ => if (s.opOf op).live then runEvent (endForeign op) s else .next s
  | _ => runEvent (writeCompletion op) s

/-- Whether a RUNNING op stands at a cancellation point (R277). -/
def Op.atCancelPoint (o : Op) : Bool :=
  match o.kind with
  | .cpy => o.flight.isEmpty && !o.allIssued
  | .cpym => o.flight.isEmpty && !o.allIssued
  | .coll => true
  | .foreign _ => true
  | _ => !o.under

/-- R277. A unit that parks after the request is withdrawn as one that was parked before it (R251); of an op whose last unit has been
performed, only by a kill (R287). -/
def execOpCancelPoint (op : Nat) (s : State) : Host.Outcome State Fault Refusal :=
  let o := s.opOf op
  if o.state = .running ∧ s.cancels op then
    if s.lastUnitDone op then .next (if o.parked.isEmpty then s else s.cancelOp op true)
    else if o.atCancelPoint then .next (s.endOp op .cancelled)
    else if o.parked.isEmpty then .next s
    else .next (s.cancelOp op false)
  else .next s

end Sys2Proof.Machine
end

