-- ==== Sys2Proof/Machine/Sync.lean ====
section
/-!
DEFINITION. The synchronisation instructions (18_synchronisation.md R348–R359) and the wakes of the strands that wait in them.
Accesses are performed whole and in step order, so an order or a fence has nothing left to hold back (log 7).
-/

namespace Sys2Proof.Machine

/-! ## Fences and sync objects (R348–R352) -/

/-- R348. Of the later loads that it orders at a scope above the strand, only elements read ahead could have been performed: they are
read again (R344). -/
def execFence (sw : Bool) (c : BitVec 3) (k : BitVec 4) (s : State) : Host.Outcome State Fault Refusal :=
  issue (.fence sw c k) sw .plain (do
    if c ≠ 0 ∧ k &&& 0x5#4 ≠ 0 then modMe Strand.dropAhead
    pure .next) s

/-- The instance of a scope that contains the current strand's core (R343). -/
def State.scopeInstance (s : State) (scope : Nat) : Nat :=
  match scope with
  | 0 => s.me.uid
  | 1 => s.me.core
  | 2 => corePly s.me.core
  | 3 => coreDie s.me.core
  | _ => 0

/-- A release to the default object of a scope (R349, R352): an add of 1 to a word that no address reaches. It is an access (R344). -/
def releaseDefault (scope : Nat) : Act Unit := do
  modMe Strand.acquired
  modify fun s =>
    match s.me.launch with
    | some l =>
      let k := 2 ^ 40 * scope + s.scopeInstance scope
      s.setLaunch l fun x => { x with defaults := FMap.set 0 x.defaults k ((FMap.get 0 x.defaults k + 1) % 2 ^ 64) }
    | none => s

/-- R352: a read of the object after the checks of R346; it has no result. -/
def execAcq (sw : Bool) (r : Reg) (c : BitVec 3) (s : State) : Host.Outcome State Fault Refusal :=
  issue (.acq sw r c) sw .plain (do
    prologue false [r] [] [] []
    let x ← readReg r
    if x ≠ 0 then
      checkAlign x.toNat 8 .atomic
      let ls ← translatePieces .atomic .atomic true true [{ va := x.toNat, offs := blockOffs x.toNat 8, act := .read }]
      watchPieces .atomic ls
      let _ ← performPieces .atomic .load 0 ls
    afterOrdered (orderWait 1 c.toNat)
    pure .next) s

/-- R352: an atomic add of 1; it has no result. -/
def execRel (sw : Bool) (r : Reg) (c : BitVec 3) (s : State) : Host.Outcome State Fault Refusal :=
  issue (.rel sw r c) sw .plain (do
    prologue false [r] [] [] []
    let x ← readReg r
    if x = 0 then releaseDefault c.toNat
    else
      let _ ← atomicAccess x 8 (.amo (x.toNat % 64) 0 1)
    pure .next) s

/-- Whether a region overlaps a standing binding (R351). -/
def Binding.overlaps (b : Binding) (base len : Nat) : Bool :=
  decide (base < b.base.toNat + b.length.toNat ∧ b.base.toNat < base + len)

/-- Adds a binding to a launch (R350). -/
def State.addBinding (s : State) (l : Nat) (base len : Word) (name : Name) : State :=
  s.setLaunch l fun x => { x with bindings := x.bindings ++ [{ base := base, length := len, name := name }] }

/-- R351. A strand of no launch has no bindings to add to: whether its status is LIVE or FULL is free where a launch's would be LIVE. The
reference count of a name of another chip is free. -/
def execEbind (sw : Bool) (r n t : Reg) (s : State) : Host.Outcome State Fault Refusal :=
  issue (.ebind sw r n t) sw .plain (do
    prologue true [r, r + 1, n, n + 1] [t] [] []
    let base ← readReg r
    let len ← readReg (r + 1)
    let name ← readPair n
    let e ← resolveHome name
    let s ← get
    let bs := match s.me.launch with | some l => (s.launchOf l).bindings | none => []
    if e.st ≠ stLIVE then statusFor e.counter t e.st
    else if nameClass name ≠ classSYNC then statusFor e.counter t stBADCLASS
    else if base.toNat % 4096 ≠ 0 ∨ len = 0 ∨ len.toNat % 4096 ≠ 0 ∨ 2 ^ 57 < base.toNat + len.toNat then
      statusFor e.counter t stBADADDR
    else if 256 ≤ bs.length then statusFor e.counter t stFULL
    else if bs.any fun b => b.overlaps base.toNat len.toNat then statusFor e.counter t stOVERLAP
    else
      let full ← match e.counter with
        | some k => pure (decide ((s.nameEntry k).refcount ≥ 65535))
        | none => drawBit
      if full then statusFor e.counter t stSATURATED
      else
        match s.me.launch with
        | some l => do
          match e.counter with
          | some k => modify fun s => s.setName k fun x => { x with refcount := x.refcount + 1 }
          | none => pure ()
          modify fun s => s.addBinding l base len name
          statusFor e.counter t stLIVE
        | none => statusFor e.counter t (if ← drawBit then stLIVE else stFULL)
    pure .next) s

/-! ## Waiting on an address (R353–R355) -/

/-- R353: reason 1 at once in an urgent slot or at a memory without a waiter list. -/
def execWwait (sw : Bool) (d a b : Reg) (s : State) : Host.Outcome State Fault Refusal :=
  issue (.wwait sw d a b) sw .plain (do
    prologue true [a, b] [d] [] []
    let ga ← readReg a
    let gb ← readReg b
    checkAlign ga.toNat 8 .load
    let s ← get
    let act : UnitAct := if s.me.urg then .read else .wwait (ga.toNat % 64) gb
    let rs ← strandAccess .vector .load 0 [{ va := ga.toNat, offs := blockOffs ga.toNat 8, act := act }]
    let answer := match rs with | x :: _ => ofLE x.bytes | [] => 1
    if s.me.urg then
      longReg d 1
      pure .next
    else if answer = 3 then
      let e ← entryNow d
      modMe fun t => { t with wait := .wwait, pdest := e, pmark := sw, unitLog := [], unitPos := 0 }
      pure .left
    else
      longReg d (BitVec.ofNat 64 answer)
      pure .next) s

/-- Removes a strand's waiter. -/
def State.dropWaiter (s : State) (core slot : Nat) : State :=
  { s with mem := { s.mem with waiters := s.mem.waiters.filter fun w => !(w.core == core && w.slot == slot) } }

/-- Withdraws a parked `wwait` or `bar.wait` without effect (R355): it issues again. -/
def State.withdrawWait (s : State) (core slot : Nat) : State :=
  (s.dropWaiter core slot).setStrand core slot fun t =>
    match t.wait with
    | .wwait => { t with wait := .none }
    | .woken _ => { t with wait := .none }
    | .barrier _ _ => { t with wait := .none }
    | _ => t

/-- Takes the strand in a slot to its instruction boundary (R251, R355): what it waits for is withdrawn, and its word or
prefix group will issue again, whole. -/
def State.withdraw (s : State) (core slot : Nat) : State :=
  let s := s.dropWaiter core slot
  let s := { s with mem := { s.mem with parked := s.mem.parked.filter fun u => u.who != Parker.strand core slot } }
  s.setStrand core slot fun t => { t.clean with pc := t.boundary, wait := .none }

/-- Discards what the generators of the strand in a slot read ahead (R239). -/
def State.dropPrefetch (s : State) (core slot : Nat) : State :=
  let s := { s with mem := { s.mem with parked := s.mem.parked.filter fun u =>
    match u.who with
    | .prefetch c n _ _ _ => !(c == core && n == slot)
    | _ => true } }
  s.setStrand core slot fun t =>
    [0, 1, 2, 3].foldl (fun t k => t.setStream k fun g => { g with fetched := [], parked := [], stopped := [] }) t

/-- Completes a parked word of the current strand (R354, R357). A budget that reached zero while it was parked is due before its next word
(R103). -/
def State.finishPark (s : State) : State := { s with me := (s.me.wordDone s.me.pmark (s.me.pc + 4) .none).spend 0 }

/-- Gives a parked `wwait` its reason. -/
def State.finishWwait (s : State) (core slot : Nat) (reason : Nat) : State :=
  let s := (s.dropWaiter core slot).switchTo core slot
  match writeEntry s.me.pdest (BitVec.ofNat 64 reason) s with
  | .ok _ s' => s'.finishPark
  | .error _ s' => s'.finishPark

/-- R354: the wake reaches the strand. -/
def execWwaitWake (core slot : Nat) (s : State) : Host.Outcome State Fault Refusal :=
  match s.strandAt core slot with
  | some t =>
    match t.wait with
    | .woken r => .next (s.finishWwait core slot r)
    | _ => .next s
  | none => .next s

/-- Whether a strand's wait has a time limit (R353). -/
def State.waitLimited (s : State) (t : Strand) : Bool := t.wtmo != 0 || (s.ctxOf t.ctx).wakeLimit != 0

/-- R353: reason 2. -/
def execWwaitTimeout (core slot : Nat) (s : State) : Host.Outcome State Fault Refusal :=
  match s.strandAt core slot with
  | some t => if t.wait = .wwait ∧ s.waitLimited t then .next (s.finishWwait core slot 2) else .next s
  | none => .next s

/-- R354: the device wakes a waiter of its own accord, with reason 1. -/
def execWwaitSpuriousWake (core slot : Nat) (s : State) : Host.Outcome State Fault Refusal :=
  match s.strandAt core slot with
  | some t =>
    if t.wait = .wwait then .next ((s.dropWaiter core slot).setStrand core slot fun t => t.wake 1) else .next s
  | none => .next s

/-! ## Barriers (R356, R357) -/

/-- The key of a slot instance's phase count. -/
def phaseKey (level inst slot : Nat) : Nat := 64 * (256 * level + inst) + slot

/-- The instance of a participant at a level: 0 ply, 1 die. -/
def Strand.homeAt (t : Strand) (level : Nat) : Nat := if level = 0 then t.homePly else t.homeDie

/-- Participants of a slot instance that have not ended (R356). -/
def State.participants (s : State) (l level inst : Nat) : List Strand :=
  s.all.filter fun t => t.isLive && t.counted && t.launch == some l && t.homeAt level == inst

/-- Whether a placed group of the instance has no strands yet: its bind record is not consumed. -/
def State.undispatched (s : State) (l level inst : Nat) : Bool :=
  s.hub.binds.any fun b => b.2.valid && b.2.lslot == l
    && (if level = 0 then corePly b.2.core else coreDie b.2.core) == inst

/-- Completes the phase of a slot instance when every group is placed and every participant has arrived (R356). -/
def State.settlePhase (s : State) (l level inst slot : Nat) : State :=
  let x := s.launchOf l
  let p := FMap.get 0 x.phases (phaseKey level inst slot)
  let ts := s.participants l level inst
  if x.nextGroup = x.lrec.groupCount ∧ !s.undispatched l level inst ∧ !ts.isEmpty
      ∧ ts.all fun t => FMap.get 0 t.arrived (32 * level + slot) == p + 1 then
    s.setLaunch l fun x => { x with phases := FMap.set 0 x.phases (phaseKey level inst slot) (p + 1) }
  else s

/-- Settles every slot instance of a launch: a group was placed, or a participant ended. -/
def State.settlePhases (s : State) (l : Nat) : State :=
  let ts := s.all.filter fun t => t.isLive && t.counted && t.launch == some l
  ts.foldl (fun s t =>
    (FMap.keys t.arrived).foldl (fun s k => s.settlePhase l (k / 32) (t.homeAt (k / 32)) (k % 32)) s) s

/-- The checks of a barrier word: its launch. The access code of the PROT is open (log 17). -/
def barrierChecks (level slot : Nat) : Act Nat := do
  let s ← get
  match s.me.launch with
  | some l =>
    if !s.me.counted then trapWith .priv 3 0
    else if (if level = 0 then (s.launchOf l).lrec.nbply else (s.launchOf l).lrec.nbdie) ≤ slot then
      let x ← drawWord
      trapWith .prot ((protInfo faultTARGET .load 7 false) ||| (x &&& 0xE00#64)) 0
    else pure l
  | none => trapWith .priv 3 0

/-- R357. -/
def execBarArr (sw : Bool) (l : BitVec 2) (p : BitVec 5) (s : State) : Host.Outcome State Fault Refusal :=
  issue (.barArr sw l p) sw .plain (do
    let level := l.toNat
    let slot := p.toNat
    let k ← barrierChecks level slot
    let s ← get
    let inst := s.me.homeAt level
    let ph := FMap.get 0 (s.launchOf k).phases (phaseKey level inst slot)
    if FMap.get 0 s.me.arrived (32 * level + slot) = ph + 1 then waitIssue
    releaseDefault (level + 2)
    modMe fun t => { t with arrived := FMap.set 0 t.arrived (32 * level + slot) (ph + 1) }
    modify fun s => s.settlePhase k level inst slot
    pure .next) s

/-- Whether the phase that a strand last arrived in is complete, or it has arrived in none (R357). -/
def State.phasePassed (s : State) (t : Strand) (level slot : Nat) : Bool :=
  match t.launch with
  | some l =>
    let last := FMap.get 0 t.arrived (32 * level + slot)
    last == 0 || decide (last ≤ FMap.get 0 (s.launchOf l).phases (phaseKey level (t.homeAt level) slot))
  | none => true

/-- R357; where it does not park, it acquires at once (R344). -/
def execBarWait (sw : Bool) (l : BitVec 2) (p : BitVec 5) (s : State) : Host.Outcome State Fault Refusal :=
  issue (.barWait sw l p) sw .plain (do
    let _ ← barrierChecks l.toNat p.toNat
    let s ← get
    if s.phasePassed s.me l.toNat p.toNat then
      modMe Strand.dropAhead
      pure .next
    else
      modMe fun t => { t with wait := .barrier l.toNat p.toNat, pmark := sw }
      pure .left) s

/-- R357: a completed phase reaches a waiting strand, which acquires (R344). -/
def execBarWaitRelease (core slot : Nat) (s : State) : Host.Outcome State Fault Refusal :=
  match s.strandAt core slot with
  | some t =>
    match t.wait with
    | .barrier level n =>
      if s.phasePassed t level n then
        let s := (s.switchTo core slot).finishPark
        .next { s with me := s.me.dropAhead }
      else .next s
    | _ => .next s
  | none => .next s

/-! ## Triggers and text (R358, R359) -/

/-- A counted strand counts as triggered (R358). -/
def State.countTrigger (s : State) (t : Strand) : State :=
  match t.launch with
  | some l => if t.counted ∧ !t.triggered then s.setLaunch l fun x => { x with untriggered := x.untriggered - 1 } else s
  | none => s

/-- R358. -/
def execTrig (sw : Bool) (s : State) : Host.Outcome State Fault Refusal :=
  issue (.trig sw) sw .plain (do
    modify fun s => s.countTrigger s.me
    modMe fun t => if t.counted then { t with triggered := true } else t
    pure .next) s

/-- R359: the lines are dropped when the long result returns. -/
def execTsync (sw : Bool) (a l : Reg) (s : State) : Host.Outcome State Fault Refusal :=
  issue (.tsync sw a l) sw .plain (do
    prologue true [a, l] [] [] []
    let ga ← readReg a
    let gl ← readReg l
    longNone (.text ga.toNat (min (2 ^ 57) (ga.toNat + gl.toNat)))
    pure .next) s

end Sys2Proof.Machine
end

