-- ==== Sys2Proof/Machine/Placement.lean ====
section
/-!
DEFINITION. Where the groups of launches go (05_placement_and_binding.md R95–R101; 22_program_preemption.md R400): pending lists, which
group is placed next and where, bind records and their dispatch. A core of another chip of the reach stands under a number above those of
this chip, by chip and vcore index; what happens there is free (log 42).
-/

namespace Sys2Proof.Machine

/-! ## Pending lists (R101, R102) -/

/-- Slices in a core's pending list. -/
def State.pendingCount (s : State) (core : Nat) : Nat := (s.all.filter fun t => decide (t.place = .pending core)).length

/-- Whether a core's pending list has room for `n` slices, with no pre-empted strand waiting ahead (R101). -/
def State.pendingRoom (s : State) (core n : Nat) : Bool :=
  decide (s.pendingCount core + n ≤ 64) && !(s.all.any fun t => decide (t.place = .held core))

/-- Enters a slice in a core's pending list, after those already there. -/
def State.enterList (s : State) (core : Nat) (t : Strand) : State :=
  { s with ages := s.ages + 1 }.addStrand { t with place := .pending core, wait := .none, age := s.ages }

/-- Removes a strand. -/
def State.removeStrand (s : State) (uid : Nat) : State :=
  { s with me := if s.me.uid = uid then Strand.empty else s.me, strands := s.strands.filter fun t => t.uid != uid }

/-- Strands held outside a core's list enter it, oldest first, while entries are free (R101). -/
def State.promote : (fuel : Nat) → State → (core : Nat) → State
  | 0, s, _ => s
  | n + 1, s, core =>
    match s.all.filter fun t => decide (t.place = .held core) with
    | [] => s
    | t :: ts =>
      if s.pendingCount core < 64 then
        let first := ts.foldl (fun a b => if b.age < a.age then b else a) t
        (((s.removeStrand first.uid).enterList core first).promote n core)
      else s

/-- What follows a free entry of a core's list. -/
def State.refill (s : State) (core : Nat) : State := s.promote s.all.length core

/-- A new strand's own number. -/
def State.freshUid (s : State) : Nat × State := (s.ages + 1, { s with ages := s.ages + 1 })

/-! ## Which group (R95) -/

/-- A launch that still has a group to place. -/
def State.placing (s : State) (x : Launch) : Bool :=
  x.live && x.started && decide (x.nextGroup < x.lrec.groupCount) && !(s.ctxOf x.ctx).killing

/-- The first of some launches in acceptance order. -/
def firstAccepted : List (Nat × Launch) → Option (Nat × Launch)
  | [] => none
  | x :: xs =>
    match firstAccepted xs with
    | none => some x
    | some y => if y.2.order < x.2.order then some y else some x

/-- The launch whose group is placed next: a high-priority one ahead of every normal one. -/
def State.nextPlaced (s : State) : Option (Nat × Launch) :=
  let xs := s.hub.launches.filter fun x => s.placing x.2
  match firstAccepted (xs.filter fun x => x.2.lrec.priority == 1) with
  | some x => some x
  | none => firstAccepted xs

/-! ## Vcores of the reach (R93, R97) -/

/-- The number under which a vcore of another chip stands. -/
def awayCore (chip index : Nat) : Nat := 4096 * (1 + chip) + index

/-- Whether a core number is that of a vcore of another chip. -/
def isAway (core : Nat) : Bool := decide (4096 ≤ core)

/-- How many vcores a context has on a chip of its reach: sixteen in each of its plies there (R94). -/
def State.vcoresOn (s : State) (ctx chip : Nat) : Nat :=
  let c := s.ctxOf ctx
  if chip = s.hub.chip then 16 * c.plies.length
  else if (s.partOf c.part).reach.contains chip then 16 * min 160 ((Config.vcoresAt chip ctx c.born).toNat / 16)
  else 0

/-- The other chips of a context's reach, ascending. -/
def State.awayChips (s : State) (ctx : Nat) : List Nat :=
  (List.range 384).filter fun chip => chip != s.hub.chip && (s.partOf (s.ctxOf ctx).part).reach.contains chip

/-- Every core of a context in the order of R97: those of this chip, then those of the other chips of the reach. -/
def State.reachCores (s : State) (ctx : Nat) : List Nat :=
  ((s.ctxOf ctx).plies.flatMap fun p => (List.range 16).map (16 * p + ·))
    ++ (s.awayChips ctx).flatMap fun chip => (List.range (s.vcoresOn ctx chip)).map (awayCore chip)

/-- The core, of this chip or another, that a vcore word names in a context. -/
def State.reachCore (s : State) (ctx v : Nat) : Option Nat :=
  if 2 ^ 21 ≤ v then none
  else if v / 4096 = s.hub.chip then s.coreOfVcore ctx v
  else if v % 4096 < s.vcoresOn ctx (v / 4096) then some (awayCore (v / 4096) (v % 4096))
  else none

/-- The die of a context's core, numbered over the reach. -/
def State.placeDie (s : State) (ctx core : Nat) : Nat :=
  if isAway core then
    let chip := core / 4096 - 1
    8 * (1 + chip) + (Config.dieAt chip ctx (s.ctxOf ctx).born (core % 4096 / 16)).val
  else coreDie core

/-- The chip of a core, numbered over the reach: none for this one. -/
def placeChip (core : Nat) : Option Nat := if isAway core then some (core / 4096 - 1) else none

/-- Whether two cores of a context lie in one instance of a domain (R97, R98). -/
def State.sameInstance (s : State) (ctx domain a b : Nat) : Bool :=
  match domain with
  | 2 => corePly a == corePly b
  | 3 => s.placeDie ctx a == s.placeDie ctx b
  | 4 => placeChip a == placeChip b
  | _ => true

/-! ## Where (R96–R98) -/

/-- Every placed group of a live launch. -/
def State.liveGroups (s : State) : List (Launch × Group) :=
  (s.hub.launches.filter fun x => x.2.live).flatMap fun x => x.2.groups.map fun g => (x.2, g.2)

/-- Normal slots reserved on a core. -/
def State.slotsReserved (s : State) (core : Nat) : Nat :=
  ((s.liveGroups.filter fun x => x.2.core == core).map fun x => x.2.reserved).sum

/-- Free local-store bytes of a core. -/
def State.bytesFree (s : State) (ctx core : Nat) : Nat :=
  (Config.lsLeft ctx).toNat - ((s.liveGroups.filter fun x => x.2.core == core && x.2.left != 0).map fun x => x.1.lrec.lsbytes).sum

/-- Unreserved banks of a core. -/
def State.banksUnreserved (s : State) (core : Nat) : Nat :=
  4 - ((s.liveGroups.filter fun x => x.2.core == core && x.2.left != 0).map fun x => x.2.banks).sum

/-- Barrier slots in use where `at` holds of a group's core; `n` gives a launch's count. -/
def State.barrierSlots (s : State) (here : Nat → Bool) (n : LaunchRec → Nat) : Nat :=
  ((s.hub.launches.filter fun x => x.2.live && x.2.groups.any fun g => here g.2.core).map fun x => n x.2.lrec).sum

/-- The ply and die barrier slots and the local store that a group needs on a core of this chip (R96). -/
def State.fitsRest (s : State) (x : Launch) (core : Nat) : Bool :=
  let inPly (c : Nat) : Bool := corePly c == corePly core
  let inDie (c : Nat) : Bool := !isAway c && coreDie c == coreDie core
  decide (x.lrec.lsbytes ≤ s.bytesFree x.ctx core)
    && (x.groups.any (fun g => inPly g.2.core) || decide (s.barrierSlots inPly (·.nbply) + x.lrec.nbply ≤ 16))
    && (x.groups.any (fun g => inDie g.2.core) || decide (s.barrierSlots inDie (·.nbdie) + x.lrec.nbdie ≤ 32))

/-- Whether a core fits the next group of a launch (R96). -/
def State.fits (s : State) (x : Launch) (core : Nat) : Bool :=
  if isAway core then Config.fitsAway s.free core
  else decide (s.slotsReserved core + x.lrec.nstr ≤ 8 ∧ x.lrec.nbank ≤ s.banksUnreserved core) && s.fitsRest x core

/-- Core groups in a unit of a level. -/
def LaunchRec.unitGroups (r : LaunchRec) (level : Nat) : Nat :=
  ((r.levels.take level).map (·.extent)).foldl (· * ·) 1 / r.groupSize

/-- The levels whose domain is ply, die or chip, with their domains. -/
def LaunchRec.domainLevels (r : LaunchRec) : List (Nat × Nat) :=
  (((List.range r.levels.length).zip r.levels).filter fun x => decide (2 ≤ x.2.domain ∧ x.2.domain ≤ 4)).map fun x =>
    (x.1, x.2.domain)

/-- Whether a core lies in the instances that the units of a group are bound to (R97): the unit of every such level, as R51 guarantees for
each, where R97 names the lowest (log 111). -/
def State.inInstance (s : State) (x : Launch) (g core : Nat) : Bool :=
  x.lrec.domainLevels.all fun (level, domain) =>
    let n := x.lrec.unitGroups level
    let first := g / n * n
    first == g || s.sameInstance x.ctx domain core (FMap.get Group.none x.groups first).core

/-- The cores on which the next group of a launch may be placed, in order of preference: the table's (R98), or every core from the
cursor on in table order, wrapping once (R97). -/
def State.candidates (s : State) (x : Launch) : List Nat :=
  match x.table[x.nextGroup]? with
  | some core => [core]
  | none =>
    let cs := s.reachCores x.ctx
    let cursor := (s.ctxOf x.ctx).cursor
    (cs.drop cursor ++ cs.take cursor).filter (s.inInstance x x.nextGroup)

/-- The lowest slot of the slot table that holds no valid record. -/
def State.freeBind (s : State) : Option Nat := lowestFree ((s.hub.binds.filter fun b => b.2.valid).map (·.1)) 4096 0

/-- The next group of a launch is placed on a core: what it reserves there, and where the cursor goes (R96–R98). -/
def State.reserve (s : State) (l core : Nat) : State :=
  let x := s.launchOf l
  let g := x.nextGroup
  let s := s.setLaunch l fun x =>
    { x with nextGroup := g + 1
             groups := FMap.set Group.none x.groups g
               { core := core, reserved := x.lrec.nstr, left := x.lrec.nstr, banks := x.lrec.nbank, haltReq := x.haltReq
                 finish := none } }
  if x.table.isEmpty then
    let cs := s.reachCores x.ctx
    s.setCtx x.ctx fun c => { c with cursor := ((indexFrom core 0 cs).getD 0 + 1) % cs.length }
  else s

/-- Places the next group of a launch on a core of this chip: its bind record is written (R99). -/
def State.placeGroup (s : State) (l core slot : Nat) : State :=
  let x := s.launchOf l
  let g := x.nextGroup
  let dl := if x.lrec.reldl.toNat + x.accept.toNat < 2 ^ 64 then x.accept + x.lrec.reldl else BitVec.allOnes 64
  let b : BindRec :=
    { valid := true, lslot := l, core := core, vcore := s.vcoreWord x.ctx core, group := g, tbase := g * x.lrec.nstr
      nstr := x.lrec.nstr, high := decide (x.lrec.priority = 1), deadline := dl }
  let s := s.reserve l core
  (s.setHub fun h => { h with binds := FMap.set BindRec.none h.binds slot b }).settlePhases l

/-! ## Dispatch (R52, R65, R100, R159) -/

/-- Index and extent registers of strand t (R52): keys 0–7. -/
def levelRegs (t : Nat) : (i : Nat) → List Level → FMap Word × FMap Word
  | _, [] => ([], [])
  | i, l :: ls =>
    let (lvl, ext) := levelRegs (t / l.extent) (i + 1) ls
    (FMap.set 0 lvl i (BitVec.ofNat 64 (t % l.extent)), FMap.set 1 ext i (BitVec.ofNat 64 l.extent))

/-- Strand t of a launch (R100, R159). -/
def State.launchStrand (s : State) (b : BindRec) (t uid : Nat) : Strand :=
  let x := s.launchOf b.lslot
  let (lvl, ext) := levelRegs t 0 x.lrec.levels
  { Strand.empty with
    ctx := x.ctx, part := x.part, launch := some b.lslot, group := b.group, tnum := BitVec.ofNat 32 t, uid := uid
    pc := x.lrec.entry, strict := x.lrec.strict, srseed := BitVec.ofNat 64 t, stk := Config.startStk b.lslot t
    lvl := lvl, ext := ext, sh0 := (x.snaps[0]?).getD none, sh1 := (x.snaps[1]?).getD none, ntok := x.lrec.ntok
    counted := true, homePly := corePly b.core, homeDie := coreDie b.core, deadline := b.deadline
    slicebud := x.lrec.slicebud, high := b.high, fresh := true }

/-- Dispatch of a record, if its slices fit: every one enters the pending list in one step (R100). -/
def State.dispatch (s : State) (index : Nat) : State :=
  let b := FMap.get BindRec.none s.hub.binds index
  if b.valid ∧ s.pendingRoom b.core b.nstr then
    let s := (List.range b.nstr).foldl (fun s i =>
      let (uid, s) := s.freshUid
      s.enterList b.core (s.launchStrand b (b.tbase + i) uid)) s
    let s := s.setHub fun h =>
      { h with binds := FMap.set BindRec.none h.binds index { b with valid := false } }
    s.setLaunch b.lslot fun x => { x with strands := x.strands + b.nstr }
  else s

/-- Whether the spindle has pre-empted on a core for the next group of a launch (R393). -/
def State.preemptedFor (s : State) (x : Launch) (core : Nat) : Bool :=
  s.all.any fun t => t.forGroup == some (x.order, x.nextGroup) && t.core == core

/-- The next group of a launch is placed on a core of this chip, and its record is dispatched in the same cycle where the spindle has
pre-empted for it (R400). -/
def State.placeHere (s : State) (l : Nat) (x : Launch) (core slot : Nat) : State :=
  if s.preemptedFor x core then (s.placeGroup l core slot).dispatch slot else s.placeGroup l core slot

/-- A group for which the spindle has pre-empted on a core is placed as soon as the last slot it needs there is free (R400): as a strand
ends or its save completes, and before anything is bound there. -/
def State.placeFor (s : State) (core : Nat) : State :=
  match s.nextPlaced, s.freeBind with
  | some (l, x), some slot =>
    if s.preemptedFor x core && (s.candidates x).contains core && s.fits x core then s.placeHere l x core slot else s
  | _, _ => s

end Sys2Proof.Machine
end

