-- ==== Sys2Proof/Machine/Vector.lean ====
section
/-!
DEFINITION. The vector arithmetic words (11_vector_and_streams.md R213–R224, R233, R234), and appends to a stream
(R238).
-/

namespace Sys2Proof.Machine

/-! ## Lanes and operands (R213) -/

/-- A lane of a list. -/
def laneAt (l : List Lane) (i : Nat) : Lane := (l[i]?).getD 0

/-- General registers that a b operand reads. -/
def bG (x : Bool) (b : Reg) : List Reg := if x then [b] else []

/-- Vector registers that a b operand reads. -/
def bV (x : Bool) (b : Reg) : List Reg := if x then [] else [b]

/-- The b operand: gb<31:0> in every lane, or vb. -/
def readB (x : Bool) (b : Reg) : Act (List Lane) :=
  if x then do pure (List.replicate 64 ((← readReg b).setWidth 32)) else readV b

/-- The lanes of a destination: those a mask enables get a result, the others keep theirs; and the flags of the enabled
ones. -/
def mergeLanes (m : Word) (old : List Lane) (f : Nat → Lane × Flags) : List Lane × Flags :=
  (List.range 64).foldr (fun i acc =>
    if m.getLsbD i then ((f i).1 :: acc.1, (f i).2 ||| acc.2) else (laneAt old i :: acc.1, acc.2)) ([], 0)

/-- The lanes that a masked destination keeps. -/
def keptLanes (d : Reg) (m : Word) : Act (List Lane) := if m = BitVec.allOnes 64 then pure [] else readV d

/-- An element-wise word (R213): `third` also reads vd. -/
def vaForm (d a b : Reg) (x : Bool) (mk : Mask) (third : Bool)
    (op : Control → Lane → Lane → Lane → Lane × Flags) : Act Flow := do
  prologue true (bG x b ++ maskRegs mk) [] ((if third then [d] else []) ++ [a] ++ bV x b) [d]
  let dv ← if third then readV d else pure []
  let av ← readV a
  let bv ← readB x b
  let m ← readMask mk
  let old ← if third then pure dv else keptLanes d m
  let c ← controlNow
  let (r, fl) := mergeLanes m old fun i => op c (laneAt av i) (laneAt bv i) (laneAt old i)
  setFlags fl
  longV d r
  pure .next

/-- A unary element-wise word. -/
def vaUnary (d a : Reg) (mk : Mask) (op : Control → Lane → Lane × Flags) : Act Flow := do
  prologue true (maskRegs mk) [] [a] [d]
  let av ← readV a
  let m ← readMask mk
  let old ← keptLanes d m
  let c ← controlNow
  let (r, fl) := mergeLanes m old fun i => op c (laneAt av i)
  setFlags fl
  longV d r
  pure .next

/-- A word that computes each enabled lane from whole registers. -/
def vaWhole (d a b : Reg) (x : Bool) (mk : Mask)
    (op : Control → List Lane → List Lane → Nat → Lane × Flags) : Act Flow := do
  prologue true (bG x b ++ maskRegs mk) [] ([a] ++ bV x b) [d]
  let av ← readV a
  let bv ← readB x b
  let m ← readMask mk
  let old ← keptLanes d m
  let c ← controlNow
  let (r, fl) := mergeLanes m old (op c av bv)
  setFlags fl
  longV d r
  pure .next

/-! ## Integer and binary32 results (R213, R216, R217) -/

/-- A lane as an integer of a type. -/
def laneInt (ty : VType) (a : Lane) : Int :=
  match ty with
  | .i => a.toInt
  | _ => a.toNat

/-- The range of an integer type. -/
def typeRange : VType → Int × Int
  | .i => (-2147483648, 2147483647)
  | _ => (0, 4294967295)

/-- A value clamped to a range, with SAT when that changes it. -/
def clampTo (lo hi v : Int) : Int × Flags :=
  if v < lo then (lo, flagSAT) else if hi < v then (hi, flagSAT) else (v, 0)

/-- An integer result: modulo 2^32, or clamped under saturate. -/
def intResult (ty : VType) (sat : Bool) (v : Int) : Lane × Flags :=
  if sat then
    let (x, fl) := clampTo (typeRange ty).1 (typeRange ty).2 v
    (BitVec.ofInt 32 x, fl)
  else (BitVec.ofInt 32 v, 0)

/-- A binary32 result under the control. -/
def floatResult (c : Control) (v : Val) : Lane × Flags :=
  let (x, fl) := Fmt.encode .f32 v c.mode c.sat
  (BitVec.ofNat 32 x, fl)

/-- Sum of two binary32 values. -/
def fsum (c : Control) (a b : Val) : Lane × Flags :=
  let (x, fl) := floatResult c (addVal a b (decide (c.mode = 2)))
  (x, fl ||| flagIf (a.isSig || b.isSig || sumInvalid [a, b]) flagNV)

/-- The fused product and sum: (±)a × b (±) d, one rounding. -/
def ffma (negP negD : Bool) (c : Control) (a b d : Lane) : Lane × Flags :=
  let p := mulVal (laneVal a) (laneVal b)
  let p := if negP then p.negate else p
  let v := if negD then (laneVal d).negate else laneVal d
  let (x, fl) := fsum c p v
  (x, fl ||| flagIf ((laneVal a).isSig || (laneVal b).isSig || mulInvalid (laneVal a) (laneVal b)) flagNV)

/-- `vadd` (R216). -/
def opAdd (ty : VType) (c : Control) (a b : Lane) : Lane × Flags :=
  match ty with
  | .f => fsum c (laneVal a) (laneVal b)
  | t => intResult t c.sat (laneInt t a + laneInt t b)

/-- `vsub` (R216). -/
def opSub (ty : VType) (c : Control) (a b : Lane) : Lane × Flags :=
  match ty with
  | .f => fsum c (laneVal a) (laneVal b).negate
  | t => intResult t c.sat (laneInt t a - laneInt t b)

/-- `vmul` (R216). -/
def opMul (ty : VType) (c : Control) (a b : Lane) : Lane × Flags :=
  match ty with
  | .f =>
    let (x, fl) := floatResult c (mulVal (laneVal a) (laneVal b))
    (x, fl ||| flagIf ((laneVal a).isSig || (laneVal b).isSig || mulInvalid (laneVal a) (laneVal b)) flagNV)
  | t => intResult t c.sat (laneInt t a * laneInt t b)

/-- `vmul.hi` (R216). -/
def opMulHi (ty : VType) (a b : Lane) : Lane × Flags :=
  (BitVec.ofInt 32 ((laneInt ty a * laneInt ty b) / 2 ^ 32), 0)

/-- Minimum or maximum of two lanes (R216, R217). -/
def opMinMax (big : Bool) (ty : VType) (a b : Lane) : Lane × Flags :=
  match ty with
  | .f => let (x, fl) := minMax .f32 big a.toNat b.toNat; (BitVec.ofNat 32 x, fl)
  | t => (if decide (laneInt t a < laneInt t b) == big then b else a, 0)

/-- `vabs` (R216). -/
def opAbs (ty : VType) (c : Control) (a : Lane) : Lane × Flags :=
  match ty with
  | .f => if (laneVal a).isNaN then (nan32, flagIf (laneVal a).isSig flagNV) else (a &&& 0x7FFFFFFF#32, 0)
  | t => intResult t c.sat (laneInt t a).natAbs

/-- `vneg` (R216). -/
def opNeg (ty : VType) (c : Control) (a : Lane) : Lane × Flags :=
  match ty with
  | .f => if (laneVal a).isNaN then (nan32, flagIf (laneVal a).isSig flagNV) else (a ^^^ 0x80000000#32, 0)
  | t => intResult t c.sat (-(laneInt t a))

/-- `vshl` (R216): under saturate the exact a × 2^n is clamped (R213; log 14). -/
def opShl (ty : VType) (c : Control) (a b : Lane) : Lane × Flags :=
  intResult ty c.sat (laneInt ty a * 2 ^ (b.toNat % 32))

/-! ## Element-wise words -/

/-- R216. -/
def execVadd (sw : Bool) (d a b : Reg) (x : Bool) (ty : VType) (mk : Mask) (s : State) :
    Host.Outcome State Fault Refusal :=
  issue (.vadd sw d a b x ty mk) sw .plain (vaForm d a b x mk false fun c p q _ => opAdd ty c p q) s

/-- R216. -/
def execVsub (sw : Bool) (d a b : Reg) (x : Bool) (ty : VType) (mk : Mask) (s : State) :
    Host.Outcome State Fault Refusal :=
  issue (.vsub sw d a b x ty mk) sw .plain (vaForm d a b x mk false fun c p q _ => opSub ty c p q) s

/-- R216. -/
def execVmul (sw : Bool) (d a b : Reg) (x : Bool) (ty : VType) (mk : Mask) (s : State) :
    Host.Outcome State Fault Refusal :=
  issue (.vmul sw d a b x ty mk) sw .plain (vaForm d a b x mk false fun c p q _ => opMul ty c p q) s

/-- R216. -/
def execVmulHi (sw : Bool) (d a b : Reg) (x : Bool) (ty : VType) (mk : Mask) (s : State) :
    Host.Outcome State Fault Refusal :=
  issue (.vmulHi sw d a b x ty mk) sw .plain (vaForm d a b x mk false fun _ p q _ => opMulHi ty p q) s

/-- R216. -/
def execVfma (sw : Bool) (d a b : Reg) (x : Bool) (mk : Mask) (s : State) : Host.Outcome State Fault Refusal :=
  issue (.vfma sw d a b x mk) sw .plain (vaForm d a b x mk true (ffma false false)) s

/-- R216. -/
def execVfms (sw : Bool) (d a b : Reg) (x : Bool) (mk : Mask) (s : State) : Host.Outcome State Fault Refusal :=
  issue (.vfms sw d a b x mk) sw .plain (vaForm d a b x mk true (ffma false true)) s

/-- R216. -/
def execVfnma (sw : Bool) (d a b : Reg) (x : Bool) (mk : Mask) (s : State) : Host.Outcome State Fault Refusal :=
  issue (.vfnma sw d a b x mk) sw .plain (vaForm d a b x mk true (ffma true false)) s

/-- R216, R217. -/
def execVmin (sw : Bool) (d a b : Reg) (x : Bool) (ty : VType) (mk : Mask) (s : State) :
    Host.Outcome State Fault Refusal :=
  issue (.vmin sw d a b x ty mk) sw .plain (vaForm d a b x mk false fun _ p q _ => opMinMax false ty p q) s

/-- R216, R217. -/
def execVmax (sw : Bool) (d a b : Reg) (x : Bool) (ty : VType) (mk : Mask) (s : State) :
    Host.Outcome State Fault Refusal :=
  issue (.vmax sw d a b x ty mk) sw .plain (vaForm d a b x mk false fun _ p q _ => opMinMax true ty p q) s

/-- R216. -/
def execVabs (sw : Bool) (d a : Reg) (ty : VType) (mk : Mask) (s : State) : Host.Outcome State Fault Refusal :=
  issue (.vabs sw d a ty mk) sw .plain (vaUnary d a mk (opAbs ty)) s

/-- R216. -/
def execVneg (sw : Bool) (d a : Reg) (ty : VType) (mk : Mask) (s : State) : Host.Outcome State Fault Refusal :=
  issue (.vneg sw d a ty mk) sw .plain (vaUnary d a mk (opNeg ty)) s

/-- R216. -/
def execVand (sw : Bool) (d a b : Reg) (x : Bool) (ty : VType) (mk : Mask) (s : State) :
    Host.Outcome State Fault Refusal :=
  issue (.vand sw d a b x ty mk) sw .plain (vaForm d a b x mk false fun _ p q _ => (p &&& q, 0)) s

/-- R216. -/
def execVor (sw : Bool) (d a b : Reg) (x : Bool) (ty : VType) (mk : Mask) (s : State) :
    Host.Outcome State Fault Refusal :=
  issue (.vor sw d a b x ty mk) sw .plain (vaForm d a b x mk false fun _ p q _ => (p ||| q, 0)) s

/-- R216. -/
def execVxor (sw : Bool) (d a b : Reg) (x : Bool) (ty : VType) (mk : Mask) (s : State) :
    Host.Outcome State Fault Refusal :=
  issue (.vxor sw d a b x ty mk) sw .plain (vaForm d a b x mk false fun _ p q _ => (p ^^^ q, 0)) s

/-- R216. -/
def execVandn (sw : Bool) (d a b : Reg) (x : Bool) (ty : VType) (mk : Mask) (s : State) :
    Host.Outcome State Fault Refusal :=
  issue (.vandn sw d a b x ty mk) sw .plain (vaForm d a b x mk false fun _ p q _ => (p &&& ~~~q, 0)) s

/-- R216. -/
def execVshl (sw : Bool) (d a b : Reg) (x : Bool) (ty : VType) (mk : Mask) (s : State) :
    Host.Outcome State Fault Refusal :=
  issue (.vshl sw d a b x ty mk) sw .plain (vaForm d a b x mk false fun c p q _ => opShl ty c p q) s

/-- R216. -/
def execVshr (sw : Bool) (d a b : Reg) (x : Bool) (ty : VType) (mk : Mask) (s : State) :
    Host.Outcome State Fault Refusal :=
  issue (.vshr sw d a b x ty mk) sw .plain (vaForm d a b x mk false fun _ p q _ => (p >>> (q.toNat % 32), 0)) s

/-- R216. -/
def execVsar (sw : Bool) (d a b : Reg) (x : Bool) (ty : VType) (mk : Mask) (s : State) :
    Host.Outcome State Fault Refusal :=
  issue (.vsar sw d a b x ty mk) sw .plain
    (vaForm d a b x mk false fun _ p q _ => (p.sshiftRight (q.toNat % 32), 0)) s

/-! ## Appends (R238) and results in a general register -/

/-- STREAM of an append, for a bound destination (R238). -/
def appendChecks (d : Reg) : Act Unit := do
  let t := (← get).me
  match t.boundGen d with
  | none => pure ()
  | some i =>
    let g := FMap.get Stream.reset t.streams i
    if !g.write then trapWith .stream (BitVec.ofNat 64 (1 + 256 * i)) 0
    if g.n.toNat ≤ g.p.toNat then trapWith .stream (BitVec.ofNat 64 (2 + 256 * i)) 0

/-- The store of an append to element `p` of a generator. -/
def appendPiece (va n : Nat) (x : Word) : Piece :=
  { va := va, offs := blockOffs va n, act := .write (withOffsets (va % 64) (toLE n x.toNat)) }

/-- Appends to a generator: the checks of a store, and a store that is issued once the value is ready, until when the append counts as
a long result (R238). A word that is issued again after its store was performed has nothing left to store. `before` is the strand before
the word. -/
def appendTo (i : Nat) (x : Word) (before : Strand) (fl : Flags) : Act Flow := do
  let g := FMap.get Stream.reset (← get).me.streams i
  let va := (g.addr g.p).toNat
  let n := widthBytes g.width
  checkAlign va n .store
  let ls ← translatePieces (.scalar n) .store false true [appendPiece va n x]
  watchPieces .store ls
  let s ← get
  match ls, s.me.unitLog[s.me.unitPos]? with
  | (_, l) :: _, none => do
    longNone .append
    let a : Append :=
      { va := BitVec.ofNat 64 va, leaf := l, width := g.width, value := x, sg := i, id := s.ages, pc := before.pc, pfx := before.pfx
        streams := (before.keepReads s.me).streams, sflags := before.sflags, replay := s.me.replay.again }
    modMe fun t => { t with appends := some a }
  | _, _ => do
    modMe fun t => { t with unitPos := t.unitPos + 1 }
    longNone .none
  modMe fun t => t.setStream i fun g => { g with p := g.p + 1 }
  setFlags fl
  pure .next

/-- The destination of `vext` and the vector compares: a long result, or an append (R218, R224). -/
def gResult (d : Reg) (x : Word) (before : Strand) (fl : Flags) : Act Flow := do
  let s ← get
  match s.me.boundGen d with
  | some i => appendTo i x before fl
  | none => do
    setFlags fl
    longReg d x
    pure .next

/-- The checks before such a word reads: those of `prologue`, but a bound destination is an append. -/
def gPrologue (gr vr : List Reg) (d : Reg) : Act Unit := do
  waitNinth
  strictG 1 gr
  strictV 1 vr
  strictG 2 [d]
  streamReads gr []
  appendChecks d

/-- A comparison of two lanes (R218). -/
def cmpLanes (op : Nat) (ty : VType) (a b : Lane) : Bool × Flags :=
  match ty with
  | .f =>
    let x := laneVal a
    let y := laneVal b
    let fl := flagIf (x.isSig || y.isSig) flagNV
    if x.isNaN || y.isNaN then (decide (op = 1), fl)
    else
      (match op with
        | 0 => valEq x y
        | 1 => !valEq x y
        | 2 => valLess x y && !valEq x y
        | _ => valLess x y || valEq x y, fl)
  | t =>
    let x := laneInt t a
    let y := laneInt t b
    (match op with
      | 0 => decide (x = y)
      | 1 => decide (x ≠ y)
      | 2 => decide (x < y)
      | _ => decide (x ≤ y), 0)

/-- A vector compare (R218). -/
def vcmpForm (op : Nat) (d a b : Reg) (x : Bool) (ty : VType) (mk : Mask) : Act Flow := do
  gPrologue (bG x b ++ maskRegs mk) ([a] ++ bV x b) d
  let before := (← get).me
  let av ← readV a
  let bv ← readB x b
  let m ← readMask mk
  let (r, fl) := (List.range 64).foldl (fun (acc : Nat × Flags) i =>
    if m.getLsbD i then
      let (h, fl) := cmpLanes op ty (laneAt av i) (laneAt bv i)
      (acc.1 + natOf h * 2 ^ i, acc.2 ||| fl)
    else acc) (0, 0)
  gResult d (BitVec.ofNat 64 r) before fl

/-- R218. -/
def execVceq (sw : Bool) (d a b : Reg) (x : Bool) (ty : VType) (mk : Mask) (s : State) :
    Host.Outcome State Fault Refusal :=
  issue (.vceq sw d a b x ty mk) sw .plain (vcmpForm 0 d a b x ty mk) s

/-- R218. -/
def execVcne (sw : Bool) (d a b : Reg) (x : Bool) (ty : VType) (mk : Mask) (s : State) :
    Host.Outcome State Fault Refusal :=
  issue (.vcne sw d a b x ty mk) sw .plain (vcmpForm 1 d a b x ty mk) s

/-- R218. -/
def execVclt (sw : Bool) (d a b : Reg) (x : Bool) (ty : VType) (mk : Mask) (s : State) :
    Host.Outcome State Fault Refusal :=
  issue (.vclt sw d a b x ty mk) sw .plain (vcmpForm 2 d a b x ty mk) s

/-- R218. -/
def execVcle (sw : Bool) (d a b : Reg) (x : Bool) (ty : VType) (mk : Mask) (s : State) :
    Host.Outcome State Fault Refusal :=
  issue (.vcle sw d a b x ty mk) sw .plain (vcmpForm 3 d a b x ty mk) s

/-- R224: long result, or append. -/
def execVext (sw : Bool) (d a : Reg) (l : BitVec 4) (ty : VType) (h : BitVec 2) (s : State) :
    Host.Outcome State Fault Refusal :=
  issue (.vext sw d a l ty h) sw .plain (do
    gPrologue [] [a] d
    let before := (← get).me
    let av ← readV a
    let x := laneAt av (l.toNat + 16 * h.toNat)
    gResult d (match ty with | .i => x.signExtend 64 | _ => x.setWidth 64) before 0) s

/-! ## Select, move, convert, pack (R219–R221) -/

/-- R219: every lane is written. -/
def execVsel (sw : Bool) (d a b : Reg) (x : Bool) (ty : VType) (mk : Mask) (s : State) :
    Host.Outcome State Fault Refusal :=
  issue (.vsel sw d a b x ty mk) sw .plain (do
    prologue true (bG x b ++ maskRegs mk) [] ([a] ++ bV x b) [d]
    let av ← readV a
    let bv ← readB x b
    let m ← readMask mk
    longV d ((List.range 64).map fun i => if m.getLsbD i then laneAt av i else laneAt bv i)
    pure .next) s

/-- R219. -/
def execVmov (sw : Bool) (d b : Reg) (x : Bool) (ty : VType) (mk : Mask) (s : State) :
    Host.Outcome State Fault Refusal :=
  issue (.vmov sw d b x ty mk) sw .plain (do
    prologue true (bG x b ++ maskRegs mk) [] (bV x b) [d]
    let bv ← readB x b
    let m ← readMask mk
    let old ← keptLanes d m
    longV d (mergeLanes m old fun i => (laneAt bv i, 0)).1
    pure .next) s

/-- Widening from BF16 (R220, R221). -/
def fromBf (h : Nat) : Lane × Flags :=
  let x : Lane := BitVec.ofNat 32 (h % 65536 * 65536)
  if (laneVal x).isNaN then (nan32, flagIf (laneVal x).isSig flagNV) else (x, 0)

/-- A value rounded to an integer lane (R220): a rounded value beyond the range gives its nearest end. -/
def toIntLane (ty : VType) (mode : Nat) (v : Val) : Lane × Flags :=
  let (lo, hi) := typeRange ty
  match v with
  | .nan _ => (0, flagNV)
  | .inf n => (BitVec.ofInt 32 (if n then lo else hi), flagNV ||| flagSAT)
  | .fin n m e =>
    let (k, exact) := divRound (magFrac m e).1 (magFrac m e).2 0 (howOf mode n)
    let x : Int := if n then -(k : Int) else k
    if x < lo then (BitVec.ofInt 32 lo, flagNV ||| flagSAT)
    else if hi < x then (BitVec.ofInt 32 hi, flagNV ||| flagSAT)
    else (BitVec.ofInt 32 x, flagIf (!exact) flagNX)

/-- `vcvt` (R220): result type, source code. -/
def opCvt (ty : VType) (src : BitVec 2) (c : Control) (a : Lane) : Lane × Flags :=
  match ty with
  | .f =>
    if src = 3 then fromBf a.toNat
    else floatResult c (finOf (laneInt (if src = 0 then .i else .n) a) 0)
  | t =>
    if src = 2 then toIntLane t c.mode (laneVal a)
    else if src = 3 then toIntLane t c.mode (Fmt.decode .bf16 (a.toNat % 65536))
    else
      let (x, fl) := clampTo (typeRange t).1 (typeRange t).2 (laneInt (if src = 0 then .i else .n) a)
      (BitVec.ofInt 32 x, fl)

/-- R220. -/
def execVcvt (sw : Bool) (d a : Reg) (ty : VType) (mk : Mask) (f : BitVec 2) (s : State) :
    Host.Outcome State Fault Refusal :=
  issue (.vcvt sw d a ty mk f) sw .plain (vaUnary d a mk (opCvt ty f)) s

/-- Lane `j` of a packed pair of registers (R221). -/
def packLane (f : Lane → Nat × Flags) (av bv : List Lane) (j : Nat) : Lane × Flags :=
  let src := if j < 32 then av else bv
  let (lo, f1) := f (laneAt src (2 * j % 64))
  let (hi, f2) := f (laneAt src (2 * j % 64 + 1))
  (BitVec.ofNat 32 (lo + 65536 * hi), f1 ||| f2)

/-- R221. -/
def execVpackBf (sw : Bool) (d a b : Reg) (x : Bool) (mk : Mask) (s : State) : Host.Outcome State Fault Refusal :=
  issue (.vpackBf sw d a b x mk) sw .plain
    (vaWhole d a b x mk fun c av bv j => packLane (fun v => Fmt.encode .bf16 (laneVal v) c.mode c.sat) av bv j) s

/-- A 16-bit integer of a type, always clamped (R221). -/
def packHalf (ty : VType) (v : Lane) : Nat × Flags :=
  let (lo, hi) : Int × Int := match ty with | .i => (-32768, 32767) | _ => (0, 65535)
  let (x, fl) := clampTo lo hi (laneInt ty v)
  ((BitVec.ofInt 16 x).toNat, fl)

/-- R221. -/
def execVpackH (sw : Bool) (d a b : Reg) (x : Bool) (ty : VType) (mk : Mask) (s : State) :
    Host.Outcome State Fault Refusal :=
  issue (.vpackH sw d a b x ty mk) sw .plain (vaWhole d a b x mk fun _ av bv j => packLane (packHalf ty) av bv j) s

/-- Half-word element of a packed register (R221). -/
def halfAt (av : List Lane) (e : Nat) : Nat := bitsOf (laneAt av (e / 2)).toNat (16 * (e % 2)) 16

/-- A lane computed from one register by lane number. -/
def vaFrom (d a : Reg) (mk : Mask) (op : List Lane → Nat → Lane × Flags) : Act Flow := do
  prologue true (maskRegs mk) [] [a] [d]
  let av ← readV a
  let m ← readMask mk
  let old ← keptLanes d m
  let (r, fl) := mergeLanes m old (op av)
  setFlags fl
  longV d r
  pure .next

/-- R221. -/
def execVunpackBf (sw : Bool) (d a : Reg) (h : Bool) (mk : Mask) (s : State) : Host.Outcome State Fault Refusal :=
  issue (.vunpackBf sw d a h mk) sw .plain (vaFrom d a mk fun av j => fromBf (halfAt av (64 * natOf h + j))) s

/-- R221. -/
def execVunpackH (sw : Bool) (d a : Reg) (h : Bool) (ty : VType) (mk : Mask) (s : State) :
    Host.Outcome State Fault Refusal :=
  issue (.vunpackH sw d a h ty mk) sw .plain (vaFrom d a mk fun av j =>
    let x := BitVec.ofNat 16 (halfAt av (64 * natOf h + j))
    (match ty with | .i => x.signExtend 32 | _ => x.setWidth 32, 0)) s

/-! ## Transcendental functions (R222) -/

/-- R222. -/
def execVrcp (sw : Bool) (d a : Reg) (mk : Mask) (s : State) : Host.Outcome State Fault Refusal :=
  issue (.vrcp sw d a mk) sw .plain (vaUnary d a mk fun _ x => rcp32 x) s

/-- R222. -/
def execVrsq (sw : Bool) (d a : Reg) (mk : Mask) (s : State) : Host.Outcome State Fault Refusal :=
  issue (.vrsq sw d a mk) sw .plain (vaUnary d a mk fun _ x => rsq32 x) s

/-- R222. -/
def execVexp2 (sw : Bool) (d a : Reg) (mk : Mask) (s : State) : Host.Outcome State Fault Refusal :=
  issue (.vexp2 sw d a mk) sw .plain (vaUnary d a mk fun _ x => exp232 x) s

/-- R222. -/
def execVlog2 (sw : Bool) (d a : Reg) (mk : Mask) (s : State) : Host.Outcome State Fault Refusal :=
  issue (.vlog2 sw d a mk) sw .plain (vaUnary d a mk fun _ x => log232 x) s

/-- R222. -/
def execVtanh (sw : Bool) (d a : Reg) (mk : Mask) (s : State) : Host.Outcome State Fault Refusal :=
  issue (.vtanh sw d a mk) sw .plain (vaUnary d a mk fun _ x => tanh32 x) s

/-- R222. -/
def execVsig (sw : Bool) (d a : Reg) (mk : Mask) (s : State) : Host.Outcome State Fault Refusal :=
  issue (.vsig sw d a mk) sw .plain (vaUnary d a mk fun _ x => sig32 x) s

/-! ## Reductions and scans (R223) -/

/-- The combinations of R223. -/
inductive Comb where
  | sum | max | min
  deriving DecidableEq, Repr

/-- The combination of an initial value with some lanes (R223). -/
def combineAll (k : Comb) (ty : VType) (c : Control) (init : Lane) (xs : List Lane) : Lane × Flags :=
  match k with
  | .sum =>
    match ty with
    | .f =>
      let vs := (init :: xs).map laneVal
      let (x, fl) := floatResult c (sumVals vs)
      (x, fl ||| flagIf (vs.any Val.isSig || sumInvalid vs) flagNV)
    | t => intResult t c.sat ((init :: xs).foldl (fun (a : Int) x => a + laneInt t x) 0)
  | .max => extreme true
  | .min => extreme false
where
  /-- the greatest or least, NaN only when all are -/
  extreme (big : Bool) : Lane × Flags :=
    let (x, fl) := xs.foldl (fun (acc : Lane × Flags) y =>
      let (z, f) := opMinMax big ty acc.1 y
      (z, acc.2 ||| f)) (init, (0 : Flags))
    match ty with
    | .f =>
      (if (laneVal x).isNaN then nan32 else x, fl ||| flagIf ((laneVal init).isSig || xs.any fun y => (laneVal y).isSig) flagNV)
    | _ => (x, fl)

/-- The enabled lanes below a number. -/
def lanesBelow (m : Word) (av : List Lane) (n : Nat) : List Lane :=
  ((List.range n).filter fun j => m.getLsbD j).map (laneAt av)

/-- A reduction (R223): lane 0, zeros elsewhere, whatever the mask. -/
def reduceForm (k : Comb) (d a b : Reg) (x : Bool) (ty : VType) (mk : Mask) : Act Flow := do
  prologue true (bG x b ++ maskRegs mk) [] ([a] ++ bV x b) [d]
  let av ← readV a
  let bv ← readB x b
  let m ← readMask mk
  let c ← controlNow
  let (r, fl) := combineAll k ty c (laneAt bv 0) (lanesBelow m av 64)
  setFlags fl
  longV d (r :: List.replicate 63 0)
  pure .next

/-- R223. -/
def execVredsum (sw : Bool) (d a b : Reg) (x : Bool) (ty : VType) (mk : Mask) (s : State) :
    Host.Outcome State Fault Refusal :=
  issue (.vredsum sw d a b x ty mk) sw .plain (reduceForm .sum d a b x ty mk) s

/-- R223. -/
def execVredmax (sw : Bool) (d a b : Reg) (x : Bool) (ty : VType) (mk : Mask) (s : State) :
    Host.Outcome State Fault Refusal :=
  issue (.vredmax sw d a b x ty mk) sw .plain (reduceForm .max d a b x ty mk) s

/-- R223. -/
def execVredmin (sw : Bool) (d a b : Reg) (x : Bool) (ty : VType) (mk : Mask) (s : State) :
    Host.Outcome State Fault Refusal :=
  issue (.vredmin sw d a b x ty mk) sw .plain (reduceForm .min d a b x ty mk) s

/-- R223: kinds 0 inclusive sum, 1 exclusive sum, 2 maximum, 3 minimum. -/
def execVscan (sw : Bool) (d a b : Reg) (x : Bool) (ty : VType) (mk : Mask) (k : BitVec 2) (s : State) :
    Host.Outcome State Fault Refusal :=
  issue (.vscan sw d a b x ty mk k) sw .plain (do
    prologue true (bG x b ++ maskRegs mk) [] ([a] ++ bV x b) [d]
    let av ← readV a
    let bv ← readB x b
    let m ← readMask mk
    let old ← keptLanes d m
    let c ← controlNow
    let comb : Comb := if k.toNat ≤ 1 then .sum else if k = 2 then .max else .min
    let (r, fl) := mergeLanes m old fun i =>
      combineAll comb ty c (laneAt bv 0) (lanesBelow m av (if k = 1 then i else i + 1))
    setFlags fl
    longV d r
    pure .next) s

/-! ## Lane movement and classification (R224) -/

/-- A slide by a register count (R224). -/
def slideForm (d a b : Reg) (mk : Mask) (f : List Lane → Nat → Nat → Lane) : Act Flow := do
  prologue true ([b] ++ maskRegs mk) [] [a] [d]
  let av ← readV a
  let n ← readReg b
  let m ← readMask mk
  let old ← keptLanes d m
  longV d (mergeLanes m old fun i => (f av n.toNat i, 0)).1
  pure .next

/-- R224. -/
def execVslideDn (sw : Bool) (d a b : Reg) (ty : VType) (mk : Mask) (s : State) : Host.Outcome State Fault Refusal :=
  issue (.vslideDn sw d a b ty mk) sw .plain
    (slideForm d a b mk fun av n i => if i + n ≤ 63 then laneAt av (i + n) else 0) s

/-- R224. -/
def execVslideUp (sw : Bool) (d a b : Reg) (ty : VType) (mk : Mask) (s : State) : Host.Outcome State Fault Refusal :=
  issue (.vslideUp sw d a b ty mk) sw .plain
    (slideForm d a b mk fun av n i => if n ≤ i then laneAt av (i - n) else 0) s

/-- R224. -/
def execVslideRot (sw : Bool) (d a b : Reg) (ty : VType) (mk : Mask) (s : State) : Host.Outcome State Fault Refusal :=
  issue (.vslideRot sw d a b ty mk) sw .plain
    (slideForm d a b mk fun av n i => laneAt av ((i + n) % 64)) s

/-- R224. -/
def execVperm (sw : Bool) (d a b : Reg) (x : Bool) (ty : VType) (mk : Mask) (s : State) :
    Host.Outcome State Fault Refusal :=
  issue (.vperm sw d a b x ty mk) sw .plain (vaWhole d a b x mk fun _ av bv i =>
    let k := (laneAt bv i).toNat
    (if k < 64 then laneAt av k else 0, 0)) s

/-- R224: the other lanes are unchanged. -/
def execVins (sw : Bool) (d : Reg) (l : BitVec 4) (b : Reg) (ty : VType) (h : BitVec 2) (s : State) :
    Host.Outcome State Fault Refusal :=
  issue (.vins sw d l b ty h) sw .plain (do
    prologue true [b] [] [] [d]
    let x ← readReg b
    let old ← readV d
    longV d ((List.range 64).map fun i => if i = l.toNat + 16 * h.toNat then x.setWidth 32 else laneAt old i)
    pure .next) s

/-- The one-hot class of a binary32 lane (R224). -/
def classOf (a : Lane) : Lane :=
  match laneVal a with
  | .nan s => if s then 256 else 512
  | .inf n => if n then 1 else 128
  | .fin n m _ =>
    if m = 0 then (if n then 8 else 16)
    else if m < 2 ^ 23 then (if n then 4 else 32)
    else (if n then 2 else 64)

/-- R224. -/
def execVclass (sw : Bool) (d a : Reg) (mk : Mask) (s : State) : Host.Outcome State Fault Refusal :=
  issue (.vclass sw d a mk) sw .plain (vaUnary d a mk fun _ x => (classOf x, 0)) s

/-! ## Softmax and row statistics (R233, R234) -/

/-- A rational magnitude rounded by RNE to binary32. -/
def ratNE (neg : Bool) (n d : Nat) : Lane :=
  if n = 0 then (if neg then 0x80000000#32 else 0)
  else BitVec.ofNat 32 (Fmt.encodeFrac .f32 neg n d 0 false).1

/-- The magnitude of a finite value as a fraction. -/
def Val.frac : Val → Nat × Nat
  | .fin _ m e => magFrac m e
  | _ => (0, 1)

/-- The lanes of a softmax window that take part (R233). -/
def softmaxIn (sh : Snapshot) (force : Bool) (row col0 : Nat) (m : Word) : List Nat :=
  match sh.segment row with
  | none => []
  | some g =>
    (List.range 64).filter fun i =>
      m.getLsbD i && decide (sh.segment (col0 + i) = some g) && (!(force || sh.causal) || decide (col0 + i ≤ row))

/-- The softmax of some lanes (R233): the lanes' results, and NV for a signalling NaN. -/
def softmax (av : List Lane) (inc : List Nat) : List (Nat × Lane) × Flags :=
  let vals := inc.map fun i => laneVal (laneAt av i)
  if vals.all (fun v => decide (v = .inf true)) then ([], 0)
  else if vals.any (fun v => v.isNaN || decide (v = .inf false)) then
    (inc.map fun i => (i, nan32), flagIf (vals.any Val.isSig) flagNV)
  else
    let top := vals.foldl (fun a v => if valLess a v then v else a) (.inf true)
    let es := inc.map fun i => (i, laneVal (expF (roundNE32 (addVal (laneVal (laneAt av i)) top.negate false))))
    let (sn, sd) := (sumVals (es.map (·.2))).frac
    (es.map fun e => (e.1, ratNE false (e.2.frac.1 * sd) (e.2.frac.2 * sn)), 0)

/-- R233. -/
def execVsmaxSeg (sw : Bool) (d a b : Reg) (mk : Mask) (c q : Bool) (s : State) :
    Host.Outcome State Fault Refusal :=
  issue (.vsmaxSeg sw d a b mk c q) sw .plain (do
    prologue true ([b] ++ maskRegs mk) [] [a] [d]
    let av ← readV a
    let g ← readReg b
    let m ← readMask mk
    let sh ← needShape q
    let old ← keptLanes d m
    let (r, fl) := softmax av (softmaxIn sh c (g.toNat % 2 ^ 32) (g.toNat / 2 ^ 32) m)
    setFlags fl
    longV d (mergeLanes m old fun i => (((r.find? fun x => x.1 == i).map (·.2)).getD 0, 0)).1
    pure .next) s

/-- R234. -/
def execVlnormAcc (sw : Bool) (d a b : Reg) (mk : Mask) (h : Bool) (s : State) : Host.Outcome State Fault Refusal :=
  issue (.vlnormAcc sw d a b mk h) sw .plain (do
    prologue true ([b] ++ maskRegs mk) [] [d, a] [d]
    let dv ← readV d
    let av ← readV a
    let row ← readReg b
    let m ← readMask mk
    let sh ← needShape h
    if (sh.segment row.toNat).isNone then longV d dv
    else
      let xs := (lanesBelow m av 64).map laneVal
      let sq := xs.map fun v => mulVal v v
      let s1 := laneVal (laneAt dv 1)
      let s2 := laneVal (laneAt dv 2)
      setFlags (flagIf (xs.any Val.isSig || s1.isSig || s2.isSig || sumInvalid (s1 :: xs) || sumInvalid (s2 :: sq)) flagNV)
      longV d ((List.range 64).map fun i =>
        match i with
        | 0 => laneAt dv 0 + BitVec.ofNat 32 xs.length
        | 1 => roundNE32 (addVal s1 (sumVals xs) false)
        | 2 => roundNE32 (addVal s2 (sumVals sq) false)
        | i => laneAt dv i)
    pure .next) s

/-- A signed rational: numerator and positive denominator. -/
def Val.rat (v : Val) : Int × Nat :=
  match v with
  | .fin n m e => (if n then -((magFrac m e).1 : Int) else (magFrac m e).1, (magFrac m e).2)
  | _ => (0, 1)

/-- Whether a value is finite. -/
def Val.isFin : Val → Bool
  | .fin _ _ _ => true
  | _ => false

/-- var + epsilon (R234) of finite sum, sum of squares and epsilon: a rational. -/
def varPlus (n : Nat) (s1 s2 eps : Val) : Int × Nat :=
  let (a, d1) := s1.rat
  let (b, d2) := s2.rat
  let (c, de) := eps.rat
  let num : Int := b * ((d1 * d1 * n : Nat) : Int) - a * a * (d2 : Int)
  let den := d2 * d1 * d1 * n * n
  let num : Int := if num < 0 then 0 else num
  (num * (de : Int) + c * (den : Int), den * de)

/-- Lanes 0 and 1 of `vlnorm.fin` for a count n > 0 (R234), with NV. A negative var + epsilon has no stated square root:
`open_` stands for the result there. -/
def normFinish (n : Nat) (s1 s2 eps : Val) (open_ : Lane) : Lane × Lane × Flags :=
  let sig := s1.isSig || s2.isSig || eps.isSig
  let mean : Lane := match s1 with
    | .nan _ => nan32
    | .inf g => if g then 0xFF800000#32 else 0x7F800000#32
    | .fin g m e => ratNE g (magFrac m e).1 ((magFrac m e).2 * n)
  if s1.isFin && s2.isFin && eps.isFin then
    let (num, den) := varPlus n s1 s2 eps
    (mean, if num < 0 then open_ else if num = 0 then 0x7F800000#32 else rsqrtNE num.toNat den, 0)
  else
    -- the square of an infinite mean is +∞
    let m2 : Val := match s1 with | .inf _ => .inf false | .nan b => .nan b | _ => .fin false 1 0
    let diff := sumVals [s2, m2.negate]
    let var := match diff with | .inf true => Val.fin false 0 0 | v => v
    let total := sumVals [var, eps]
    let inv : Lane := match total with
      | .nan _ => nan32
      | .inf false => 0
      | .inf true => open_
      | .fin _ _ _ => open_
    let inv : Lane := if diff = .inf true ∧ eps.isFin then
        (let (c, de) := eps.rat; if c < 0 then open_ else if c = 0 then 0x7F800000#32 else rsqrtNE c.toNat de)
      else inv
    (mean, inv, flagIf (sig || sumInvalid [s2, m2.negate] || sumInvalid [var, eps]) flagNV)

/-- R234: every lane is written, whatever the mask. -/
def execVlnormFin (sw : Bool) (d a b : Reg) (mk : Mask) (h : Bool) (s : State) : Host.Outcome State Fault Refusal :=
  issue (.vlnormFin sw d a b mk h) sw .plain (do
    prologue true ([b] ++ maskRegs mk) [] [d, a] [d]
    let dv ← readV d
    let _ ← readV a
    let row ← readReg b
    let _ ← readMask mk
    let sh ← needShape h
    let n := (laneAt dv 0).toNat
    if (sh.segment row.toNat).isNone ∨ n = 0 then longV d (List.replicate 64 0)
    else
      let free ← drawLane
      let (mean, inv, fl) :=
        normFinish n (laneVal (laneAt dv 1)) (laneVal (laneAt dv 2)) (laneVal (laneAt dv 3)) free
      setFlags fl
      longV d (mean :: inv :: List.replicate 62 0)
    pure .next) s

end Sys2Proof.Machine
end

