-- ==== Sys2Proof/Machine/VectorMem.lean ====
section
/-!
DEFINITION. The vector memory words (11_vector_and_streams.md R225–R232).
-/

namespace Sys2Proof.Machine

/-! ## Elements and units (R226) -/

/-- Inserts a number in a rising list without repeats. -/
def insertNat (x : Nat) : List Nat → List Nat
  | [] => [x]
  | y :: t => if x < y then x :: y :: t else if x = y then y :: t else y :: insertNat x t

/-- Some numbers rising, without repeats. -/
def sortNats (xs : List Nat) : List Nat := xs.foldl (fun a x => insertNat x a) []

/-- Bytes of some elements of a size: the offsets in a block, rising. -/
def elementOffs (addrs : List Nat) (size block : Nat) : List Nat :=
  (List.range 64).filter fun o => addrs.any fun a => decide (a ≤ 64 * block + o ∧ 64 * block + o < a + size)

/-- One unit for each 64-byte block that elements touch, in ascending address order (R226). -/
def elementPieces (addrs : List Nat) (size : Nat) (act : Nat → UnitAct) : List Piece :=
  (sortNats (addrs.map (· / 64))).map fun k =>
    let offs := elementOffs addrs size k
    { va := 64 * k + offs.headD 0, offs := offs, act := act k }

/-- The lanes that a mask enables, ascending. -/
def enabledLanes (m : Word) : List Nat := (List.range 64).filter fun i => m.getLsbD i

/-- ALIGN at the lowest misaligned element (R226, R227). -/
def checkElements (addrs : List Nat) (size : Nat) (acc : Acc) : Act Unit :=
  match sortNats (addrs.filter fun a => a % size ≠ 0) with
  | [] => pure ()
  | a :: _ => checkAlign a size acc

/-- The byte that some units read at an address. -/
def byteOf (got : List (Piece × UnitRes)) (a : Nat) : Byte :=
  match got.find? (fun x => decide (x.1.va / 64 = a / 64)) with
  | some (p, r) => ((((p.offs.zip r.bytes).find? fun x => x.1 == a % 64).map (·.2)).getD 0)
  | none => 0

/-- An element of a size that some units read. -/
def elementOf (got : List (Piece × UnitRes)) (a size : Nat) : Nat :=
  ofLE ((List.range size).map fun k => byteOf got (a + k))

/-- Loads elements: each as its lowest byte's address and its size. -/
def gather (addrs : List Nat) (size : Nat) : Act (List (Piece × UnitRes)) := do
  let ps := elementPieces addrs size fun _ => .read
  let rs ← strandAccess .vector .load 0 ps
  pure (ps.zip rs)

/-- Extends an element to its lane (R225). -/
def laneOf (size x : Nat) (signed : Bool) : Lane := (extendBytes size x signed).setWidth 32

/-- A load of the enabled lanes of a vector register (R226, R227). -/
def vecLoad (d : Reg) (m : Word) (addr : Nat → Nat) (size : Nat) (signed : Bool) : Act Flow := do
  let addrs := (enabledLanes m).map addr
  checkElements addrs size .load
  let got ← gather addrs size
  let old ← keptLanes d m
  longV d (mergeLanes m old fun i => (laneOf size (elementOf got (addr i) size) signed, 0)).1
  pure .next

/-- A store of the enabled lanes of a vector register; lanes take effect in ascending order (R226, R227). -/
def vecStore (v : List Lane) (m : Word) (addr : Nat → Nat) (size : Nat) : Act Flow := do
  let lanes := enabledLanes m
  let addrs := lanes.map addr
  checkElements addrs size .store
  let data (k : Nat) : List (Nat × Byte) :=
    (lanes.filter fun i => addr i / 64 == k).flatMap fun i => withOffsets (addr i % 64) (toLE size (laneAt v i).toNat)
  let _ ← strandAccess .vector .store 3 (elementPieces addrs size fun k => .write (data k))
  pure .next

/-- Registers that an index field reads: field 0 is no index (R225). -/
def indexRegs (x : Reg) : List Reg := if x = 0 then [] else [x]

/-- The index of an address: 0 for no index, else the register, scaled in mode 0. -/
def readIndex (x : Reg) (shift : Nat) : Act Word := do
  if x = 0 then pure 0 else pure ((← readReg x) <<< shift)

/-- The shift of a mode code: 0 scales the index. -/
def modeShift (o : BitVec 4) (k : Nat) : Nat := if o = 0 then k else 0

/-- An address of 64 bits. -/
def wrap (a : Nat) : Nat := a % 2 ^ 64

/-- Size and sign of a size code (R225). -/
def sizeCode (z : BitVec 4) : Nat × Bool :=
  if z = 0 then (4, false) else if z = 1 then (2, false) else if z = 2 then (2, true)
  else if z = 3 then (1, false) else (1, true)

/-! ## Plain accesses (R227) -/

/-- R227. -/
def execVld (sw : Bool) (d b x : Reg) (o : BitVec 4) (mk : Mask) (s : State) : Host.Outcome State Fault Refusal :=
  issue (.vld sw d b x o mk) sw .plain (do
    prologue true ([b] ++ indexRegs x ++ maskRegs mk) [] [] [d]
    let base ← readReg b
    let ix ← readIndex x (modeShift o 8)
    let m ← readMask mk
    vecLoad d m (fun i => wrap ((base + ix).toNat + 4 * i)) 4 false) s

/-- R227. -/
def execVst (sw : Bool) (d b x : Reg) (o : BitVec 4) (mk : Mask) (s : State) : Host.Outcome State Fault Refusal :=
  issue (.vst sw d b x o mk) sw .plain (do
    prologue false ([b] ++ indexRegs x ++ maskRegs mk) [] [d] []
    let v ← readV d
    let base ← readReg b
    let ix ← readIndex x (modeShift o 8)
    let m ← readMask mk
    vecStore v m (fun i => wrap ((base + ix).toNat + 4 * i)) 4) s

/-- R227: one word into every enabled lane. -/
def execVldb (sw : Bool) (d b x : Reg) (mk : Mask) (s : State) : Host.Outcome State Fault Refusal :=
  issue (.vldb sw d b x mk) sw .plain (do
    prologue true ([b] ++ indexRegs x ++ maskRegs mk) [] [] [d]
    let base ← readReg b
    let ix ← readIndex x 2
    let m ← readMask mk
    vecLoad d m (fun _ => (base + ix).toNat) 4 false) s

/-- R227: the stride is signed. -/
def execVlds (sw : Bool) (d b p : Reg) (z : BitVec 4) (mk : Mask) (s : State) : Host.Outcome State Fault Refusal :=
  issue (.vlds sw d b p z mk) sw .plain (do
    prologue true ([b, p] ++ maskRegs mk) [] [] [d]
    let base ← readReg b
    let stride ← readReg p
    let m ← readMask mk
    vecLoad d m (fun i => (base + BitVec.ofNat 64 i * stride).toNat) (sizeCode z).1 (sizeCode z).2) s

/-- R227: the index lanes are read unsigned. -/
def execVldx (sw : Bool) (d b i : Reg) (z : BitVec 4) (mk : Mask) (s : State) : Host.Outcome State Fault Refusal :=
  issue (.vldx sw d b i z mk) sw .plain (do
    prologue true ([b] ++ maskRegs mk) [] [i] [d]
    let base ← readReg b
    let iv ← readV i
    let m ← readMask mk
    let n := (sizeCode z).1
    vecLoad d m (fun k => wrap (base.toNat + (laneAt iv k).toNat * n)) n (sizeCode z).2) s

/-- R227. -/
def execVstx (sw : Bool) (d b i : Reg) (z : BitVec 4) (mk : Mask) (s : State) : Host.Outcome State Fault Refusal :=
  issue (.vstx sw d b i z mk) sw .plain (do
    prologue false ([b] ++ maskRegs mk) [] [d, i] []
    let v ← readV d
    let base ← readReg b
    let iv ← readV i
    let m ← readMask mk
    let n := (sizeCode z).1
    vecStore v m (fun k => wrap (base.toNat + (laneAt iv k).toNat * n)) n) s

/-! ## Described accesses (R229, R230) -/

/-- Whether a described load cannot decode a format: reserved, or not the one its suffix needs (R229). -/
def badFormat (sub f : Nat) : Bool := decide (8 ≤ f ∨ (sub = 1 ∧ f ≠ 6) ∨ (sub = 2 ∧ f ≠ 7))

/-- The element that lane `i` takes (R229). -/
def elementIndex (sub i : Nat) : Nat := if sub = 1 then 64 + i else i

/-- Further blocks that the enabled lanes need beside the first, rising. -/
def furtherBlocks (sub f : Nat) (lanes : List Nat) : List Nat :=
  if badFormat sub f then []
  else (sortNats (lanes.map fun i => elementIndex sub i / perBlock f)).filter (· ≠ 0)

/-- A whole block read with its descriptor. -/
def blockPiece (va : Nat) : Piece := { va := va, offs := List.range 64, act := .readBlock }

/-- A lane decoded from the blocks read, with FMTBAD (R229). -/
def decodeLane (sub f : Nat) (blocks : List (Nat × UnitRes)) (i : Nat) : Lane × Flags :=
  let bad : Lane × Flags := (if sub = 2 then 0 else nan32, flagFMTBAD)
  if badFormat sub f then bad
  else
    let e := elementIndex sub i
    match blocks.find? (fun b => b.1 == e / perBlock f) with
    | none => bad
    | some (_, r) =>
      if r.desc.toNat % 256 ≠ f then bad
      else
        let k := e % perBlock f
        if sub = 2 then
          (if scaleOf r.desc f k = 255 then 0
            else (BitVec.ofNat 8 (elementCode f r.bytes k)).signExtend 32, 0)
        else (roundNE32 (elementVal r.desc r.bytes k), 0)

/-- A described load: sub-operation 0, 1 `.hi`, 2 `.int` (R229). The format that chooses the further blocks is looked at
before any effect, so that all are checked first (log 16); the lanes are decoded from what the reads return. -/
def describedLoad (sub : Nat) (d b x : Reg) (o : BitVec 4) (mk : Mask) : Act Flow := do
  prologue true ([b] ++ indexRegs x ++ maskRegs mk) [] [] [d]
  let base ← readReg b
  let ix ← readIndex x (modeShift o 6)
  let m ← readMask mk
  let ea := (base + ix).toNat
  checkAlign ea 64 .load
  let lanes := enabledLanes m
  let old ← keptLanes d m
  if lanes.isEmpty then
    longV d (mergeLanes m old fun _ => (0, 0)).1
    pure .next
  else
    let l0 ← translatePieces .vector .load true false [blockPiece ea]
    let s ← get
    let f0 := match l0 with
      | (_, l) :: _ => (FMap.get Mem.desc0 s.mem.descs l.pa.block).toNat % 256
      | [] => 0
    let more (f : Nat) := (furtherBlocks sub f lanes).map fun k => blockPiece (wrap (ea + 64 * k))
    let ls ← translatePieces .vector .load true false (more f0)
    watchPieces .load (l0 ++ ls)
    let r0 ← performPieces .vector .load 0 l0
    let f := match r0 with | r :: _ => r.desc.toNat % 256 | [] => 0
    let ls ← if f = f0 then pure ls
      else do
        let ls ← translatePieces .vector .load true false (more f)
        watchPieces .load ls
        pure ls
    let rs ← performPieces .vector .load 0 ls
    let blocks := ([0] ++ furtherBlocks sub f lanes).zip (r0 ++ rs)
    let (r, fl) := mergeLanes m old (decodeLane sub f blocks)
    setFlags fl
    longV d r
    pure .next

/-- R229. -/
def execVldD (sw : Bool) (d b x : Reg) (o : BitVec 4) (mk : Mask) (s : State) : Host.Outcome State Fault Refusal :=
  issue (.vldD sw d b x o mk) sw .plain (describedLoad 0 d b x o mk) s

/-- R229. -/
def execVldDHi (sw : Bool) (d b x : Reg) (o : BitVec 4) (mk : Mask) (s : State) : Host.Outcome State Fault Refusal :=
  issue (.vldDHi sw d b x o mk) sw .plain (describedLoad 1 d b x o mk) s

/-- R229. -/
def execVldDInt (sw : Bool) (d b x : Reg) (o : BitVec 4) (mk : Mask) (s : State) : Host.Outcome State Fault Refusal :=
  issue (.vldDInt sw d b x o mk) sw .plain (describedLoad 2 d b x o mk) s

/-- Some blocks from an address, each with an index. -/
def numbered {α : Type} (xs : List α) : List (Nat × α) := (List.range xs.length).zip xs

/-- R230: the draws of stochastic rounding are taken as the word issues (R209). -/
def execVstQ (sw : Bool) (d b x : Reg) (f : BitVec 4) (s : State) : Host.Outcome State Fault Refusal :=
  issue (.vstQ sw d b x f) sw .plain (do
    let pair := decide (f = 6)
    prologue false ([b] ++ indexRegs x) [] (if pair then [d, d + 1] else [d]) []
    let v ← readV d
    let w ← if pair then readV (d + 1) else pure []
    let base ← readReg b
    let ix ← readIndex x 6
    let ea := (base + ix).toNat
    checkAlign ea 64 .store
    let c ← controlNow
    let s ← get
    let vals := (v ++ w).map laneVal
    let fmt := (fmtOfCode f.toNat).getD .f32
    let (blocks, fl, seed) := quantize f.toNat fmt c (vals.length / perBlock f.toNat) vals s.me.srseed
    modMe fun t => { t with srseed := seed }
    setFlags fl
    let _ ← strandAccess .vector .store 3 ((numbered blocks).map fun k =>
      { va := wrap (ea + 64 * k.1), offs := List.range 64, act := .writeBlock k.2.1 k.2.2 })
    pure .next) s

/-! ## Ragged accesses (R231, R232) -/

/-- R231. -/
def execVldSeg (sw : Bool) (d b r g : Reg) (mk : Mask) (h : Bool) (s : State) : Host.Outcome State Fault Refusal :=
  issue (.vldSeg sw d b r g mk h) sw .plain (do
    prologue true ([b, r, g] ++ maskRegs mk) [] [] [d]
    let base ← readReg b
    let row ← readReg r
    let ref ← readReg g
    let m ← readMask mk
    let sh ← needShape h
    let t := sh.segment row.toNat
    if t.isNone ∨ t ≠ sh.segment ref.toNat then
      if sh.strict then trapWith .segx (BitVec.ofNat 64 (2 + 2 ^ 32 * (row.toNat % 2 ^ 32))) 0
      let old ← keptLanes d m
      longV d (mergeLanes m old fun _ => (0, 0)).1
      pure .next
    else vecLoad d m (fun i => wrap (base.toNat + 256 * row.toNat + 4 * i)) 4 false) s

/-- The rows of a segment; none for a number at or above nseg (R232). -/
def Snapshot.rowsOf (sh : Snapshot) (g : Nat) : List Nat :=
  if sh.nseg ≤ g then []
  else (List.range ((sh.bounds g).2 - (sh.bounds g).1)).map ((sh.bounds g).1 + ·)

/-- A segment reduction (R232). -/
def segmentReduce (k : Comb) (d b p : Reg) (mk : Mask) (h : Bool) : Act Flow := do
  prologue true ([b, p] ++ maskRegs mk) [] [] [d]
  let base ← readReg b
  let g ← readReg p
  let m ← readMask mk
  let sh ← needShape h
  let c ← controlNow
  let rows := sh.rowsOf g.toNat
  let old ← keptLanes d m
  let addr (row i : Nat) : Nat := wrap (base.toNat + 256 * row + 4 * i)
  let pieces (row : Nat) := elementPieces ((enabledLanes m).map (addr row)) 4 fun _ => .read
  checkElements (rows.flatMap fun row => (enabledLanes m).map (addr row)) 4 .load
  let ps := rows.flatMap pieces
  let rs ← strandAccess .vector .load 0 ps
  let got := ps.zip rs
  let value (i row : Nat) : Lane := BitVec.ofNat 32 (elementOf got (addr row i) 4)
  let (r, fl) := mergeLanes m old fun i =>
    match rows with
    | [] => (if k = .sum then 0 else 0xFF800000#32, 0)
    | row :: rest => combineAll k .f c (value i row) (rest.map (value i))
  setFlags (fl ||| flagIf (rows.isEmpty && decide (k = .max)) flagEMPTYSEG)
  longV d r
  pure .next

/-- R232. -/
def execVsegsum (sw : Bool) (d b p : Reg) (mk : Mask) (h : Bool) (s : State) : Host.Outcome State Fault Refusal :=
  issue (.vsegsum sw d b p mk h) sw .plain (segmentReduce .sum d b p mk h) s

/-- R232. -/
def execVsegmax (sw : Bool) (d b p : Reg) (mk : Mask) (h : Bool) (s : State) : Host.Outcome State Fault Refusal :=
  issue (.vsegmax sw d b p mk h) sw .plain (segmentReduce .max d b p mk h) s

end Sys2Proof.Machine
end

