-- ==== Sys2Proof/Machine/Streams.lean ====
section
/-!
DEFINITION. Stream generators (11_vector_and_streams.md R235–R239): the four stream words, reading ahead, and the store
of an append.
-/

namespace Sys2Proof.Machine

/-- PRIV in handler mode (R237, R383). -/
def needNormal : Act Unit := do
  if (← get).me.hm then trapWith .priv 2 0

/-- R237: STREAM subcode 4 names the generator of the word. -/
def execSbind (sw : Bool) (a c : Reg) (n r w : BitVec 2) (g : Bool) (f : BitVec 2) (s : State) :
    Host.Outcome State Fault Refusal :=
  issue (.sbind sw a c n r w g f) sw .plain (do
    needNormal
    prologue false [a, a + 1, c] [] [] []
    let t := (← get).me
    let other := [0, 1, 2, 3].any fun i =>
      i != n.toNat && (FMap.get Stream.reset t.streams i).bound && decide ((FMap.get Stream.reset t.streams i).reg = r)
    if other then trapWith .stream (BitVec.ofNat 64 (4 + 256 * n.toNat)) 0
    let base ← readReg a
    let stride ← readReg (a + 1)
    let count ← readReg c
    modMe fun t => t.setStream n.toNat fun old =>
      { Stream.reset with binding := old.binding + 1, base := base, stride := stride, n := count.setWidth 32, bound := true
                          write := decide (f = 1), reg := r, width := w, signed := g }
    pure .next) s

/-- R237: an append's store is always issued before a later word of its strand. -/
def execSunbind (sw : Bool) (n : BitVec 2) (s : State) : Host.Outcome State Fault Refusal :=
  issue (.sunbind sw n) sw .plain (do
    needNormal
    modMe fun t => t.setStream n.toNat fun g =>
      { g with bound := false, binding := g.binding + 1, fetched := [], parked := [], stopped := [] }
    pure .next) s

/-- R237. A read that is parked is not repeated (R239). -/
def execSseek (sw : Bool) (i : Reg) (n : BitVec 2) (s : State) : Host.Outcome State Fault Refusal :=
  issue (.sseek sw i n) sw .plain (do
    needNormal
    prologue false [i] [] [] []
    let x ← readReg i
    modMe fun t => t.setStream n.toNat fun g =>
      { g with p := if x.toNat ≤ g.n.toNat then x.setWidth 32 else g.n, fetched := [], stopped := [] }
    pure .next) s

/-- R237. -/
def execSstat (sw : Bool) (d : Reg) (n : BitVec 2) (p : BitVec 4) (s : State) : Host.Outcome State Fault Refusal :=
  issue (.sstat sw d n p) sw .plain (do
    prologue true [] [d] [] []
    let g := FMap.get Stream.reset (← get).me.streams n.toNat
    longReg d (match p.toNat with
      | 0 => g.p.setWidth 64
      | 1 => g.n.setWidth 64
      | 2 => g.base
      | 3 => g.stride
      | _ => g.words.getD 3 0)
    pure .next) s

/-- The first element that a generator may still read ahead (R239). -/
def Stream.nextAhead (g : Stream) : Option Nat :=
  ((List.range 8).map (g.p.toNat + ·)).find? fun k =>
    decide (k < g.n.toNat) && !g.parked.contains k && !(g.fetched.any fun f => f.1 == k)
      && !(g.stopped.any fun f => f.1 == k)

/-- R239. A handler's generators do not act (R237), no element is read ahead for a strand that is to stop, and none before an acquire has
returned (R344). An element whose address cannot be read is left to its pop. -/
def execStreamPrefetch (core slot : Nat) (sg : BitVec 2) (s : State) : Host.Outcome State Fault Refusal :=
  match s.strandAt core slot with
  | none => .next s
  | some t =>
    let g := FMap.get Stream.reset t.streams sg.toNat
    let held := t.hm || t.halted || t.haltReq || t.ktrap || t.wait == .draining || t.wait == .restoring || (s.ctxOf t.ctx).killing
      || t.outstanding.any fun r => r.wait == .acquire
    if held ∨ !g.bound ∨ g.write then .next s
    else
      match g.nextAhead with
      | none => .next s
      | some k =>
        match readElement sg.toNat k g (s.switchTo core slot) with
        | .ok x s' => .next { s' with me := s'.me.setStream sg.toNat fun g => { g with fetched := g.fetched ++ [(k, x)] } }
        | .error (.wait _) s' => .next s'
        | .error _ _ => .next s

/-- The store of an append, for the current strand. -/
def storeAppend (a : Append) : Act Unit := do
  let _ ← performPieces (.scalar (widthBytes a.width)) .store 0
    [(appendPiece a.va.toNat (widthBytes a.width) a.value, a.leaf)]

/-- The generators before a word whose append did not store: at the positions that they had then, with the elements that the word popped and
all that was read, or parked, since (R239). -/
def Strand.streamsBefore (t : Strand) (a : Append) : FMap Stream :=
  [0, 1, 2, 3].foldl (fun m i =>
    let g := FMap.get Stream.reset m i
    let h := FMap.get Stream.reset t.streams i
    FMap.set Stream.reset m i
      { g with fetched := g.fetched.filter (fun x => decide (x.1 < h.p.toNat)) ++ h.fetched, parked := h.parked, stopped := h.stopped })
    a.streams

/-- A strand back before a word whose append did not store (R247): its long result is discarded, and it popped and appended nothing. -/
def Strand.undoAppend (t : Strand) (a : Append) : Strand :=
  { t with pc := a.pc, pfx := a.pfx, streams := t.streamsBefore a, sflags := a.sflags, unitLog := [], unitPos := 0, wait := .none
           appends := none, outstanding := t.outstanding.filter fun r => r.id ≠ a.id }

/-- A strand whose append has stored: its long result may return. -/
def Strand.appended (t : Strand) (a : Append) : Strand :=
  { t with unitLog := [], unitPos := 0, appends := none
           outstanding := t.outstanding.map fun r => if r.id = a.id then { r with wait := .none } else r }

/-- R238: the append's store is performed, or parks its word, or its trap is taken at the word. While its memory's island wakes (R428) the
strand waits at issue. -/
def execStreamAppendStore (core slot : Nat) (s : State) : Host.Outcome State Fault Refusal :=
  match s.strandAt core slot with
  | none => .next s
  | some t =>
    match t.appends with
    | none => .next s
    | some a =>
      match storeAppend a (s.switchTo core slot) with
      | .ok _ s' => .next { s' with me := s'.me.appended a }
      | .error (.trap i) s' =>
        let me := s'.me.undoAppend a
        .next ({ s' with me := { me with issued := me.issued - 1, replay := Replay.none, reissue := false } }.takeTrap i)
      | .error (.wait .unit) s' =>
        .next { s' with me := { (s'.me.undoAppend a) with wait := .unit, replay := a.replay, reissue := true } }
      | .error (.wait _) s' =>
        .next { s' with me := { s'.me with unitLog := [], unitPos := 0, wait := if t.wait = .none then .issue else t.wait } }
      | .error (.fault f) _ => .fault f

end Sys2Proof.Machine
end

