-- ==== Sys2Proof/Machine/Lifecycle.lean ====
section
/-!
DEFINITION. Leaving a core (07_scalar_and_control.md R154–R157): `hop`, `spawn`, `amsg`, `yield` and `done`; pending lists
(R101) and the end of a strand (R284, R315, R356, R358).
-/

namespace Sys2Proof.Machine

/-! ## The end of a strand -/

/-- A strand of a core group ended (R96, R105): its slot is no longer reserved, and with the last the group finishes. A strand that
`spawn` made is in no group, so it holds back neither the group's finish nor the freeing of its bytes and banks (log 33). A
strand that gave its reservation back when it was pre-empted has none to give (R393). -/
def State.leaveGroup (s : State) (t : Strand) : State :=
  match t.launch with
  | some l =>
    if t.counted then
      let x := s.launchOf l
      let g := FMap.get Group.none x.groups t.group
      let g := { g with reserved := if t.bound ∨ !t.restore ∨ t.fresh then g.reserved - 1 else g.reserved
                        left := g.left - 1
                        finish := if g.left = 1 then some s.ns else g.finish }
      s.setLaunch l fun x => { x with groups := FMap.set Group.none x.groups t.group g }
    else s
  | none => s

/-- Ops of a strand that stopped for a save which is never restored: they end (log 18). -/
def State.endSuspended (s : State) (t : Strand) : State :=
  (s.eng.ops.filter fun x => x.2.suspended && x.2.strand == t.uid).foldl (fun s x => s.endOp x.1 .cancelled) s

/-- A strand ends (R157, R284, R315): tokens, banks, shapes, its barrier and trigger parts, its group, its save area, and what a
debugger's halt waits for (R412). The slot it frees may be the last that a group needs (R400). -/
def State.endStrand (s : State) (t : Strand) : State :=
  let s := s.orphanTokens t
  let s := s.endSuspended t
  let s := match t.place with
    | .slot core slot => (s.withdraw core slot).dropPrefetch core slot |>.releaseBanks core slot fun _ => true
    | _ => s
  let s := s.countTrigger t
  let s := s.leaveGroup t
  let s := s.dropArea t.ctx t.area
  let s := ((s.removeStrand t.uid).freeSnaps).reached t.uid
  let s := match t.place with
    | .pending core => s.refill core
    | _ => s
  let s := match t.launch with
    | some l => (s.setLaunch l fun x => { x with strands := x.strands - 1 }).settlePhases l
    | none => s
  let s := s.completePacket t.packet
  match t.place with
  | .slot core _ => s.placeFor core
  | _ => s

/-- R157: it waits at issue until its long results have returned. -/
def execDone (sw : Bool) (s : State) : Host.Outcome State Fault Refusal :=
  issue (.done sw) sw .plain (do
    let s ← get
    if !s.me.outstanding.isEmpty then waitIssue
    set (s.endStrand s.me)
    pure .left) s

/-- R157, R104: the strand is saved and becomes a slice again, to go on at the next word. -/
def execYield (sw : Bool) (s : State) : Host.Outcome State Fault Refusal :=
  issue (.yield sw) sw .plain (do
    let s ← get
    if s.me.hm ∨ s.me.urg then trapWith .priv 2 0
    if !s.me.outstanding.isEmpty then waitIssue
    modify fun s => s.dropPrefetch s.me.core s.me.slot
    modMe fun t => { t.clean with pc := t.pc + 4, wait := .draining, mskcnt := 0, fresh := true }
    modify fun s => s.suspendOps s.me.core
    pure .left) s

/-! ## hop (R154, R176) -/

/-- What the page-table entry of an address names, as a ply's walkers find it, or a walk without caches: no access is made. -/
def placeUnder (ctx va : Nat) (ply : Option Nat) : Act (Option PAddr) := do
  if va / 2 ^ 57 ≠ 0 then return none
  let s ← get
  match ← walkFrom ctx va ply false 4 (s.ctxOf ctx).root with
  | .bad _ _ => pure none
  | .leaf e l _ _ => do
    let s ← get
    if outsideContext s ctx e l then pure none else pure (some (leafAddr s ctx va e l))

/-- What the page-table entry of an address names for the current strand. -/
def targetType (ctx va : Nat) : Act (Option PAddr) := do placeUnder ctx va (some (corePly (← get).me.core))

/-- The core to which an address takes a hop. An address in a peer chip's memory names none, and the hop is denied (R154, log 115). -/
def hopTarget (a : Word) : Act Nat := do
  let s ← get
  match ← targetType s.me.ctx a.toNat with
  | some pa =>
    match pa.space with
    | .ls c => pure c
    | .pool _ =>
      match s.msgOwner s.me.ctx a.toNat pa with
      | .core c => pure c
      | _ => trapWith .hopdeny 2 0
    | _ => trapWith .hopdeny 2 0
  | none => trapWith .hopdeny 2 0

/-- The access pieces of one half-frame saved at an address. -/
def framePieces (t : Strand) (va h : Nat) : List Piece :=
  let bytes := ((List.range 8).map fun k => toLE 8 (FMap.get 0 t.stack (8 * (h % 8) + k)).toNat).flatten
  splitUnits (fun st n => .write (withOffsets ((va + st) % 64) ((bytes.drop st).take n))) 3 va 0 64

/-- Saves the half-frames below the window, oldest first, after every byte is known to translate (R154). -/
def saveFrames : Act Unit := do
  let t := (← get).me
  let n := t.rdep.toNat
  let top := t.stk.toNat + 2 ^ 64
  let frames := (List.range n).flatMap fun i =>
    framePieces t ((top - 64 * (i + 1)) % 2 ^ 64) (t.cwp.toNat + 8 - n + i)
  let byAddr := (List.range n).flatMap fun i => framePieces t ((top - 64 * (n - i)) % 2 ^ 64) (t.cwp.toNat + 8 - 1 - i)
  let low ← translatePieces (.scalar 64) .store false true byAddr
  watchPieces .store low
  let ls ← translatePieces (.scalar 64) .store false true frames
  let _ ← performAs (fun _ _ => .stk) (.scalar 64) .store 0 ls

/-- The index and extent registers that a strand's number and launch give it (R52, R176): 0 and 1 for a handler (R156). -/
def State.levelsOf (s : State) (t : Strand) : FMap Word × FMap Word :=
  match t.handler, t.launch with
  | false, some l => levelRegs t.tnum.toNat 0 (s.launchOf l).lrec.levels
  | _, _ => ([], [])

/-- The stack entries that a hop reads: those of the window, and of the half-frames below it (R154). -/
def Strand.hopReads (t : Strand) : List Nat :=
  (List.range 16).map (fun r => entryOf t.cwp (BitVec.ofNat 4 r))
    ++ (List.range t.rdep.toNat).flatMap fun i => (List.range 8).map fun k => 8 * ((t.cwp.toNat + 8 - t.rdep.toNat + i) % 8) + k

/-- A parity error in an entry that a hop reads raises UNCORR (R391). -/
def hopParity : Act Unit := do
  let t := (← get).me
  match t.hopReads.find? t.parity.contains with
  | some e => trapWith .uncorr (BitVec.ofNat 64 (5 + 65536 * e)) 0
  | none => pure ()

/-- Free values in stack entries from one on: half-frames that the context message does not carry. -/
def freeEntries : Nat → Nat → Act Unit
  | 0, _ => pure ()
  | n + 1, e => do
    let x ← drawWord
    modMe fun t => { t with stack := FMap.set 0 t.stack e x }
    freeEntries n (e + 1)

/-- The strand as its context message gives it at the destination, which computes its index and extent registers and every other computed
register anew (R154, R176). State that the message does not carry is
free there: the trap registers and the half-frames outside the window (log 19). -/
def packContext : Act Unit := do
  let (lvl, ext) := (← get).levelsOf (← get).me
  modMe fun t =>
    let window := (List.range 16).map fun r => t.g (BitVec.ofNat 4 r)
    { t with
      lvl := lvl, ext := ext, bias := []
      stack := FMap.setList 0 t.stack 0 window
      stk := t.stk - BitVec.ofNat 64 (64 * t.rdep.toNat), rdep := 0, cwp := 0, mskcnt := 0
      vregs := [], vlive := 0, parity := [] }
  freeEntries 48 16
  let c ← drawWord
  let a ← drawWord
  let i ← drawWord
  let p ← drawWord
  let e ← drawWord
  modMe fun t => { t with tcause := c.extractLsb' 0 6, taddr := a, tinfo := i, epc := p, est := e &&& 0x3F077F#64 }

/-- R154. The target is settled before the strand waits for its results: the word waits with what it read (R173). -/
def execHop (sw : Bool) (r : Reg) (s : State) : Host.Outcome State Fault Refusal :=
  issue (.hop sw r) sw .plain (do
    prologue false [r] [] [] []
    let a ← readReg r
    let s ← get
    if s.me.hm ∨ s.me.urg then trapWith .hopdeny 3 0
    if s.heldBanks s.me.core s.me.slot ≠ 0 then trapWith .hopdeny 1 0
    let (dest, _) ← settled (do pure (← hopTarget a, 0, 0, 0))
    if !(← get).me.outstanding.isEmpty then throw (.wait .returns)
    hopParity
    saveFrames
    modify fun s => s.dropPrefetch s.me.core s.me.slot
    packContext
    modMe fun t =>
      { t.clean with pc := t.pc + 4, place := .transit dest, wait := .none, fresh := true, hopped := true
                     halted := false, haltReq := false, haltBy := [] }
    pure .left) s

/-- The deadline that a strand gives to what it creates: an urgent handler's is 2^64 − 1 (R155). -/
def Strand.sliceDeadline (t : Strand) : Word := if t.urg then BitVec.allOnes 64 else t.deadline

/-! ## spawn (R155) -/

/-- R155: the launch gains a strand. -/
def execSpawn (sw : Bool) (e a : Reg) (s : State) : Host.Outcome State Fault Refusal :=
  issue (.spawn sw e a) sw .plain (do
    needNormal
    prologue false [e, a, a + 1, a + 2, a + 3] [] [] []
    let ge ← readReg e
    let x0 ← readReg a
    let x1 ← readReg (a + 1)
    let x2 ← readReg (a + 2)
    let x3 ← readReg (a + 3)
    if ge.toNat % 4 ≠ 0 then trapWith .align (BitVec.ofNat 64 (512 * 3)) ge
    let s ← get
    if !s.pendingRoom s.me.core 1 then waitIssue
    let t := s.me
    let (uid, s) := s.freshUid
    let n : Strand :=
      { Strand.empty with
        ctx := t.ctx, part := t.part, launch := t.launch, group := t.group, tnum := t.tnum, uid := uid
        handler := t.handler, pc := ge, stack := FMap.setList 0 [] 0 [x0, x1, x2, x3], strict := t.strict
        tvec := t.tvec, tdeleg := t.tdeleg, rmode := t.rmode, wtmo := t.wtmo, lvl := t.lvl, ext := t.ext
        sh0 := t.sh0, sh1 := t.sh1, ntok := t.ntok, deadline := t.sliceDeadline, slicebud := t.slicebud
        high := t.high, fresh := true }
    let s := s.enterList t.core n
    set (match t.launch with
      | some l => s.setLaunch l fun x => { x with strands := x.strands + 1 }
      | none => s)
    pure .next) s

/-! ## amsg (R156) -/

/-- Sends an active message to the owner of an address. -/
def amsgForm (d h p : Reg) (urgent : Bool) : Act Flow := do
  prologue false [d, h, p, p + 1, p + 2, p + 3] [] [] []
  let gd ← readReg d
  let gh ← readReg h
  let x0 ← readReg p
  let x1 ← readReg (p + 1)
  let x2 ← readReg (p + 2)
  let x3 ← readReg (p + 3)
  if gh.toNat % 4 ≠ 0 then trapWith .align (BitVec.ofNat 64 (512 * 3)) gh
  let ls ← translatePieces (.scalar 1) .load true false [{ va := gd.toNat, offs := blockOffs gd.toNat 1, act := .read }]
  let s ← get
  let t := s.me
  match ls with
  | (_, l) :: _ =>
    match s.msgOwner t.ctx gd.toNat l.pa with
    | .nobody => trapWith .prot (protInfo faultTARGET .load l.level false) gd
    -- the handler is a strand of the peer chip, which may have no core to give
    | .peer _ => if ← drawBit then trapWith .prot (protInfo faultTARGET .load l.level false) gd
    | .core c =>
      modify fun s => s.sendMessage
        { dest := c, urgent := urgent, pc := gh, regs := [x0, x1, x2, x3, gd, (s.vcoreWord t.ctx t.core).setWidth 64]
          ctx := t.ctx, part := t.part, launch := t.launch, ntok := t.ntok, deadline := t.sliceDeadline
          slicebud := t.slicebud, high := t.high, sender := some t.uid, packet := none }
  | [] => pure ()
  pure .next

/-- R156. -/
def execAmsg (sw : Bool) (d h p : Reg) (s : State) : Host.Outcome State Fault Refusal :=
  issue (.amsg sw d h p) sw .plain (amsgForm d h p false) s

/-- R156. -/
def execAmsgUrg (sw : Bool) (d h p : Reg) (s : State) : Host.Outcome State Fault Refusal :=
  issue (.amsgUrg sw d h p) sw .plain (amsgForm d h p true) s

end Sys2Proof.Machine
end

