-- ==== Sys2Proof/Machine/Fetch.lean ====
section
/-!
DEFINITION. Fetching a word (R106–R110): translation, the instruction cache, and what a failing fetch is.
-/

namespace Sys2Proof.Machine

/-- What a fetch gives. -/
inductive Fetched where
  | word (w : Lane)
  /-- the line is not in the instruction cache (R107) -/
  | miss
  /-- no translation, or a page that is not resident: FETCH (R109) -/
  | absent
  /-- PROT (R106) -/
  | prot (t : TrapInfo)
  deriving DecidableEq, Repr

/-- The translation that a strand's fetch needs. -/
def Strand.fetchReq (t : Strand) : XReq :=
  { ctx := t.ctx, sysm := t.sysm, kind := .fetch, rd := false, wr := false, via := .core t.core }

/-- The cached word of a core, context and address (R107). -/
def Mem.cached (m : Mem) (core ctx va : Nat) : Option Lane :=
  (m.icache.find? fun w => w.core == core && w.ctx == ctx && w.va == va).map (·.word)

/-- The trap of a fetch whose translation fails (R106, R183). -/
def fetchProt (kind level : Nat) (remote : Bool) (pc : Word) : TrapInfo :=
  { cause := .prot, tinfo := protInfo kind .fetch level remote, taddr := pc }

/-- Fetches the word at a strand's pc. A cached word is returned as it is, or as memory now holds it (R108). -/
def fetchText (t : Strand) : Act Fetched := do
  match ← translate t.fetchReq t.pc.toNat with
  | .fail k l rem =>
    if k = faultNOMAP ∨ k = faultNOTRES then pure .absent else pure (.prot (fetchProt k l rem t.pc))
  | .ok leaf =>
    let s ← get
    match s.mem.cached t.core t.ctx t.pc.toNat with
    | none => pure .miss
    | some w =>
      if FMap.get 0 s.mem.poison leaf.pa.word ≠ 0 then
        pure (.prot { cause := .uncorr, tinfo := BitVec.ofNat 64 (leaf.pa.space.whereCode false + 256 * 3), taddr := t.pc })
      else
        let now := BitVec.ofNat 32 (ofLE (s.mem.bytesAt leaf.pa.key 4))
        if now = w then pure (.word w)
        else if ← drawBit then pure (.word w)
        else pure (.word now)

/-- The word that a strand issues next: one that parked is issued again as it was (R267), any other is fetched. -/
def fetchFor (t : Strand) : Act Fetched :=
  match t.reissue, t.replay.word with
  | true, some w => pure (.word w)
  | _, _ => fetchText t

/-- The state in which a fetched word is issued. -/
def State.holding (s : State) (w : Lane) : State := { s with me := { s.me with replay := { s.me.replay with word := some w } } }

/-- The line of a cached word, by its context and address. -/
def CachedWord.line (w : CachedWord) : Nat × Nat := (w.ctx, w.va / 64)

/-- Whether a cached word stands in the set of a line: 128 sets of a core (R107), chosen by the virtual address of the line (log 114). -/
def CachedWord.inSet (w : CachedWord) (core va : Nat) : Bool := w.core == core && w.va / 64 % 128 == va / 64 % 128

/-- Fills the line of an address from memory (R107). A set holds eight lines; which one a full set loses is free, by `pick`. -/
def fillLine (core ctx va : Nat) (pa : PAddr) (pick : Nat) (m : Mem) : Mem :=
  let base := va - va % 64
  let rest := m.icache.filter fun w => !(w.core == core && w.line == (ctx, va / 64))
  let lines := ((rest.filter fun w => w.inSet core va).map CachedWord.line).eraseDups
  let kept := if lines.length < 8 then rest else
    match lines[pick % lines.length]? with
    | some l => rest.filter fun w => !(w.inSet core va && w.line == l)
    | none => rest
  { m with icache := kept ++ (List.range 16).map fun k =>
      { core := core, ctx := ctx, va := base + 4 * k
        word := BitVec.ofNat 32 (ofLE (m.bytesAt (64 * pa.block + 4 * k) 4)) } }

/-- Drops the cached words of a context whose address lies in a range (R85, R359). -/
def Mem.dropText (m : Mem) (hit : CachedWord → Bool) : Mem :=
  { m with icache := m.icache.filter fun w => !hit w }

end Sys2Proof.Machine
end

