-- ==== Sys2Proof/Machine/Schedule.lean ====
section
/-!
DEFINITION. Which agent moves next: the core's choice of a strand (R165–R169), and the device's steps that are due.
-/

namespace Sys2Proof.Machine

/-! ## Choosing the issuing strand (R166, R167) -/

/-- The oldest of some strands (R163). -/
def oldest : List Strand → Option Strand
  | [] => none
  | t :: ts =>
    match oldest ts with
    | none => some t
    | some u => if u.age < t.age then some u else some t

/-- The policy in force: that of the oldest bound normal strand's launch record (R166); true for RR. -/
def State.roundRobin (s : State) (core : Nat) : Bool :=
  match oldest (s.all.filter fun t => t.bound && t.core == core && decide (t.slot < 8)) with
  | some t =>
    match t.launch with
    | some l => decide ((s.launchOf l).lrec.policy = 1)
    | none => false
  | none => false

/-- The first slot of a list in which an eligible strand stands. -/
def firstIn (ts : List Strand) : List Nat → Option Nat
  | [] => none
  | n :: ns => if ts.any fun t => t.slot == n then some n else firstIn ts ns

/-- The slot that issues on a core, if a strand is eligible there. A trap that a re-evaluation raised is taken in the first cycle in which
its strand is eligible, whoever issues (R266), and a word whose access has been performed has issued before: it goes on at once (R267). -/
def State.pickSlot (s : State) (core : Nat) : Option Nat :=
  let ts := s.all.filter fun t => s.eligible t && t.core == core
  match (ts.find? fun t => t.pendingTrap.isSome).or (ts.find? (·.continues)), oldest (ts.filter fun t => decide (8 ≤ t.slot)) with
  | some t, _ => some t.slot
  | none, some t => some t.slot
  | none, none =>
    let c := s.coreOf core
    if s.roundRobin core then firstIn ts ((List.range 8).map fun k => (c.rr + 1 + k) % 8)
    else
      match c.greedy.filter (fun g => ts.any fun t => t.slot == g) with
      | some g => some g
      | none => (oldest ts).map (·.slot)

/-- The cores with an eligible strand, without repeats. -/
def State.readyCores (s : State) : List Nat :=
  ((s.all.filter s.eligible).map (·.core)).eraseDups

/-- The cores on which a word goes on. -/
def State.goingCores (s : State) : List Nat :=
  ((s.all.filter fun t => s.eligible t && t.continues).map (·.core)).eraseDups

/-- Chooses one of a list: the only one, or a free choice. -/
def pickOf {α : Type} (n : Nat) : List α → Option α
  | [] => none
  | [x] => some x
  | xs => xs[(Config.freeWord n).toNat % xs.length]?

/-! ## What stands before a strand's next word -/

/-- Whether a stop names a strand's next word (R408). -/
def State.atStop (s : State) (t : Strand) : Bool :=
  (s.ctxOf t.ctx).stops.any fun x => x.pc == t.pc &&
    (match x.vcore with
     | none => true
     | some v => decide (v = (s.vcoreWord t.ctx t.core).toNat))

/-- What comes before the next word of the current strand: the store of an append (R238), a trap that a re-evaluation raised (R266), or
a step of the device at an instruction boundary (R103, R408). -/
inductive Before where
  | append
  | trap (t : TrapInfo)
  | stopHit
  | budgetTrap
  | word
  deriving DecidableEq, Repr

/-- What comes before the next word of the current strand. -/
def State.beforeWord (s : State) : Before :=
  let t := s.me
  match t.appends, t.pendingTrap with
  | some _, _ => .append
  | none, some i => .trap i
  | none, none =>
    if t.reissue then .word
    else if s.atStop t then .stopHit
    else if t.pfx.count ≠ 0 then .word
    else if t.budgetDue && !t.budgetTaken && !t.hm then .budgetTrap
    else .word

/-! ## Idle cycles -/

/-- The cores that hold a bound strand. -/
def State.boundCores (s : State) : List Nat := ((s.all.filter (·.bound)).map (·.core)).eraseDups

/-- The cores that hold bound strands and none that may issue. -/
def State.idleCores (s : State) : List Nat := s.boundCores.filter fun c => !s.readyCores.contains c

/-- An idle cycle of the package counts for every core (R420) but those that may issue; what a core has counted for itself is taken back. -/
def State.countIdle (s : State) (bound : List Nat) : State :=
  bound.foldl (fun s c => s.setCore c fun k => { k with sidle := k.sidle - 1 }) { s with idles := s.idles + 1 }

/-- A cycle in which those cores issue no word (R166 rule 3), and none of the cores that hold no strand. -/
def State.idle (s : State) : State :=
  let t := s.idleCores.foldl (fun s c => s.coreCycles c 1 false) s
  { t.countIdle s.boundCores with time := t.time + 4 }

end Sys2Proof.Machine
end

