-- ==== Sys2Proof/Machine/Strands.lean ====
section
/-!
DEFINITION. The steps of a core around its strands (R101–R103, R107, R109, R156, R164, R165, R170, R177, R388–R396): arrivals,
binding, start delays, results, fetches, budgets, and saving and restoring.
-/

namespace Sys2Proof.Machine

/-! ## Arrivals (R156, R164, R177) -/

/-- The handler strand of a message (R156). -/
def Message.strand (m : Message) (uid : Nat) : Strand :=
  { Strand.empty with
    ctx := m.ctx, part := m.part, launch := m.launch, tnum := 0x80000000#32, uid := uid, handler := true, pc := m.pc
    stack := FMap.setList 0 [] 0 m.regs, urg := m.urgent, ntok := m.ntok, deadline := m.deadline
    slicebud := m.slicebud, high := m.high, packet := m.packet, fresh := true }

/-- Whether an earlier message of the same sender, core and level is still on its way (R156). -/
def earlierMessage (ms : List Message) (m : Message) : Bool :=
  m.sender.isSome && ms.any fun x => x.sender == m.sender && x.dest == m.dest && x.urgent == m.urgent

/-- R156: an urgent message reaches its core's buffer, or the ply network behind it; a normal one becomes a slice. -/
def execAmsgArrival (index : Nat) (s : State) : Host.Outcome State Fault Refusal :=
  match s.eng.messages[index]? with
  | none => .next s
  | some m =>
    if earlierMessage (s.eng.messages.take index) m then .next s
    else
      let gone (s : State) : State := { s with eng := { s.eng with messages := s.eng.messages.eraseIdx index } }
      if m.urgent then .next ((gone s).setCore m.dest fun c => { c with urgent := c.urgent ++ [m] })
      else if s.pendingRoom m.dest 1 then
        let (uid, s) := s.freshUid
        .next ((gone s).enterList m.dest (m.strand uid))
      else .next s

/-- R164: the oldest waiting message takes a free urgent slot. An urgent handler has no slice: what its budget and deadline
registers read is free (log 20). -/
def execUrgentDelivery (core : Nat) (s : State) : Host.Outcome State Fault Refusal :=
  match (s.coreOf core).urgent, [8, 9].find? fun n => (s.strandAt core n).isNone with
  | m :: rest, some slot =>
    let (uid, s) := s.freshUid
    let t := m.strand uid
    let s := s.setCore core fun c => { c with urgent := rest }
    .next ({ s with ages := s.ages + 1, free := s.free + 2 }.addStrand
      { t with
        place := .slot core slot, wait := .start, age := s.ages, fresh := false, slicebud := BitVec.allOnes 64
        budget := Config.freeWord s.free, deadline := Config.freeWord (s.free + 1) })
  | _, _ => .next s

/-- Strands on their way to a core, or in a ply's network buffer. -/
def State.travelling (s : State) : List Strand :=
  s.all.filter fun t => match t.place with
    | .transit _ => true
    | .buffered _ => true
    | _ => false

/-- R177: the context enters the pending list, or waits in the buffer of 16 of its destination's ply. -/
def execHopArrival (index : Nat) (s : State) : Host.Outcome State Fault Refusal :=
  match s.travelling[index]? with
  | none => .next s
  | some t =>
    let core := t.core
    let waiting := (s.all.filter fun u => match u.place with
      | .buffered c => corePly c == corePly core
      | _ => false).length
    if s.pendingRoom core 1 then .next ((s.removeStrand t.uid).enterList core t)
    else if t.place = .transit core ∧ waiting < 16 then
      .next ((s.removeStrand t.uid).addStrand { t with place := .buffered core })
    else .next s

/-! ## Binding (R102, R103, R163, R314) -/

/-- Whether the banks of a saved strand are free on a core (R314). -/
def State.banksFree (s : State) (core : Nat) (mask : BitVec 8) : Bool :=
  (List.range 4).all fun b => !mask.getLsbD b || decide ((s.bankOf core b).cond = .free)

/-- Whether the group for which a strand was pre-empted has still to enter the pending list. Its slot is kept meanwhile, so that
the group is placed and dispatched when the last slot it needs frees (R400; log 21). -/
def State.awaited (s : State) (t : Strand) : Bool :=
  match t.forGroup with
  | none => false
  | some (order, g) => s.hub.launches.any fun x =>
      x.2.live && x.2.order == order
        && (x.2.nextGroup == g || s.hub.binds.any fun b => b.2.valid && b.2.lslot == x.1 && b.2.group == g)

/-- Whether a slice may be bound (R102, R314, R392, R396, R400). -/
def State.bindable (s : State) (core : Nat) (t : Strand) : Bool :=
  decide (t.place = .pending core) && !s.awaited t && !t.ktrap && !t.restErr && !t.halted && !(s.ctxOf t.ctx).killing
    && (!t.restore || s.banksFree core t.banks)

/-- Whether a slice is bound before another (R102). -/
def Strand.bindsBefore (a b : Strand) : Bool :=
  if a.deadline ≠ b.deadline then decide (a.deadline.toNat < b.deadline.toNat)
  else if a.high ≠ b.high then a.high
  else decide (a.age < b.age)

/-- The slice that a core binds next. -/
def firstBound : List Strand → Option Strand
  | [] => none
  | t :: ts =>
    match firstBound ts with
    | none => some t
    | some u => if u.bindsBefore t then some u else some t

/-- The banks of a saved strand are acquired again (R314). -/
def State.reacquire (s : State) (core slot : Nat) (t : Strand) : State :=
  (List.range 4).foldl (fun s b =>
    if t.banks.getLsbD b then
      s.setBank core b fun k => { k with cond := .held slot (t.banks.getLsbD (4 + b)), launch := t.launch, gen := k.gen + 1 }
    else s) s

/-- Number of banks of a mask. -/
def bankCount (mask : BitVec 8) : Nat := ((List.range 4).filter fun b => mask.getLsbD b).length

/-- The group of a strand's launch whose reservations on a core its slot and banks come from: its own, if that is there, else the first
of the launch that still has strands there (log 21). -/
def State.sharedGroup (s : State) (core : Nat) (t : Strand) : Option Nat :=
  t.launch.bind fun l =>
    let here := (s.launchOf l).groups.filter fun g => g.2.core == core && g.2.left != 0
    if !t.handler && here.any fun g => g.1 == t.group then some t.group else (here.head?).map (·.1)

/-- Whether the reservation of a strand's slot is one of the core's: it was created there from a bind record (R96). -/
def State.holdsSlot (s : State) (core : Nat) (t : Strand) : Bool := t.counted && s.sharedGroup core t == some t.group

/-- Changes a group of a strand's launch. -/
def State.setGroup (s : State) (t : Strand) (g : Nat) (f : Group → Group) : State :=
  match t.launch with
  | some l => s.setLaunch l fun x => { x with groups := FMap.set Group.none x.groups g (f (FMap.get Group.none x.groups g)) }
  | none => s

/-- A pre-empted strand gives back, of its launch's reservations, its slot and the banks it holds (R393). -/
def State.giveShare (s : State) (core : Nat) (t : Strand) (banks : Nat) : State :=
  let s := if t.counted then s.setGroup t t.group fun g => { g with reserved := g.reserved - 1 } else s
  match s.sharedGroup core t with
  | some g => s.setGroup t g fun g => { g with banks := g.banks - banks }
  | none => s

/-- It takes them back when it is bound again (R393). -/
def State.takeShare (s : State) (core : Nat) (t : Strand) (banks : Nat) : State :=
  let s := if t.counted then s.setGroup t t.group fun g => { g with reserved := g.reserved + 1 } else s
  match t.launch, s.sharedGroup core t with
  | some l, some g => s.setGroup t g fun g => { g with banks := min (s.launchOf l).lrec.nbank (g.banks + banks) }
  | _, _ => s

/-- The debugger halts of its context, launch and group, which reach a strand as it is bound (R412). -/
def State.bindingHalts (s : State) (t : Strand) : List DebugTarget :=
  (if (s.ctxOf t.ctx).haltReq then [.context t.ctx] else [])
    ++ match t.launch with
       | some l =>
         (if (s.launchOf l).haltReq then [.launch l] else [])
           ++ if t.counted && (FMap.get Group.none (s.launchOf l).groups t.group).haltReq then [.group l t.group] else []
       | none => []

/-- Words of a save area that a restore reads: the fixed part, the live vectors and the banks. -/
def Mem.areaWords (m : Mem) (a : Nat) (banks : BitVec 8) : List Nat :=
  let live := BitVec.ofNat 16 (ofLE (m.bytesAt (hbmKey (a + 0x3E)) 2))
  let part (o n : Nat) : List Nat := (List.range (n / 8)).map fun k => hbmKey (a + o) / 8 + k
  part 0 832 ++ ((List.range 16).filter fun r => live.getLsbD r).flatMap (fun r => part (0x340 + 256 * r) 256)
    ++ ((List.range 4).filter fun b => banks.getLsbD b).flatMap fun b => part (0x1340 + 16384 * b) 16384

/-- Whether an area holds an uncorrectable word (R392). -/
def Mem.areaBad (m : Mem) (a : Nat) (banks : BitVec 8) : Bool :=
  !m.poison.isEmpty && (m.areaWords a banks).any fun w => FMap.get 0 m.poison w != 0

/-- Whether a slice's restore would read an uncorrectable word of its area (R392). -/
def State.restoreBad (s : State) (t : Strand) : Bool :=
  match t.restore, t.area with
  | true, some i => s.mem.areaBad (s.areaAddr t.ctx i) t.banks
  | _, _ => false

/-- R392: the restore stops before the strand is bound. The slice stays where it is in the list until the kernel has settled it. -/
def State.restoreError (s : State) (core slot : Nat) (t : Strand) : State :=
  (s.mapAll fun u => if u.uid = t.uid then { u with restErr := true, kslot := slot } else u).systemEvent t.part 0x19 t.ctx
    (s.vcoreWord t.ctx core) slot 0 (match t.area with | some i => BitVec.ofNat 64 (s.areaAddr t.ctx i) | none => 0) 0

/-- A saved strand as its area gives it, and its banks put back on the core (R389). The area is read as the strand is bound, and
it is its own until the restore completes. -/
def State.readBack (s : State) (core slot : Nat) (t : Strand) : Strand × State :=
  match t.restore, t.area with
  | true, some i =>
    let a := s.areaAddr t.ctx i
    ({ t.wentOn s.mem a with parity := [], pendingTrap := none },
      { s.reacquire core slot t with eng := restoreBanks (s.reacquire core slot t).eng s.mem core slot t.launch t.banks a })
  | _, _ => (t, s)

/-- Binds a slice to a slot (R102, R103). A budget that was saved as zero is due (R396). -/
def State.bind (s : State) (core slot : Nat) (t : Strand) : State :=
  let (r, s) := s.readBack core slot t
  let s := if t.restore ∧ !t.fresh then s.takeShare core t (bankCount t.banks) else s
  let s := match t.launch with
    | some l => s.setLaunch l fun x => { x with tbind := x.tbind.or (some s.ns) }
    | none => s
  let budget := if t.fresh then t.slicebud else r.budget
  let u := { r with
    place := .slot core slot, wait := if t.restore then .restoring else .start, age := s.ages, hopped := false
    budget := budget, budgetDue := t.restore && decide (budget = 0), budgetTaken := false
    issued := 0, parkedCycles := 0, fresh := false, forGroup := none, haltReq := t.haltReq || !(s.bindingHalts t).isEmpty
    haltBy := (t.haltBy ++ s.bindingHalts t).eraseDups }
  (({ s with ages := s.ages + 1 }.removeStrand t.uid).addStrand u).refill core

/-- R165: the start delay has run out. -/
def execStartDelayExpiry (core slot : Nat) (s : State) : Host.Outcome State Fault Refusal :=
  .next (s.setStrand core slot fun t => if t.wait = .start then { t with wait := .none } else t)

/-! ## Results (R170, R174) -/

/-- Whether a long result may return. -/
def State.resultReady (s : State) (r : LongResult) : Bool :=
  match r.wait with
  | .none => true
  | .shootdown c => (s.nameEntry c).sdone || decide ((s.nameEntry c).state ≠ .dying)
  | .op n => !(s.opOf n).live
  | .bank core b => decide ((s.bankOf core b).cond ≠ .releasing)
  | .text _ _ => true
  | .acquire => true
  | .units us => us.all fun u => !(s.redirectedUnits.contains u)
  | _ => false

/-- The lines of a `tsync` are dropped in every core of the partition on the chip (R359). -/
def State.dropTsync (s : State) (t : Strand) (r : LongResult) : State :=
  match r.wait with
  | .text lo hi =>
    let cores := s.partCores t.part
    { s with mem := s.mem.dropText fun w =>
        w.ctx == t.ctx && cores.contains w.core && decide (lo < hi ∧ w.va / 64 * 64 < hi ∧ lo < w.va / 64 * 64 + 64) }
  | _ => s

/-- A strand whose last long result has returned goes on: a park at a marker ends (R170), and so does the wait of a `hop` (R154). One that
issued `pass` in the cycle before is still not eligible in the next (R168). -/
def Strand.afterLast (t : Strand) : Strand :=
  if !t.outstanding.isEmpty then t
  else
    match t.wait with
    | .marker => { t with wait := .none }
    | .returns => { t with wait := .none }
    | .passedMarker => { t with wait := .passed }
    | _ => t

/-- R170: a result returns. -/
def execLongResultReturn (core slot id : Nat) (s : State) : Host.Outcome State Fault Refusal :=
  match s.strandAt core slot with
  | none => .next s
  | some t =>
    match t.outstanding.find? fun r => r.id == id with
    | none => .next s
    | some r =>
      if s.resultReady r then
        .next (((s.dropTsync t r).setStrand core slot fun t => (t.deliver r).afterLast).kernelSave core slot)
      else .next s

/-! ## Text (R107, R109) -/

/-- The line of a strand's word, and with it, as the core chooses, the next line of the page (R107). -/
def State.takeLine (s : State) (t : Strand) (l : Leaf) : State :=
  let va := t.pc.toNat
  let pick (k : Nat) : Nat := (Config.freeWord (s.free + k)).toNat
  let m := fillLine t.core t.ctx va l.pa (pick 0) s.mem
  let ahead := Config.freeBit (s.free + 1) && decide (va % 4096 < 4032)
  let m := if ahead then fillLine t.core t.ctx (va + 64) { l.pa with off := l.pa.off + 64 } (pick 1) m else m
  { s with mem := m, free := s.free + 2 }

/-- R107: the line arrives, if its text still has a translation; from a parked island once that runs again (R428). -/
def execIcacheLineFill (core slot : Nat) (s : State) : Host.Outcome State Fault Refusal :=
  match s.strandAt core slot with
  | none => .next s
  | some t =>
    if t.wait = .line then
      match translate t.fetchReq t.pc.toNat s with
      | .ok (.ok l) s' =>
        match s'.wakeIsland l.pa.space with
        | some s' => .next s'
        | none => .next ((s'.takeLine t l).setStrand core slot fun t => { t with wait := .none })
      | .ok (.fail _ _ _) s' => .next (s'.setStrand core slot fun t => { t with wait := .none })
      | .error _ s' => .next s'
    else .next s

/-- R109: the strand parks and the kernel receives FETCH. -/
def execFetch (core slot : Nat) (s : State) : Host.Outcome State Fault Refusal :=
  match s.strandAt core slot with
  | none => .next s
  | some t =>
    if t.wait = .none then
      match fetchFor t s with
      | .ok .absent s' =>
        .next ((s'.setStrand core slot fun t => { t with wait := .fetch }).systemEvent t.part 0x14 t.ctx
          (s.vcoreWord t.ctx core) slot t.pc 0 0)
      | _ => .next s
    else .next s

/-! ## Budgets (R103, R355) -/

/-- R103: the budget has reached zero; a parked `wwait` or `bar.wait` is withdrawn (R355). -/
def execBudgetExhausted (core slot : Nat) (s : State) : Host.Outcome State Fault Refusal :=
  match s.strandAt core slot with
  | some t =>
    if t.budget = 0 ∧ !t.urg ∧ !t.halted ∧ !t.budgetTaken then
      .next ((s.setStrand core slot fun t => { t with budgetDue := true }).withdrawWait core slot)
    else .next s
  | none => .next s

/-- The strand in a slot takes BUDGET, once in a slice (R103). -/
def State.budgetTrap (s : State) (core slot : Nat) : State :=
  let s := s.switchTo core slot
  { s with me := { s.me with budgetDue := false, budgetTaken := true } }.takeTrap { cause := .budget, tinfo := 0, taddr := 0 }

/-- R103: BUDGET at the next instruction boundary, outside handler mode (R386). -/
def execBudgetTrap (core slot : Nat) (s : State) : Host.Outcome State Fault Refusal :=
  match s.strandAt core slot with
  | some t =>
    if t.budgetDue ∧ !t.budgetTaken ∧ !t.hm ∧ t.wait = .none ∧ t.pfx.count = 0 ∧ !t.reissue ∧ t.appends.isNone then
      .next (s.budgetTrap core slot)
    else .next s
  | none => .next s

/-! ## Saving and restoring (R388, R389, R392–R396) -/

/-- Takes the trap that is due at the boundary of the strand in a slot, before it is stopped there (R396): one that a re-evaluation
raised, or a BUDGET of a strand that could issue. -/
def State.dueTrap (s : State) (core slot : Nat) : State :=
  match s.strandAt core slot with
  | none => s
  | some t =>
    match t.pendingTrap with
    | some i => (s.switchTo core slot).takeTrap i
    | none =>
      let s := s.withdraw core slot
      if t.budgetDue ∧ !t.budgetTaken ∧ !t.hm ∧ !t.urg ∧ !t.ktrap ∧ (t.wait = .none ∨ t.wait = .issue) then s.budgetTrap core slot
      else s

/-- Stops the strand in a slot to be saved (R394 step 1). -/
def State.stopStrand (s : State) (core slot : Nat) : State :=
  let s := ((s.dueTrap core slot).withdraw core slot).dropPrefetch core slot
  (s.setStrand core slot fun t => { t with wait := .draining, mskcnt := 0 }).suspendOps core

/-- The banks of a saved strand are zeroed and Free (R394 step 3). -/
def State.freeBanks (s : State) (core slot : Nat) : State :=
  (List.range 4).foldl (fun s b =>
    match (s.bankOf core b).cond with
    | .held n _ =>
      if n = slot then
        { s with eng := zeroBank s.eng core b }.setBank core b fun k => { cond := .free, launch := none, gen := k.gen + 1 }
      else s
    | _ => s) s

/-- Whether no op has work to do on the banks that a strand holds. -/
def State.banksDrained (s : State) (core slot : Nat) : Bool :=
  (List.range 4).all fun b =>
    match (s.bankOf core b).cond with
    | .held n _ => n != slot || (s.bankOps core b).isEmpty
    | _ => true

/-- The strand's save area with everything in it: for a strand parked at the kernel only its banks are added (R396). -/
def State.writeArea (s : State) (core slot : Nat) (t : Strand) (i : Nat) : State :=
  let a := s.areaAddr t.ctx i
  let mask := s.heldBanks core slot
  let t := { t with banks := mask }
  let m := if t.ktrap then s.mem.putWords (hbmKey (a + 0xAE)) (toLE 1 mask.toNat)
    else saveVectors t a (s.mem.putWords (hbmKey a) t.savedBytes)
  { s with mem := saveBanks s.eng core mask a m }

/-- The saved strand leaves its slot as a slice (R101, R104, R394). A yielding strand keeps its reservation; with
a full list it waits outside the list, ahead of the other sources, as a pre-empted one does (log 113). -/
def State.leaveSlot (s : State) (core slot : Nat) (t : Strand) (i : Nat) : State :=
  let mask := s.heldBanks core slot
  let s := s.freeBanks core slot
  let s := if t.fresh then s
    else s.giveShare core t (bankCount mask)
  let u := { t with
    area := some i, banks := mask, restore := true, wait := if t.ktrap then .kernel else .none, kslot := slot
    savedBudget := if t.ktrap then t.savedBudget else t.budget }
  let s := s.removeStrand t.uid
  if s.pendingRoom core 1 then s.enterList core u
  else { s with ages := s.ages + 1 }.addStrand { u with place := .held core, age := s.ages }

/-- A restored strand's stopped ops go on (R314). -/
def State.resumeOps (s : State) (t : Strand) : State :=
  (s.eng.ops.filter fun x => x.2.suspended && x.2.strand == t.uid).foldl (fun s x =>
    s.setOp x.1 fun o => { o with suspended := false }) s

/-- R389: the strand has been read back and is eligible. Its area goes back to the pool. -/
def execRestoreComplete (core slot : Nat) (s : State) : Host.Outcome State Fault Refusal :=
  match s.strandAt core slot with
  | some t =>
    if t.wait = .restoring then
      .next (((s.resumeOps t).dropArea t.ctx t.area).setStrand core slot fun t =>
        { t with wait := .none, area := none, banks := 0, restore := false })
    else .next s
  | none => .next s

end Sys2Proof.Machine
end

