-- ==== Sys2Proof/Machine/Spindle.lean ====
section
/-!
DEFINITION. The steps of the spindle and of dispatch (05_placement_and_binding.md R95–R102; 21_traps_and_preemption.md R393, R394): placing
a group, dispatching its record, binding a slice, and pre-emption commands.
-/

namespace Sys2Proof.Machine

/-! ## Placing (R95–R99) -/

/-- Places it on a core of another chip: the bind record travels over Twine to that chip's slot table (R97). When its strands trigger
is free from then on, as is when they end (log 42). -/
def State.placeAway (s : State) (l core : Nat) : State :=
  let n := (s.launchOf l).lrec.nstr
  let s := s.reserve l core
  (s.setLaunch l fun x => { x with untriggered := x.untriggered - n
                                   tbind := if Config.freeBit s.free then x.tbind.or (some s.ns) else x.tbind }).settlePhases l

/-- Places the next group of a launch, if a core fits it. Whether cores of other chips fit is asked anew each time. -/
def State.placeNext (s : State) (l : Nat) (x : Launch) : State :=
  let later (s : State) : State := if (s.awayChips x.ctx).isEmpty then s else { s with free := s.free + 1 }
  match (s.candidates x).find? (s.fits x) with
  | none => later s
  | some core =>
    if isAway core then later (s.placeAway l core)
    else
      match s.freeBind with
      | some slot => later (s.placeHere l x core slot)
      | none => later s

/-- R95–R99. -/
def execGroupPlacement (s : State) : Host.Outcome State Fault Refusal :=
  match s.nextPlaced with
  | some (l, x) => .next (s.placeNext l x)
  | none => .next s

/-- The strands of a launch's groups on other chips, as far as they have ended since this was asked last: a free number of each group's
(log 42). With its last a group finishes. -/
def State.awayEnds (s : State) (l : Nat) : State :=
  let x := s.launchOf l
  (x.groups.filter fun g => isAway g.2.core && g.2.left != 0).foldl (fun s g =>
    let left := g.2.left - (Config.freeWord s.free).toNat % (g.2.left + 1)
    let y := { g.2 with left := left, reserved := left, finish := if left = 0 then some s.ns else none }
    { s with free := s.free + 1 }.setLaunch l fun x => { x with groups := FMap.set Group.none x.groups g.1 y }) s

/-- Whether a launch has strands on other chips that have not ended. -/
def Launch.awayLeft (x : Launch) : Bool := x.groups.any fun g => isAway g.2.core && g.2.left != 0

/-! ## Dispatch (R100) -/

/-- R100. -/
def execBindRecordDispatch (index : Nat) (s : State) : Host.Outcome State Fault Refusal := .next (s.dispatch index)

/-! ## Binding (R102) -/

/-- R102: a free normal slot binds the slice with the earliest deadline, unless its restore meets an error (R392). -/
def execSliceBind (core : Nat) (s : State) : Host.Outcome State Fault Refusal :=
  let s := s.placeFor core
  match (List.range 8).find? (fun n => (s.strandAt core n).isNone), firstBound (s.all.filter (s.bindable core)) with
  | some slot, some t => .next (if s.restoreBad t then s.restoreError core slot t else s.bind core slot t)
  | _, _ => .next s

/-! ## Pre-emption (R393, R394) -/

/-- Whether the spindle may pre-empt a strand: a normal strand of a normal-priority launch, not already stopping. -/
def State.preemptible (s : State) (core : Nat) (t : Strand) : Bool :=
  t.bound && t.core == core && decide (t.slot < 8 ∧ t.wait ≠ .draining ∧ t.wait ≠ .restoring)
    && (match t.launch with | some l => decide ((s.launchOf l).lrec.priority = 0) | none => false)

/-- Whether a strand is taken before another: latest deadline, then youngest age. -/
def Strand.takenBefore (a b : Strand) : Bool :=
  if a.deadline ≠ b.deadline then decide (b.deadline.toNat < a.deadline.toNat) else decide (b.age < a.age)

/-- Slots and banks of a core's reservations that a strand's pre-emption there frees. -/
def State.givesBack (s : State) (t : Strand) : Nat × Nat :=
  (natOf (s.holdsSlot t.core t), if (s.sharedGroup t.core t).isSome then bankCount (s.heldBanks t.core t.slot) else 0)

/-- Whether a core would fit a group once some strands have left it (R393). -/
def State.fitsWithout (s : State) (x : Launch) (core : Nat) (ts : List Strand) : Bool :=
  let gs := ts.map s.givesBack
  decide (s.slotsReserved core + x.lrec.nstr ≤ 8 + (gs.map (·.1)).sum
      ∧ x.lrec.nbank ≤ s.banksUnreserved core + (gs.map (·.2)).sum)
    && s.fitsRest x core

/-- Whether the spindle pre-empts a strand of a core now: for a high-priority group that no core fits, on the core on which it has
already pre-empted for that group, if it has. Where a strand that comes first would free nothing, either it or the first that
frees something is taken (R393, R400; log 21). -/
def State.takes (s : State) (core : Nat) (t : Strand) : Bool :=
  match s.nextPlaced with
  | none => false
  | some (_, x) =>
    let all := s.all.filter (s.preemptible core)
    let useful := all.filter fun u => s.givesBack u != (0, 0)
    let first (us : List Strand) : Bool := us.all fun u => u.uid == t.uid || t.takenBefore u
    let stopping := s.all.filter fun u => u.bound && u.core == core && decide (u.wait = .draining) && !u.fresh
    decide (x.lrec.priority = 1) && (s.candidates x).contains core && !((s.candidates x).any (s.fits x))
      && s.preemptible core t && (first all || (s.givesBack t != (0, 0) && first useful))
      && !s.fitsWithout x core stopping && s.fitsWithout x core (stopping ++ all)
      && ((s.all.filter fun u => u.forGroup == some (x.order, x.nextGroup)).all fun u => u.core == core)

/-- R393, R394 step 1: the command stops the strand. An append's store is issued first (R238). -/
def execPreemptCommand (core slot : Nat) (s : State) : Host.Outcome State Fault Refusal :=
  match s.nextPlaced, s.strandAt core slot with
  | some (_, x), some t =>
    if s.takes core t ∧ t.appends.isNone ∧ !t.continues then
      .next ((s.stopStrand core slot).setStrand core slot fun t => { t with forGroup := some (x.order, x.nextGroup) })
    else .next s
  | _, _ => .next s

/-- Whether a strand's save waits for those pre-empted together with it: until each has its command, and then in slot order
(R394). -/
def State.saveWaits (s : State) (core slot : Nat) (t : Strand) : Bool :=
  t.forGroup.isSome
    && (s.all.any (s.takes core)
      || s.all.any fun u => u.bound && u.core == core && decide (u.slot < slot ∧ u.wait = .draining) && u.forGroup == t.forGroup)

/-- R389: the save is complete, and the slot frees; the group for which it was pre-empted may now be placed (R400). It waits while
results or bank ops drain and while no area is free. A strand parked at the kernel keeps its slot: it is saved when an area is free
(R385). -/
def execSaveComplete (core slot : Nat) (s : State) : Host.Outcome State Fault Refusal :=
  match s.strandAt core slot with
  | some t =>
    if t.wait = .draining ∧ t.outstanding.isEmpty ∧ s.banksDrained core slot ∧ !s.saveWaits core slot t then
      let s := s.kernelSave core slot
      let t := (s.strandAt core slot).getD t
      let area := match t.area with
        | some i => some (i, s)
        | none => if t.ktrap then none else s.takeArea t.ctx
      match area with
      | none => .next s
      | some (i, s) => .next (((s.writeArea core slot t i).leaveSlot core slot t i).placeFor core)
    else if t.wait = .kernel then .next (s.kernelSave core slot)
    else .next s
  | none => .next s

end Sys2Proof.Machine
end

