-- ==== Sys2Proof/Machine/Retire.lean ====
section
/-!
DEFINITION. Retirement and accounting (R105, R285, R358, R402–R405): the trigger store, the account record, the completion
word and event of a launch, and the counting of its time.
-/

namespace Sys2Proof.Machine

/-! ## When a launch may retire (R285, R402) -/

/-- Whether the condition of R285 holds: every group placed, every strand ended, every op terminal. -/
def State.mayRetire (s : State) (l : Nat) : Bool :=
  let x := s.launchOf l
  x.live && x.started && decide (x.nextGroup = x.lrec.groupCount) && decide (x.strands = 0) && !x.awayLeft
    && !(s.hub.binds.any fun b => b.2.valid && b.2.lslot == l)
    && !(s.eng.ops.any fun o => o.2.launch == some l && o.2.live) && !(s.ctxOf x.ctx).killing

/-- Records in a later state the moment at which each launch could first retire: that of the state before it (R402). -/
def State.noteTret (s s' : State) : State :=
  s.hub.launches.foldl (fun s' x =>
    if s.mayRetire x.1 && x.2.tret.isNone && (s'.launchOf x.1).live then s'.setLaunch x.1 fun y => { y with tret := some s.ns }
    else s') s'

/-! ## Counting time (R405) -/

/-- Whether a service of the resident kernel for a launch is under way: a strand parked at the kernel or on FETCH, or an op
paused on a page. -/
def State.inService (s : State) (l : Nat) : Bool :=
  (s.all.any fun t => t.launch == some l && (t.ktrap || decide (t.wait = .fetch)))
    || (s.eng.ops.any fun o => o.2.launch == some l && decide (o.2.state = .paused)
          && o.2.fault == BitVec.ofNat 8 faultNOTRES)

/-- The islands that hold a bound strand or a running op of a launch. -/
def State.launchIslands (s : State) (l : Nat) : List Nat :=
  ((s.all.filter fun t => t.launch == some l && t.bound).map fun t => coreIsland t.core)
    ++ (s.eng.ops.filter fun o => o.2.launch == some l && decide (o.2.state = .running)).map fun o => coreIsland o.2.core

/-- The effective ceiling in a `capcause` (R427). -/
def ceilingOf (c : Word) : Nat := bitsOf c.toNat 16 16

/-- The part to which a moment counts, with the `capcause` of a capped island: 7 is engine. Which of parts 3–5 a service
counts to depends on ports outside the model: `p` says (log 22). -/
def State.partNow (s : State) (l : Nat) (p : Nat) : Nat × Word :=
  let bound := s.all.any fun t => t.launch == some l && t.bound
  let ops := s.eng.ops.any fun o => o.2.launch == some l && o.2.live
  if !bound ∧ !ops then (2, 0)
  else if s.inService l then (3 + p % 3, 0)
  else
    match (s.launchIslands l).find? fun i => decide (ceilingOf (FMap.get capcause0 s.pkg.capcause i) < 2500) with
    | some i => (6, FMap.get capcause0 s.pkg.capcause i)
    | none => (7, 0)

/-- Counts `n` tenths of a nanosecond to each launch's part, up to its Tret. -/
def State.account (s : State) (n : Nat) : State :=
  s.hub.launches.foldl (fun s x =>
    if x.2.live && x.2.tret.isNone then
      let service := s.inService x.1
      let (k, c) := s.partNow x.1 (Config.freeWord s.free).toNat
      let s := if service then { s with free := s.free + 1 } else s
      s.setLaunch x.1 fun y =>
        { y with parts := if k < 7 then FMap.set 0 y.parts k (FMap.get 0 y.parts k + n) else y.parts
                 capCause := if k = 6 then c else y.capCause }
    else s) s

/-! ## The trigger (R358) -/

/-- The trigger store, once. -/
def State.storeTrigger (s : State) (l : Nat) : State :=
  let x := s.launchOf l
  if x.triggerStored then s
  else
    let s := s.setLaunch l fun x => { x with triggerStored := true }
    if x.lrec.trigaddr = 0 then s else s.vput x.ctx x.lrec.trigaddr.toNat 8 x.lrec.compval.toNat

/-- R358: every counted strand has triggered. Whether those on other chips have is free until they end (log 42). -/
def execTriggerStore (launch : Nat) (s : State) : Host.Outcome State Fault Refusal :=
  let x := s.launchOf launch
  let s' := if x.awayLeft then { s with free := s.free + 1 } else s
  if x.live ∧ x.untriggered = 0 ∧ (!x.awayLeft ∨ Config.freeBit s.free) ∧ !(s.ctxOf x.ctx).killing then .next (s'.storeTrigger launch)
  else .next s'

/-! ## Retirement (R402) -/

/-- The finish that comes first, or last, of a launch's groups: time and group, the lowest group of several (R105). -/
def edgeFinish (later : Bool) : List (Nat × Word) → Option (Nat × Word)
  | [] => none
  | x :: xs =>
    match edgeFinish later xs with
    | none => some x
    | some y => if (if later then decide (x.2.toNat < y.2.toNat) else decide (y.2.toNat < x.2.toNat)) then some y else some x

/-- What the skew monitor finds: early, late, their groups, and REPLAN (R105). -/
def Launch.skew (x : Launch) : Word × Word × Nat × Nat × Bool :=
  let fs := x.groups.filterMap fun g => g.2.finish.map fun t => (g.1, t)
  match edgeFinish false fs, edgeFinish true fs with
  | some (a, t), some (b, u) =>
    if x.lrec.skew = 0 then (0, 0, 0, 0, false)
    else (t, u, a, b, decide (1 < x.lrec.groupCount ∧ x.lrec.skew.toNat < u.toNat - t.toNat))
  | _, _ => (0, 0, 0, 0, false)

/-- The account record (R404) of a launch that retires at `tret`. -/
def Launch.record (x : Launch) (tret : Word) : List Byte :=
  let clamp := decide (x.t0 = 0 ∨ x.tseen.toNat < x.t0.toNat)
  let t0 := if clamp then x.tseen else x.t0
  let wall := tret - t0
  let sys := x.tseen - t0
  let part (k : Nat) : Word := BitVec.ofNat 64 (FMap.get 0 x.parts k / 10)
  let (early, late, eg, lg, replan) := x.skew
  let flags := natOf replan + 2 * natOf (decide (x.lrec.skew ≠ 0)) + 4 * natOf clamp + 8 * natOf x.wasHalted
  let engine := wall - (sys + part 2 + part 3 + part 4 + part 5 + part 6)
  let cause : Word := if part 6 = 0 then 0 else x.capCause
  let w (v : Word) : List Byte := toLE 8 v.toNat
  w t0 ++ w x.tseen ++ w (x.tbind.getD tret) ++ w tret ++ w wall ++ w sys ++ w (part 2) ++ w (part 3) ++ w (part 4)
    ++ w (part 5) ++ w (part 6) ++ w engine ++ w cause ++ toLE 4 flags ++ toLE 4 0 ++ w early ++ w late
    ++ toLE 4 eg ++ toLE 4 lg ++ List.replicate 56 0

/-- Writes a range, or says that the write was skipped: it is, and is lost, where the page is not resident (log 112). -/
def State.writeOrSkip (s : State) (ctx va : Nat) (bs : List Byte) : State × Bool :=
  match s.vwrite ctx va bs with
  | some s => (s, false)
  | none => (s, true)

/-- Drops a reference that the front end holds on a name of this chip. -/
def State.dropHeld (s : State) (n : Name) : State := if nameChip n = s.hub.chip ∧ n ≠ 0 then s.dropNameRef (nameCounter n) else s

/-- Ends what a launch holds: OP names, shape and binding references, snapshots (R402 step 3). -/
def State.dropLaunchRefs (s : State) (l : Nat) : State :=
  let x := s.launchOf l
  let s := s.eng.ops.foldl (fun s o =>
    match o.2.name with
    | some c => if o.2.launch = some l ∧ (s.nameEntry c).state = .live then s.endOpName c else s
    | none => s) s
  let s := x.lrec.shapes.foldl State.dropHeld s
  let s := (x.bindings.map (·.name)).foldl State.dropHeld s
  (s.setLaunch l fun x => { x with snaps := [], bindings := [] }).freeSnaps

/-- Retires a launch (R402). Tret is the time at which it could first retire. -/
def State.retire (s : State) (l : Nat) : State :=
  let tret := (s.launchOf l).tret.getD s.ns
  let s := s.storeTrigger l
  let x := s.launchOf l
  let (_, _, _, _, replan) := x.skew
  let s := s.dropLaunchRefs l
  let (s, acctfail) := if x.lrec.acctaddr = 0 then (s, false) else s.writeOrSkip x.ctx x.lrec.acctaddr.toNat (x.record tret)
  let (s, compfail) := if x.lrec.compaddr = 0 then (s, false)
    else s.writeOrSkip x.ctx x.lrec.compaddr.toNat (toLE 8 x.lrec.compval.toNat)
  let s := s.setLaunch l fun _ => Launch.none
  let s := s.completePacket (some (x.queue, 2 ^ 17 * x.index + x.sub))
  let flags := natOf replan + 2 * natOf acctfail + 4 * natOf compfail + 8 * natOf x.orphfail
  let s := if x.notify then
      s.postEvent x.part 2 x.ctx [x.name.extractLsb' 0 64, x.name.extractLsb' 64 64, BitVec.ofNat 64 x.index,
        BitVec.ofNat 64 flags]
    else s
  s.startShootdown (nameCounter x.name) true

/-- R402. Whether the launch's strands on other chips have ended is asked first. -/
def execLaunchRetire (launch : Nat) (s : State) : Host.Outcome State Fault Refusal :=
  let s := s.awayEnds launch
  if s.mayRetire launch then .next (s.retire launch) else .next s

end Sys2Proof.Machine
end

