-- ==== Sys2Proof/Machine/Validation.lean ====
section
/-!
DEFINITION. Validation of skeins (04_queues_and_skeins.md R86–R91; 03_describing_work.md R47–R57, R66): the checks of packets,
launch records, tables and shape records in their order, the walk of indirect buffers, failure and acceptance.
-/

namespace Sys2Proof.Machine

/-! ## What ends a validation (R88) -/

abbrev fePTYPE : Nat := 1
abbrev fePVER : Nat := 2
abbrev fePFORM : Nat := 3
abbrev fePSEQ : Nat := 4
abbrev feSFORM : Nat := 5
abbrev feSNEST : Nat := 6
abbrev feSSIZE : Nat := 7
abbrev feLVER : Nat := 8
abbrev feLFORM : Nat := 9
abbrev feLREQ : Nat := 10
abbrev feXLATE : Nat := 11
abbrev feNAME : Nat := 12
abbrev feIDEPTH : Nat := 13
abbrev feISELF : Nat := 14
abbrev feAOWN : Nat := 15
abbrev feQGONE : Nat := 16

/-- A failure, as the error record gives it (R91). -/
structure VErr where
  code : Nat
  depth : Nat
  status : Nat
  index : Nat
  path : List Nat
  addr : Nat
  name : Name
  deriving DecidableEq, Repr

/-- Why a validation does not go on: it fails, it waits for a page (R90), or it waits for room (R64). -/
inductive VEnd where
  | fail (e : VErr)
  | page (va : Nat)
  | wait
  deriving DecidableEq, Repr

/-- A step of a validation. -/
abbrev Vetting (α : Type) := EStateM VEnd State α

/-- The place of the packet under check: its queue's context and partition, the ring index it belongs to, its positions in the
buffers above it and their addresses. -/
structure VPos where
  ctx : Nat
  part : Nat
  index : Nat
  path : List Nat
  bufs : List Nat
  /-- not inside a skein -/
  single : Bool
  deriving DecidableEq, Repr

/-- Fails at a packet. A packet of a buffer is one level deeper than the INDIRECT that names the buffer, and an INDIRECT of the
ring stands at depth 1 (R87). -/
def failAt {α : Type} (p : VPos) (code status addr : Nat) (name : Name) : Vetting α :=
  throw (.fail { code := code, depth := if p.path.isEmpty then 0 else p.path.length + 1, status := status, index := p.index
                 path := p.path, addr := addr, name := name })

/-- Fails at a packet when a condition holds. -/
def failIf (b : Bool) (p : VPos) (code addr : Nat) : Vetting Unit := if b then failAt p code 0 addr 0 else pure ()

/-! ## Addresses (R90) -/

/-- How a packet uses an address. `data` is the data address of an AMSG: it must be readable, and where its target owns no core AOWN
says so (R83; log 104). -/
inductive VUse where
  | read
  | write
  | text
  | data
  deriving DecidableEq, Repr

/-- The fault kind of an address in a context; 0 for none. -/
def State.useFault (s : State) (ctx va : Nat) (u : VUse) : Nat :=
  match u with
  | .read => s.vfault ctx va false
  | .write => s.vfault ctx va true
  | .text =>
    match translate { ctx := ctx, sysm := true, kind := .fetch, rd := false, wr := false, via := .none } va s with
    | .ok (.fail k _ _) _ => k
    | _ => 0
  | .data => let k := s.vfault ctx va false; if k = faultTARGET then 0 else k

/-- The first page of a range that has no mapping for a use: kind and address. Residency is not required. -/
def State.rangeFault (s : State) (ctx va n : Nat) (u : VUse) : Option (Nat × Nat) :=
  (List.range ((va + n + 4095) / 4096 - va / 4096)).findSome? fun k =>
    let a := if k = 0 then va else 4096 * (va / 4096 + k)
    let f := if 2 ^ 57 ≤ a then faultNONCANON else s.useFault ctx a u
    if f = 0 ∨ f = faultNOTRES then none else some (f, a)

/-- XLATE for the first of some ranges that is not mapped. -/
def needMapped (p : VPos) : List (Nat × Nat × VUse) → Vetting Unit
  | [] => pure ()
  | (va, n, u) :: rs => do
    match (← get).rangeFault p.ctx va n u with
    | some (k, a) => failAt p feXLATE k a 0
    | none => needMapped p rs

/-- Reads a mapped record; the queue waits while one of its pages is not resident. -/
def readPaged (p : VPos) (va n : Nat) : Vetting (List Byte) := do
  let s ← get
  match s.vread p.ctx va n with
  | some (bs, s') => do
    set s'
    pure bs
  | none =>
    let a := (pieces64 (n / 64 + 2) va n).find? fun x => s.vfault p.ctx x.1 false == faultNOTRES
    throw (.page (match a with | some x => x.1 | none => va))

/-- A record that is mapped, read; none where it is not, which XLATE reports in its turn. -/
def readMapped (p : VPos) (va n : Nat) : Vetting (Option (List Byte)) := do
  if ((← get).rangeFault p.ctx va n .read).isSome then pure none else some <$> readPaged p va n

/-! ## Packets alone (R78–R80, R88 checks 2–4) -/

/-- A field of some bytes. -/
def fieldOf (b : List Byte) (off n : Nat) : Nat := ofLE ((b.drop off).take n)

/-- Whether every byte from an offset on is zero. -/
def zeroFrom (b : List Byte) (off : Nat) : Bool := (b.drop off).all (· == 0)

/-- Whether the form of a packet of a defined type breaks a rule of R78, R80, R317 or R318. A BARRIER of kind 0 or 1 with one name has
zeros where the second would stand, and one of kind 2 an 8-byte aligned address: the model's readings (log 102). -/
def badForm (b : List Byte) : Bool :=
  let f := fieldOf b
  let h := f 0 8
  let t := f 0 1
  let wide : Bool := bitsOf h 10 6 != 0 || (t != ptCOPY && bitsOf h 20 28 != 0)
  let body : Bool :=
    if t = ptLAUNCH then f 8 8 % 256 != 0 || f 0x10 8 % 16 != 0 || !zeroFrom b 0x18
    else if t = ptAMSG then f 8 8 % 4 != 0 || decide (1 < f 0x38 8)
    else if t = ptCOPY then
      let multi := bitsOf h 32 16 != 0
      !copyRules multi b || decide (9 < bitsOf h 27 5) || decide (15 < (maskBits (bitsOf h 32 16)).length)
        || (multi && bitsOf h 27 5 != 0)
    else if t = ptBARRIER then
      let k := f 8 1
      let n := f 9 1
      f 0x0A 6 != 0 || !zeroFrom b 0x30 ||
        (if k = 2 then n != 0 || f 0x10 8 % 8 != 0 || decide (1 < f 0x20 16)
         else decide (2 < k) || n == 0 || decide (2 < n) || (n == 1 && f 0x20 16 != 0))
    else if t = ptSIGNAL then f 8 8 % 8 != 0 || decide (1 < f 0x18 8) || !zeroFrom b 0x20
    else if t = ptBEGIN then f 8 2 == 0 || decide (1024 < f 8 2) || !zeroFrom b 0x0A
    else if t = ptCOMMIT then !zeroFrom b 8
    else if t = ptINDIRECT then f 8 8 % 64 != 0 || f 0x10 2 == 0 || decide (4096 < f 0x10 2) || !zeroFrom b 0x12
    else if t = ptTEXTSYNC then f 0x10 8 == 0 || !zeroFrom b 0x18
    else false
  wide || body

/-- Checks 2–4 of R88: the code of the failure, if there is one. -/
def headFault (b : List Byte) (seq : Nat) : Option Nat :=
  if bitsOf (fieldOf b 0 8) 16 4 ≠ 1 then some fePVER
  else if badForm b then some fePFORM
  else if fieldOf b 6 2 ≠ seq % 65536 then some fePSEQ
  else none

/-! ## Launch records (R47–R57) -/

/-- A level entry (R50). -/
def levelOf (b : List Byte) (i : Nat) : Level :=
  { extent := fieldOf b (0x18 + 8 * i) 4, domain := fieldOf b (0x1C + 8 * i) 1, scope := fieldOf b (0x1D + 8 * i) 1 }

/-- 2^64 − 1 for 0 (R47, R58). -/
def orMax (x : Nat) : Word := if x = 0 then BitVec.allOnes 64 else BitVec.ofNat 64 x

/-- A record's copy, upgraded from its version (R47, R49). -/
def parseLaunch (b : List Byte) : LaunchRec :=
  let f := fieldOf b
  let v := f 0 2
  let v2 (x : Nat) : Nat := if v = 1 then 0 else x
  let v3 (x : Nat) : Nat := if v = 1 ∨ v = 2 then 0 else x
  let w (x : Nat) : Word := BitVec.ofNat 64 x
  { strict := decide (bitsOf (f 2 2) 0 1 = 1), priority := f 5 1, policy := v3 (f 6 1), textbase := w (f 8 8)
    entry := w (f 0x10 8), levels := (List.range (min 8 (f 4 1))).map (levelOf b), nstr := f 0x58 1, nbank := f 0x59 1
    nbply := f 0x5A 1, nbdie := f 0x5B 1, ntok := if v = 1 then 16 else f 0x5C 1, lsbytes := f 0x60 4
    minlocal := v3 (f 0x64 4), torus := (v3 (f 0x68 2), v3 (f 0x6A 2), v3 (f 0x6C 2)), ptable := w (f 0x70 8)
    reldl := orMax (f 0x78 8), slicebud := orMax (f 0x80 8), skew := w (v3 (f 0x88 8))
    shapes := (List.range 4).map fun i => BitVec.ofNat 128 (v2 (f (0x90 + 16 * i) 16))
    bindtab := w (v2 (f 0xD0 8)), compaddr := w (f 0xD8 8), compval := w (f 0xE0 8), trigaddr := w (v3 (f 0xE8 8))
    acctaddr := w (f 0xF0 8), orphaddr := w (v2 (f 0xF8 8)) }

/-- Whether domains do not decrease. -/
def risingDomains : List Level → Bool
  | a :: b :: t => decide (a.domain ≤ b.domain) && risingDomains (b :: t)
  | _ => true

/-- The level rules (R51). -/
def levelRules (ls : List Level) : Bool :=
  (match ls with | l :: _ => l.domain == 0 | [] => false)
    && (ls.drop 1).all (fun l => l.domain != 0) && risingDomains ls
    && ls.all (fun l => decide (l.domain ≤ 5 ∧ l.scope ≤ 5 ∧ l.domain ≤ l.scope ∧ 1 ≤ l.extent))
    && decide ((ls.map (·.extent)).foldl (· * ·) 1 ≤ 2 ^ 31)

/-- Logical cores of a torus; 0 for none. -/
def LaunchRec.torusSize (r : LaunchRec) : Nat := r.torus.1 * r.torus.2.1 * r.torus.2.2

/-- Whether a record declares a torus. -/
def LaunchRec.hasTorus (r : LaunchRec) : Bool := r.torus != (0, 0, 0)

/-- LFORM of a record, its binding table apart (R48). -/
def badLaunch (b : List Byte) (r : LaunchRec) : Bool :=
  let f := fieldOf b
  let nlev := f 4 1
  bitsOf (f 2 2) 1 15 != 0 || f 7 1 != 0 || f 0x5D 3 != 0 || f 0x6E 2 != 0
    || decide (nlev = 0 ∨ 8 < nlev ∨ 1 < r.priority ∨ 1 < r.policy)
    || (List.range nlev).any (fun i => f (0x1E + 8 * i) 2 != 0)
    || decide (r.textbase.toNat % 4096 ≠ 0 ∨ r.entry.toNat % 4 ≠ 0 ∨ r.lsbytes % 4096 ≠ 0 ∨ r.minlocal % 4096 ≠ 0
        ∨ r.compaddr.toNat % 8 ≠ 0 ∨ r.trigaddr.toNat % 8 ≠ 0 ∨ r.acctaddr.toNat % 64 ≠ 0 ∨ r.ptable.toNat % 4 ≠ 0)
    || decide (r.entry.toNat < r.textbase.toNat ∨ 2 ^ 32 ≤ r.entry.toNat - r.textbase.toNat)
    || !levelRules r.levels || r.nstr != r.groupSize || r.shapes.any (fun n => n != 0 && nameClass n != classSHAPE)
    || (r.hasTorus && r.torusSize == 0)

/-- The bindings that a table's bytes give (R57). -/
def parseBindings (b : List Byte) (n : Nat) : List Binding :=
  (List.range n).map fun i =>
    { base := BitVec.ofNat 64 (fieldOf b (8 + 32 * i) 8), length := BitVec.ofNat 64 (fieldOf b (16 + 32 * i) 8)
      name := BitVec.ofNat 128 (fieldOf b (24 + 32 * i) 16) }

/-- Whether some bindings break a rule of R57. -/
def badBindings : List Binding → Bool
  | [] => false
  | x :: xs =>
    decide (x.base.toNat % 4096 ≠ 0 ∨ x.length = 0 ∨ x.length.toNat % 4096 ≠ 0 ∨ nameClass x.name ≠ classSYNC)
      || xs.any (fun y => y.overlaps x.base.toNat x.length.toNat) || badBindings xs

/-- The binding table of a record at an address; its length in bytes and its bindings (R57). -/
def checkBindings (p : VPos) (addr : Nat) (r : LaunchRec) : Vetting (Nat × List Binding) := do
  if r.bindtab = 0 then pure (0, [])
  else
    match ← readMapped p r.bindtab.toNat 8 with
    | none => pure (8, [])
    | some h => do
      let n := fieldOf h 0 4
      failIf (decide (256 < n) || fieldOf h 4 4 != 0) p feLFORM addr
      match ← readMapped p r.bindtab.toNat (8 + 32 * n) with
      | none => pure (8 + 32 * n, [])
      | some b => do
        let bs := parseBindings b n
        failIf (badBindings bs) p feLFORM addr
        pure (8 + 32 * n, bs)

/-- LREQ from the record's figures (R53, R54, R64), for a context with so many vcores in its reach, and at most so many on one chip. -/
def overLimits (c : Ctx) (inReach onChip left : Nat) (r : LaunchRec) : Bool :=
  let beyond (x : Nat × Level) : Bool :=
    let g := r.unitGroups x.1
    (x.2.domain == 2 && decide (16 < g)) || (x.2.domain == 3 && decide (320 < g))
      || (x.2.domain == 4 && decide (onChip < g))
      || (x.2.domain == 5 && x.1 + 1 == r.levels.length && decide (inReach < r.groupCount))
  decide (8 < r.nstr ∨ 4 < r.nbank ∨ 16 < r.nbply ∨ 32 < r.nbdie ∨ 16 < r.ntok ∨ left < r.lsbytes ∨ left < r.minlocal
      ∨ 1048576 < r.lsbytes ∨ 1048576 < r.minlocal)
    || ((List.range r.levels.length).zip r.levels).any beyond
    || (r.hasTorus && decide (inReach < r.torusSize))
    || (r.shapes.any (· != 0) && c.snapArea.2 == 0)

/-- The core of this chip that a vcore word names in a context. -/
def State.namedCore (s : State) (ctx v : Nat) : Option Nat :=
  if v < 2 ^ 21 then s.coreOfVcore ctx v else none

/-- The most vcores of a context on one chip of its reach (R53). -/
def State.mostOnChip (s : State) (ctx : Nat) : Nat :=
  ((s.hub.chip :: s.awayChips ctx).map (s.vcoresOn ctx)).foldl max 0

/-- The core of each logical core of a torus (R55); none when LREQ. -/
def torusCores (p : VPos) (r : LaunchRec) : Vetting (Option (List Nat)) := do
  let s ← get
  let c := s.ctxOf p.ctx
  let n := r.torusSize
  if c.routeTab.2 = 0 then pure (some ((s.reachCores p.ctx).take n))
  else if c.routeTab.2 < n then pure none
  else
    needMapped p [(c.routeTab.1.toNat, 4 * n, .read)]
    let b ← readPaged p c.routeTab.1.toNat (4 * n)
    let cs := (List.range n).filterMap fun i => s.reachCore p.ctx (fieldOf b (4 * i) 4)
    pure (if cs.length = n ∧ cs.eraseDups.length = n then some cs else none)

/-- Whether two groups of one unit lie in different instances (R98). -/
def State.splitUnit (s : State) (ctx : Nat) (r : LaunchRec) (cores : List Nat) : Bool :=
  ((List.range r.levels.length).zip r.levels).any fun x =>
    decide (2 ≤ x.2.domain ∧ x.2.domain ≤ 4) &&
      ((List.range cores.length).zip cores).any fun y =>
        match cores[y.1 / r.unitGroups x.1 * r.unitGroups x.1]? with
        | some first => !s.sameInstance ctx x.2.domain first y.2
        | none => false

/-- The placement table (R54–R56, R98): a core per group; empty for default placement. -/
def checkTable (p : VPos) (addr : Nat) (r : LaunchRec) : Vetting (List Nat) := do
  let logical ← if r.hasTorus then torusCores p r else pure (some [])
  match logical with
  | none => failAt p feLREQ 0 addr 0
  | some cs =>
    if r.ptable = 0 then pure []
    else
      match ← readMapped p r.ptable.toNat (4 * r.groupCount) with
      | none => pure []
      | some b => do
        let s ← get
        let entry (i : Nat) : Option Nat :=
          let x := fieldOf b (4 * i) 4
          if r.hasTorus then cs[x]? else s.reachCore p.ctx x
        let cores := (List.range r.groupCount).filterMap entry
        failIf (decide (cores.length ≠ r.groupCount) || s.splitUnit p.ctx r cores) p feLREQ addr
        pure cores

/-! ## Names and shapes (R66, R90) -/

/-- The answer of a name's home entry: status, address and version. A home chip elsewhere answers freely, with an address of an entry
(R28), where a Twine path reaches it (R431). -/
def resolveFor (p : VPos) (n : Name) : Vetting (Nat × Word × Word) := do
  let s ← get
  match s.resolve p.part n with
  | .status st => pure (st, 0, 0)
  | .found st k => pure (st, (s.nameEntry k).addr, (s.nameEntry k).version)
  | .remote =>
    set { s with free := s.free + 3 }
    pure (if s.noTwine then stUNREACHABLE else (Config.freeWord s.free).toNat % 5, Config.freeWord (s.free + 1) &&& addrBits,
      Config.freeWord (s.free + 2))

/-- NAME unless a name resolves LIVE: its address and version. -/
def needLive (p : VPos) (n : Name) : Vetting (Word × Word) := do
  let (st, addr, version) ← resolveFor p n
  if st = stLIVE then pure (addr, version) else failAt p feNAME st 0 n

/-- NAME unless every name resolves LIVE. -/
def needAllLive (p : VPos) : List Name → Vetting Unit
  | [] => pure ()
  | n :: ns => do
    let _ ← needLive p n
    needAllLive p ns

/-- The record of a shape name at an address, read and checked (R66): XLATE where it cannot be read, BADSHAPE where it is not well
formed. -/
def readShape (p : VPos) (n : Name) (addr : Nat) (version : Word) : Vetting Snapshot := do
  let read (len : Nat) : Vetting (List Byte) := do
    match (← get).rangeFault p.ctx addr len .read with
    | some (k, _) => failAt p feXLATE k addr 0
    | none => readPaged p addr len
  let head ← read 0x30
  let nseg := fieldOf head 0x18 4
  if 1024 < nseg then failAt p feNAME stBADSHAPE 0 n
  else
    let b ← read (0x30 + 4 * (nseg + 1))
    match parseShape p.ctx n version b with
    | none => failAt p feNAME stBADSHAPE 0 n
    | some x => pure x

/-- The snapshot of a shape name (R65, R66), whose record is read and checked also where one of its name and version stands (R64). The
queue waits while the area is full. -/
def takeSnapshot (p : VPos) (n : Name) : Vetting Nat := do
  let (addr, version) ← needLive p n
  let x ← readShape p n addr.toNat version
  let s ← get
  match s.findSnap p.ctx n version, s.freeSnapSlot p.ctx with
  | some k, _ => pure k
  | none, none => throw .wait
  | none, some i => do
    set (s.putSnap p.ctx i x)
    pure (p.ctx * 2 ^ 32 + i)

/-- The snapshots of a record's shape names, in their order. -/
def takeSnapshots (p : VPos) : List Name → Vetting (List (Option Nat))
  | [] => pure []
  | n :: ns => do
    let k ← if n = 0 then pure none else some <$> takeSnapshot p n
    let ks ← takeSnapshots p ns
    pure (k :: ks)

/-! ## Members (R88) -/

/-- What a LAUNCH that passed its checks holds. -/
structure VLaunch where
  lrec : LaunchRec
  table : List Nat
  snaps : List (Option Nat)
  bindings : List Binding
  counter : Nat
  nameReturn : Nat
  t0 : Word
  deriving DecidableEq, Repr

/-- A packet that passed its checks. -/
structure VPacket where
  packet : Packet
  launch : Option VLaunch
  deriving DecidableEq, Repr

/-- The checks of a LAUNCH from LVER on; it takes its name when it has passed them (R91). Of an orphan list, whose length stands in it,
the first 0x40 bytes are checked (log 104). -/
def checkLaunch (p : VPos) (b : List Byte) : Vetting VLaunch := do
  let addr := fieldOf b 8 8
  let ret := fieldOf b 0x10 8
  needMapped p [(addr, 256, .read)]
  let raw ← readPaged p addr 256
  let r := parseLaunch raw
  failIf (decide (fieldOf raw 0 2 = 0 ∨ 3 < fieldOf raw 0 2)) p feLVER addr
  failIf (badLaunch raw r) p feLFORM addr
  let (size, bindings) ← checkBindings p addr r
  let s ← get
  failIf (overLimits (s.ctxOf p.ctx) (s.reachCores p.ctx).length (s.mostOnChip p.ctx) (Config.lsLeft p.ctx).toNat r) p feLREQ addr
  let table ← checkTable p addr r
  let opt (a : Word) (n : Nat) (u : VUse) : List (Nat × Nat × VUse) := if a = 0 then [] else [(a.toNat, n, u)]
  needMapped p ([(r.textbase.toNat, 1, .text), (r.entry.toNat, 4, .text)]
    ++ opt r.ptable (4 * r.groupCount) .read ++ opt r.bindtab size .read ++ opt r.compaddr 8 .write
    ++ opt r.trigaddr 8 .write ++ opt r.acctaddr 192 .write ++ opt r.acctaddr 8 .read ++ opt r.orphaddr 0x40 .write
    ++ if ret = 0 then [] else [(ret, 16, .write)])
  let snaps ← takeSnapshots p r.shapes
  needAllLive p (bindings.map (·.name))
  let t0 ← if r.acctaddr = 0 then pure [] else readPaged p r.acctaddr.toNat 8
  match (← get).takeCounter with
  | none => throw .wait
  | some (c, s) => do
    set s
    pure { lrec := r, table := table, snaps := snaps.take 2, bindings := bindings, counter := c, nameReturn := ret
           t0 := BitVec.ofNat 64 (ofLE t0) }

/-- The ranges that a COPY uses (R90, R320). -/
def copyRanges (b : List Byte) : List (Nat × Nat × VUse) :=
  let f := fieldOf b
  let n := f 0x1C 4
  ((List.range (f 0x18 4)).flatMap fun r =>
    [((f 8 8 + r * f 0x20 8) % 2 ^ 64, n, VUse.read), ((f 0x10 8 + r * f 0x28 8) % 2 ^ 64, n, VUse.write)])
    ++ if f 0x30 8 = 0 then [] else [(f 0x30 8, if bitsOf (f 0 8) 32 16 = 0 then 4 else 8, VUse.write)]

/-- The core that owns an AMSG packet's data address, chosen now (R83, R84): none where a peer chip chooses, which may have none to
give. -/
def checkOwner (p : VPos) (va : Nat) : Vetting (List (Nat × Word)) := do
  let s ← get
  let place : Option PAddr :=
    match targetType p.ctx va s with
    | .ok x _ => x
    | _ => none
  match place with
  | none => failAt p feAOWN 0 va 0
  | some pa =>
    match s.msgOwner p.ctx va pa with
    | .core c => pure [(c, 0)]
    | .peer _ => do
      set { s with free := s.free + 1 }
      failIf (Config.freeBit s.free) p feAOWN va
      pure []
    | .nobody => failAt p feAOWN 0 va 0

/-- A packet as the front end holds it once it is ready. -/
def readyPacket (p : VPos) (sub parent : Nat) (tseen : Word) (b : List Byte) (targets : List (Nat × Word)) : Packet :=
  { index := p.index, sub := sub, parent := parent, bytes := b
    state := if fieldOf b 0 1 = ptINDIRECT then .started else .ready
    tseen := tseen, targets := targets, launch := none, op := none, name := none, acks := [] }

/-- Checks 8–12 and 15 of a packet that is no INDIRECT. No COPY fails LREQ: the spec names nothing of it that could exceed what the
device or the context holds (log 103). The data address of an AMSG must be readable and the range of a TEXTSYNC executable (log
104). -/
def checkBody (p : VPos) (sub parent : Nat) (tseen : Word) (b : List Byte) : Vetting VPacket := do
  let f := fieldOf b
  let t := f 0 1
  let plain (targets : List (Nat × Word)) : VPacket := { packet := readyPacket p sub parent tseen b targets, launch := none }
  if t = ptLAUNCH then
    let l ← checkLaunch p b
    pure { plain [] with launch := some l }
  else if t = ptAMSG then do
    needMapped p [(f 8 8, 4, .text), (f 0x10 8, 1, .data)]
    let o ← checkOwner p (f 0x10 8)
    pure (plain o)
  else if t = ptCOPY then do
    needMapped p (copyRanges b)
    pure (plain [])
  else if t = ptBARRIER then
    if f 8 1 = 2 then do
      needMapped p [(f 0x10 8, 8, .read)]
      pure (plain [])
    else do
      needAllLive p ((List.range (f 9 1)).map fun i => BitVec.ofNat 128 (f (0x10 + 16 * i) 16))
      pure (plain [])
  else if t = ptSIGNAL then do
    needMapped p ((f 8 8, 8, .write) :: if f 0x18 8 = 1 then [(f 8 8, 8, .read)] else [])
    pure (plain [])
  else if t = ptTEXTSYNC then do
    needMapped p [(f 8 8, f 0x10 8, .text)]
    pure (plain [])
  else pure (plain [])

/-- Packets that have passed, latest first. -/
abbrev VAcc := List VPacket

/-- Checks 1–7 of a packet (R88, R89). -/
def checkHead (p : VPos) (seq : Nat) (acc : VAcc) (b : List Byte) : Vetting Unit := do
  let t := fieldOf b 0 1
  failIf (decide (t = 0 ∨ 10 < t)) p fePTYPE 0
  match headFault b seq with
  | some code => failAt p code 0 0 0
  | none => pure ()
  failIf (p.single && p.path.isEmpty && t == ptCOMMIT) p feSFORM 0
  failIf (t == ptBEGIN || t == ptCOMMIT) p feSNEST 0
  failIf (decide (65536 ≤ acc.length)) p feSSIZE 0

/-- Ordinal of the next packet below the ring packet at an index: 0 for the ring packet itself. -/
def nextSub (index : Nat) (acc : VAcc) : Nat := (acc.filter fun x => x.packet.index == index).length

/-- Checks a packet, and every packet of the buffers below it, depth first (R87, R88). `depth` bounds the nesting: an INDIRECT
at depth 5 fails. -/
def checkPacket : (depth : Nat) → VPos → (seq parent : Nat) → Word → List Byte → VAcc → Vetting VAcc
  | 0, p, _, _, _, _, _ => failAt p feIDEPTH 0 0 0
  | d + 1, p, seq, parent, tseen, b, acc => do
    checkHead p seq acc b
    let sub := nextSub p.index acc
    if fieldOf b 0 1 = ptINDIRECT then do
      let addr := fieldOf b 8 8
      let n := fieldOf b 0x10 2
      needMapped p [(addr, 64 * n, .read)]
      failIf (decide (d = 0)) p feIDEPTH addr
      failIf (p.bufs.contains addr) p feISELF addr
      let bytes ← readPaged p addr (64 * n)
      let head : VPacket := { packet := readyPacket p sub parent tseen b [], launch := none }
      (List.range n).foldlM (init := head :: acc) fun acc i =>
        checkPacket d { p with path := p.path ++ [i], bufs := p.bufs ++ [addr] } i sub tseen ((bytes.drop (64 * i)).take 64) acc
    else do
      let x ← checkBody p sub parent tseen b
      pure (x :: acc)

/-- Checks every member in order. -/
def checkMembers (p : VPos) : List Packet → VAcc → Vetting VAcc
  | [], acc => pure acc
  | m :: ms, acc => do
    let acc ← checkPacket 5 { p with index := m.index } m.index 0 m.tseen m.bytes acc
    checkMembers p ms acc

/-! ## Acceptance (R80, R91) -/

/-- The lowest launch context that holds no launch. -/
def State.freeLaunch (s : State) : Option Nat :=
  lowestFree ((s.hub.launches.filter fun x => x.2.live).map (·.1)) 4096 0

/-- A reference as by `nref` on a name of this chip (R66, R350). -/
def State.holdName (s : State) (n : Name) : State :=
  if nameChip n = s.hub.chip ∧ n ≠ 0 then
    s.setName (nameCounter n) fun e => if e.refcount < 65535 then { e with refcount := e.refcount + 1 } else e
  else s

/-- Accepts a LAUNCH: its name is issued, its references are taken, its name is returned. Its time since its slot was copied counts to
queue (R405). The skein waits where no launch context or
table entry is free, or while the page of the name-return address is not resident (log 101). -/
def State.acceptLaunch (s : State) (q : Nat) (x : Packet) (v : VLaunch) : Except VEnd (Nat × State) :=
  let k := s.queueOf q
  match s.freeLaunch with
  | none => .error .wait
  | some l =>
    if s.hub.shardFull v.counter then .error .wait
    else if v.nameReturn ≠ 0 ∧ s.pagedOut k.ctx v.nameReturn then .error (.page v.nameReturn)
    else
      let name := s.hub.nameOf classLAUNCH v.counter
      let s := s.setName v.counter fun _ =>
        { NameEntry.none with cls := classLAUNCH, part := k.part, state := .live, refcount := 1 }
      let s := (v.lrec.shapes ++ v.bindings.map (·.name)).foldl State.holdName s
      let s := s.setLaunch l fun _ =>
        { Launch.none with
          live := true, name := name, queue := q, index := x.index, sub := x.sub, notify := x.notify, ctx := k.ctx
          part := k.part, lrec := v.lrec, table := v.table, snaps := v.snaps, accept := s.ns, order := s.hub.acceptCount
          untriggered := v.lrec.strandCount, bindings := v.bindings, t0 := v.t0, tseen := x.tseen
          parts := FMap.set 0 [] 2 (s.time - 10 * x.tseen.toNat)
          haltReq := (s.ctxOf k.ctx).haltReq }
      let s := s.setHub fun h => { h with acceptCount := h.acceptCount + 1 }
      .ok (l, if v.nameReturn = 0 then s else s.vput k.ctx v.nameReturn 16 name.toNat)

/-- Accepts the packets of a skein, in order. -/
def acceptAll (q : Nat) : List VPacket → Vetting (List Packet)
  | [] => pure []
  | x :: xs => do
    let y ← match x.launch with
      | none => pure x.packet
      | some v => do
        match (← get).acceptLaunch q x.packet v with
        | .error e => throw e
        | .ok (l, s) => do
          set s
          pure { x.packet with launch := some l, name := some v.counter }
    let ys ← acceptAll q xs
    pure (y :: ys)

/-! ## The skein (R86, R89, R91) -/

/-- The 64 bytes of an error record (R91). -/
def VErr.bytes (e : VErr) (start commit : Nat) : List Byte :=
  toLE 2 e.code ++ toLE 1 e.depth ++ toLE 1 0 ++ toLE 4 e.status ++ toLE 8 e.index
    ++ ((List.range 4).map fun i => toLE 2 ((e.path[i]?).getD 0)).flatten
    ++ toLE 8 e.addr ++ toLE 16 e.name.toNat ++ toLE 8 start ++ toLE 8 commit

/-- A failure of a ring packet as a whole. -/
def ringFail (code index : Nat) : VErr := { code := code, depth := 0, status := 0, index := index, path := [], addr := 0, name := 0 }

/-- A slot of the ring that takes part in nothing more: doneidx passes it. -/
def passedSlot (index : Nat) : Packet :=
  { index := index, sub := 0, parent := 0, bytes := [], state := .complete, tseen := 0, targets := [], launch := none
    op := none, name := none, acks := [] }

/-- BEGIN and COMMIT complete with their skein, accepted or failed, and may raise the queue's event (R80). No other packet of a failed
skein completes, so none of them raises it (log 41). -/
def State.notifyFrame (s : State) (q : Nat) (ps : List Packet) : State :=
  (ps.filter fun p => p.type == ptBEGIN || p.type == ptCOMMIT).foldl (fun s p => s.notifyPacket q p) s

/-- The slots between two indices are passed: the header of each is cleared (R77). -/
def State.clearSlots (s : State) (q start stop : Nat) : State :=
  let k := s.queueOf q
  (List.range (stop - start)).foldl (fun s i => s.vput k.ctx (k.ring.toNat + 64 * ((start + i) % 2 ^ k.lgslots)) 8 0) s

/-- Whether the page of a queue's error record is not resident. -/
def State.recordWaits (s : State) (q : Nat) : Bool :=
  let k := s.queueOf q
  k.errrec != 0 && s.pagedOut k.ctx k.errrec.toNat

/-- A skein fails (R91): the error record, rdidx past the skein, and ERROR. While the record's page is not resident the queue waits
(log 101). -/
def State.failSkein (s : State) (q : Nat) (e : VErr) (start commit : Nat) : State :=
  let k := s.queueOf q
  if s.recordWaits q then s.setQueue q fun k => { k with pageWait := some k.errrec.toNat }
  else
    let s := if k.errrec = 0 then s else (s.vwrite k.ctx k.errrec.toNat (e.bytes start commit)).getD s
    let s := s.clearSlots q (s.queueField q 0x28 8) (commit + 1)
    let s := s.putQueueField q 0x28 8 (commit + 1)
    let s := s.notifyFrame q k.awaiting
    let s := s.setQueue q fun k =>
      { k with packets := k.packets ++ (List.range (commit + 1 - start)).map fun i => passedSlot (start + i)
               awaiting := [], skein := none, pageWait := none }
    (s.setQueueState q .error).settle q

/-- The members and the COMMIT of a copied skein: the packets to check, the COMMIT if there is one, and the first and last
index. -/
def Queue.framed (k : Queue) : Option (List Packet × Option Packet × Nat × Nat) :=
  match k.skein, k.awaiting with
  | .none, [p] => some ([p], .none, p.index, p.index)
  | some (b, n), ps =>
    if ps.length = n + 2 then some ((ps.drop 1).take n, ps[n + 1]?, b, b + n + 1) else .none
  | _, _ => .none

/-- Stage 1 of a copied BEGIN (R89): the code with which it fails alone, if it does. -/
def beginFault (lgslots : Nat) (p : Packet) : Option Nat :=
  match headFault p.bytes p.index with
  | some code => some code
  | none => if 2 ^ lgslots < p.field 8 2 + 2 then some feSFORM else none

/-- Stage 3 of a COMMIT (R89): checks 2–4, with every flag zero. -/
def commitFault (p : Packet) : Option Nat :=
  match headFault p.bytes p.index with
  | some code => if code = fePSEQ ∧ (p.order ∨ p.notify) then some fePFORM else some code
  | none => if p.order ∨ p.notify then some fePFORM else none

/-- The whole validation of a copied skein, to its ready packets. -/
def validateAll (q : Nat) (members : List Packet) (commit : Option Packet) (start : Nat) : Vetting (List Packet) := do
  let k := (← get).queueOf q
  let p : VPos := { ctx := k.ctx, part := k.part, index := start, path := [], bufs := [], single := commit.isNone }
  match commit with
  | some c => if c.type ≠ ptCOMMIT then throw (.fail (ringFail feSFORM start)) else pure ()
  | none =>
    match (members.filter fun m => m.type == ptBEGIN).head?.bind (beginFault k.lgslots) with
    | some code => throw (.fail (ringFail code start))
    | none => pure ()
  let acc ← checkMembers p members []
  match commit with
  | some c =>
    match commitFault c with
    | some code => throw (.fail (ringFail code c.index))
    | none => pure ()
  | none => pure ()
  acceptAll q acc.reverse

/-- Names taken by members of a failed skein are never issued (R91): their counter values stay used. Parked islands that its records
were read from stay noted. -/
def State.keepCounters (s t : State) : State :=
  s.setHub fun h => { h with issueCounter := t.hub.issueCounter, watermark := t.hub.watermark, asleep := t.hub.asleep }

/-- Validates a copied skein: it is accepted, it fails, or the queue waits. -/
def State.validate (s : State) (q : Nat) : State :=
  let k := s.queueOf q
  match k.framed with
  | none => s
  | some (members, commit, start, last) =>
    match validateAll q members commit start s.freeSnaps with
    | .ok ps s' =>
      let frame := if commit.isNone then [] else [passedSlot start]
      let s' := s'.notifyFrame q k.awaiting
      let s' := s'.setQueue q fun k =>
        { k with packets := k.packets ++ frame ++ ps ++ (if commit.isNone then [] else [passedSlot last])
                 awaiting := [], skein := none, pageWait := none }
      let s' := (ps.filterMap (·.launch)).foldl (fun s l => s.settlePhases l) s'
      s'.freeSnaps.settle q
    | .error (.fail e) s' => (if s.recordWaits q then s else s.keepCounters s').failSkein q e start last
    | .error (.page va) _ => s.setQueue q fun k => { k with pageWait := some va }
    | .error .wait _ => s

/-- Whether a queue's front end consumes (R74, R92). -/
def Queue.consumes (k : Queue) : Bool := decide (k.state = .mapped) && !k.teardown

/-- R89. While the members of a skein are still being published, only the type at BEGIN + n + 1 is read. -/
def execSkeinValidation (queue : Nat) (s : State) : Host.Outcome State Fault Refusal :=
  let k := s.queueOf queue
  if k.consumes ∧ k.pageWait = none then
    match k.skein with
    | some (b, n) =>
      let t := s.vget k.ctx (k.ring.toNat + 64 * ((b + n + 1) % 2 ^ k.lgslots)) 1
      if k.awaiting.length < n + 2 ∧ t ≠ 0 ∧ t ≠ ptCOMMIT then .next (s.failSkein queue (ringFail feSFORM b) b (b + n + 1))
      else .next (s.validate queue)
    | none => .next (s.validate queue)
  else .next s

/-- R90: the resident kernel has made the page resident, and validation goes on. -/
def execValidationPageIn (queue : Nat) (s : State) : Host.Outcome State Fault Refusal :=
  let k := s.queueOf queue
  match k.pageWait with
  | some va =>
    if s.vfault k.ctx va false = faultNOTRES then .next s
    else
      let s := s.setQueue queue fun k => { k with pageWait := none }
      .next (if k.consumes then s.validate queue else s)
  | none => .next s

end Sys2Proof.Machine
end

