-- ==== Sys2Proof/Machine/FrontEnd.lean ====
section
/-!
DEFINITION. The steps of a queue's front end (04_queues_and_skeins.md R72–R92): mapping and wake stores, consumption, the start and
completion of packets, and teardown.
-/

namespace Sys2Proof.Machine

/-! ## States (R74, R76) -/

/-- Queues that hold a hardware queue context. -/
def State.mappedCount (s : State) : Nat := (s.hub.queues.filter fun x => decide (x.2.state = .mapped ∨ x.2.state = .error)).length

/-- Maps a queue, if one of the 1,024 hardware contexts is free; else it waits for one. -/
def State.mapQueue (s : State) (q : Nat) : State :=
  if s.mappedCount < 1024 then ((s.setQueue q fun k => { k with wakePending := false }).setQueueState q .mapped).settle q
  else s.setQueue q fun k => { k with wakePending := true }

/-- What a wake store does, by the queue's state. After a teardown has begun it does nothing (R92). -/
def State.wakeQueue (s : State) (q : Nat) (value : Word) : State :=
  if (s.queueOf q).teardown then s
  else
    match (s.queueOf q).state with
    | .idle => s.mapQueue q
    | .paged => s.setQueue q fun k => { k with wakePending := true }
    | .error => if value.getLsbD 0 then (s.setQueueState q .mapped).settle q else s
    | _ => s

/-- The store to the wake word: one that a strand or an engine has made already, or one from outside, made now. -/
def State.wakeStored (s : State) (q : Nat) (value : Word) : State :=
  let s := if (s.queueOf q).wakes.contains value then s else s.putQueueField q 0x38 8 value.toNat
  s.setQueue q fun k => { k with wakes := k.wakes.erase value }

/-- R76. A store to the wake word of a CLOSED queue is performed and has no further effect. -/
def execWakeStore (queue : Nat) (value : Word) (s : State) : Host.Outcome State Fault Refusal :=
  if (s.queueOf queue).state = .none then .next s
  else .next ((s.wakeStored queue value).wakeQueue queue value)

/-- R76: the save area of a PAGED queue is back, or a hardware context has freed for an IDLE one, and the queue is mapped. -/
def execQueuePageIn (queue : Nat) (s : State) : Host.Outcome State Fault Refusal :=
  let k := s.queueOf queue
  if k.wakePending ∧ !k.teardown ∧ (k.state = .paged ∨ k.state = .idle) then .next (s.mapQueue queue) else .next s

/-- R74: the resident kernel unmaps a queue. -/
def execQueueUnmap (queue : Nat) (s : State) : Host.Outcome State Fault Refusal :=
  if (s.queueOf queue).state = .mapped then .next (s.setQueueState queue .idle) else .next s

/-- R74: the save area of an IDLE queue is paged out. -/
def execQueuePageOut (queue : Nat) (s : State) : Host.Outcome State Fault Refusal :=
  if (s.queueOf queue).state = .idle then .next (s.setQueueState queue .paged) else .next s

/-! ## Consumption (R75, R77, R86, R89) -/

/-- A slot as the front end has copied it. -/
def copiedSlot (index : Nat) (bytes : List Byte) (tseen : Word) : Packet :=
  { index := index, sub := 0, parent := 0, bytes := bytes, state := .copied, tseen := tseen, targets := [], launch := none
    op := none, name := none, acks := [] }

/-- What a copied slot does to the skein under way: a BEGIN opens one unless it fails alone (R89), any other packet outside a skein is
a skein of one, and the members and the COMMIT gather. -/
def State.takeSlot (s : State) (q : Nat) (p : Packet) : State :=
  let k := s.queueOf q
  let opens := k.skein.isNone && p.type == ptBEGIN && (beginFault k.lgslots p).isNone
  s.setQueue q fun k =>
    { k with awaiting := k.awaiting ++ [p], skein := if opens then some (p.index, p.field 8 2) else k.skein }

/-- R77: the slot at rdidx is copied, its header cleared, and rdidx advanced. -/
def execSlotConsume (queue : Nat) (s : State) : Host.Outcome State Fault Refusal :=
  let k := s.queueOf queue
  if k.consumes ∧ k.framed.isNone ∧ (k.skein.isSome ∨ k.awaiting = []) then
    let i := s.queueField queue 0x28 8
    let slot := k.ring.toNat + 64 * (i % 2 ^ k.lgslots)
    match s.vread k.ctx slot 64 with
    | none => .next s
    | some (bytes, s') =>
      if fieldOf bytes 0 1 = 0 then .next s
      else
        let s' := (s'.vput k.ctx slot 8 0).putQueueField queue 0x28 8 (i + 1)
        .next (s'.takeSlot queue (copiedSlot i bytes s.ns))
  else .next s

/-! ## Messages and copies (R80, R83, R323) -/

/-- A packet of a queue that may start, of a type. -/
def State.startablePacket (s : State) (q place type : Nat) : Option Packet :=
  ((s.queueOf q).at? place).filter fun p => (s.queueOf q).mayStart p && p.type == type

/-- A packet starts. -/
def State.startPacket (s : State) (q place : Nat) : State := (s.setPacket q place fun x => { x with state := .started }).settle q

/-- The message of an AMSG packet (R80, R101, R156). -/
def State.packetMessage (s : State) (q : Nat) (p : Packet) (core : Nat) : Message :=
  let k := s.queueOf q
  { Message.blank with
    dest := core, urgent := decide (p.field 0x38 1 = 1), pc := BitVec.ofNat 64 (p.field 8 8)
    regs := ((List.range 4).map fun i => BitVec.ofNat 64 (p.field (0x18 + 8 * i) 8))
      ++ [BitVec.ofNat 64 (p.field 0x10 8), 0xFFFFFFFF#64]
    ctx := k.ctx, part := k.part, packet := some (q, p.place) }

/-- R80: the message sets out for the core chosen at validation. A message for a peer chip is handled there, and the packet
completes, by a second such step, when its handler has ended. -/
def execAmsgPacket (queue index : Nat) (s : State) : Host.Outcome State Fault Refusal :=
  match s.startablePacket queue index ptAMSG with
  | some p =>
    match p.targets with
    | (core, _) :: _ => .next ((s.sendMessage (s.packetMessage queue p core)).startPacket queue index)
    | [] => .next (s.startPacket queue index)
  | none =>
    match (s.queueOf queue).at? index with
    | some p =>
      if p.state = .started ∧ p.type = ptAMSG ∧ p.targets = [] then .next (s.completePacket (some (queue, index)))
      else .next s
    | none => .next s

/-- The ply of a copied packet's reel: its destination's, else its source's, else the context's first (R323). -/
def State.packetPly (s : State) (ctx dst src : Nat) : Nat :=
  let ply (va : Nat) : Option Nat :=
    match targetType ctx va s with
    | .ok (some pa) _ =>
      match pa.space with
      | .ls c => some (corePly c)
      | .pool p => some p
      | _ => none
    | _ => none
  match ply dst, ply src with
  | some p, _ => p
  | none, some p => p
  | none, none => ((s.ctxOf ctx).plies[0]?).getD 0

/-- The op of a COPY packet. -/
def State.packetOp (s : State) (q : Nat) (p : Packet) : Op :=
  let k := s.queueOf q
  let ply := s.packetPly k.ctx (p.field 0x10 8) (p.field 8 8)
  let slack := bitsOf p.header 20 4
  { Op.none with
    state := .pending, kind := if bitsOf p.header 32 16 = 0 then .cpy else .cpym, engine := .reel ply, ctx := k.ctx
    part := k.part, sysm := true, vcore := 0xFFFFFFFF#32, core := 16 * ply, packet := some (q, p.place)
    prio := BitVec.ofNat 3 (bitsOf p.header 24 3), slack := BitVec.ofNat 4 slack, effSlack := slack, desc := p.bytes
    issue := s.ages, reach := s.ages }

/-- R80, R323. -/
def execCopyPacket (queue index : Nat) (s : State) : Host.Outcome State Fault Refusal :=
  match s.startablePacket queue index ptCOPY with
  | some p =>
    let (n, s) := s.addOp (s.packetOp queue p)
    let s := s.setPacket queue index fun x => { x with state := .started, op := some n }
    runEvent (do
      armOp n
      modify fun s => s.settle queue) s
  | none => .next s

/-! ## Barriers and signals (R81, R82) -/

/-- Whether a named op is terminal, or its name resolves GONE. What a chip elsewhere would answer is free. A LIVE name of another class
names no op: it holds the BARRIER until it is GONE (log 102). -/
def State.opEnded (s : State) (part : Nat) (n : Name) (free : Bool) : Bool :=
  match s.resolve part n with
  | .status st => st == stGONE
  | .found _ c =>
    match (s.nameEntry c).op with
    | some o => (s.opOf o).state.terminal
    | none => false
  | .remote => free

/-- Whether the condition of a started BARRIER holds. For a queue that is not attached to this chip it is free. -/
def State.barrierHolds (s : State) (q : Nat) (p : Packet) (free : Bool) : Bool :=
  let k := s.queueOf q
  let names := (List.range (p.field 9 1)).map fun i => p.nameAt (0x10 + 16 * i)
  match p.field 8 1 with
  | 0 => names.all fun n => s.opEnded k.part n free
  | 1 =>
    (p.targets.all fun t => decide (t.2.toNat ≤ s.queueField t.1 0x30 8)) && (decide (p.targets.length = names.length) || free)
  | _ =>
    match s.vreadNat k.ctx (p.field 0x10 8) 8 with
    | none => false
    | some (x, _) => if p.field 0x20 1 = 0 then decide (x = p.field 0x18 8) else decide (p.field 0x18 8 ≤ x)

/-- R81. -/
def execBarrierPacketComplete (queue index : Nat) (s : State) : Host.Outcome State Fault Refusal :=
  match (s.queueOf queue).at? index with
  | some p =>
    if p.state = .started ∧ p.type = ptBARRIER then
      if s.barrierHolds queue p false then .next (s.completePacket (some (queue, index)))
      else if s.barrierHolds queue p true then
        let free := Config.freeBit s.free
        let s := { s with free := s.free + 1 }
        .next (if free then s.completePacket (some (queue, index)) else s)
      else .next s
    -- a BARRIER that waited for a page starts
    else if p.type = ptBARRIER ∧ s.startsItself queue p then .next (s.settle queue)
    else .next s
  | none => .next s

/-- R82: a store, or a 64-bit atomic add that wraps. It waits while the page is not resident (log 101). -/
def execSignalPacket (queue index : Nat) (s : State) : Host.Outcome State Fault Refusal :=
  match s.startablePacket queue index ptSIGNAL with
  | some p =>
    let k := s.queueOf queue
    let va := p.field 8 8
    let x := p.field 0x10 8
    if s.pagedOut k.ctx va then .next s
    else
      let s := if p.field 0x18 1 = 0 then s.vput k.ctx va 8 x else s.vput k.ctx va 8 (s.vget k.ctx va 8 + x)
      .next (s.completePacket (some (queue, index)))
  | none => .next s

/-! ## TEXTSYNC (R85) -/

/-- R85: the invalidation sets out for every core of the partition. -/
def execTextsyncStart (queue index : Nat) (s : State) : Host.Outcome State Fault Refusal :=
  match s.startablePacket queue index ptTEXTSYNC with
  | some _ => .next (s.setPacket queue index fun x => { x with state := .started, acks := s.partCores (s.queueOf queue).part })
  | none => .next s

/-- R85: every core has dropped the range and acknowledged. -/
def execTextsyncComplete (queue index : Nat) (s : State) : Host.Outcome State Fault Refusal :=
  match (s.queueOf queue).at? index with
  | some p =>
    if p.state = .started ∧ p.type = ptTEXTSYNC then
      let k := s.queueOf queue
      let lo := p.field 8 8
      let hi := lo + p.field 0x10 8
      let m := s.mem.dropText fun w => w.ctx == k.ctx && p.acks.contains w.core && decide (w.va < hi ∧ lo < w.va + 4)
      let s := { s with mem := m }.setPacket queue index fun x => { x with acks := [] }
      .next (s.completePacket (some (queue, index)))
    else .next s
  | none => .next s

/-! ## Teardown (R92, R329) -/

/-- The ranges that an op reads or writes (R308, R320, R326, R335): the rows of a copy, or of a bank, the buffers of a collective of `n`
members, and the completion word. -/
def Op.spans (o : Op) (n : Nat) : List (Acc × Nat × Nat) :=
  let completion : List (Acc × Nat × Nat) := if o.compaddr = 0 then [] else [(.store, o.compaddr, 4)]
  match o.kind with
  | .mld _ a p => (List.range 64).map fun r => (.load, (a.toNat + r * p.toNat) % 2 ^ 64, 256)
  | .mst _ a p _ => (List.range 64).map fun r => (.store, (a.toNat + r * p.toNat) % 2 ^ 64, 256)
  | .coll => [(.load, o.cSrc, o.cSrcLen n), (.store, o.cDst, o.cDstLen n)] ++ completion
  | .mma _ => []
  | .mmv _ => []
  | .foreign _ => []
  | _ => ((List.range (o.field 0x18 4)).flatMap fun r =>
      [(.load, (o.field 8 8 + r * o.field 0x20 8) % 2 ^ 64, o.field 0x1C 4),
       (.store, (o.field 0x10 8 + r * o.field 0x28 8) % 2 ^ 64, o.field 0x1C 4)]) ++ completion

/-- The first address of host memory that an op reads or writes, with its access (R329). -/
def State.hostAddr (s : State) (o : Op) : Option (Acc × Nat) :=
  let members := match FMap.get none s.eng.teams o.cTeam.toNat with
    | some ms => ms.length
    | none => 1
  (o.spans members).findSome? fun (acc, va, n) =>
    (((List.range ((va % 4096 + n + 4095) / 4096)).map fun k => if k = 0 then va else 4096 * (va / 4096 + k)).find? fun a =>
      match targetType o.ctx a s with
      | .ok (some pa) _ => (match pa.space with | .host _ => true | _ => false)
      | _ => false).map (acc, ·)

/-- The ops of a context that reach host memory fail, each with a translation fault of its access and its syndrome (R183, R282, R329);
which one the host answers, and the level of the leaf, are free. -/
def State.failHostOps (s : State) (ctx : Nat) : State :=
  (s.eng.ops.filter fun x => x.2.ctx == ctx && x.2.live).foldl (fun s x =>
    match s.hostAddr x.2 with
    | none => s
    | some (acc, a) =>
      let w := (Config.freeWord s.free).toNat
      let kind := 1 + w % 11
      { s with free := s.free + 1 }.failOp x.1 (BitVec.ofNat 8 kind) (protInfo kind acc (w / 16 % 3) false) (BitVec.ofNat 64 a)) s

/-- Whether a queue of a context is attached and not CLOSED. -/
def Queue.opened (q : Queue) (ctx : Nat) : Bool := decide (q.ctx = ctx ∧ q.state ≠ .none ∧ q.state ≠ .closed)

/-- R92 step 1: the PASID of a context is torn down, and its queues consume nothing more. Where it has none, its ops fail at once
(R329). -/
def execQueueTeardown (ctx : Nat) (s : State) : Host.Outcome State Fault Refusal :=
  if s.hub.queues.any fun x => x.2.opened ctx then
    .next (s.setHub fun h =>
      { h with queues := h.queues.map fun x => (x.1, if x.2.opened ctx then { x.2 with teardown := true } else x.2) })
  else .next (s.failHostOps ctx)

/-- R92 steps 2–5: nothing of the host port is outstanding; QGONE, and the queue is CLOSED. The record waits while its page is not
resident (log 101). -/
def execQueueTeardownComplete (queue : Nat) (s : State) : Host.Outcome State Fault Refusal :=
  let k := s.queueOf queue
  if k.teardown ∧ k.state ≠ .closed ∧ k.state ≠ .none then
    if s.recordWaits queue then .next s
    else
    let e := ringFail feQGONE (s.queueField queue 0x28 8)
    let s := if k.errrec = 0 then s else (s.vwrite k.ctx k.errrec.toNat (e.bytes 0 0)).getD s
    .next ((s.closeQueue queue).failHostOps k.ctx)
  else .next s

end Sys2Proof.Machine
end

