-- ==== Sys2Proof/Machine/Readback.lean ====
section
/-!
DEFINITION. State readback (23_accounting_and_debug.md R409, R410; 24_system_and_attachment.md R417): the form of each object as
bytes, and what writing a window of it does. The hub commands and the debug sessions share it.
-/

namespace Sys2Proof.Machine

/-! ## Statuses (R416) -/

abbrev hubDONE : Nat := 0
abbrev hubDENIED : Nat := 1
abbrev hubBADARG : Nat := 2
abbrev hubBUSY : Nat := 3

/-- Who reads: everything (the hypervisor, a package right), or one partition's objects. -/
abbrev Reach := Option Nat

/-- Whether an object of a partition is out of reach. -/
def deniedTo (r : Reach) (part : Nat) : Bool :=
  match r with
  | some p => p != part
  | none => false

/-! ## Places -/

/-- The core and slot that an identifier word names: vcore in bits 31:0, slot in bits 35:32 (R417). -/
def State.slotNamed (s : State) (ctx : Nat) (id : Word) : Option (Nat × Nat) :=
  match s.namedCore ctx (bitsOf id.toNat 0 32) with
  | some core => if bitsOf id.toNat 32 4 < 10 then some (core, bitsOf id.toNat 32 4) else none
  | none => none

/-- The strand that a vcore and slot name: the one in the slot, or a saved one that left it. -/
def State.strandNamed (s : State) (core slot : Nat) : Option Strand :=
  match s.strandAt core slot with
  | some t => some t
  | none => s.all.find? fun t => t.isLive && !t.bound && t.area.isSome && t.core == core && t.kslot == slot

/-- The place in a tagged or described memory that an address of a context names. -/
def State.placeOf (s : State) (ctx va : Nat) : Option PAddr :=
  match placeUnder ctx va none s with
  | .ok x _ => x
  | _ => none

/-- The partition that owns the memory of a place, if one does. -/
def State.ownerOf (s : State) (pa : PAddr) : Option Nat :=
  let byCore (c : Nat) : Option Nat :=
    (s.hub.parts.find? fun x => x.2.live && x.2.islands.getLsbD (coreIsland c)).map (·.1)
  match pa.space with
  | .ls c => byCore c
  | .pool p => byCore (16 * p)
  | .hbm => (s.hub.parts.find? fun x => x.2.live && x.2.hbm.any fun r =>
      decide (r.1 ≤ pa.off / 2 ^ 30 ∧ pa.off / 2 ^ 30 < r.1 + r.2)).map (·.1)
  | _ => none

/-- The gibibytes of HBM that a physical range touches. -/
def gibibytes (addr n : Nat) : List Nat :=
  (List.range ((addr + n + 2 ^ 30 - 1) / 2 ^ 30 - addr / 2 ^ 30)).map (addr / 2 ^ 30 + ·)

/-- Whether a gibibyte of HBM is one of a partition's. -/
def Part.holdsGib (p : Part) (g : Nat) : Bool := p.hbm.any fun x => decide (x.1 ≤ g ∧ g < x.1 + x.2)

/-- Whether a physical range lies in the HBM ranges of a partition (R416), or in the hypervisor's own (R417): program-visible HBM that no
partition holds (log 120). -/
def State.inHbm (s : State) (r : Reach) (addr n : Nat) : Bool :=
  match r with
  | some p => (gibibytes addr n).all (s.partOf p).holdsGib
  | none =>
    decide (addr + n ≤ 4096 * Config.hbmFrames)
      && (gibibytes addr n).all fun g => !(s.hub.parts.any fun p => p.2.live && p.2.holdsGib g)

/-- Whether the rings of a die are a partition's: it alone holds islands there (log 120). -/
def State.ownsDie (s : State) (p die : Nat) : Bool :=
  let here (x : Part) : Bool := [0, 1, 2, 3].any fun k => x.islands.getLsbD (4 * die + k)
  here (s.partOf p) && !(s.hub.parts.any fun x => x.1 != p && x.2.live && here x.2)

/-! ## Forms (R28, R72, R99, R240, R282, R368, R388, R404) -/

/-- Little-endian bytes of some words. -/
def wordsLE (ws : List Word) : List Byte := (ws.map fun w => toLE 8 w.toNat).flatten

/-- The four words of a name-table entry (R28). -/
def NameEntry.words (e : NameEntry) (c : Nat) : List Word :=
  let st := match e.state with | .free => 0 | .live => 1 | .dying => 2
  [BitVec.ofNat 64 c, e.version, e.addr,
   BitVec.ofNat 64 (e.cls.toNat + 2 ^ 8 * (e.part % 16) + 2 ^ 12 * st + 2 ^ 14 * natOf e.sdone + 2 ^ 16 * (e.refcount % 65536))]

/-- The 32 bytes of a bind record (R99). -/
def BindRec.bytes (b : BindRec) : List Byte :=
  toLE 4 b.lslot ++ toLE 4 b.vcore.toNat ++ toLE 4 b.group ++ toLE 4 b.tbase ++ toLE 1 b.nstr
    ++ toLE 1 (natOf b.valid + 2 * natOf b.high) ++ toLE 6 0 ++ toLE 8 b.deadline.toNat

/-- Bytes of a save area (R388). -/
abbrev areaBytes : Nat := 70464

/-- The form of a halted strand in a slot: the save area that its state would give; dead vectors and banks it does not hold
read 0. -/
def State.strandForm (s : State) (core slot : Nat) (t : Strand) : List Byte :=
  let t := { t with banks := s.heldBanks core slot }
  let lanes (xs : List Lane) : List Byte := (xs.map fun x => toLE 4 x.toNat).flatten
  t.savedBytes ++ ((List.range 16).map fun r => lanes (t.v (BitVec.ofNat 4 r))).flatten
    ++ ((List.range 4).map fun b =>
      if t.banks.getLsbD b then lanes (s.eng.bankLanes core b) else List.replicate 16384 0).flatten

/-- The memories of the package, in the order in which their error counters are read. -/
def allMemories : List Space :=
  (List.range Config.cores).map Space.ls ++ (List.range Config.plies).map Space.pool ++ (List.range 8).map Space.dsm
    ++ [Space.hbm]

/-- Corrected and uncorrected errors of a memory. -/
def Mem.errorBytes (m : Mem) (sp : Space) : List Byte :=
  toLE 8 (FMap.get 0 m.errors (2 * sp.index)) ++ toLE 8 (FMap.get 0 m.errors (2 * sp.index + 1))

/-- A ring of a die: its header and its records (R368, R407). -/
def Mem.ringBytes (m : Mem) (die ring : Nat) : List Byte :=
  let at_ (o n : Nat) : List Byte := m.bytesAt (PAddr.key { space := .dsm die, off := o }) n
  let hdr := at_ (FMap.get 0 m.ringBase (2 * die + ring)).toNat 64
  hdr ++ at_ (fieldOf hdr 0 8) (32 * fieldOf hdr 8 4)

/-- The form of an object that can be read, or the status that turns the reading away. -/
def State.objectForm (s : State) (r : Reach) (ctx cls : Nat) (id0 id1 : Word) (upTo : Nat) : Except Nat (List Byte) :=
  let name : Name := id1 ++ id0
  let c := nameCounter name
  let mine (part : Nat) (b : List Byte) : Except Nat (List Byte) := if deniedTo r part then .error hubDENIED else .ok b
  let place (f : PAddr → Except Nat (List Byte)) : Except Nat (List Byte) :=
    match s.placeOf ctx id0.toNat with
    | none => .error hubBADARG
    | some pa =>
      match s.ownerOf pa with
      | some p => if deniedTo r p then .error hubDENIED else f pa
      | none => if r.isSome then .error hubDENIED else f pa
  match cls with
  | 1 =>
    let e := s.nameEntry c
    if e.state = .free ∨ s.hub.nameOf e.cls c ≠ name then .error hubBADARG else mine e.part (wordsLE (e.words c))
  | 2 =>
    let b := FMap.get BindRec.none s.hub.binds id0.toNat
    if 4096 ≤ id0.toNat then .error hubBADARG
    else if b.valid then mine (s.launchOf b.lslot).part b.bytes
    else .ok b.bytes
  | 3 =>
    match s.slotNamed ctx id0 with
    | none => .error hubBADARG
    | some (core, slot) =>
      match s.strandNamed core slot with
      | none => .error hubBADARG
      | some t =>
        if deniedTo r t.part then .error hubDENIED
        else
          match t.area with
          | some i => .ok (s.mem.bytesAt (hbmKey (s.areaAddr t.ctx i)) areaBytes)
          | none => if t.halted then .ok (s.strandForm core slot t) else .error hubBUSY
  | 4 =>
    let op : Option Nat :=
      if id1 ≠ 0 then (if nameChip name = s.hub.chip then (s.nameEntry c).op else none)
      else
        match s.slotNamed ctx id0 with
        | some (core, slot) => (s.strandAt core slot).bind fun t => FMap.get none t.tokens (bitsOf id0.toNat 36 4)
        | none => none
    match op with
    | none => .error hubBADARG
    | some n => mine (s.opOf n).part (wordsLE ((List.range 8).map (s.opOf n).recordWord))
  | 5 =>
    match s.queueNamed name with
    | none => .error hubBADARG
    | some q =>
      match s.vread (s.queueOf q).ctx (s.queueOf q).desc.toNat 128 with
      | some (b, _) => mine (s.queueOf q).part b
      | none => .error hubBUSY
  | 6 => place fun pa =>
    let tagged : Bool := match pa.space with | .ls _ => true | .pool _ => true | _ => false
    if !tagged then .error hubBADARG
    else
      match id1.toNat with
      | 0 => .ok ((List.range 8).map fun k => (FMap.get 0 s.mem.tags (8 * pa.block + k)).setWidth 8)
      | 1 => .ok (toLE 8 (FMap.get 0 s.mem.selects pa.region).toNat)
      | 9 => .ok (wordsLE ((List.range 8).map fun k => (FMap.get Redirect.reset s.mem.redirects (slotKey pa.space k)).base))
      | n =>
        if 3 ≤ n ∧ n ≤ 8 then
          .ok ((FMap.getList 0 s.mem.tables (tableKey pa.space (n - 2) 0) 128).map fun e => toLE 2 e.toNat).flatten
        else .error hubBADARG
  | 7 => place fun _ =>
    .ok ((List.range (upTo / 8)).map fun k =>
      match s.placeOf ctx (id0.toNat + 64 * k) with
      | some pa => toLE 8 (FMap.get Mem.desc0 s.mem.descs pa.block).toNat
      | none => toLE 8 0).flatten
  | 8 => place fun pa =>
    let word (core : Nat) : Word := (s.vcoreWord ctx core).setWidth 64
    if id1 = 0 then
      .ok ((s.mem.waiters.filter fun w => w.pa.space == pa.space).map fun w =>
        wordsLE [word w.core, BitVec.ofNat 64 w.pa.off, w.gb]).flatten
    else if id1 = 1 then
      .ok ((s.mem.parked.filter fun u => u.pa.space == pa.space).map fun u =>
        wordsLE [word u.core, BitVec.ofNat 64 u.va, 0]).flatten
    else .error hubBADARG
  | 9 =>
    if 8 ≤ id0.toNat ∨ 2 ≤ id1.toNat then .error hubBADARG
    else if r.any fun p => !s.ownsDie p id0.toNat then .error hubDENIED
    else .ok (s.mem.ringBytes id0.toNat id1.toNat)
  | 10 =>
    if id0 = 0 then (if r.isSome then .error hubDENIED else .ok (allMemories.map s.mem.errorBytes).flatten)
    else place fun pa => .ok (s.mem.errorBytes pa.space)
  | 11 =>
    match s.hub.launches.find? fun x => x.2.live && x.2.name == name with
    | none => .error hubBADARG
    | some x => mine x.2.part (x.2.record s.ns)
  | _ => .error hubBADARG

/-- Whether a window is one that R417 allows. -/
def goodWindow (offset len : Nat) : Bool := decide (offset % 8 = 0 ∧ len % 8 = 0 ∧ 8 ≤ len ∧ len ≤ 4096)

/-- Reads a window of an object into a buffer of HBM: the status and the state (R410, R417). -/
def State.readObject (s : State) (r : Reach) (ctx : Nat) (cls id0 id1 offset len buf : Word) : Nat × State :=
  let (o, n, a) := (offset.toNat, len.toNat, buf.toNat)
  if !goodWindow o n ∨ a % 8 ≠ 0 ∨ !s.inHbm r a n ∨ 2 ^ 8 ≤ cls.toNat then (hubBADARG, s)
  else
    match s.objectForm r ctx cls.toNat id0 id1 (o + n) with
    | .error st => (st, s)
    | .ok b =>
      if b.length < o + n then (hubBADARG, s)
      else (hubDONE, s.storeAt { space := .hbm, off := a } ((b.drop o).take n))

/-! ## Writing (R399, R410, R417) -/

/-- Bytes with a window replaced. -/
def patch (b : List Byte) (o : Nat) (x : List Byte) : List Byte := b.take o ++ x ++ b.drop (o + x.length)

/-- The op that a token register of a save area names, if any (R176). -/
def tokenIn (b : List Byte) (k : Nat) : Option Nat := tokenOf (fieldOf b (0x40 + 4 * k) 4)

/-- The bytes of a save area as a write leaves them: a token may be emptied and not filled (R399), and the strand number, launch, bank mask
and flags stay (R385). -/
def keepFixed (old new : List Byte) : List Byte :=
  let keep (b : List Byte) (o n : Nat) : List Byte := patch b o ((old.drop o).take n)
  let tokens := (List.range 16).foldl (fun b k => if (tokenIn new k).isSome then keep b (0x40 + 4 * k) 4 else b) new
  keep tokens 0xA8 8

/-- The ops of tokens that a write empties are detached as at their strand's end (R284, R399). -/
def State.detachEmptied (s : State) (t : Strand) (old new : List Byte) : State :=
  (List.range 16).foldl (fun s k =>
    match tokenIn old k, tokenIn new k with
    | some n, none =>
      (s.mapAll fun u => if u.isLive ∧ u.uid = t.uid then u.setToken k none else u).orphanOp t.launch n
    | _, _ => s) s

/-- A halted strand as a save area's bytes give it, with its banks. What it holds stays. -/
def State.rewriteStrand (s : State) (core slot : Nat) (t : Strand) (b : List Byte) : State :=
  let m := Mem.reset.putBytes (hbmKey 0) (keepFixed (s.strandForm core slot t) b)
  let u := { t.restored m 0 with parity := [], budgetDue := decide (fieldOf b 0xA0 8 = 0) }
  let e := restoreBanks s.eng m core slot t.launch (s.heldBanks core slot) 0
  ({ s with eng := e }).setStrand core slot fun _ => u

/-- Re-evaluates parked units after a change made from outside (R250, R410). -/
def State.afterTagChange (s : State) (affected : AccessUnit → Bool) : State :=
  match reevaluate affected s with
  | .ok _ s' => s'
  | .error _ s' => s'

/-- Descriptors of blocks from a virtual address on (R410: a block write). -/
def writeDescs (ctx : Nat) : (k : Nat) → (va : Nat) → List Word → State → State
  | _, _, [], s => s
  | k, va, x :: xs, s =>
    let s := match s.placeOf ctx (va + 64 * k) with
      | some pa => { s with mem := s.mem.setDesc pa.block (x.setWidth 48) }
      | none => s
    writeDescs ctx (k + 1) va xs s

/-- Resets the error counters of some memories that their form reads as 0. -/
def Mem.resetErrors (m : Mem) (sps : List Space) (b : List Byte) : Mem :=
  let zero (k : Nat) (sp : Space) (i : Nat) (e : FMap Nat) : FMap Nat :=
    if fieldOf b (16 * k + 8 * i) 8 = 0 then FMap.set 0 e (2 * sp.index + i) 0 else e
  { m with errors := ((List.range sps.length).zip sps).foldl (fun e x => zero x.1 x.2 1 (zero x.1 x.2 0 e)) m.errors }

/-- What writing a whole form to an object of classes 3, 5, 6, 7 and 10 does; `b` is the form with its window replaced. -/
def State.writeForm (s : State) (ctx cls : Nat) (id0 id1 : Word) (old b : List Byte) : Nat × State :=
  match cls with
  | 3 =>
    match s.slotNamed ctx id0 with
    | none => (hubBADARG, s)
    | some (core, slot) =>
      match s.strandNamed core slot with
      | none => (hubBADARG, s)
      | some t =>
        let s := s.detachEmptied t old b
        match t.area with
        | some i => (hubDONE, s.storeAt { space := .hbm, off := s.areaAddr t.ctx i } (keepFixed old b))
        | none => (hubDONE, s.rewriteStrand core slot t b)
  | 5 =>
    match s.queueNamed (id1 ++ id0) with
    | none => (hubBADARG, s)
    | some q =>
      let st := fieldOf b 0x19 1
      if patch b 0x19 [0] ≠ patch old 0x19 [0] ∨ 4 < st then (hubBADARG, s)
      else if st = 4 then (hubDONE, s.closeQueue q)
      else
        let x : QState := match st with | 0 => .idle | 1 => .mapped | 2 => .error | _ => .paged
        (hubDONE, (s.setQueueState q x).settle q)
  | 6 =>
    match s.placeOf ctx id0.toNat with
    | none => (hubBADARG, s)
    | some pa =>
      match id1.toNat with
      | 0 =>
        let m := { s.mem with tags := FMap.setList 0 s.mem.tags (8 * pa.block) (b.map fun x => x.setWidth 4) }
        let s := { s with mem := m }.wakeWords ((List.range 8).map fun k => 8 * pa.block + k)
        (hubDONE, s.afterTagChange fun u => u.pa.block == pa.block)
      | 1 =>
        let m := { s.mem with selects := FMap.set 0 s.mem.selects pa.region (BitVec.ofNat 3 (fieldOf b 0 8)) }
        (hubDONE, { s with mem := m }.afterTagChange fun u => u.pa.region == pa.region)
      | 9 =>
        let rs := (List.range 8).map fun k : Nat =>
          ({ base := BitVec.ofNat 64 (fieldOf b (8 * k) 8) &&& 0x1FFFFFFFFFFF000#64, ctx := some ctx } : Redirect)
        let m := { s.mem with redirects := FMap.setList Redirect.reset s.mem.redirects (slotKey pa.space 0) rs }
        (hubDONE, { s with mem := m }.afterTagChange fun u => u.pa.space == pa.space)
      | n =>
        let es := (List.range 128).map fun k => BitVec.ofNat 16 (fieldOf b (2 * k) 2)
        let m := { s.mem with tables := FMap.setList 0 s.mem.tables (tableKey pa.space (n - 2) 0) es }
        (hubDONE, { s with mem := m }.afterTagChange fun u => u.pa.space == pa.space)
  | 7 => (hubDONE, writeDescs ctx 0 id0.toNat ((List.range (b.length / 8)).map fun k => BitVec.ofNat 64 (fieldOf b (8 * k) 8)) s)
  | 10 =>
    if id0 = 0 then (hubDONE, { s with mem := s.mem.resetErrors allMemories b })
    else
      match s.placeOf ctx id0.toNat with
      | none => (hubBADARG, s)
      | some pa => (hubDONE, { s with mem := s.mem.resetErrors [pa.space] b })
  | _ => (hubBADARG, s)

/-- Writes a window of an object from some bytes: the status and the state. -/
def State.writeWindow (s : State) (r : Reach) (ctx cls : Nat) (id0 id1 : Word) (o : Nat) (x : List Byte) : Nat × State :=
  if !([3, 5, 6, 7, 10].contains cls) then (hubBADARG, s)
  else
    match s.objectForm r ctx cls id0 id1 (o + x.length) with
    | .error st => (st, s)
    | .ok old =>
      if old.length < o + x.length then (hubBADARG, s)
      else if cls = 10 ∧ x.any (· != 0) then (hubBADARG, s)
      else s.writeForm ctx cls id0 id1 old (patch old o x)

/-- Writes a window of an object from a buffer of HBM (R417). -/
def State.writeObject (s : State) (r : Reach) (ctx : Nat) (cls id0 id1 offset len buf : Word) : Nat × State :=
  let (o, n, a) := (offset.toNat, len.toNat, buf.toNat)
  if !goodWindow o n ∨ a % 8 ≠ 0 ∨ !s.inHbm r a n ∨ 2 ^ 8 ≤ cls.toNat then (hubBADARG, s)
  else s.writeWindow r ctx cls.toNat id0 id1 o (s.mem.bytesAt (hbmKey a) n)

end Sys2Proof.Machine
end

