-- ==== Sys2Proof/Machine/Kernel.lean ====
section
/-!
DEFINITION. The hub commands of a partition's ring (24_system_and_attachment.md R416, R417) and what a context kill does (R397).
-/

namespace Sys2Proof.Machine

/-! ## Rings (R416) -/

/-- The number of the hypervisor's ring; 0–15 are the partitions'. -/
abbrev hvRing : Nat := 16

/-- Whether a context kill, or a PARK, of a ring is under way: commands of one ring complete in order. -/
def State.ringBusy (s : State) (ring : Nat) : Bool :=
  (s.hub.ctxs.any fun c => c.2.killing && c.2.killRing == some ring) || (ring == hvRing && s.hub.hvPark.isSome)

/-- The commands that a ring holds and that have not started. -/
def State.waitingOn (s : State) (ring : Nat) : List RingEntry := FMap.get [] s.hub.rings ring

/-- Changes them. -/
def State.setWaiting (s : State) (ring : Nat) (is : List RingEntry) : State :=
  s.setHub fun h => { h with rings := FMap.set [] h.rings ring is }

/-- Whether a system core appends to a ring: the hypervisor's, or that of a partition whose system cores have left reset (R414). -/
def State.ringStands (s : State) (ring : Nat) : Bool :=
  ring == hvRing || (decide (ring < 16) && (s.partOf ring).live && (s.partOf ring).image.isSome)

/-- Whether a command that is appended to a ring starts at once: none before it is under way or waits (R416). -/
def State.ringReady (s : State) (ring : Nat) : Bool := s.ringStands ring && !s.ringBusy ring && (s.waitingOn ring).isEmpty

/-- A command is appended to a ring of 64 entries, behind those that it holds (R416). -/
def State.append (s : State) (ring : Nat) (i : RingEntry) : State :=
  if s.ringStands ring ∧ (s.waitingOn ring).length + natOf (s.ringBusy ring) < 64 then s.setWaiting ring (s.waitingOn ring ++ [i]) else s

/-- Takes the next entry of a ring: its number. -/
def State.takeEntry (s : State) (ring : Nat) : Nat × State :=
  if ring = hvRing then (s.hub.hvCmds, s.setHub fun h => { h with hvCmds := h.hvCmds + 1 })
  else ((s.partOf ring).cmds, s.setPart ring fun p => { p with cmds := p.cmds + 1 })

/-- Writes the status of an entry; a ring has 64 of them. -/
def State.putStatus (s : State) (ring entry st : Nat) : State :=
  if ring = hvRing then s.setHub fun h => { h with hvStatus := FMap.set 0 h.hvStatus (entry % 64) st }
  else s.setPart ring fun p => { p with status := FMap.set 0 p.status (entry % 64) st }

/-- Runs a command that completes at once: its effect, then its status. Behind others it waits in its ring. -/
def State.command (s : State) (i : RingEntry) (ring : Nat) (f : State → Nat × State) : Host.Outcome State Fault Refusal :=
  if s.ringReady ring then
    let (entry, s) := s.takeEntry ring
    let (st, s) := f s
    .next (s.putStatus ring entry st)
  else .next (s.append ring i)

/-- What a ring reaches: the hypervisor's, everything. -/
def reachOf (ring : Nat) : Reach := if ring = hvRing then none else some ring

/-- Runs a command on a context: BADARG where there is none, DENIED where it is another partition's. -/
def State.ctxCommand (s : State) (i : RingEntry) (ring ctx : Nat) (f : State → Nat × State) : Host.Outcome State Fault Refusal :=
  s.command i ring fun s =>
    if !(s.ctxOf ctx).live then (hubBADARG, s)
    else if deniedTo (reachOf ring) (s.ctxOf ctx).part then (hubDENIED, s)
    else f s

/-! ## Queues and translation -/

/-- Whether every page of a range of a context lies in HBM. -/
def State.rangeInHbm (s : State) (ctx va n : Nat) : Bool :=
  (List.range ((va + n + 4095) / 4096 - va / 4096)).all fun k =>
    match s.placeOf ctx (if k = 0 then va else 4096 * (va / 4096 + k)) with
    | some pa => decide (pa.space = .hbm)
    | none => false

/-- The physical place of an address of a context in its words. -/
def State.wordKey (s : State) (ctx va : Nat) : Nat :=
  match s.placeOf ctx va with
  | some pa => pa.word
  | none => 0

/-- R73, R72. -/
def State.attach (s : State) (ctx : Nat) (desc : Word) : Nat × State :=
  let part := (s.ctxOf ctx).part
  match s.vread ctx desc.toNat 128 with
  | none => (hubBADARG, s)
  | some (b, s) =>
    let f := fieldOf b
    let name : Name := BitVec.ofNat 128 (f 0 16)
    let q := nameCounter name
    let ring := f 0x10 8
    let lg := f 0x18 1
    let attached := s.hub.queues.filter fun x => x.2.part == part && decide (x.2.state ≠ .none ∧ x.2.state ≠ .closed)
    let good : Bool :=
      decide (desc.toNat % 128 = 0 ∧ ring % 4096 = 0 ∧ 4 ≤ lg ∧ lg ≤ 16 ∧ f 0x40 8 % 64 = 0 ∧ f 0x1A 6 = 0 ∧ zeroFrom b 0x48)
        && s.rangeInHbm ctx desc.toNat 128 && s.rangeInHbm ctx ring (64 * 2 ^ lg)
        && s.resolve part name == .found stLIVE q && nameClass name == classQUEUE && (s.nameEntry q).addr == desc
        && decide (attached.length < (s.partOf part).queueQuota)
    let old := s.queueOf q
    if !good then (hubBADARG, s)
    else if (old.state ≠ .none ∧ old.state ≠ .closed) ∨ !old.packets.isEmpty then (hubBUSY, s)
    else
      let s := s.setQueue q fun _ =>
        { Queue.none with
          state := .idle, name := name, part := part, ctx := ctx, desc := desc, ring := BitVec.ofNat 64 ring, lgslots := lg
          errrec := BitVec.ofNat 64 (f 0x40 8), attachOrder := s.hub.attachCount
          wakeKey := s.wordKey ctx (desc.toNat + 0x38) }
      (hubDONE, (s.setHub fun h => { h with attachCount := h.attachCount + 1 }).setQueueState q .idle)

/-- R73, R416. -/
def execQattach (ring ctx : Nat) (desc : Word) (s : State) : Host.Outcome State Fault Refusal :=
  s.ctxCommand (.words 0x01 ctx [desc]) ring ctx fun s => s.attach ctx desc

/-- R74, R416. -/
def execQclose (ring ctx : Nat) (lo hi : Word) (s : State) : Host.Outcome State Fault Refusal :=
  s.ctxCommand (.words 0x02 ctx [lo, hi]) ring ctx fun s =>
    match s.queueNamed (hi ++ lo) with
    | none => (hubBADARG, s)
    | some q =>
      if deniedTo (reachOf ring) (s.queueOf q).part then (hubDENIED, s)
      else (hubDONE, s.closeQueue q)

/-- Whether a cached entry maps an address of a range of a context (R187). -/
def TlbEntry.inRange (x : TlbEntry) (ctx base len : Nat) : Bool :=
  x.ctx == ctx && decide (x.va < base + len ∧ base < x.va + entrySpan x.entry x.level)

/-- R187. It stays the first of its ring while a unit or a word that was translated before it has still to use what it found. No TLB and no walker
cache then holds an entry of the range. -/
def execXinval (ring ctx : Nat) (base len : Word) (s : State) : Host.Outcome State Fault Refusal :=
  let old (u : Nat × Nat × PAddr) : Bool :=
    u.1 == ctx && decide (base.toNat ≤ u.2.1 + 63 ∧ u.2.1 < base.toNat + len.toNat)
  if (s.ctxOf ctx).live ∧ s.usedLeaves.any old then .next (s.append ring (.words 0x03 ctx [base, len]))
  else
    s.ctxCommand (.words 0x03 ctx [base, len]) ring ctx fun s =>
      if 2 ^ 57 < base.toNat + len.toNat then (hubBADARG, s)
      else (hubDONE, { s with mem := { s.mem with tlb := s.mem.tlb.filter fun x => !x.inRange ctx base.toNat len.toNat } })

/-- R178. -/
def execSetroot (ring ctx : Nat) (frame : Word) (s : State) : Host.Outcome State Fault Refusal :=
  s.ctxCommand (.words 0x04 ctx [frame]) ring ctx fun s =>
    if s.inHbm (some (s.ctxOf ctx).part) (4096 * frame.toNat) 4096 then
      (hubDONE, s.setCtx ctx fun c => { c with root := frame.toNat })
    else (hubBADARG, s)

/-! ## Settling (R109, R385, R387, R396) -/

/-- The strand that a SETTLE names: parked in its slot; or saved while it was parked (R396), or stopped at its restore (R392), in the
slot that its event named. -/
def State.settled (s : State) (ctx core slot : Nat) : Option Strand :=
  let parked (t : Strand) : Bool := t.ctx == ctx && (t.ktrap || t.wait == .fetch) && t.wait != .draining
  match (s.strandAt core slot).filter parked with
  | some t => some t
  | none => s.all.find? fun t =>
    t.isLive && !t.bound && t.ctx == ctx && t.core == core && (t.ktrap || t.restErr) && t.kslot == slot

/-- Runs a settlement: BADARG for a vcore or slot out of range, BUSY for a strand that is not parked. -/
def State.settleCommand (s : State) (i : RingEntry) (ring ctx : Nat) (vcore slot : Word) (f : State → Nat → Strand → Nat × State) :
    Host.Outcome State Fault Refusal :=
  s.ctxCommand i ring ctx fun s =>
    match s.namedCore ctx vcore.toNat with
    | none => (hubBADARG, s)
    | some core =>
      if 10 ≤ slot.toNat then (hubBADARG, s)
      else
        match s.settled ctx core slot.toNat with
        | none => (hubBUSY, s)
        | some t => f s core t

/-- The strand goes on where it stands (R385): from its save area, without its banks, or fetching again. A restore that meets an
uncorrectable word stops, and the strand stays parked (R392). -/
def State.resumeInSlot (s : State) (core slot : Nat) (t : Strand) : State :=
  if t.wait = .fetch then s.setStrand core slot fun t => { t with wait := .none }
  else
    match t.area with
    | none => s
    | some i =>
      let a := s.areaAddr t.ctx i
      if s.mem.areaBad a 0 then
        s.systemEvent t.part 0x19 t.ctx (s.vcoreWord t.ctx core) slot 0 (BitVec.ofNat 64 a) 0
      else
        (s.dropArea t.ctx (some i)).setStrand core slot fun t =>
          let t := t.wentOn s.mem a
          { t with wait := .none, area := none, banks := 0, ktrap := false, kcause := 0, parity := []
                   pendingTrap := none, budgetDue := t.budgetDue || decide (t.budget = 0) }

/-- Whether a saved strand is halted, as its area says (R385, R388). -/
def State.savedHalt (s : State) (t : Strand) : Bool :=
  match t.area with
  | some i => decide (ofLE (s.mem.bytesAt (hbmKey (s.areaAddr t.ctx i + 0xAF)) 1) % 2 = 1)
  | none => t.halted

/-- Whether the kernel has not yet received the event of a parked strand: its state is not yet saved. -/
def Strand.unsaved (t : Strand) : Bool := t.ktrap && t.area.isNone

/-- R385, R392, R396, R109. -/
def execSettleResume (ring ctx : Nat) (vcore slot : Word) (s : State) : Host.Outcome State Fault Refusal :=
  s.settleCommand (.words 0x05 ctx [vcore, slot, 0]) ring ctx vcore slot fun s core t =>
    if t.unsaved then (hubBUSY, s)
    else if t.bound then (hubDONE, s.resumeInSlot core slot.toNat t)
    else
      (hubDONE, s.mapAll fun u =>
        if u.uid = t.uid ∧ u.isLive then
          { u with ktrap := false, restErr := false, kcause := 0, wait := .none, halted := s.savedHalt t }
        else u)

/-- R385, R387, R396, R109. -/
def execSettleRequeue (ring ctx : Nat) (vcore slot : Word) (s : State) : Host.Outcome State Fault Refusal :=
  s.settleCommand (.words 0x05 ctx [vcore, slot, 1]) ring ctx vcore slot fun s core t =>
    if t.unsaved then (hubBUSY, s)
    else if t.urg then (hubDENIED, s)
    else if t.bound then (hubDONE, (s.resumeInSlot core slot.toNat t).stopStrand core slot.toNat)
    else (hubDONE, s)

/-- R385, R109. -/
def execSettleKill (ring ctx : Nat) (vcore slot : Word) (s : State) : Host.Outcome State Fault Refusal :=
  s.settleCommand (.words 0x05 ctx [vcore, slot, 2]) ring ctx vcore slot fun s _ t => if t.unsaved then (hubBUSY, s) else (hubDONE, s.endStrand t)

/-- The level at which the fetch of a strand fails. -/
def State.fetchLevel (s : State) (t : Strand) : Nat :=
  match translate t.fetchReq t.pc.toNat s with
  | .ok (.fail _ l _) _ => l
  | .ok (.ok l) _ => l.level
  | _ => 7

/-- R109: PROT at the word being fetched. -/
def execFetchprot (ring ctx : Nat) (vcore slot kind : Word) (s : State) : Host.Outcome State Fault Refusal :=
  s.settleCommand (.words 0x05 ctx [vcore, slot, 3, kind]) ring ctx vcore slot fun s core t =>
    if t.wait ≠ .fetch ∨ kind.toNat = 0 ∨ faultUNREACH < kind.toNat then (hubBADARG, s)
    else
      let i := fetchProt kind.toNat (s.fetchLevel t) false t.pc
      let s := (s.setStrand core slot.toNat fun t => { t with wait := .none }).switchTo core slot.toNat
      (hubDONE, s.takeTrap i)

/-- The status of an OPSETTLE for the outcome of `ofault` (R281, R416). -/
def settleStatus : Nat → Nat
  | 0 => hubDONE
  | 1 => hubBUSY
  | _ => hubDENIED

/-- R281. -/
def execOpsettleResume (ring ctx : Nat) (handle : Word) (s : State) : Host.Outcome State Fault Refusal :=
  s.ctxCommand (.words 0x06 ctx [handle, 0]) ring ctx fun s =>
    let (st, s) := s.settlement ctx handle true
    (settleStatus st, s)

/-- R281. -/
def execOpsettleFail (ring ctx : Nat) (handle : Word) (s : State) : Host.Outcome State Fault Refusal :=
  s.ctxCommand (.words 0x06 ctx [handle, 1]) ring ctx fun s =>
    let (st, s) := s.settlement ctx handle false
    (settleStatus st, s)

/-! ## Context kill (R287, R397) -/

/-- The strands of a context. -/
def State.ctxStrands (s : State) (ctx : Nat) : List Strand := s.all.filter fun t => t.isLive && t.ctx == ctx

/-- Starts a kill: nothing of the context issues, places or retires any more, its queues close, its parked units are withdrawn and
its ops cancelled. -/
def State.startKill (s : State) (ring ctx : Nat) : State :=
  let s := s.setCtx ctx fun c => { c with killing := true, killRing := some ring }
  let s := (s.hub.queues.filter fun q => q.2.ctx == ctx).foldl (fun s q => s.closeQueue q.1) s
  let s := (s.ctxStrands ctx).foldl (fun s t => if t.bound then s.withdraw t.core t.slot else s) s
  (s.eng.ops.filter fun o => o.2.ctx == ctx && o.2.live).foldl (fun s o => s.cancelOp o.1 true) s

/-- R397. -/
def execCtxkill (ring ctx : Nat) (s : State) : Host.Outcome State Fault Refusal :=
  let c := s.ctxOf ctx
  if c.live ∧ !c.killing ∧ !deniedTo (reachOf ring) c.part ∧ s.ringReady ring then .next (s.startKill ring ctx)
  else s.ctxCommand (.words 0x07 ctx []) ring ctx fun s => (hubBUSY, s)

/-- The banks that a context's strands held, or gave up, are zeroed and Free. -/
def State.freeCtxBanks (s : State) (ctx : Nat) : State :=
  let slots := (s.ctxStrands ctx).filterMap fun t => match t.place with | .slot c n => some (c, n) | _ => none
  let launches := (s.hub.launches.filter fun x => x.2.ctx == ctx).map (·.1)
  (s.eng.banks.filter fun b =>
    (match b.2.cond with
     | .held n _ => slots.contains (b.1 / 4, n)
     | .releasing => b.2.launch.any launches.contains
     | .free => false)).foldl (fun s b =>
      { s with eng := zeroBank s.eng (b.1 / 4) (b.1 % 4) }.setBank (b.1 / 4) (b.1 % 4) fun k =>
        { cond := .free, launch := none, gen := k.gen + 1 }) s

/-- What is left of a launch whose context is killed: nothing is written, its names end. -/
def State.dropLaunch (s : State) (l : Nat) : State :=
  let x := s.launchOf l
  let s := s.dropLaunchRefs l
  let s := s.setHub fun h =>
    { h with binds := h.binds.map fun b => (b.1, if b.2.lslot = l then { b.2 with valid := false } else b.2) }
  (s.setLaunch l fun _ => Launch.none).startShootdown (nameCounter x.name) true

/-- Completes a kill: strands, slices, messages, waiters, areas, banks, launches, packets and queue pairs of the context are gone, and so
is the context. -/
def State.finishKill (s : State) (ctx : Nat) : State :=
  let s := s.freeCtxBanks ctx
  let slots := (s.ctxStrands ctx).filterMap fun t => match t.place with | .slot c n => some (c, n) | _ => none
  let cores := ((s.ctxStrands ctx).map (·.core)).eraseDups
  let pairs := (s.pkg.qpairs.filter fun q => q.2.live && q.2.ctx == ctx).length
  let cleared : FMap Core := s.cores.map fun c : Nat × Core => (c.1, { c.2 with urgent := c.2.urgent.filter fun m => m.ctx != ctx })
  let s : State := { s with
    me := if s.me.ctx = ctx then Strand.empty else s.me
    strands := s.strands.filter fun t => t.ctx != ctx
    mem := { s.mem with waiters := s.mem.waiters.filter fun w => !slots.contains (w.core, w.slot)
                        parked := s.mem.parked.filter fun u => u.ctx != ctx }
    pkg := { s.pkg with qpairs := s.pkg.qpairs.filter fun q => q.2.ctx != ctx }
    eng := { s.eng with messages := s.eng.messages.filter fun m => m.ctx != ctx
                        entries := s.eng.entries.filter fun e => e.ctx != ctx }
    cores := cleared }
  let s := (s.hub.launches.filter fun x => x.2.live && x.2.ctx == ctx).foldl (fun s x => s.dropLaunch x.1) s
  let s := (s.eng.ops.filter fun o => o.2.ctx == ctx).foldl (fun s o =>
    match o.2.name with
    | some c => if (s.nameEntry c).state = .live then s.endOpName c else s
    | none => s) s
  let s := (s.hub.queues.filter fun q => q.2.ctx == ctx).foldl (fun s q => s.setQueue q.1 fun k => { k with packets := [] }) s
  let s := (s.setPart (s.ctxOf ctx).part fun p => { p with qpairs := p.qpairs - pairs }).setCtx ctx fun _ => Ctx.none
  let s := s.freeSnaps
  cores.foldl (fun s c => s.refill c) s

/-- R397: every op has ended, and the command completes. -/
def execCtxkillComplete (ctx : Nat) (s : State) : Host.Outcome State Fault Refusal :=
  let c := s.ctxOf ctx
  if c.killing ∧ !(s.eng.ops.any fun o => o.2.ctx == ctx && o.2.live) then
    let ring := c.killRing.getD hvRing
    let (entry, s) := (s.finishKill ctx).takeEntry ring
    .next (s.putStatus ring entry hubDONE)
  else .next s

/-! ## Areas, tables, traces (R64, R240, R353, R368, R388, R407) -/

/-- R388. -/
def execSavepool (ring ctx : Nat) (base count : Word) (s : State) : Host.Outcome State Fault Refusal :=
  s.ctxCommand (.words 0x08 ctx [base, count]) ring ctx fun s =>
    if base.toNat % 4096 ≠ 0 ∨ !s.inHbm (some (s.ctxOf ctx).part) base.toNat (73728 * count.toNat) then (hubBADARG, s)
    else if !(s.ctxOf ctx).areas.isEmpty then (hubBUSY, s)
    else (hubDONE, s.setCtx ctx fun c => { c with savePool := (base, count.toNat) })

/-- R240: `mem` is an address of the context in the memory, and an owner of 0xFFFF is none. -/
def execTabown (ring ctx : Nat) (mem table owner : Word) (s : State) : Host.Outcome State Fault Refusal :=
  s.ctxCommand (.words 0x09 ctx [mem, table, owner]) ring ctx fun s =>
    match s.placeOf ctx mem.toNat with
    | none => (hubBADARG, s)
    | some pa =>
      let tagged : Bool := match pa.space with | .ls _ => true | .pool _ => true | _ => false
      let who : Option Nat := if owner.toNat = 0xFFFF then none else some owner.toNat
      if !tagged ∨ table.toNat = 0 ∨ 7 < table.toNat ∨ 0xFFFF < owner.toNat ∨ who.any (fun c => !(s.ctxOf c).live) then
        (hubBADARG, s)
      else if who.any fun c => deniedTo (reachOf ring) (s.ctxOf c).part then (hubDENIED, s)
      else
        (hubDONE, { s with mem := { s.mem with owners := FMap.set none s.mem.owners (slotKey pa.space table.toNat) who } })

/-- R368, R407. -/
def execTracebase (ring ctx : Nat) (die which header : Word) (s : State) : Host.Outcome State Fault Refusal :=
  s.ctxCommand (.words 0x0A ctx [die, which, header]) ring ctx fun s =>
    if 7 < die.toNat ∨ 1 < which.toNat ∨ Config.dsmBytes < header.toNat + 64 then (hubBADARG, s)
    else
      (hubDONE, { s with mem := { s.mem with
        ringBase := FMap.set 0 s.mem.ringBase (2 * die.toNat + which.toNat) header } })

/-- R409, R410, R417. -/
def execStaterd (ring ctx : Nat) (cls id0 id1 offset len buf : Word) (s : State) : Host.Outcome State Fault Refusal :=
  s.ctxCommand (.words 0x0B ctx [cls, id0, id1, offset, len, buf]) ring ctx fun s => s.readObject (reachOf ring) ctx cls id0 id1 offset len buf

/-- R409, R410, R417. -/
def execStatewr (ring ctx : Nat) (cls id0 id1 offset len buf : Word) (s : State) : Host.Outcome State Fault Refusal :=
  s.ctxCommand (.words 0x0E ctx [cls, id0, id1, offset, len, buf]) ring ctx fun s => s.writeObject (reachOf ring) ctx cls id0 id1 offset len buf

/-- The text base and entries of a handler image (R111); none where its header is malformed. -/
def parseImage (b : List Byte) (va : Nat) : Option (Word × List Nat) :=
  let n := fieldOf b 6 2
  let len := fieldOf b 8 4
  let es := (List.range n).map fun i => fieldOf b (0x40 + 4 * i) 4
  if fieldOf b 0 4 = 0x49484E44 ∧ fieldOf b 4 2 = 1 ∧ 1 ≤ n ∧ n ≤ 256 ∧ len ≠ 0 ∧ len % 64 = 0
      ∧ ((b.drop 0x0C).take 52).all (· == 0) ∧ es.all fun e => decide (e % 4 = 0 ∧ e < len) then
    some (BitVec.ofNat 64 (va + (0x40 + 4 * n + 63) / 64 * 64), es)
  else none

/-- Whether every page of a range of a context is resident and pinned for a kind of access. -/
def State.pinnedFor (s : State) (kind : XKind) (ctx va n : Nat) : Bool :=
  (List.range ((va + n + 4095) / 4096 - va / 4096)).all fun k =>
    match translate { ctx := ctx, sysm := true, kind := kind, rd := kind != .fetch, wr := false, via := .none }
        (if k = 0 then va else 4096 * (va / 4096 + k)) s with
    | .ok (.ok l) _ => bitsOf l.entry 7 1 == 1
    | _ => false

/-- R111, R112: the image, whose text is executable, pinned and resident, is installed. -/
def execHimage (ring ctx : Nat) (image : Word) (s : State) : Host.Outcome State Fault Refusal :=
  s.ctxCommand (.words 0x0C ctx [image]) ring ctx fun s =>
    match s.vread ctx image.toNat 0x40 with
    | none => (hubBADARG, s)
    | some (h, _) =>
      match s.vread ctx image.toNat (0x40 + 4 * fieldOf h 6 2) with
      | none => (hubBADARG, s)
      | some (b, s) =>
        match parseImage b image.toNat with
        | none => (hubBADARG, s)
        | some (text, es) =>
          if !s.pinnedFor .fetch ctx text.toNat (fieldOf b 8 4) then (hubBADARG, s)
          else
            (hubDONE, s.setCtx ctx fun c => { c with images := (c.images.filter fun i => i.1 != image) ++ [(image, text, es)] })

/-- R353, R407. -/
def execTimeout (ring ctx : Nat) (limit interval : Word) (s : State) : Host.Outcome State Fault Refusal :=
  s.ctxCommand (.words 0x0D ctx [limit, interval]) ring ctx fun s =>
    if interval ≠ 0 ∧ (interval.toNat < 256 ∨ 2 ^ 24 < interval.toNat) then (hubBADARG, s)
    else (hubDONE, s.setCtx ctx fun c => { c with wakeLimit := limit, sampleInterval := interval.toNat })

/-- Reads a list of vcores; none where it cannot be read. -/
def State.readVcores (s : State) (ctx va n : Nat) : Option (List Nat) :=
  (s.vread ctx va (4 * n)).map fun r => (List.range n).map fun i => fieldOf r.1 (4 * i) 4

/-- R84. A list for another chip is kept there. -/
def execMsgcores (ring ctx : Nat) (chip list count : Word) (s : State) : Host.Outcome State Fault Refusal :=
  s.ctxCommand (.words 0x0F ctx [chip, list, count]) ring ctx fun s =>
    if 383 < chip.toNat ∨ 256 < count.toNat then (hubBADARG, s)
    else
      match s.readVcores ctx list.toNat count.toNat with
      | none => (hubBADARG, s)
      | some vs =>
        if chip.toNat ≠ s.hub.chip then
          (if vs.all fun v => v / 4096 == chip.toNat && (s.reachCore ctx v).isSome then hubDONE else hubBADARG, s)
        else
          let cs := vs.filterMap (s.namedCore ctx)
          if cs.length = vs.length then (hubDONE, s.setCtx ctx fun c => { c with msgCores := cs }) else (hubBADARG, s)

/-- Whether a range of a context is pinned, resident HBM. -/
def State.pinnedHbm (s : State) (ctx va n : Nat) : Bool :=
  s.rangeInHbm ctx va n && s.pinnedFor .vector ctx va n

/-- R54, R55. A table for another chip is kept there. -/
def execRoutetab (ring ctx : Nat) (chip table count : Word) (s : State) : Host.Outcome State Fault Refusal :=
  s.ctxCommand (.words 0x10 ctx [chip, table, count]) ring ctx fun s =>
    if 383 < chip.toNat ∨ 65536 < count.toNat then (hubBADARG, s)
    else if count ≠ 0 ∧ !s.pinnedHbm ctx table.toNat (4 * count.toNat) then (hubBADARG, s)
    else if chip.toNat ≠ s.hub.chip then (hubDONE, s)
    else (hubDONE, s.setCtx ctx fun c => { c with routeTab := (table, count.toNat) })

/-- R64. -/
def execSnaparea (ring ctx : Nat) (base count : Word) (s : State) : Host.Outcome State Fault Refusal :=
  s.ctxCommand (.words 0x11 ctx [base, count]) ring ctx fun s =>
    let s := s.freeSnaps
    if count ≠ 0 ∧ (base.toNat % 4096 ≠ 0 ∨ !s.pinnedHbm ctx base.toNat (4160 * count.toNat)) then (hubBADARG, s)
    else if s.hub.snaps.any fun x => x.2.live && x.2.ctx == ctx then (hubBUSY, s)
    else (hubDONE, s.setCtx ctx fun c => { c with snapArea := (base, count.toNat) })

end Sys2Proof.Machine
end

