-- ==== Sys2Proof/Machine/Power.lean ====
section
/-!
DEFINITION. Fumarole (24_system_and_attachment.md R421–R428): boot and firmware, identity, power caps and ceilings, retention.
-/

namespace Sys2Proof.Machine

/-! ## Ceilings (R425, R427) -/

/-- The partition that owns an island. -/
def State.islandPart (s : State) (island : Nat) : Option (Nat × Part) :=
  s.hub.parts.find? fun p => p.2.live && p.2.islands.getLsbD island

/-- Rounds a bound: down to a multiple of 50 MHz, and up to at least 800 MHz. -/
def roundMhz (x : Nat) : Nat := max 800 (x / 50 * 50)

/-- The HALL bound of a rank: its level in the frame in force; 0 for none. -/
def Pkg.hallBound (p : Pkg) (rank : Nat) : Nat :=
  match p.frame with
  | some f =>
    let x := ((f.levels[rank]?).getD 0xFFFF#16).toNat
    if x = 0xFFFF then 0 else x
  | none => 0

/-- The five bounds of an island, in the order of their bits; 0 for none. -/
def State.bounds (s : State) (island : Nat) : List Nat :=
  let p := (s.islandPart island).map (·.2)
  [(match p with | some q => s.pkg.hallBound q.rank.toNat | none => 0), FMap.get 0 s.pkg.pkgBound island,
    FMap.get 0 s.pkg.thermBound island, FMap.get 0 s.pkg.currBound island, (match p with | some q => q.ceiling | none => 0)]

/-- The effective ceiling of some bounds. -/
def effective (bs : List Nat) : Nat := bs.foldl (fun a b => if b = 0 then a else min a (roundMhz b)) 2500

/-- The cause bits of some bounds: a bound that equals the ceiling which they give. -/
def causeBits (bs : List Nat) : Nat :=
  let c := effective bs
  if c = 2500 then 0
  else ((List.range 5).zip bs).foldl (fun a x => if x.2 = c then a + 2 ^ x.1 else a) 0

/-- The `capcause` of an island as its bounds stand. -/
def State.capcauseNow (s : State) (island : Nat) : Word :=
  let bs := s.bounds island
  let rank := match s.islandPart island with | some p => p.2.rank.toNat | none => 0
  BitVec.ofNat 64 (causeBits bs + 2 ^ 8 * rank + 2 ^ 16 * effective bs + 2 ^ 32 * (s.pkg.appliedSeq.toNat % 2 ^ 32))

/-- Applies the bounds to one island; a ceiling that changes raises the cap event (R419). -/
def State.updateCap (s : State) (island : Nat) : State :=
  let old := FMap.get capcause0 s.pkg.capcause island
  let new := s.capcauseNow island
  let s := { s with pkg := { s.pkg with capcause := FMap.set capcause0 s.pkg.capcause island new } }
  if bitsOf old.toNat 16 12 = bitsOf new.toNat 16 12 then s
  else
    match s.islandPart island with
    | some p => s.postEvent p.1 4 0xFFFF [BitVec.ofNat 64 island, new, 0, 0]
    | none => s

/-- Applies the bounds to every island, at once. -/
def State.updateCaps (s : State) : State := (List.range 32).foldl State.updateCap s

/-- Changes fumarole's state. -/
def State.setPkg (s : State) (f : Pkg → Pkg) : State := { s with pkg := f s.pkg }

/-! ## Cap frames (R424, R426) -/

/-- A field of a frame's payload (R424). -/
abbrev frameField (f : CapFrame) (off n : Nat) : Nat := fieldOf f.payload off n

/-- The seq of a frame. -/
def frameSeq (f : CapFrame) : Nat := frameField f 8 8

/-- Whether a frame's payload is the 1,344 bytes that R424 lays out, with its magic, version and zero fields (R426 check 1). -/
def frameSound (f : CapFrame) : Bool :=
  f.payload.length == 0x540 && frameField f 0 4 == 0x43415046 && frameField f 4 2 == 1 && frameField f 7 1 == 0 && frameField f 0x14 12 == 0

/-- Whether a frame passes the checks of R426. -/
def Pkg.accepts (p : Pkg) (f : CapFrame) : Bool :=
  frameSound f && decide (frameField f 6 1 ≤ 1) && (FMap.get none p.hallKeys (frameField f 6 1)).isSome
    && decide (p.capSeq.toNat < frameSeq f) && f.sigOk

/-- A frame as fumarole holds it once it is accepted. -/
def frameHeld (f : CapFrame) (received : Nat) : FrameInForce :=
  { seq := BitVec.ofNat 64 (frameSeq f), levels := (List.range 16).map fun r => BitVec.ofNat 16 (frameField f (0x20 + 2 * r) 2)
    life := BitVec.ofNat 32 (frameField f 0x10 4), received := received }

/-- Checks a frame: accepted, it waits for its application; else it is dropped and counted. -/
def Pkg.checkFrame (p : Pkg) (f : CapFrame) (received : Nat) : Pkg :=
  if p.accepts f then { p with capSeq := BitVec.ofNat 64 (frameSeq f), frameNext := some (frameHeld f received) }
  else { p with framesDropped := p.framesDropped + 1 }

/-- Checks the frames that wait, in arrival order, until one is accepted. -/
def Pkg.checkWaiting : (fuel : Nat) → Pkg → Pkg
  | 0, p => p
  | n + 1, p =>
    if p.frameNext.isSome then p
    else
      match p.framesWaiting with
      | [] => p
      | (f, t) :: fs => ({ p with framesWaiting := fs }.checkFrame f t).checkWaiting n

/-- R424, R426: a datagram to another port is none. Up to four frames wait behind one being checked; a fifth is dropped. -/
def execCapFrame (frame : CapFrame) (s : State) : Host.Outcome State Fault Refusal :=
  if frame.udpPort ≠ 7218 then .next s
  else
    .next (s.setPkg fun p =>
      if p.frameNext.isNone then p.checkFrame frame s.time
      else if p.framesWaiting.length < 4 then { p with framesWaiting := p.framesWaiting ++ [(frame, s.time)] }
      else { p with framesDropped := p.framesDropped + 1 })

/-- R426: the accepted frame is in force, and its ceilings reach every island together with its seq (R427). -/
def execCapFrameApply (s : State) : Host.Outcome State Fault Refusal :=
  match s.pkg.frameNext with
  | some f =>
    .next ((s.setPkg fun p => { p with frame := some f, frameNext := none, appliedSeq := f.seq }).updateCaps.setPkg fun p =>
      p.checkWaiting p.framesWaiting.length)
  | none => .next s

/-- Whether a frame's life has passed. -/
def FrameInForce.over (f : FrameInForce) (time : Nat) : Bool := decide (f.received + 10000000 * f.life.toNat ≤ time)

/-- R426: `life` ms after its receipt a frame lapses; one that was not yet applied makes room for those that wait. -/
def execCapFrameLapse (s : State) : Host.Outcome State Fault Refusal :=
  let s := if s.pkg.frame.any (·.over s.time) then (s.setPkg fun p => { p with frame := none }).updateCaps else s
  if s.pkg.frameNext.any (·.over s.time) then
    .next (s.setPkg fun p => { p with frameNext := none }.checkWaiting p.framesWaiting.length)
  else .next s

/-! ## Control loops (R425) -/

/-- The PKG bounds of the ranks from 0 up: each free, and none above that of a rank before it, since rank 15 is lowered
first. -/
def pkgLevels (limit count : Nat) : (ranks : List Nat) → Nat → List Nat
  | [], _ => []
  | r :: rs, a =>
    let x := (Config.pkgBound limit r count).toNat
    let a := if x = 0 then a else min a x
    a :: pkgLevels limit count rs a

/-- R425. A parked island is not counted, and keeps its bound. -/
def execPkgControlTick (s : State) : Host.Outcome State Fault Refusal :=
  let levels := pkgLevels s.pkg.pkgLimit s.free (List.range 16) 2500
  let bound (i : Nat) : Nat :=
    let rank := match s.islandPart i with | some p => p.2.rank.toNat | none => 0
    let x := (levels[rank]?).getD 2500
    if 2500 ≤ x then 0 else x
  let next := (List.range 32).foldl (fun m i =>
    if FMap.get ParkState.running s.pkg.parkState i = .parked then m else FMap.set 0 m i (bound i)) s.pkg.pkgBound
  .next (({ s with free := s.free + 1 }.setPkg fun p => { p with pkgBound := next }).updateCaps)

/-- R425: the bound that each island's temperature needs is free. -/
def execThermControlTick (s : State) : Host.Outcome State Fault Refusal :=
  let next := (List.range 32).foldl (fun m i => FMap.set 0 m i (Config.thermBound i s.free).toNat) s.pkg.thermBound
  .next (({ s with free := s.free + 1 }.setPkg fun p => { p with thermBound := next }).updateCaps)

/-- R425: a rail reaches its current limit. -/
def execRegulatorAlert (island mhz : Nat) (s : State) : Host.Outcome State Fault Refusal :=
  if 32 ≤ island then .next s
  else
    .next ((s.setPkg fun p =>
      { p with currBound := FMap.set 0 p.currBound island mhz, currAt := FMap.set 0 p.currAt island s.time }).updateCap island)

/-- R425: the CURR bound has been held for 1 ms. -/
def execCurrHoldExpiry (island : Nat) (s : State) : Host.Outcome State Fault Refusal :=
  if FMap.get 0 s.pkg.currBound island ≠ 0 ∧ FMap.get 0 s.pkg.currAt island + 10000000 ≤ s.time then
    .next ((s.setPkg fun p =>
      { p with currBound := FMap.set 0 p.currBound island 0, currAt := FMap.set 0 p.currAt island 0 }).updateCap island)
  else .next s

/-! ## Hypervisor commands on power (R416, R425, R428) -/

/-- Runs a command that only the hypervisor's ring accepts. -/
def State.hvCommand (s : State) (i : RingEntry) (ring : Nat) (f : State → Nat × State) : Host.Outcome State Fault Refusal :=
  s.command i ring fun s => if ring = hvRing then f s else (hubDENIED, s)

/-- Runs such a command on a partition that stands. -/
def State.partCommand (s : State) (i : RingEntry) (ring : Nat) (part : Word) (f : State → Nat → Nat × State) :
    Host.Outcome State Fault Refusal :=
  s.hvCommand i ring fun s =>
    if 15 < part.toNat ∨ !(s.partOf part.toNat).live then (hubBADARG, s) else f s part.toNat

/-- R425, R426: at once against the frame in force. -/
def execRank (ring : Nat) (part rank : Word) (s : State) : Host.Outcome State Fault Refusal :=
  s.partCommand (.words 0x22 0 [part, rank]) ring part fun s p =>
    if 15 < rank.toNat then (hubBADARG, s)
    else (hubDONE, (s.setPart p fun q => { q with rank := rank.setWidth 4 }).updateCaps)

/-- R425. -/
def execPartceil (ring : Nat) (part mhz : Word) (s : State) : Host.Outcome State Fault Refusal :=
  s.partCommand (.words 0x23 0 [part, mhz]) ring part fun s p =>
    if mhz ≠ 0 ∧ (mhz.toNat < 800 ∨ 2500 < mhz.toNat) then (hubBADARG, s)
    else (hubDONE, (s.setPart p fun q => { q with ceiling := mhz.toNat }).updateCaps)

/-- R18, R425. -/
def execPkglimit (ring : Nat) (watts : Word) (s : State) : Host.Outcome State Fault Refusal :=
  s.hvCommand (.words 0x25 0 [watts]) ring fun s =>
    if watts.toNat < 1500 ∨ 8000 < watts.toNat then (hubBADARG, s)
    else (hubDONE, s.setPkg fun p => { p with pkgLimit := watts.toNat })

/-- Whether an island may be parked: its partition has no bound strand and no op on it. -/
def State.islandIdle (s : State) (island : Nat) : Bool :=
  !(s.all.any fun t => t.bound && coreIsland t.core == island)
    && !(s.eng.ops.any fun o => o.2.live && coreIsland o.2.core == island)

/-- Sets an island's retention state. -/
def State.setPark (s : State) (island : Nat) (x : ParkState) : State :=
  s.setPkg fun p => { p with parkState := FMap.set ParkState.running p.parkState island x }

/-- The retention state of an island. -/
def State.parkOf (s : State) (island : Nat) : ParkState := FMap.get ParkState.running s.pkg.parkState island

/-- A PARK or UNPARK that starts, and completes with the retention entry or exit. -/
def State.startPark (s : State) (island : Nat) (x : ParkState) : Host.Outcome State Fault Refusal :=
  .next ((s.setPark island x).setHub fun h => { h with hvPark := some island })

/-- R428. -/
def execPark (ring : Nat) (island : Word) (s : State) : Host.Outcome State Fault Refusal :=
  let i := island.toNat
  if ring = hvRing ∧ s.ringReady ring ∧ i < 32 ∧ s.islandIdle i ∧ s.parkOf i = .running then s.startPark i .entering
  else s.hvCommand (.words 0x24 0 [island, 1]) ring fun s => (if 32 ≤ i then hubBADARG else hubBUSY, s)

/-- R428: it completes when the exit does; an island that is not parked has none to make. -/
def execUnpark (ring : Nat) (island : Word) (s : State) : Host.Outcome State Fault Refusal :=
  let i := island.toNat
  if ring = hvRing ∧ s.ringReady ring ∧ i < 32 ∧ s.parkOf i ≠ .running then
    s.startPark i (if s.parkOf i = .entering then .entering else .exiting)
  else s.hvCommand (.words 0x24 0 [island, 0]) ring fun s => (if 32 ≤ i then hubBADARG else hubDONE, s)

/-- R428: an access has reached a memory of a parked island. -/
def execIslandExit (island : Nat) (s : State) : Host.Outcome State Fault Refusal :=
  if s.parkOf island = .parked then .next (s.setPark island .exiting) else .next s

/-- The command that waits for an island's retention completes. -/
def State.parkDone (s : State) (island : Nat) : State :=
  if s.hub.hvPark = some island then
    let s := s.setHub fun h => { h with hvPark := none }
    let (entry, s) := s.takeEntry hvRing
    s.putStatus hvRing entry hubDONE
  else s

/-- Whether a unit in the park list may wait for an island: it stands at a memory there, or goes on to a redirect's target. -/
def State.waitsForIsland (s : State) (island : Nat) (u : AccessUnit) : Bool :=
  u.pa.space.island == some island || (match lookupUnit s.mem u with | .redir _ _ => true | _ => false)

/-- The exit of an island is complete: the parked units whose re-evaluation waited for it are looked up (R250). -/
def State.exitDone (s : State) (island : Nat) : State :=
  let s := (s.setPark island .running).parkDone island
  s.afterTagChange (s.waitsForIsland island)

/-- R428: the entry or the exit is complete. -/
def execRetentionComplete (island : Nat) (s : State) : Host.Outcome State Fault Refusal :=
  match s.parkOf island with
  | .entering => .next ((s.setPark island .parked).parkDone island)
  | .exiting => .next (s.exitDone island)
  | _ => .next s

/-- The islands that an access of the front end, the hub or a port has met are running again, each after the entry that was under way and
its whole exit (R428; log 44). -/
def State.awaken (s : State) (islands : List Nat) : State :=
  islands.foldl (fun s i =>
    let s := if s.parkOf i = .entering then (s.setPark i .parked).parkDone i else s
    if s.parkOf i = .running then s else s.exitDone i) s

/-! ## Twine ports (R431, R433) -/

/-- Twine ports of the package (R17). -/
abbrev twinePorts : Nat := 24

/-- A port of the package. -/
def State.portOf (s : State) (n : Nat) : TwinePort := FMap.get TwinePort.reset s.pkg.twine n

/-- Changes a port. -/
def State.setPort (s : State) (n : Nat) (f : TwinePort → TwinePort) : State :=
  s.setPkg fun p => { p with twine := FMap.set TwinePort.reset p.twine n (f (s.portOf n)) }

/-- The highest protocol version that a partner offers and this device accepts; 0 where there is none (R433). -/
def commonVersion (offered : List Nat) : Nat := if offered.contains 2 then 2 else if offered.contains 1 then 1 else 0

/-- Trains a port that is not trained: lanes, flit lock, then the version (R431, R433). -/
def State.trainPort (s : State) (n : Nat) (offered : List Nat) : State :=
  let p := s.portOf n
  if p.trained then s
  else
    let version := commonVersion offered
    let up : Bool := Config.linkLocks n p.attempts && decide (version ≠ 0)
    s.setPort n fun p =>
      { TwinePort.reset with attempts := p.attempts + 1, trained := up, version := if up then version else 0 }

/-! ## Boot and firmware (R25, R421, R422) -/

/-- Whether an image may boot (R422): its signature checks, its rollback counter is not below the fused value, and it is a
recovery image where one is awaited. -/
def Pkg.bootable (p : Pkg) (i : FirmwareImage) : Bool :=
  i.sigOk && decide (Config.rollbackFuse ≤ i.rollback) && (!p.recovery || i.recovery)

/-- The image that a boot takes: the one written last, else the one that booted before. -/
def Pkg.bootImage (p : Pkg) : Option FirmwareImage := p.nextImage.or p.image

/-- Whether step `n` of a boot succeeds. -/
def State.bootStepOk (s : State) (n : Nat) : Bool :=
  Config.bootStepOk s.hub.serial.toNat n &&
    (match n with
     | 2 => (match s.pkg.bootImage with
             | some i => s.pkg.bootable i
             | none => !s.pkg.recovery && Config.storedImageOk s.hub.serial.toNat)
     | 3 => decide (s.hub.serial.toNat + 1 < 2 ^ 40)
     | _ => true)

/-- What a successful step does. Step 4 finds the memories as after reset; no partition stands at step 7, whose images are verified as the
hypervisor builds them (R414). -/
def State.bootStep (s : State) (n : Nat) : State :=
  let s := match n with
    | 2 => s.setPkg fun p => { p with image := p.bootImage, nextImage := none, recovery := false }
    | 3 => (s.setHub fun h => { h with serial := h.serial + 1 }).setPkg fun p => { p with harvested := true }
    | 5 => s.setPkg fun p => { p with keySerial := s.hub.serial.toNat }
    | 6 => (List.range twinePorts).foldl (fun s n => s.trainPort n (Config.twinePartner n s.hub.serial.toNat)) s
    | _ => s
  s.setPkg fun p => { p with bootStep := n, bootFailed := none }

/-- Runs the boot steps in order; the first that fails stops it, and only a recovery image is accepted then. -/
def State.bootFrom (s : State) : List Nat → State
  | [] => s
  | n :: ns =>
    if s.bootStepOk n then (s.bootStep n).bootFrom ns
    else s.setPkg fun p => { p with bootFailed := some n, recovery := true }

/-- The package as a boot begins: as after reset, but for secure storage, the images, and the model's own counters. -/
def State.beforeBoot (s : State) : State :=
  { State.reset with
    agenda := s.agenda, free := s.free, ages := s.ages
    hub := { Hub.reset with chip := s.hub.chip, serial := s.hub.serial }
    pkg := { Pkg.reset with
             nextImage := s.pkg.nextImage, image := s.pkg.image, recovery := s.pkg.recovery, hallKeys := s.pkg.hallKeys
             capSeq := s.pkg.capSeq } }

/-- R421. -/
def execBoot (s : State) : Host.Outcome State Fault Refusal := .next (s.beforeBoot.bootFrom [1, 2, 3, 4, 5, 6, 7])

/-- R422: the image takes effect at the next boot; after a failed boot only a recovery image is taken. -/
def execFirmwareImageWrite (image : FirmwareImage) (s : State) : Host.Outcome State Fault Refusal :=
  if s.pkg.recovery ∧ !image.recovery then .next s
  else .next (s.setPkg fun p => { p with nextImage := some image })

/-! ## SPDM (R423, R433) -/

/-- The exchange of a port. -/
def Pkg.spdm (p : Pkg) : SpdmPort → Spdm
  | .host => p.spdmHost
  | .management => p.spdmMgmt

/-- Changes the exchange of a port. -/
def State.setSpdm (s : State) (port : SpdmPort) (f : Spdm → Spdm) : State :=
  s.setPkg fun p =>
    match port with
    | .host => { p with spdmHost := f p.spdmHost }
    | .management => { p with spdmMgmt := f p.spdmMgmt }

/-- R423, R433: a new exchange, of version 1.3 alone; a requester that does not offer it is refused. -/
def execGetVersion (offer : SpdmOffer) (s : State) : Host.Outcome State Fault Refusal :=
  .next (s.setSpdm offer.port fun _ =>
    if offer.versions.contains 0x13 then { Spdm.reset with version := true, answer := [0x13] }
    else { Spdm.reset with refused := true })

/-- Changes the exchange of a port, unless its session was refused at GET_VERSION (R433). -/
def State.spdmAnswer (s : State) (port : SpdmPort) (f : Spdm → Spdm) : State :=
  s.setSpdm port fun x => if x.refused && !x.version then x else f x

/-- R423: what the answer lists is not stated. -/
def execGetCapabilities (port : SpdmPort) (s : State) : Host.Outcome State Fault Refusal :=
  .next ({ s with free := s.free + 1 }.spdmAnswer port fun x =>
    { x with capabilities := true, answer := [(Config.freeWord s.free).toNat] })

/-- R423: Falcon-1024 and SHAKE256 only; any other choice is refused. -/
def execNegotiateAlgorithms (port : SpdmPort) (falcon shake : Bool) (s : State) : Host.Outcome State Fault Refusal :=
  .next (s.spdmAnswer port fun x =>
    if falcon && shake then { x with negotiated := true, refused := false, answer := [1, 1] }
    else { x with negotiated := false, refused := true, answer := [] })

/-- R423. -/
def execGetCertificate (port : SpdmPort) (s : State) : Host.Outcome State Fault Refusal :=
  .next (s.spdmAnswer port fun x => { x with answer := [Config.certificate] })

/-- R423: signed with the device identity key. -/
def execChallenge (port : SpdmPort) (nonce : Word) (s : State) : Host.Outcome State Fault Refusal :=
  .next (s.spdmAnswer port fun x => { x with answer := [nonce.toNat, Config.deviceSign nonce.toNat] })

/-- The two hall keys as one subject of a digest. -/
def Pkg.hallSubject (p : Pkg) : Nat :=
  let key (k : Nat) : Nat := match FMap.get none p.hallKeys k with | some i => i + 1 | none => 0
  key 0 * 2 ^ 65 + key 1

/-- Measurement `i` (R423): of the image that booted, of a partition's verified image, 64 zero bytes where there is none, of the hall keys,
or of what a package never changes. -/
def State.measurementOf (s : State) (i : Nat) : BitVec 512 :=
  if i = 2 then (match s.pkg.image with | some x => x.digest | none => Config.measurement 2 0)
  else if 4 ≤ i ∧ i ≤ 19 then ((s.partOf (i - 4)).image).getD 0
  else Config.measurement i (if i = 20 then s.pkg.hallSubject else 0)

/-- The twenty measurements. -/
def State.measurements (s : State) : List Nat := (List.range 20).map fun k => (s.measurementOf (k + 1)).toNat

/-- R423. -/
def execGetMeasurements (port : SpdmPort) (s : State) : Host.Outcome State Fault Refusal :=
  .next (s.spdmAnswer port fun x => { x with answer := s.measurements })

end Sys2Proof.Machine
end

