-- ==== Sys2Proof/Machine/Hub.lean ====
section
/-!
DEFINITION. Partitions and contexts (24_system_and_attachment.md R414, R415), the event ring's read index (R418) and the watch-filter
registers (R191).
-/

namespace Sys2Proof.Machine

/-! ## Partitions (R414) -/

/-- Whether a partition has a bound strand or an op. -/
def State.partBusy (s : State) (p : Nat) : Bool :=
  (s.all.any fun t => t.bound && t.part == p) || (s.eng.ops.any fun o => o.2.live && o.2.part == p)

/-- Whether two HBM ranges meet. -/
def rangesMeet (a b : Nat × Nat) : Bool := decide (a.1 < b.1 + b.2 ∧ b.1 < a.1 + a.2)

/-- Whether another partition holds one of some resources. -/
def State.resourceTaken (s : State) (p : Nat) (islands : BitVec 32) (sysCores : BitVec 16) (hbm : List (Nat × Nat))
    (netPorts : BitVec 2) : Bool :=
  s.hub.parts.any fun x =>
    x.1 != p && x.2.live &&
      ((x.2.islands &&& islands) != 0 || (x.2.sysCores &&& sysCores) != 0 || (x.2.netPorts &&& netPorts) != 0
        || x.2.hbm.any fun r => hbm.any (rangesMeet r))

/-- Queue pairs that the other partitions may have on shared ports, and the ports that they own whole. -/
def State.sharedQuotas (s : State) (p : Nat) : Nat × BitVec 2 :=
  (s.hub.parts.filter fun x => x.1 != p && x.2.live).foldl (fun a x => (a.1 + x.2.qpQuota, a.2 ||| x.2.netPorts)) (0, 0)

/-- Whether the resource words of a PARTSET keep the limits of R414: at most 64 HBM ranges of program-visible frames that do not meet,
at most 65,536 attachments, and quotas of at most 16,384 queue pairs for each port that no partition owns whole. -/
def State.goodResources (s : State) (p : Nat) (hbm : List (Nat × Nat)) (netPorts : BitVec 2) (qpQuota queueQuota : Nat) : Bool :=
  decide (hbm.length ≤ 64 ∧ hbm.Pairwise fun a b => rangesMeet a b = false)
    && hbm.all (fun r => decide (0 < r.2 ∧ r.1 + r.2 ≤ 896)) && decide (queueQuota ≤ 65536)
    && decide (qpQuota + (s.sharedQuotas p).1 ≤ 16384 * (2 - portCount ((s.sharedQuotas p).2 ||| netPorts)))

/-- Whether a context of a partition holds a ply outside some islands. -/
def State.ctxOutside (s : State) (p : Nat) (islands : BitVec 32) : Bool :=
  s.hub.ctxs.any fun c => c.2.live && c.2.part == p && c.2.plies.any fun y => !islands.getLsbD (y / 5)

/-- The name caches of the cores of islands that change partition are emptied (R34). -/
def State.clearCaches (s : State) (islands : BitVec 32) : State :=
  (((List.range 32).filter fun i => islands.getLsbD i).flatMap fun i => (List.range 80).map (80 * i + ·)).foldl
    (fun s c => if (s.coreOf c).names.isEmpty then s else s.setCore c fun k => { k with names := [] }) s

/-- R414. Fumarole verifies the system image of a partition that has none yet, and only then do its system cores leave reset (R421 step 7):
what the image is, and whether it checks, is free. A partition without islands and system cores is one to be destroyed (R415): its
contexts are gone, and its scrub starts. -/
def execPartset (ring : Nat) (part : Word) (islands : BitVec 32) (sysCores : BitVec 16) (hbm : List (Nat × Nat))
    (irqCore : BitVec 4) (net : NetShare) (queueQuota : Word) (s : State) :
    Host.Outcome State Fault Refusal :=
  s.hvCommand (.partset part islands sysCores hbm irqCore net queueQuota) ring fun s =>
    let p := part.toNat
    let old := s.partOf p
    if 15 < p then (hubBADARG, s)
    else if s.partBusy p ∨ old.scrubbing then (hubBUSY, s)
    else if islands = 0 ∧ sysCores = 0 then
      if !old.live then (hubBADARG, s)
      else if s.hub.ctxs.any fun c => c.2.live && c.2.part == p then (hubBUSY, s)
      else (hubDONE, s.setPart p fun q => { q with scrubbing := true })
    else if islands = 0 ∨ sysCores = 0 ∨ !sysCores.getLsbD irqCore.toNat
        ∨ !s.goodResources p hbm net.whole net.queuePairs.toNat queueQuota.toNat ∨ s.resourceTaken p islands sysCores hbm net.whole then
      (hubBADARG, s)
    else if s.ctxOutside p islands then (hubBUSY, s)
    else
      let s := s.clearCaches (islands ^^^ old.islands)
      let s := s.setPart p fun q =>
        { q with live := true, islands := islands, sysCores := sysCores, hbm := hbm, irqCore := irqCore
                 qpQuota := net.queuePairs.toNat, netPorts := net.whole, queueQuota := queueQuota.toNat
                 image := q.image.or (if Config.systemImageOk p s.free then some (Config.systemImage p s.free) else none) }
      (hubDONE, { s with free := s.free + 1 }.updateCaps)

/-- R32. The form of a reach map is not stated: the chips it joins are free. -/
def execReach (ring : Nat) (part map : Word) (s : State) : Host.Outcome State Fault Refusal :=
  s.partCommand (.words 0x21 0 [part, map]) ring part fun s p =>
    if !s.inHbm none map.toNat 64 then (hubBADARG, s)
    else
      let chips := (List.range 384).filter fun c => Config.freeBit (s.free + c) && c != s.hub.chip
      (hubDONE, { s with free := s.free + 384 }.setPart p fun q => { q with reach := chips })

/-- A context number that is free, for plies of a partition, each once and in ascending order (R94, R414): none where the context has
cores on other chips alone (R84). -/
def execContextCreate (part ctx : Nat) (plies : List Nat) (s : State) : Host.Outcome State Fault Refusal :=
  let p := s.partOf part
  let ps := (List.range Config.plies).filter fun y => plies.contains y
  if p.live ∧ !p.scrubbing ∧ ctx < 65535 ∧ !(s.ctxOf ctx).live ∧ ps.all fun y => p.islands.getLsbD (y / 5) then
    .next ({ s with ages := s.ages + 1 }.setCtx ctx fun _ =>
      { Ctx.none with live := true, part := part, born := s.ages, plies := ps })
  else .next s

/-! ## Scrubbing (R193, R240, R415) -/

/-- Sets a range of a memory, its tags, descriptors and selects to their reset values. -/
def Mem.scrubRange (m : Mem) (k n : Nat) : Mem :=
  { m with
    bytes := FMap.clear m.bytes k (k + n), tags := FMap.clear m.tags (k / 8) ((k + n) / 8)
    poison := FMap.clear m.poison (k / 8) ((k + n) / 8), descs := FMap.clear m.descs (k / 64) ((k + n) / 64)
    selects := FMap.clear m.selects (k / 4096) ((k + n) / 4096) }

/-- Sets a tagged memory to its reset values (R240). -/
def Mem.scrubTagged (m : Mem) (sp : Space) (n : Nat) : Mem :=
  let m := m.scrubRange (PAddr.key { space := sp, off := 0 }) n
  let lo := sp.index * 8
  { m with
    tables := FMap.clear m.tables (128 * lo) (128 * (lo + 8)), vectors := FMap.clear m.vectors lo (lo + 8)
    owners := FMap.clear m.owners lo (lo + 8), redirects := FMap.clear m.redirects lo (lo + 8) }

/-- Scrubs every memory of a partition. -/
def State.scrub (s : State) (p : Nat) : State :=
  let q := s.partOf p
  let cores := s.partCores p
  let m := cores.foldl (fun m c => Mem.scrubTagged m (.ls c) Config.lsBytes) s.mem
  let m := (cores.map corePly).eraseDups.foldl (fun m y => Mem.scrubTagged m (.pool y) Config.poolBytes) m
  { s with mem := q.hbm.foldl (fun m r => m.scrubRange (hbmKey (r.1 * 2 ^ 30)) (r.2 * 2 ^ 30)) m }

/-- R415: names removed, memories scrubbed, resources returned, its queue pairs among them. -/
def execPartitionScrubComplete (part : Nat) (s : State) : Host.Outcome State Fault Refusal :=
  let p := s.partOf part
  if p.scrubbing then
    let s := s.scrub part
    let s := (s.clearCaches p.islands).setHub fun h =>
      { h with names := h.names.filter fun n => n.2.part != part, queues := h.queues.filter fun q => q.2.part != part
               rings := FMap.set [] h.rings part [] }
    let s := s.setPkg fun p => { p with qpairs := p.qpairs.filter fun q => q.2.part != part }
    .next ((s.setPart part fun _ => Part.none).updateCaps)
  else .next s

/-! ## Registers (R191, R418) -/

/-- Entries that the ring of a partition holds. -/
abbrev ringEntries : Nat := 256

/-- R418: entries below the read index are free, and held events take their places. -/
def execEventReadIndexWrite (part : Nat) (index : Word) (s : State) : Host.Outcome State Fault Refusal :=
  let p := s.partOf part
  let n := min (index.toNat - p.evRead) (min ringEntries p.events.length)
  let written := min n (p.events.length - ringEntries)
  .next (s.setPart part fun q =>
    { q with events := q.events.drop n, evRead := q.evRead + n, interrupts := q.interrupts + written })

/-- The writable bits of a watch-filter register: base, control, mask. -/
def watchBits (index : Nat) : Word :=
  match index % 3 with
  | 0 => 0x01FFFFFFFFFFFFC0#64
  | 1 => 0x800007FFFFFFFFFF#64
  | _ => BitVec.allOnes 64

/-- R191. -/
def execRegisterWrite (ply : Nat) (index : BitVec 4) (value : Word) (s : State) : Host.Outcome State Fault Refusal :=
  if Config.plies ≤ ply ∨ 12 ≤ index.toNat then .next s
  else
    .next { s with mem := { s.mem with
      watch := FMap.set 0 s.mem.watch (12 * ply + index.toNat) (value &&& watchBits index.toNat) } }

end Sys2Proof.Machine
end

