-- ==== Sys2Proof/Machine/Scalar.lean ====
section
/-!
DEFINITION. The scalar register and immediate instructions (07_scalar_and_control.md R137–R143).
-/

namespace Sys2Proof.Machine

/-! ## Shared forms -/

/-- What an SR word does when its guard is on (R116); a guarded-off word does nothing. -/
def guarded (g : Guard) (body : Act Unit) : Act Flow := do
  if ← guardOn g then body
  pure .next

/-- `gd := f ga gb`, a short result. -/
def shortBinary (d a b : Reg) (f : Word → Word → Word) : Act Unit := do
  prologue false [a, b] [d] [] []
  let x ← readReg a
  let y ← readReg b
  writeReg d (f x y)

/-- `gd := f ga gb`, a long result. -/
def longBinary (d a b : Reg) (f : Word → Word → Word) : Act Unit := do
  prologue true [a, b] [d] [] []
  let x ← readReg a
  let y ← readReg b
  longReg d (f x y)

/-- `gd := f ga gb`, a long result, with DZ on a zero divisor (R140). -/
def divBinary (d a b : Reg) (f : Word → Word → Word) : Act Unit := do
  prologue true [a, b] [d] [] []
  let x ← readReg a
  let y ← readReg b
  longReg d (f x y)
  setFlags (flagIf (y == 0) flagDZ)

/-- `gd := f gd ga gb`, where gd is read too. -/
def shortTernary (d a b : Reg) (f : Word → Word → Word → Word) : Act Unit := do
  prologue false [d, a, b] [d] [] []
  let z ← readReg d
  let x ← readReg a
  let y ← readReg b
  writeReg d (f z x y)

/-- `gd := f ga`. -/
def shortUnary (d a : Reg) (f : Word → Word) : Act Unit := do
  prologue false [a] [d] [] []
  let x ← readReg a
  writeReg d (f x)

/-- Sets bit `i` of a word to a truth value. -/
def putBit (z : Word) (i : BitVec 6) (b : Bool) : Word :=
  (z &&& ~~~(1#64 <<< i.toNat)) ||| ((bit b).setWidth 64 <<< i.toNat)

/-- `cmp`: bit `i` of gd becomes the condition (R141); never guarded. -/
def compareBit (d a b : Reg) (i : BitVec 6) (f : Word → Word → Bool) : Act Flow := do
  prologue false [d, a, b] [d] [] []
  let z ← readReg d
  let x ← readReg a
  let y ← readReg b
  writeReg d (putBit z i (f x y))
  pure .next

/-- `cmpi`: bit `b` of gd becomes the condition with the immediate (R143). -/
def compareImm (d a : Reg) (b i : BitVec 6) (signed : Bool) (f : Word → Word → Bool) : Act Flow := do
  prologue false [d, a] [d] [] []
  let y ← immOf signed 6 i.toNat
  let z ← readReg d
  let x ← readReg a
  writeReg d (putBit z b (f x y))
  pure .next

/-- `gd := f ga imm` (R142). -/
def immBinary (signed : Bool) (d a : Reg) (i : BitVec 15) (f : Word → Word → Word) : Act Flow := do
  prologue false [a] [d] [] []
  let y ← immOf signed 15 i.toNat
  let x ← readReg a
  writeReg d (f x y)
  pure .next

/-- A shift or single-bit op: every widened bit above the count must be zero (R142). -/
def countImm (i : Instr) (d a : Reg) (n : BitVec 6) (f : Word → Nat → Word) : Act Flow := do
  let s ← get
  if 64 ≤ (widen 15 n.toNat s.me.pfx.xis).1 then
    trapWith .illop (illopInfo 1 s.me.pfx.count ((encode i).getD 0)) 0
  prologue false [a] [d] [] []
  let x ← readReg a
  writeReg d (f x n.toNat)
  pure .next

/-! ## Arithmetic -/

/-- Bits 127:64 of the signed product. -/
def mulHighS (x y : Word) : Word := (BitVec.ofInt 128 (x.toInt * y.toInt)).extractLsb' 64 64

/-- Bits 127:64 of the unsigned product. -/
def mulHighU (x y : Word) : Word := BitVec.ofNat 64 (x.toNat * y.toNat / 2 ^ 64)

/-- Signed quotient, rounded towards zero (R140). -/
def quotS (x y : Word) : Word := if y = 0 then BitVec.allOnes 64 else BitVec.ofInt 64 (x.toInt.tdiv y.toInt)

/-- Unsigned quotient. -/
def quotU (x y : Word) : Word := if y = 0 then BitVec.allOnes 64 else BitVec.ofNat 64 (x.toNat / y.toNat)

/-- Signed remainder, with the sign of the dividend. -/
def remS (x y : Word) : Word := if y = 0 then x else BitVec.ofInt 64 (x.toInt.tmod y.toInt)

/-- Unsigned remainder. -/
def remU (x y : Word) : Word := if y = 0 then x else BitVec.ofNat 64 (x.toNat % y.toNat)

/-- A shift amount: bits 5:0. -/
def amount (y : Word) : Nat := y.toNat % 64

/-- Rotation to the left. -/
def rotl (x : Word) (n : Nat) : Word := (x <<< n) ||| (x >>> (64 - n))

/-- Rotation to the right. -/
def rotr (x : Word) (n : Nat) : Word := (x >>> n) ||| (x <<< (64 - n))

/-- Leading zero bits. -/
def leading (x : Word) : Word := if x = 0 then 64 else BitVec.ofNat 64 (63 - Nat.log2 x.toNat)

/-- Trailing zero bits: the position of the lowest one bit. -/
def trailing (x : Word) : Word := if x = 0 then 64 else BitVec.ofNat 64 (Nat.log2 (x &&& -x).toNat)

/-- One bits. -/
def onesIn (x : Word) : Word := BitVec.ofNat 64 ((List.range 64).filter fun i => x.getLsbD i).length

/-- The mask of a field's width (R141). -/
def fieldMask (y : Word) : Word := BitVec.ofNat 64 (2 ^ (y.extractLsb' 8 6).toNat - 1)

/-- `bext` (R141). -/
def extractField (x y : Word) : Word := (x >>> amount y) &&& fieldMask y

/-- `bins` (R141). -/
def insertField (z x y : Word) : Word :=
  let m := fieldMask y <<< amount y
  (z &&& ~~~m) ||| ((x <<< amount y) &&& m)

/-- The low `n` bits, sign-extended. -/
def sextLow (n : Nat) (x : Word) : Word := (x.setWidth n).signExtend 64

/-- The low `n` bits, zero-extended. -/
def zextLow (n : Nat) (x : Word) : Word := (x.setWidth n).setWidth 64

/-! ## SR (R139–R141) -/

/-- R139. -/
def execAdd (sw : Bool) (d a b : Reg) (g : Guard) (s : State) : Host.Outcome State Fault Refusal :=
  issue (.add sw d a b g) sw .plain (guarded g (shortBinary d a b (fun x y => x + y))) s

/-- R139. -/
def execSub (sw : Bool) (d a b : Reg) (g : Guard) (s : State) : Host.Outcome State Fault Refusal :=
  issue (.sub sw d a b g) sw .plain (guarded g (shortBinary d a b (fun x y => x - y))) s

/-- R139. -/
def execMul (sw : Bool) (d a b : Reg) (g : Guard) (s : State) : Host.Outcome State Fault Refusal :=
  issue (.mul sw d a b g) sw .plain (guarded g (longBinary d a b (fun x y => x * y))) s

/-- R139. -/
def execMulh (sw : Bool) (d a b : Reg) (g : Guard) (s : State) : Host.Outcome State Fault Refusal :=
  issue (.mulh sw d a b g) sw .plain (guarded g (longBinary d a b (mulHighS))) s

/-- R139. -/
def execMulhu (sw : Bool) (d a b : Reg) (g : Guard) (s : State) : Host.Outcome State Fault Refusal :=
  issue (.mulhu sw d a b g) sw .plain (guarded g (longBinary d a b (mulHighU))) s

/-- R140. -/
def execDiv (sw : Bool) (d a b : Reg) (g : Guard) (s : State) : Host.Outcome State Fault Refusal :=
  issue (.div sw d a b g) sw .plain (guarded g (divBinary d a b (quotS))) s

/-- R140. -/
def execDivu (sw : Bool) (d a b : Reg) (g : Guard) (s : State) : Host.Outcome State Fault Refusal :=
  issue (.divu sw d a b g) sw .plain (guarded g (divBinary d a b (quotU))) s

/-- R140. -/
def execRem (sw : Bool) (d a b : Reg) (g : Guard) (s : State) : Host.Outcome State Fault Refusal :=
  issue (.rem sw d a b g) sw .plain (guarded g (divBinary d a b (remS))) s

/-- R140. -/
def execRemu (sw : Bool) (d a b : Reg) (g : Guard) (s : State) : Host.Outcome State Fault Refusal :=
  issue (.remu sw d a b g) sw .plain (guarded g (divBinary d a b (remU))) s

/-- R139. -/
def execAnd (sw : Bool) (d a b : Reg) (g : Guard) (s : State) : Host.Outcome State Fault Refusal :=
  issue (.and sw d a b g) sw .plain (guarded g (shortBinary d a b (fun x y => x &&& y))) s

/-- R139. -/
def execOr (sw : Bool) (d a b : Reg) (g : Guard) (s : State) : Host.Outcome State Fault Refusal :=
  issue (.or sw d a b g) sw .plain (guarded g (shortBinary d a b (fun x y => x ||| y))) s

/-- R139. -/
def execXor (sw : Bool) (d a b : Reg) (g : Guard) (s : State) : Host.Outcome State Fault Refusal :=
  issue (.xor sw d a b g) sw .plain (guarded g (shortBinary d a b (fun x y => x ^^^ y))) s

/-- R139. -/
def execAndn (sw : Bool) (d a b : Reg) (g : Guard) (s : State) : Host.Outcome State Fault Refusal :=
  issue (.andn sw d a b g) sw .plain (guarded g (shortBinary d a b (fun x y => x &&& ~~~y))) s

/-- R139. -/
def execOrn (sw : Bool) (d a b : Reg) (g : Guard) (s : State) : Host.Outcome State Fault Refusal :=
  issue (.orn sw d a b g) sw .plain (guarded g (shortBinary d a b (fun x y => x ||| ~~~y))) s

/-- R139. -/
def execShl (sw : Bool) (d a b : Reg) (g : Guard) (s : State) : Host.Outcome State Fault Refusal :=
  issue (.shl sw d a b g) sw .plain (guarded g (shortBinary d a b (fun x y => x <<< amount y))) s

/-- R139. -/
def execShr (sw : Bool) (d a b : Reg) (g : Guard) (s : State) : Host.Outcome State Fault Refusal :=
  issue (.shr sw d a b g) sw .plain (guarded g (shortBinary d a b (fun x y => x >>> amount y))) s

/-- R139. -/
def execSar (sw : Bool) (d a b : Reg) (g : Guard) (s : State) : Host.Outcome State Fault Refusal :=
  issue (.sar sw d a b g) sw .plain (guarded g (shortBinary d a b (fun x y => x.sshiftRight (amount y)))) s

/-- R139. -/
def execRol (sw : Bool) (d a b : Reg) (g : Guard) (s : State) : Host.Outcome State Fault Refusal :=
  issue (.rol sw d a b g) sw .plain (guarded g (shortBinary d a b (fun x y => rotl x (amount y)))) s

/-- R139. -/
def execRor (sw : Bool) (d a b : Reg) (g : Guard) (s : State) : Host.Outcome State Fault Refusal :=
  issue (.ror sw d a b g) sw .plain (guarded g (shortBinary d a b (fun x y => rotr x (amount y)))) s

/-- R139. -/
def execMin (sw : Bool) (d a b : Reg) (g : Guard) (s : State) : Host.Outcome State Fault Refusal :=
  issue (.min sw d a b g) sw .plain (guarded g (shortBinary d a b (fun x y => if y.slt x then y else x))) s

/-- R139. -/
def execMax (sw : Bool) (d a b : Reg) (g : Guard) (s : State) : Host.Outcome State Fault Refusal :=
  issue (.max sw d a b g) sw .plain (guarded g (shortBinary d a b (fun x y => if x.slt y then y else x))) s

/-- R139. -/
def execMinu (sw : Bool) (d a b : Reg) (g : Guard) (s : State) : Host.Outcome State Fault Refusal :=
  issue (.minu sw d a b g) sw .plain (guarded g (shortBinary d a b (fun x y => if y.ult x then y else x))) s

/-- R139. -/
def execMaxu (sw : Bool) (d a b : Reg) (g : Guard) (s : State) : Host.Outcome State Fault Refusal :=
  issue (.maxu sw d a b g) sw .plain (guarded g (shortBinary d a b (fun x y => if x.ult y then y else x))) s

/-- R139. -/
def execSel (sw : Bool) (d a b : Reg) (g : Guard) (s : State) : Host.Outcome State Fault Refusal :=
  issue (.sel sw d a b g) sw .plain (guarded g (shortTernary d a b (fun z x y => (x &&& z) ||| (y &&& ~~~z)))) s

/-- R141. -/
def execBext (sw : Bool) (d a b : Reg) (g : Guard) (s : State) : Host.Outcome State Fault Refusal :=
  issue (.bext sw d a b g) sw .plain (guarded g (shortBinary d a b (extractField))) s

/-- R141. -/
def execBins (sw : Bool) (d a b : Reg) (g : Guard) (s : State) : Host.Outcome State Fault Refusal :=
  issue (.bins sw d a b g) sw .plain (guarded g (shortTernary d a b (insertField))) s

/-- R139. -/
def execClz (sw : Bool) (d a : Reg) (g : Guard) (s : State) : Host.Outcome State Fault Refusal :=
  issue (.clz sw d a g) sw .plain (guarded g (shortUnary d a (leading))) s

/-- R139. -/
def execCtz (sw : Bool) (d a : Reg) (g : Guard) (s : State) : Host.Outcome State Fault Refusal :=
  issue (.ctz sw d a g) sw .plain (guarded g (shortUnary d a (trailing))) s

/-- R139. -/
def execPop (sw : Bool) (d a : Reg) (g : Guard) (s : State) : Host.Outcome State Fault Refusal :=
  issue (.pop sw d a g) sw .plain (guarded g (shortUnary d a (onesIn))) s

/-- R141. -/
def execSextB (sw : Bool) (d a : Reg) (g : Guard) (s : State) : Host.Outcome State Fault Refusal :=
  issue (.sextB sw d a g) sw .plain (guarded g (shortUnary d a (sextLow 8))) s

/-- R141. -/
def execSextH (sw : Bool) (d a : Reg) (g : Guard) (s : State) : Host.Outcome State Fault Refusal :=
  issue (.sextH sw d a g) sw .plain (guarded g (shortUnary d a (sextLow 16))) s

/-- R141. -/
def execSextW (sw : Bool) (d a : Reg) (g : Guard) (s : State) : Host.Outcome State Fault Refusal :=
  issue (.sextW sw d a g) sw .plain (guarded g (shortUnary d a (sextLow 32))) s

/-- R141. -/
def execZextB (sw : Bool) (d a : Reg) (g : Guard) (s : State) : Host.Outcome State Fault Refusal :=
  issue (.zextB sw d a g) sw .plain (guarded g (shortUnary d a (zextLow 8))) s

/-- R141. -/
def execZextH (sw : Bool) (d a : Reg) (g : Guard) (s : State) : Host.Outcome State Fault Refusal :=
  issue (.zextH sw d a g) sw .plain (guarded g (shortUnary d a (zextLow 16))) s

/-- R141. -/
def execZextW (sw : Bool) (d a : Reg) (g : Guard) (s : State) : Host.Outcome State Fault Refusal :=
  issue (.zextW sw d a g) sw .plain (guarded g (shortUnary d a (zextLow 32))) s

/-- R141. -/
def execCeq (sw : Bool) (d a b : Reg) (i : BitVec 6) (s : State) : Host.Outcome State Fault Refusal :=
  issue (.ceq sw d a b i) sw .plain (compareBit d a b i (fun x y => x == y)) s

/-- R141. -/
def execCne (sw : Bool) (d a b : Reg) (i : BitVec 6) (s : State) : Host.Outcome State Fault Refusal :=
  issue (.cne sw d a b i) sw .plain (compareBit d a b i (fun x y => x != y)) s

/-- R141. -/
def execClt (sw : Bool) (d a b : Reg) (i : BitVec 6) (s : State) : Host.Outcome State Fault Refusal :=
  issue (.clt sw d a b i) sw .plain (compareBit d a b i (fun x y => x.slt y)) s

/-- R141. -/
def execCltu (sw : Bool) (d a b : Reg) (i : BitVec 6) (s : State) : Host.Outcome State Fault Refusal :=
  issue (.cltu sw d a b i) sw .plain (compareBit d a b i (fun x y => x.ult y)) s

/-- R141. -/
def execCle (sw : Bool) (d a b : Reg) (i : BitVec 6) (s : State) : Host.Outcome State Fault Refusal :=
  issue (.cle sw d a b i) sw .plain (compareBit d a b i (fun x y => x.sle y)) s

/-- R141. -/
def execCleu (sw : Bool) (d a b : Reg) (i : BitVec 6) (s : State) : Host.Outcome State Fault Refusal :=
  issue (.cleu sw d a b i) sw .plain (compareBit d a b i (fun x y => x.ule y)) s

/-- R141: `gd := ga + (gb << h)`, never guarded. -/
def execAdds (sw : Bool) (d a b : Reg) (h : BitVec 3) (s : State) : Host.Outcome State Fault Refusal :=
  issue (.adds sw d a b h) sw .plain (do
    shortBinary d a b fun x y => x + (y <<< h.toNat)
    pure .next) s

/-! ## SI (R142, R143) -/

/-- R142. -/
def execAddi (sw : Bool) (d a : Reg) (i : BitVec 15) (s : State) : Host.Outcome State Fault Refusal :=
  issue (.addi sw d a i) sw .imm (immBinary true d a i (fun x y => x + y)) s

/-- R142. -/
def execAndi (sw : Bool) (d a : Reg) (i : BitVec 15) (s : State) : Host.Outcome State Fault Refusal :=
  issue (.andi sw d a i) sw .imm (immBinary true d a i (fun x y => x &&& y)) s

/-- R142. -/
def execOri (sw : Bool) (d a : Reg) (i : BitVec 15) (s : State) : Host.Outcome State Fault Refusal :=
  issue (.ori sw d a i) sw .imm (immBinary false d a i (fun x y => x ||| y)) s

/-- R142. -/
def execXori (sw : Bool) (d a : Reg) (i : BitVec 15) (s : State) : Host.Outcome State Fault Refusal :=
  issue (.xori sw d a i) sw .imm (immBinary false d a i (fun x y => x ^^^ y)) s

/-- R142. -/
def execShli (sw : Bool) (d a : Reg) (n : BitVec 6) (s : State) : Host.Outcome State Fault Refusal :=
  issue (.shli sw d a n) sw .imm (countImm (.shli sw d a n) d a n (fun x n => x <<< n)) s

/-- R142. -/
def execShri (sw : Bool) (d a : Reg) (n : BitVec 6) (s : State) : Host.Outcome State Fault Refusal :=
  issue (.shri sw d a n) sw .imm (countImm (.shri sw d a n) d a n (fun x n => x >>> n)) s

/-- R142. -/
def execSari (sw : Bool) (d a : Reg) (n : BitVec 6) (s : State) : Host.Outcome State Fault Refusal :=
  issue (.sari sw d a n) sw .imm (countImm (.sari sw d a n) d a n (fun x n => x.sshiftRight n)) s

/-- R142. -/
def execBseti (sw : Bool) (d a : Reg) (n : BitVec 6) (s : State) : Host.Outcome State Fault Refusal :=
  issue (.bseti sw d a n) sw .imm (countImm (.bseti sw d a n) d a n (fun x n => x ||| (1#64 <<< n))) s

/-- R142. -/
def execBclri (sw : Bool) (d a : Reg) (n : BitVec 6) (s : State) : Host.Outcome State Fault Refusal :=
  issue (.bclri sw d a n) sw .imm (countImm (.bclri sw d a n) d a n (fun x n => x &&& ~~~(1#64 <<< n))) s

/-- R142. -/
def execBinvi (sw : Bool) (d a : Reg) (n : BitVec 6) (s : State) : Host.Outcome State Fault Refusal :=
  issue (.binvi sw d a n) sw .imm (countImm (.binvi sw d a n) d a n (fun x n => x ^^^ (1#64 <<< n))) s

/-- R142: a long result. -/
def execMuli (sw : Bool) (d a : Reg) (i : BitVec 15) (s : State) : Host.Outcome State Fault Refusal :=
  issue (.muli sw d a i) sw .imm (do
    prologue true [a] [d] [] []
    let y ← immOf true 15 i.toNat
    let x ← readReg a
    longReg d (x * y)
    pure .next) s

/-- R142. -/
def execLdi (sw : Bool) (d : Reg) (i : BitVec 19) (s : State) : Host.Outcome State Fault Refusal :=
  issue (.ldi sw d i) sw .imm (do
    prologue false [] [d] [] []
    writeReg d (← immOf true 19 i.toNat)
    pure .next) s

/-- R142: relative to the `adr` word's own address. -/
def execAdr (sw : Bool) (d : Reg) (i : BitVec 19) (s : State) : Host.Outcome State Fault Refusal :=
  issue (.adr sw d i) sw .imm (do
    prologue false [] [d] [] []
    let y ← immOf true 19 i.toNat
    writeReg d ((← get).me.pc + (y <<< 2))
    pure .next) s

/-- R143. -/
def execCeqi (sw : Bool) (d a : Reg) (b i : BitVec 6) (s : State) : Host.Outcome State Fault Refusal :=
  issue (.ceqi sw d a b i) sw .imm (compareImm d a b i true (fun x y => x == y)) s

/-- R143. -/
def execCnei (sw : Bool) (d a : Reg) (b i : BitVec 6) (s : State) : Host.Outcome State Fault Refusal :=
  issue (.cnei sw d a b i) sw .imm (compareImm d a b i true (fun x y => x != y)) s

/-- R143. -/
def execClti (sw : Bool) (d a : Reg) (b i : BitVec 6) (s : State) : Host.Outcome State Fault Refusal :=
  issue (.clti sw d a b i) sw .imm (compareImm d a b i true (fun x y => x.slt y)) s

/-- R143. -/
def execCltui (sw : Bool) (d a : Reg) (b i : BitVec 6) (s : State) : Host.Outcome State Fault Refusal :=
  issue (.cltui sw d a b i) sw .imm (compareImm d a b i false (fun x y => x.ult y)) s

/-- R143. -/
def execClei (sw : Bool) (d a : Reg) (b i : BitVec 6) (s : State) : Host.Outcome State Fault Refusal :=
  issue (.clei sw d a b i) sw .imm (compareImm d a b i true (fun x y => x.sle y)) s

/-- R143. -/
def execCleui (sw : Bool) (d a : Reg) (b i : BitVec 6) (s : State) : Host.Outcome State Fault Refusal :=
  issue (.cleui sw d a b i) sw .imm (compareImm d a b i false (fun x y => x.ule y)) s

end Sys2Proof.Machine
end

