-- ==== Sys2Proof/Machine/Control.lean ====
section
/-!
DEFINITION. Branches, calls, traps by instruction, and the state registers (07_scalar_and_control.md R148–R153,
R158–R162; 24_system_and_attachment.md R420).
-/

namespace Sys2Proof.Machine

/-! ## Branches (R148) -/

/-- The address of a displacement in words from the current word (R117, R131). -/
def branchTarget (w0 disp : Nat) : Act Word := do
  let d ← immOf true w0 disp
  pure ((← get).me.pc + (d <<< 2))

/-- A misaligned control target (R382). -/
def checkTarget (t : Word) : Act Unit :=
  if t.toNat % 4 ≠ 0 then trapWith .align (BitVec.ofNat 64 (512 * 3)) t else pure ()

/-- R148. -/
def execBr (sw : Bool) (d : BitVec 24) (s : State) : Host.Outcome State Fault Refusal :=
  issue (.br sw d) sw .imm (do
    pure (.jump (← branchTarget 24 d.toNat))) s

/-- R148: sense 0 branches when the bit is 1, sense 1 when it is 0. -/
def execBb (sw : Bool) (r : Reg) (b : BitVec 6) (n : Bool) (d : BitVec 13) (s : State) :
    Host.Outcome State Fault Refusal :=
  issue (.bb sw r b n d) sw .imm (do
    prologue false [r] [] [] []
    let x ← readReg r
    if x.getLsbD b.toNat ≠ n then pure (.jump (← branchTarget 13 d.toNat)) else pure .next) s

/-- R148: the counter is written whether or not the branch is taken. -/
def execDbnz (sw : Bool) (r : Reg) (d : BitVec 20) (s : State) : Host.Outcome State Fault Refusal :=
  issue (.dbnz sw r d) sw .imm (do
    prologue false [r] [r] [] []
    let x ← readReg r
    let t ← branchTarget 20 d.toNat
    writeReg r (x - 1)
    if x - 1 ≠ 0 then pure (.jump t) else pure .next) s

/-- R148. -/
def execJmp (sw : Bool) (r : Reg) (s : State) : Host.Outcome State Fault Refusal :=
  issue (.jmp sw r) sw .plain (do
    prologue false [r] [] [] []
    let t ← readReg r
    checkTarget t
    pure (.jump t)) s

/-! ## Calls (R149, R150) -/

/-- The stack entry of the link register in a call's new window (R150). -/
def linkEntry : Act Nat := do pure (entryOf ((← get).me.cwp + 1) 7)

/-- RUNHAZ of a call's link register, before the checks of its own pseudocode (R175, R381). -/
def linkHazard : Act Unit := do
  let e ← linkEntry
  let s ← get
  if s.me.strict && (lastG e s.me.outstanding).isSome then trapWith .runhaz (hazG 2 7 e) 0

/-- A call: SPILL check, window shift, link, jump (R150). -/
def callTo (t : Word) : Act Flow := do
  let s ← get
  if s.me.rdep.toNat = (if s.me.hm then 6 else 5) then trapWith .spill 0 0
  let link ← linkEntry
  modMe fun m => { m with cwp := m.cwp + 1, rdep := m.rdep + 1 }
  writeEntry link (s.me.pc + 4)
  pure (.jump t)

/-- R150. -/
def execCall (sw : Bool) (d : BitVec 24) (s : State) : Host.Outcome State Fault Refusal :=
  issue (.call sw d) sw .imm (do
    linkHazard
    callTo (← branchTarget 24 d.toNat)) s

/-- R150. -/
def execCallr (sw : Bool) (r : Reg) (s : State) : Host.Outcome State Fault Refusal :=
  issue (.callr sw r) sw .plain (do
    strictG 1 [r]
    linkHazard
    prologue false [r] [] [] []
    let t ← readReg r
    checkTarget t
    callTo t) s

/-- R150. -/
def execRet (sw : Bool) (s : State) : Host.Outcome State Fault Refusal :=
  issue (.ret sw) sw .plain (do
    prologue false [7] [] [] []
    let t ← readReg 7
    checkTarget t
    let s ← get
    if s.me.rdep = 0 then trapWith .fill 0 0
    modMe fun m => { m with cwp := m.cwp - 1, rdep := m.rdep - 1 }
    pure (.jump t)) s

/-! ## Traps by instruction (R152, R153) -/

/-- R153: `epc` holds the word itself. -/
def execSys (sw : Bool) (c : BitVec 16) (s : State) : Host.Outcome State Fault Refusal :=
  issue (.sys sw c) sw .plain (trapWith .sys (c.setWidth 64) 0) s

/-- R153. -/
def execBrk (sw : Bool) (c : BitVec 16) (s : State) : Host.Outcome State Fault Refusal :=
  issue (.brk sw c) sw .plain (trapWith .brk (c.setWidth 64) 0) s

/-- R152. -/
def execTret (sw : Bool) (s : State) : Host.Outcome State Fault Refusal :=
  issue (.tret sw) sw .plain (do
    let s ← get
    if !s.me.hm then trapWith .priv 2 0
    checkTarget s.me.epc
    modify fun s => s.releaseBanks s.me.core s.me.slot id
    modMe Strand.leaveHandler
    pure (.jump s.me.epc)) s

/-! ## State registers (R158–R161, R420) -/

/-- What a state number names, for its access rule. -/
inductive RegAccess where
  | rw
  | ro
  /-- not listed: reads 0, ignores writes -/
  | none
  deriving DecidableEq, Repr

/-- The access of a state number (R159, R420). -/
def regAccess (n : Nat) : RegAccess :=
  if n ≤ 2 then .rw
  else if n ≤ 5 then .ro
  else if n ≤ 7 then .rw
  else if n ≤ 9 then .ro
  else if n ≤ 0xE then .rw
  else if 0x10 ≤ n ∧ n ≤ 0x16 then .ro
  else if 0x18 ≤ n ∧ n ≤ 0x27 then .ro
  else if 0x40 ≤ n ∧ n ≤ 0x4F then .rw
  else if n = 0x100 ∨ n = 0x101 then .rw
  else if 0x102 ≤ n ∧ n ≤ 0x104 then .ro
  else .none

/-- The stack entry of `hfold` and `hfnew` registers (R159). -/
def halfFrameEntry (t : Strand) (n : Nat) : Nat :=
  let cwp := t.est.extractLsb' 4 3
  let rdep := t.est.extractLsb' 8 3
  let h : BitVec 3 := if n < 0x48 then cwp - rdep else cwp - rdep - 1
  8 * h.toNat + n % 8

/-- Core status, `score` (R420). -/
def State.score (s : State) (core : Nat) : Word :=
  let slots := (List.range 10).foldl (fun a n => if (s.strandAt core n).isSome then a + 2 ^ n else a) 0
  let pending := (s.all.filter fun t => decide (t.place = .pending core)).length
  let banks := (List.range 4).foldl (fun a b => if (s.bankOf core b).cond = .free then a + 2 ^ b else a) 0
  let waiting := min 8 (s.coreOf core).urgent.length
  BitVec.ofNat 64 (slots + pending * 2 ^ 16 + banks * 2 ^ 24 + waiting * 2 ^ 32)

/-- `capcause` of a core's island (R427). -/
def State.capcauseOf (s : State) (core : Nat) : Word := FMap.get capcause0 s.pkg.capcause (coreIsland core)

/-- State registers whose value the device computes: no write of the strand's own reaches them (R159, R420). -/
def deviceState (n : Nat) : Bool := decide ((0x10 ≤ n ∧ n ≤ 0x16) ∨ (0x102 ≤ n ∧ n ≤ 0x104))

/-- What a state register reads after the rewrites of a debugger (R399). -/
def Strand.shown (t : Strand) (n : Nat) (x : Word) : Word := x + FMap.get 0 t.bias n

/-- A state register of a strand that is no stack entry, as the device computes it (R159, R420). -/
def State.stateOf (s : State) (t : Strand) (n : Nat) : Word :=
  if n = 0 then t.pst
  else if n = 1 then t.srseed
  else if n = 2 then t.tvec
  else if n = 3 then t.tcause.setWidth 64
  else if n = 4 then t.taddr
  else if n = 5 then t.tinfo
  else if n = 6 then t.epc
  else if n = 7 then t.est
  else if n = 8 then t.budget
  else if n = 9 then t.deadline
  else if n = 0xA then t.wtmo
  else if n = 0xB then t.sflags.setWidth 64
  else if n = 0xC then t.rmode.setWidth 64
  else if n = 0xD then t.stk
  else if n = 0xE then t.tdeleg.setWidth 64
  else if n = 0x10 then (s.vcoreWord t.ctx t.core).setWidth 64
  else if n = 0x11 then BitVec.ofNat 64 (t.ctx % 65536)
  else if n = 0x12 then BitVec.ofNat 64 (t.part % 16)
  else if n = 0x13 then BitVec.ofNat 64 s.hub.chip
  else if n = 0x14 then s.capcauseOf t.core
  else if n = 0x15 then (s.coreOf t.core).sissue + s.sidleOf t.core
  else if n = 0x16 then s.ns
  else if 0x18 ≤ n ∧ n ≤ 0x1F then FMap.get 0 t.lvl (n - 0x18)
  else if 0x20 ≤ n ∧ n ≤ 0x27 then FMap.get 1 t.ext (n - 0x20)
  else if n = 0x100 then t.budget
  else if n = 0x101 then t.deadline
  else if n = 0x102 then s.score t.core
  else if n = 0x103 then (s.coreOf t.core).sissue
  else if n = 0x104 then s.sidleOf t.core
  else 0

/-- A state register that is no stack entry, as the current strand reads it (R159, R399, R420). -/
def State.readState (s : State) (n : Nat) : Word := s.me.shown n (s.stateOf s.me n)

/-- The strand after a write of a state register that is no stack entry: only writable fields change (R158–R161). -/
def Strand.writeState (t : Strand) (n : Nat) (x : Word) : Strand :=
  if n = 0 then { t with strict := x.getLsbD 0 }
  else if n = 1 then { t with srseed := x }
  else if n = 2 then { t with tvec := x &&& ~~~3#64 }
  else if n = 6 then { t with epc := x }
  else if n = 7 then
    let r := x.extractLsb' 8 3
    let r := if r.toNat ≤ 5 then r else t.est.extractLsb' 8 3
    { t with est := (t.est &&& ~~~0x701#64) ||| (x &&& 1#64) ||| (r.setWidth 64 <<< 8) }
  else if n = 0xA then { t with wtmo := x }
  else if n = 0xB then { t with sflags := x.setWidth 9 }
  else if n = 0xC then { t with rmode := x.setWidth 4 }
  else if n = 0xD then { t with stk := x }
  else if n = 0xE then { t with tdeleg := x.setWidth 20 &&& 0xFFFFE#20 }
  else if n = 0x100 then { t with budget := x, budgetTaken := t.budgetTaken && decide (x = 0) }
  else if n = 0x101 then { t with deadline := x }
  else t

/-- The PRIV syndrome of a state register (R383). -/
def privState (n : Nat) (write : Bool) : Word := BitVec.ofNat 64 (1 + 2 ^ 16 * n + 2 ^ 31 * natOf write)

/-- Whether a state number names a stack entry (R159). -/
def isHalfFrame (n : Nat) : Bool := decide (0x40 ≤ n ∧ n ≤ 0x4F)

/-- A hazard on the entry of a half-frame register. The word names no register of the window, so the syndrome's reg
field is a free value (log 11). -/
def strictEntry (kind e : Nat) : Act Unit := do
  let s ← get
  if s.me.strict && (lastG e s.me.outstanding).isSome then
    let r ← drawWord
    trapWith .runhaz (hazG kind (r.extractLsb' 0 4) e) 0

/-- R158, R159, R420. -/
def execMfs (sw : Bool) (d : Reg) (n : BitVec 15) (s : State) : Host.Outcome State Fault Refusal :=
  issue (.mfs sw d n) sw .plain (do
    let s ← get
    if 0x100 ≤ n.toNat ∧ !s.me.sysm then trapWith .priv (privState n.toNat false) 0
    let frame := isHalfFrame n.toNat && s.me.hm
    if frame then strictEntry 1 (halfFrameEntry s.me n.toNat)
    prologue false [] [d] [] []
    let x ← if frame then readEntry (halfFrameEntry s.me n.toNat) else pure (s.readState n.toNat)
    writeReg d x
    pure .next) s

/-- R158, R159, R420. -/
def execMts (sw : Bool) (a : Reg) (n : BitVec 15) (s : State) : Host.Outcome State Fault Refusal :=
  issue (.mts sw a n) sw .plain (do
    let s ← get
    if (0x100 ≤ n.toNat ∧ !s.me.sysm) ∨ regAccess n.toNat = .ro then
      trapWith .priv (privState n.toNat true) 0
    prologue false [a] [] [] []
    if isHalfFrame n.toNat && s.me.hm then strictEntry 2 (halfFrameEntry s.me n.toNat)
    let x ← readReg a
    if isHalfFrame n.toNat then
      if s.me.hm then writeEntry (halfFrameEntry s.me n.toNat) x
    else modMe fun t => t.writeState n.toNat x
    pure .next) s

/-! ## Statistics (R162) -/

/-- Tokens that hold an op not yet reaped, as a mask. -/
def Strand.tokenMask (t : Strand) : Nat :=
  (List.range 16).foldl (fun a k => if (FMap.get none t.tokens k).isSome then a + 2 ^ k else a) 0

/-- R162. Selector 0 counts this instruction (log 12). -/
def execIstat (sw : Bool) (d : Reg) (p : BitVec 15) (s : State) : Host.Outcome State Fault Refusal :=
  issue (.istat sw d p) sw .plain (do
    prologue false [] [d] [] []
    let t := (← get).me
    writeReg d (BitVec.ofNat 64 (match p.toNat with
      | 0 => t.issued + 1
      | 1 => t.parkedCycles
      | 2 => t.outstanding.length
      | 3 => t.tokenMask
      | _ => 0))
    pure .next) s

end Sys2Proof.Machine
end

