-- ==== Sys2Proof/Machine/Debug.lean ====
section
/-!
DEFINITION. Debug sessions, halts, stops and samples (23_accounting_and_debug.md R407–R412; 21_traps_and_preemption.md R398,
R399), and memory errors that strike on their own (R390, R392).
-/

namespace Sys2Proof.Machine

/-! ## Sessions (R411) -/

/-- R411: at most four sessions, each mutually authenticated. -/
def execDebugSessionOpen (right : DebugRight) (authentic : Bool) (s : State) : Host.Outcome State Fault Refusal :=
  if authentic ∧ s.pkg.sessions.length < 4 then
    .next { s with pkg := { s.pkg with sessions := s.pkg.sessions ++ [{ right := right, status := hubDONE, awaits := [] }] } }
  else .next s

/-- What a right reaches. -/
def rightReach : DebugRight → Reach
  | .package => none
  | .partition p => some p

/-- Runs a command of a session: its status is the session's answer. -/
def State.debugCommand (s : State) (session : Nat) (f : State → Reach → Nat × State) : Host.Outcome State Fault Refusal :=
  match s.pkg.sessions[session]? with
  | none => .next s
  | some x =>
    let answer (s : State) (g : Session → Session) : State :=
      { s with pkg := { s.pkg with sessions := s.pkg.sessions.modify session g } }
    let (st, s) := f (answer s fun y => { y with awaits := [] }) (rightReach x.right)
    .next (answer s fun y => { y with status := st })

/-! ## Halt and resume (R398, R412) -/

/-- The strand that a debugger names by its vcore and slot (R93). -/
def State.strandTarget (s : State) (ctx : Nat) (vcore : BitVec 32) (slot : Nat) : Option Strand :=
  if slot < 10 then (s.namedCore ctx vcore.toNat).bind fun core => s.strandNamed core slot else none

/-- The partition of a target; none where there is no such target. -/
def State.targetPart (s : State) : DebugTarget → Option Nat
  | .strand ctx vcore slot => (s.strandTarget ctx vcore slot).map (·.part)
  | .group l _ => if (s.launchOf l).live then some (s.launchOf l).part else none
  | .launch l => if (s.launchOf l).live then some (s.launchOf l).part else none
  | .context c => if (s.ctxOf c).live then some (s.ctxOf c).part else none
  | .op n => if (s.opOf n).live then some (s.opOf n).part else none
  | .systemCore i => (s.hub.parts.find? fun p => p.2.live && p.2.sysCores.getLsbD i).map (·.1)

/-- Whether a strand belongs to a target. -/
def State.inTarget (s : State) (t : Strand) : DebugTarget → Bool
  | .strand ctx vcore slot => (s.strandTarget ctx vcore slot).any fun x => t.isLive && x.uid == t.uid
  | .group l g => t.launch == some l && t.counted && t.group == g
  | .launch l => t.launch == some l
  | .context c => t.isLive && t.ctx == c
  | _ => false

/-- Marks or clears a target's own halt, which reaches strands created later. -/
def State.markTarget (s : State) (target : DebugTarget) (on : Bool) : State :=
  match target with
  | .strand _ _ _ => s
  | .group l g =>
    s.setLaunch l fun x =>
      { x with groups := FMap.set Group.none x.groups g { (FMap.get Group.none x.groups g) with haltReq := on } }
  | .launch l => s.setLaunch l fun x => { x with haltReq := on }
  | .context c => s.setCtx c fun x => { x with haltReq := on }
  | .op n => s.setOp n fun o => { o with haltReq := on }
  | .systemCore i =>
    { s with pkg := { s.pkg with sysHalted :=
        if on then s.pkg.sysHalted ||| BitVec.ofNat 16 (2 ^ i) else s.pkg.sysHalted &&& ~~~BitVec.ofNat 16 (2 ^ i) } }

/-- Runs a halt or a resume: DENIED outside the right. A system core of no partition needs the package right. -/
def State.haltCommand (s : State) (session : Nat) (target : DebugTarget) (f : State → State) :
    Host.Outcome State Fault Refusal :=
  s.debugCommand session fun s r =>
    match s.targetPart target with
    | some p => if deniedTo r p then (hubDENIED, s) else (hubDONE, f s)
    | none =>
      match target with
      | .systemCore i => if 16 ≤ i then (hubBADARG, s) else if r.isSome then (hubDENIED, s) else (hubDONE, f s)
      | _ => (hubBADARG, s)

/-- A strand after a HALT of a target that it belongs to. -/
def Strand.haltFor (t : Strand) (target : DebugTarget) : Strand :=
  { t with haltReq := t.haltReq || !t.halted, haltBy := (t.haltBy ++ [target]).eraseDups }

/-- A strand after the RESUME of a target that it belongs to: it goes on unless the HALT of another target stands on it (R412; log 72). -/
def Strand.resumeFor (t : Strand) (target : DebugTarget) : Strand :=
  if (t.haltBy.filter (· ≠ target)).isEmpty then { t with haltReq := false, halted := false, haltBy := [] }
  else { t with haltBy := t.haltBy.filter (· ≠ target) }

/-- A HALT is answered once every strand that it stops has reached its architectural state (R412): these are waited for. -/
def State.awaitHalt (s : State) (session : Nat) (target : DebugTarget) : State :=
  let ts := (s.all.filter fun t => s.inTarget t target && t.bound && !t.halted).map (·.uid)
  { s with pkg := { s.pkg with sessions := s.pkg.sessions.modify session fun x => { x with awaits := ts } } }

/-- R412: every strand of the target halts at its next boundary. -/
def execHalt (session : Nat) (target : DebugTarget) (s : State) : Host.Outcome State Fault Refusal :=
  s.haltCommand session target fun s =>
    ((s.mapAll fun t => if s.inTarget t target then t.haltFor target else t).markTarget target true).awaitHalt session target

/-- The strands of a target go on, and nothing waits for their halt any more; where one was saved, its area says so too. -/
def State.resumeTarget (s : State) (target : DebugTarget) : State :=
  let s' := s.mapAll fun t => if s.inTarget t target then t.resumeFor target else t
  (s.all.filter fun t => s.inTarget t target).foldl (fun s t =>
    let u := t.resumeFor target
    if u.haltReq then s else (s.putFlags u).reached t.uid) s'

/-- R412: the target goes on. -/
def execDebugResume (session : Nat) (target : DebugTarget) (s : State) : Host.Outcome State Fault Refusal :=
  s.haltCommand session target fun s => (s.resumeTarget target).markTarget target false

/-- Whether a halt may take a strand to its boundary: it is not being saved or restored, and no word of it goes on. -/
def Strand.mayHalt (t : Strand) : Bool :=
  t.haltReq && !t.halted && !t.continues && decide (t.wait ≠ .draining ∧ t.wait ≠ .restoring)

/-- Whether a halt takes a strand back to its boundary: it stands at a word of its own, or inside a prefix group (R130). -/
def Strand.haltWithdraws (t : Strand) : Bool :=
  match t.wait with
  | .start => false
  | .kernel => false
  | .fetch => t.pfx.count != 0
  | _ => true

/-- R398: the strand is taken to its boundary, and halts once its results have returned and its appends are stored. -/
def execHaltComplete (core slot : Nat) (s : State) : Host.Outcome State Fault Refusal :=
  match s.strandAt core slot with
  | some t =>
    if t.mayHalt then
      let s := if t.haltWithdraws then s.withdraw core slot else s
      let s := (s.dropPrefetch core slot).setStrand core slot fun t => { t with mskcnt := 0 }
      if t.outstanding.isEmpty ∧ t.appends.isNone then
        let s := s.setStrand core slot fun t => { t with halted := true, haltReq := false }
        let s := ((match s.strandAt core slot with | some u => s.putFlags u | none => s)).reached t.uid
        .next (match t.launch with
          | some l => s.setLaunch l fun x => { x with wasHalted := true }
          | none => s)
      else .next s
    else .next s
  | none => .next s

/-! ## Stops and samples (R407, R408) -/

/-- R408: the strand's next word is at a stop, and it halts before it; inside a prefix group, before the group (R398). -/
def execStopHit (core slot : Nat) (s : State) : Host.Outcome State Fault Refusal :=
  match s.strandAt core slot with
  | some t =>
    if t.wait = .none ∧ !t.halted ∧ !t.reissue ∧ s.atStop t then
      .next (s.setStrand core slot fun t => { t with haltReq := true })
    else .next s
  | none => .next s

/-- Runs a command of a session on a context. -/
def State.debugCtx (s : State) (session ctx : Nat) (f : State → Nat × State) : Host.Outcome State Fault Refusal :=
  s.debugCommand session fun s r =>
    if !(s.ctxOf ctx).live then (hubBADARG, s)
    else if deniedTo r (s.ctxOf ctx).part then (hubDENIED, s)
    else f s

/-- R408: at most 64 stops for each context. -/
def execStopset (session ctx : Nat) (vcore : Option Nat) (pc : Word) (s : State) : Host.Outcome State Fault Refusal :=
  s.debugCtx session ctx fun s =>
    let x : Stop := { vcore := vcore, pc := pc }
    if (s.ctxOf ctx).stops.contains x then (hubDONE, s)
    else if 64 ≤ (s.ctxOf ctx).stops.length then (hubBUSY, s)
    else (hubDONE, s.setCtx ctx fun c => { c with stops := c.stops ++ [x] })

/-- R408. -/
def execStopclr (session ctx : Nat) (vcore : Option Nat) (pc : Word) (s : State) : Host.Outcome State Fault Refusal :=
  s.debugCtx session ctx fun s =>
    (hubDONE, s.setCtx ctx fun c => { c with stops := c.stops.filter fun x => x != { vcore := vcore, pc := pc } })

/-- R407. -/
def execSample (session ctx : Nat) (interval : Word) (s : State) : Host.Outcome State Fault Refusal :=
  s.debugCtx session ctx fun s =>
    if interval ≠ 0 ∧ (interval.toNat < 256 ∨ 2 ^ 24 < interval.toNat) then (hubBADARG, s)
    else (hubDONE, s.setCtx ctx fun c => { c with sampleInterval := interval.toNat })

/-- The state code of a sample. Whether an eligible strand issued in this cycle is free, and so is which of the two codes a strand has that
passed a cycle and parks at its marker. -/
def Strand.sampleState (t : Strand) (pick : Bool) : Nat :=
  if t.halted then 5
  else
    match t.wait with
    | .marker => 1
    | .issue => 2
    | .element _ => 2
    | .passed => 3
    | .passedMarker => if pick then 3 else 1
    | .kernel => 4
    | .none => if pick then 0 else 6
    | _ => 6

/-- A sample of a strand (R407). -/
def State.sampleOf (s : State) (core : Nat) (t : Strand) : List Byte :=
  toLE 8 s.ns.toNat ++ toLE 8 t.pc.toNat ++ toLE 4 (s.vcoreWord t.ctx core).toNat ++ toLE 2 t.ctx ++ toLE 1 t.slot
    ++ toLE 1 (t.sampleState (Config.freeBit s.free)) ++ toLE 4 t.tnum.toNat
    ++ toLE 2 (match t.launch with | some l => l | none => 4096) ++ toLE 2 0

/-- Puts a record in the sample ring of a die, or counts it as lost (R368, R407). -/
def State.putSample (s : State) (die : Nat) (b : List Byte) : State :=
  let hdr := PAddr.key { space := .dsm die, off := (FMap.get 0 s.mem.ringBase (2 * die + 1)).toNat }
  let n (o k : Nat) := ofLE (s.mem.bytesAt (hdr + o) k)
  let (head, tail, cap) := (n 0x10 8, n 0x18 8, n 8 4)
  if n 0x0C 4 % 2 = 0 then s
  else if cap ≤ (head + 2 ^ 64 - tail) % 2 ^ 64 then
    { s with mem := s.mem.putWords (hdr + 0x20) (toLE 8 (n 0x20 8 + 1)) }
  else
    let m := s.mem.putWords (PAddr.key { space := .dsm die, off := n 0 8 + 32 * (head % cap) }) b
    { s with mem := m.putWords (hdr + 0x10) (toLE 8 (head + 1)) }

/-- R407: the next bound slot of a core, in rotation, whose context is sampled. -/
def execSampleTick (core : Nat) (s : State) : Host.Outcome State Fault Refusal :=
  let next := (s.coreOf core).sampleNext
  match (List.range 10).findSome? fun k => s.strandAt core ((next + k) % 10) with
  | none => .next s
  | some t =>
    let s := s.setCore core fun c => { c with sampleNext := (t.slot + 1) % 10 }
    if (s.ctxOf t.ctx).sampleInterval = 0 then .next s
    else
      let b := s.sampleOf core t
      .next ({ s with free := s.free + 1 }.putSample (coreDie core) b)

/-! ## Readback and rewrites (R399, R409, R411) -/

/-- R409, R411. -/
def execDebugRead (session ctx : Nat) (cls id0 id1 offset len buf : Word) (s : State) : Host.Outcome State Fault Refusal :=
  s.debugCommand session fun s r => s.readObject r ctx cls id0 id1 offset len buf

/-- A strand after a rewrite of a state register, a read-only one included; none for a register that no strand holds. One that the
device computes reads as rewritten from then on (log 73). -/
def State.forceState (s : State) (t : Strand) (n : Nat) (x : Word) : Option Strand :=
  if n = 0 then some (t.setPst x)
  else if n = 3 then some { t with tcause := x.setWidth 6 }
  else if n = 4 then some { t with taddr := x }
  else if n = 5 then some { t with tinfo := x }
  else if n = 7 then some { t with est := x &&& 0x3F077F#64 }
  else if n = 8 ∨ n = 0x100 then some { t with budget := x }
  else if n = 9 then some { t with deadline := x }
  else if deviceState n then some { t with bias := FMap.set 0 t.bias n (x - s.stateOf t n) }
  else if 0x18 ≤ n ∧ n ≤ 0x1F then some { t with lvl := FMap.set 0 t.lvl (n - 0x18) x }
  else if 0x20 ≤ n ∧ n ≤ 0x27 then some { t with ext := FMap.set 1 t.ext (n - 0x20) x }
  else if isHalfFrame n then some (if t.hm then { t with stack := FMap.set 0 t.stack (halfFrameEntry t n) x } else t)
  else if regAccess n = .rw then some (t.writeState n x)
  else none

/-- A generator with one of its four words rewritten. -/
def Stream.rewrite (g : Stream) (w : Nat) (x : Word) : Stream :=
  let ws := g.words.set w x
  Stream.ofWords (ws[0]?.getD 0) (ws[1]?.getD 0) (ws[2]?.getD 0) (ws[3]?.getD 0)

/-- A halted strand after a rewrite of one item; none for an item that it has not. -/
def State.rewritten (s : State) (t : Strand) (item : DebugItem) (x : Word) : Option Strand :=
  match item with
  | .stack e => if e < 64 then some { t with stack := FMap.set 0 t.stack e x, parity := t.parity.filter (· ≠ e) } else none
  | .lane r i =>
    if r < 16 ∧ i < 64 then
      some { t with vregs := FMap.set 0 t.vregs (64 * r + i) (x.setWidth 32)
                    vlive := t.vlive ||| BitVec.ofNat 16 (2 ^ r), parity := t.parity.filter (· ≠ 64 + r) }
    else none
  | .pc => some { t with pc := x &&& ~~~3#64 }
  | .state n => s.forceState t n x
  | .stream g w =>
    let y := (FMap.get Stream.reset t.streams g).rewrite w x
    if g < 4 ∧ w < 4 then some { t with streams := FMap.set Stream.reset t.streams g y } else none
  | .emptyToken k => if k < 16 then some (t.setToken k none) else none
  | .window _ _ _ _ _ => none

/-- Puts a rewritten strand in the place of the one that it was: a strand with a save area goes on from the area, so the rewrite goes
there too (R385, R389). -/
def State.putRewritten (s : State) (u : Strand) : State :=
  let s := match u.area with
    | some i =>
      let a := s.areaAddr u.ctx i
      { s with mem := saveVectors u a (s.mem.putWords (hbmKey a) u.savedBytes) }
    | none => s
  s.mapAll fun v => if v.isLive ∧ v.uid = u.uid then { u with savedBudget := u.budget } else v

/-- A halted strand as it goes on: from its save area, where it has one. -/
def State.asItGoesOn (s : State) (t : Strand) : Strand :=
  match t.area with
  | some i => t.wentOn s.mem (s.areaAddr t.ctx i)
  | none => t

/-- R399: only while the strand is halted. Emptying a token detaches its op as at the strand's end (R284). -/
def execDebugWrite (session ctx : Nat) (place : SlotName) (item : DebugItem) (value : Word) (s : State) :
    Host.Outcome State Fault Refusal :=
  s.debugCommand session fun s r =>
    match item with
    | .window ctx cls id0 id1 offset =>
      if offset.toNat % 8 ≠ 0 then (hubBADARG, s)
      else s.writeWindow r ctx cls.toNat id0 id1 offset.toNat (toLE 8 value.toNat)
    | _ =>
      match s.strandTarget ctx place.vcore place.slot with
      | none => (hubBADARG, s)
      | some t =>
        if deniedTo r t.part then (hubDENIED, s)
        else if !t.halted then (hubBUSY, s)
        else
          match s.rewritten (s.asItGoesOn t) item value with
          | none => (hubBADARG, s)
          | some u =>
            let s := match item with
              | .emptyToken k => (match FMap.get none t.tokens k with | some n => s.orphanOp t.launch n | none => s)
              | _ => s
            (hubDONE, s.putRewritten u)

/-! ## Errors of memory (R390, R392) -/

/-- The memory of a word. -/
def spaceOfWord (word : Nat) : Option Space :=
  let k := word / 2 ^ 61
  allMemories.find? fun sp => sp.index == k

/-- Counts an error of a word's memory: corrected, or uncorrected. -/
def Mem.countError (m : Mem) (word : Nat) (uncorrected : Bool) : Mem :=
  let k := 2 * (word / 2 ^ 61) + natOf uncorrected
  { m with errors := FMap.set 0 m.errors k (FMap.get 0 m.errors k + 1) }

/-- A word of memory, or its tag, meets an error that its code cannot correct: the next access meets it (R391). -/
def Mem.spoil (m : Mem) (word : Nat) (code : BitVec 2) : Mem :=
  { m with poison := FMap.set 0 m.poison word (if FMap.get 0 m.poison word = 0 then code else FMap.get 0 m.poison word) }

/-- The strand in a slot meets a parity error in a stack entry or a vector register (R391), by its key. -/
def State.spoilRegister (s : State) (core slot key : Nat) : State :=
  s.setStrand core slot fun t => { t with parity := t.parity.filter (· ≠ key) ++ [key] }

/-- R390: a corrected error changes nothing but the counter of its memory. An uncorrectable one is met by the next access, and so is
every error of a register or a bank, which have parity alone. -/
def execSoftError (site : ErrorSite) (correctable : Bool) (s : State) : Host.Outcome State Fault Refusal :=
  let inMemory (word : Nat) (code : BitVec 2) : State :=
    let m := s.mem.countError word (!correctable)
    { s with mem := if correctable then m else m.spoil word code }
  match site with
  | .word w => .next (inMemory w 1)
  | .tag w => .next (if (spaceOfWord w).any Space.tagged then inMemory w 2 else s)
  | .stack core slot e => .next (if e < 64 then s.spoilRegister core slot e else s)
  | .lane core slot lane => .next (if lane < 1024 then s.spoilRegister core slot (64 + lane / 64) else s)
  | .bank core bank element =>
    let key := 4096 * (4 * core + bank.toNat) + element
    .next (if core < Config.cores ∧ element < 4096 then
      { s with eng := { s.eng with badAcc := s.eng.badAcc.filter (· ≠ key) ++ [key] } }
    else s)

/-- R392: the word is poisoned, and the kernel of the partition that owns the memory receives MEMERR. -/
def execMemerr (word : Nat) (s : State) : Host.Outcome State Fault Refusal :=
  let s := { s with mem := s.mem.spoil word 1 }
  match spaceOfWord word with
  | none => .next s
  | some sp =>
    let pa : PAddr := { space := sp, off := 8 * (word % 2 ^ 61) }
    match s.ownerOf pa with
    | some part =>
      .next (s.systemEvent part 0x18 0xFFFF 0xFFFFFFFF#32 255 (BitVec.ofNat 64 pa.off)
        (BitVec.ofNat 64 (sp.whereCode (FMap.get 0 s.mem.poison word = 2))) 0)
    | none => .next s

/-! ## Hall keys (R424) -/

/-- R424: a session of the package right installs the key of a slot. -/
def execHallKeyInstall (session : Nat) (key : BitVec 1) (id : Nat) (s : State) : Host.Outcome State Fault Refusal :=
  s.debugCommand session fun s r =>
    if r.isSome then (hubDENIED, s)
    else (hubDONE, { s with pkg := { s.pkg with hallKeys := FMap.set none s.pkg.hallKeys key.toNat (some id) } })

end Sys2Proof.Machine
end

