-- ==== Sys2Proof/Machine/Ports.lean ====
section
/-!
DEFINITION. The network, storage and host ports and the Twine links (09_address_spaces.md R190,
24_system_and_attachment.md R429–R434).
-/

namespace Sys2Proof.Machine

/-! ## The network port (R190, R430) -/

/-- Queue pair `n`. -/
def State.qpOf (s : State) (n : Nat) : QPair := FMap.get QPair.none s.pkg.qpairs n

/-- Changes a queue pair. -/
def State.setQp (s : State) (n : Nat) (f : QPair → QPair) : State :=
  { s with pkg := { s.pkg with qpairs := FMap.set QPair.none s.pkg.qpairs n (f (s.qpOf n)) } }

/-- Data bytes that a packet holds in the hub packet buffers. -/
def NetPacket.size : NetPacket → Nat
  | .write _ d => d.length
  | .read _ _ => 0
  | .send d => d.length

/-- The first page of a range that the context does not let a port reach: fault kind and address; `pages` pages are left. -/
def State.portFault (s : State) (ctx : Nat) (write : Bool) : (pages : Nat) → (va hi : Nat) → Option (Nat × Nat)
  | 0, _, _ => none
  | k + 1, va, hi =>
    if hi ≤ va then none
    else if 2 ^ 57 ≤ va then some (faultNONCANON, va)
    else
      match s.vfault ctx va write with
      | 0 => s.portFault ctx write k (4096 * (va / 4096 + 1)) hi
      | f => some (f, va)

/-- What stops a packet: a fault kind and its address. -/
def State.packetFault (s : State) (ctx : Nat) : NetPacket → Option (Nat × Nat)
  | .write a d => s.portFault ctx true (d.length / 4096 + 2) a.toNat (a.toNat + d.length)
  | .read a n => s.portFault ctx false (n / 4096 + 2) a.toNat (a.toNat + n)
  | .send _ => none

/-- Writes some pieces of a range through a context, or gives the fault kind and the address of the first that does not translate. -/
def State.portWrite (ctx : Nat) : List (Nat × Nat) → List Byte → State → Except (Nat × Nat) State
  | [], _, s => .ok s
  | (va, n) :: ps, bs, s =>
    match s.vtranslate ctx va true with
    | some (pa, s') => State.portWrite ctx ps (bs.drop n) (s'.storeAt pa (bs.take n))
    | none => .error (s.vfault ctx va true, va)

/-- Reads some pieces in the same way. -/
def State.portRead (ctx : Nat) : List (Nat × Nat) → State → Except (Nat × Nat) (List Byte × State)
  | [], s => .ok ([], s)
  | (va, n) :: ps, s =>
    match s.vtranslate ctx va false with
    | some (pa, s') => (State.portRead ctx ps s').map fun r => (s'.mem.bytesAt pa.key n ++ r.1, r.2)
    | none => .error (s.vfault ctx va false, va)

/-- Delivers a packet, every page of which is found to translate before its first byte moves; else its fault. -/
def State.deliver (s : State) (qp ctx : Nat) (p : NetPacket) : Except (Nat × Nat) State :=
  match s.packetFault ctx p with
  | some f => .error f
  | none =>
    match p with
    | .write a d => State.portWrite ctx (pieces64 (d.length / 64 + 2) a.toNat d.length) d s
    | .read a n => (State.portRead ctx (pieces64 (n / 64 + 2) a.toNat n) s).map fun r =>
        r.2.setQp qp fun q => { q with sent := q.sent ++ [r.1] }
    | .send d => .ok (s.setQp qp fun q => { q with received := q.received ++ [d] })

/-- R190: a page that is not resident pauses the pair, which keeps the packet, and the kernel receives NETPAGE. -/
def State.pauseQp (s : State) (qp va : Nat) (kept : List NetPacket) : State :=
  let q := s.qpOf qp
  (s.setQp qp fun q => { q with paused := true, buffer := kept, pausedAt := BitVec.ofNat 64 va }).systemEvent q.part 0x16 q.ctx 0xFFFFFFFF#32 255
    (BitVec.ofNat 64 va) (BitVec.ofNat 64 qp) 0

/-- R190: any other fault moves the pair to its error state. -/
def State.failQp (s : State) (qp : Nat) : State :=
  s.setQp qp fun q => { q with paused := false, errored := true, buffer := [], naking := false }

/-- Delivers packets in arrival order until one pauses the pair or moves it to its error state (R190). -/
def State.deliverAll (s : State) (qp : Nat) : List NetPacket → State
  | [] => s.setQp qp fun q => { q with paused := false, buffer := [], naking := false }
  | p :: ps =>
    match s.deliver qp (s.qpOf qp).ctx p with
    | .ok s => (s.setQp qp fun q => { q with naking := false }).deliverAll qp ps
    | .error (f, va) => if f = faultNOTRES then s.pauseQp qp va (p :: ps) else s.failQp qp

/-- Buffer bytes of a queue pair: 1 MiB (R190). -/
abbrev qpBuffer : Nat := 1048576

/-- A packet arrives on a queue pair. A paused pair keeps it while its buffer has room; once one has met no room, it and every later
one is answered with RNR NAK until delivery resumes, so that none overtakes it. -/
def State.arrive (s : State) (qp : Nat) (p : NetPacket) : State :=
  let q := s.qpOf qp
  if !q.live ∨ q.errored then s
  else if q.paused then
    if !q.naking ∧ (q.buffer.map NetPacket.size).sum + p.size ≤ qpBuffer then
      s.setQp qp fun q => { q with buffer := q.buffer ++ [p] }
    else s.setQp qp fun q => { q with rnrNaks := q.rnrNaks + 1, naking := true }
  else s.deliverAll qp [p]

def execRdmaWriteInbound (qp : Nat) (addr : Word) (data : List Byte) (s : State) : Host.Outcome State Fault Refusal :=
  .next (s.arrive qp (.write addr data))

def execRdmaReadInbound (qp : Nat) (addr : Word) (len : Nat) (s : State) : Host.Outcome State Fault Refusal :=
  .next (s.arrive qp (.read addr len))

def execRdmaSendInbound (qp : Nat) (data : List Byte) (s : State) : Host.Outcome State Fault Refusal :=
  .next (s.arrive qp (.send data))

/-- R190. Nothing happens while the page for which the kernel has NETPAGE is not resident; another page that the first packet kept
meets raises NETPAGE again. -/
def execNetpageResume (qp : Nat) (s : State) : Host.Outcome State Fault Refusal :=
  let q := s.qpOf qp
  match q.paused, q.buffer with
  | true, p :: ps =>
    match s.packetFault q.ctx p with
    | some (7, va) => .next (if va / 4096 = q.pausedAt.toNat / 4096 then s else s.pauseQp qp va (p :: ps))
    | _ => .next (s.deliverAll qp (p :: ps))
  | _, _ => .next s

/-- R430, within the ports and the quota of R414. -/
def execQueuePairCreate (part ctx qp : Nat) (s : State) : Host.Outcome State Fault Refusal :=
  let p := s.partOf part
  if p.live ∧ (s.ctxOf ctx).live ∧ (s.ctxOf ctx).part = part ∧ !(s.qpOf qp).live ∧ p.qpairs < p.qpLimit then
    .next ((s.setQp qp fun _ => { QPair.none with live := true, ctx := ctx, part := part }).setPart part
      fun p => { p with qpairs := p.qpairs + 1 })
  else .next s

/-! ## The storage port (R190, R430) -/

/-- Writes a command's pages in order up to the first that is not resident for it: whether all were written. -/
def State.storeCommand (ctx : Nat) : List (Nat × Nat) → List Byte → State → Bool × State
  | [], _, s => (true, s)
  | (va, n) :: ps, bs, s =>
    match s.vtranslate ctx va true with
    | none => (false, s)
    | some (pa, s) => State.storeCommand ctx ps (bs.drop n) (s.storeAt pa (bs.take n))

/-- The completion of a storage command enters the completion queue: 0 done, 1 error (R430). -/
def State.storageDone (s : State) (ok : Bool) : State :=
  { s with pkg := { s.pkg with storage := natOf (!ok) :: s.pkg.storage } }

/-- R190, R430: data of the device goes to memory, or a range of memory goes to the namespaces of the partition; one that meets a page
that is not resident ends in error, and then nothing is sent. -/
def execStorageCommand (part ctx : Nat) (addr : Word) (transfer : Transfer) (s : State) : Host.Outcome State Fault Refusal :=
  if (s.ctxOf ctx).live ∧ (s.ctxOf ctx).part = part then
    match transfer with
    | .toMemory data =>
      let (ok, s) := State.storeCommand ctx (pieces64 (data.length / 64 + 2) addr.toNat data.length) data s
      .next (s.storageDone ok)
    | .toDevice n =>
      match State.portRead ctx (pieces64 (n / 64 + 2) addr.toNat n) s with
      | .ok (bs, s) => .next ({ s with pkg := { s.pkg with stored := (part, bs) :: s.pkg.stored } }.storageDone true)
      | .error _ => .next (s.storageDone false)
  else .next s

/-! ## Twine links (R431, R432) -/

/-- R431. -/
def execLinkTraining (port : Nat) (offered : List Nat) (s : State) : Host.Outcome State Fault Refusal :=
  if port < twinePorts then .next (s.trainPort port offered) else .next s

/-- A port that has lost its link: its plane is unused by its die (R431). -/
def TwinePort.lost (p : TwinePort) : TwinePort := { p with trained := false, version := 0, expected := [], resends := [], paused := 0 }

/-- R431. -/
def execLinkLoss (port : Nat) (s : State) : Host.Outcome State Fault Refusal :=
  if (s.portOf port).trained then .next (s.setPort port TwinePort.lost) else .next s

/-- R432: the flit that is next in its lane is taken; an earlier one is a duplicate; a later one has lost its predecessor, which is resent
first. An acknowledgement frees the lane's retry buffer up to its flit, and a pause holds the lane. -/
def execFlitReceive (port : Nat) (lane : BitVec 3) (flit : Flit) (s : State) : Host.Outcome State Fault Refusal :=
  let p := s.portOf port
  if !p.trained then .next s
  else
    .next (s.setPort port fun p =>
      match flit with
      | .data seq bytes =>
        let e := FMap.get 0 p.expected lane.toNat
        if e < seq then p
        else if seq < e then { p with duplicates := p.duplicates + 1 }
        else { p with expected := FMap.set 0 p.expected lane.toNat (e + 1), delivered := p.delivered + 1, flit := bytes }
      | .ack seq => { p with resends := p.resends.filter fun x => x.1 != lane.toNat || decide (seq < x.2.1) }
      | .pause on =>
        let bit := BitVec.ofNat 8 (2 ^ lane.toNat)
        { p with paused := if on then p.paused ||| bit else p.paused &&& ~~~bit })

/-- Flits that a virtual lane's retry buffer holds (R432). -/
abbrev retryFlits : Nat := 256

/-- R432: the flit is resent, and after eight resends the link is lost. A paused lane sends nothing, and no flit waits beyond the 256 of
its retry buffer (log 122). -/
def execFlitRetryTimeout (port : Nat) (lane : BitVec 3) (seq : Nat) (s : State) : Host.Outcome State Fault Refusal :=
  let p := s.portOf port
  let mine (x : Nat × Nat × Nat) : Bool := x.1 == lane.toNat && x.2.1 == seq
  let n := match p.resends.find? mine with | some x => x.2.2 | none => 0
  let full := decide (retryFlits ≤ (p.resends.filter fun x => x.1 == lane.toNat && !mine x).length)
  if !p.trained ∨ p.paused.getLsbD lane.toNat ∨ full then .next s
  else if 8 ≤ n then .next (s.setPort port TwinePort.lost)
  else .next (s.setPort port fun p =>
    { p with resends := p.resends.filter (fun x => !mine x) ++ [(lane.toNat, seq, n + 1)] })

/-! ## The host port (R429, R434) -/

/-- The host interface version register (R434): minor 3, major 1, launch records of versions 1 to 3, packet headers of version 1, and
the protocol version of the lowest-numbered trained Twine port. -/
def State.hostVersion (s : State) : Word :=
  let twine := match (List.range twinePorts).find? fun n => (s.portOf n).trained with
    | some n => (s.portOf n).version
    | none => 0
  BitVec.ofNat 64 (3 + 2 ^ 8 * 1 + 2 ^ 16 * 0x07 + 2 ^ 24 * 0x01 + 2 ^ 32 * (twine % 256))

/-- Answers the host: none is Unsupported Request. -/
def State.answerHost (s : State) (a : Option (List Byte)) : State :=
  { s with pkg := { s.pkg with hostAnswers := a :: s.pkg.hostAnswers } }

/-- Whether the words of `n` bytes at an address hold no uncorrectable error. -/
def State.soundAt (s : State) (pa : PAddr) (n : Nat) : Bool :=
  (List.range ((pa.key + n + 7) / 8 - pa.key / 8)).all fun i => FMap.get 0 s.mem.poison (pa.key / 8 + i) == 0

/-- Whether every piece of a range that translates is sound. -/
def State.soundRange (s : State) (ctx : Nat) (ps : List (Nat × Nat)) : Bool :=
  ps.all fun p =>
    match s.vtranslate ctx p.1 false with
    | some (pa, _) => s.soundAt pa p.2
    | none => true

/-- A FetchAdd of `n` bytes: the old value answers. -/
def State.hostAdd (s : State) (ctx va n : Nat) (data : List Byte) : State :=
  if va % n ≠ 0 then s.answerHost none
  else
    match s.vtranslate ctx va true with
    | none => s.answerHost none
    | some (pa, s) =>
      if s.soundAt pa n then
        let old := s.mem.bytesAt pa.key n
        (s.storeAt pa (toLE n (ofLE old + ofLE (data.take n)))).answerHost (some old)
      else s.answerHost none

/-- A read of at most 4,096 bytes (R429). -/
def State.hostRead (s : State) (ctx va n : Nat) : State :=
  let ps := pieces64 (n / 64 + 2) va n
  if n = 0 ∨ 4096 < n ∨ !s.soundRange ctx ps then s.answerHost none
  else
    match State.portRead ctx ps s with
    | .ok (bs, s) => s.answerHost (some bs)
    | .error _ => s.answerHost none

/-- The queue whose wake word stands at an offset of a VF's window (R429): those attached by the partition, in attachment order. -/
def State.windowQueue (s : State) (part offset : Nat) : Option Nat :=
  let qs := s.hub.queues.filter fun q => q.2.part == part && decide (q.2.state ≠ .none ∧ q.2.state ≠ .closed)
  let earlier (q : Nat × Queue) : Nat := (qs.filter fun x => decide (x.2.attachOrder < q.2.attachOrder)).length
  (qs.find? fun q => earlier q == offset / 8).map (·.1)

/-- A read of 8 bytes of the registers of a function (R429, R434): the version register at offset 0; what the registers at other offsets
are is not given, and they read a free value (log 121). -/
def State.readBar0 (s : State) (offset : Nat) : State :=
  if 2 ^ 26 < offset + 8 ∨ offset % 8 ≠ 0 then s.answerHost none
  else if offset = 0 then s.answerHost (some (toLE 8 s.hostVersion.toNat))
  else { s with free := s.free + 1 }.answerHost (some (toLE 8 (Config.bar0 offset s.free).toNat))

/-- R429: writes are posted, of at most 512 bytes; CAS and Swap are refused with Unsupported Request, as is a read or an atomic that does
not translate. A write to the version register does nothing (R434), nor one to an offset that the manual does not give (log 121). -/
def execHostMemoryRequest (ctx : Nat) (req : HostReq) (addr : Word) (data : List Byte) (s : State) : Host.Outcome State Fault Refusal :=
  match req with
  | .write => .next (if 512 < data.length then s else (s.vwrite ctx addr.toNat data).getD s)
  | .read n => .next (s.hostRead ctx addr.toNat n)
  | .fetchAdd32 => .next (s.hostAdd ctx addr.toNat 4 data)
  | .fetchAdd64 => .next (s.hostAdd ctx addr.toNat 8 data)
  | .cas => .next (s.answerHost none)
  | .swap => .next (s.answerHost none)
  | .readRegister _ => .next (s.readBar0 addr.toNat)
  | .writeRegister _ => .next s
  | .writeWake fn =>
    match fn with
    | .pf0 => .next s
    | .vf n =>
      match s.windowQueue n.toNat addr.toNat with
      | some q => if addr.toNat % 8 = 0 ∧ data.length = 8 then execWakeStore q (BitVec.ofNat 64 (ofLE data)) s else .next s
      | none => .next s

/-- Whether an address of a context's host memory lies in a range that the host invalidates. -/
def inHostRange (base len : Word) (a n : Nat) : Bool := decide (a < base.toNat + len.toNat ∧ base.toNat < a + n)

/-- Whether a cached entry is a leaf that maps a part of a range of its context's host memory (R180, R181). -/
def TlbEntry.mapsHost (x : TlbEntry) (ctx : Nat) (base len : Word) : Bool :=
  x.ctx == ctx && bitsOf x.entry 1 1 == 1 && leafType x.entry == 5
    && inHostRange base len (4096 * leafPage x.entry) (entrySpan x.entry x.level)

/-- R187, R429: no cache holds a leaf of the range that was read before the invalidation, which waits for the units and words that found
one and have still to use it. The range is of the host's addresses. -/
def execAtsInvalidation (ctx : Nat) (base len : Word) (s : State) : Host.Outcome State Fault Refusal :=
  let old (u : Nat × Nat × PAddr) : Bool := u.2.2.space == .host ctx && inHostRange base len u.2.2.off 64
  if s.usedLeaves.any old then .next s
  else .next { s with mem := { s.mem with tlb := s.mem.tlb.filter fun x => !x.mapsHost ctx base len } }

end Sys2Proof.Machine
end

