-- ==== Sys2Proof/Machine/Agents.lean ====
section
/-!
DEFINITION. What the device does of its own accord: the steps that may be due in a state, outside its strands' words. Commands,
host and port requests, debug commands and errors come from outside: they stand in the agenda.
-/

namespace Sys2Proof.Machine

/-- A step of the device. -/
inductive Due
  /-- steps of the strand in a slot -/
  | startDelay (core slot : Nat)
  | result (core slot id : Nat)
  | snapshot (core slot id : Nat)
  | answer (core slot id : Nat)
  | noAnswer (core slot id : Nat)
  | line (core slot : Nat)
  | budget (core slot : Nat)
  | prefetch (core slot sg : Nat)
  | append (core slot : Nat)
  | wake (core slot : Nat)
  | wakeTimeout (core slot : Nat)
  | spuriousWake (core slot : Nat)
  | release (core slot : Nat)
  | preempt (core slot : Nat)
  | save (core slot : Nat)
  | restore (core slot : Nat)
  | halted (core slot : Nat)
  /-- steps of a core -/
  | urgent (core : Nat)
  | bind (core : Nat)
  | sample (core : Nat)
  | message (index : Nat)
  | hop (index : Nat)
  /-- steps of the name unit -/
  | invalidate (counter core : Nat)
  | shotDown (counter : Nat)
  /-- steps of a queue's front end -/
  | wakeStore (queue : Nat) (value : Word)
  | pageIn (queue : Nat)
  | consume (queue : Nat)
  | validate (queue : Nat)
  | validatePage (queue : Nat)
  | tornDown (queue : Nat)
  | packetMsg (queue place : Nat)
  | packetCopy (queue place : Nat)
  | packetBarrier (queue place : Nat)
  | packetSignal (queue place : Nat)
  | packetText (queue place : Nat)
  | packetTexted (queue place : Nat)
  /-- steps of the spindle -/
  | place
  | dispatch (index : Nat)
  | trigger (launch : Nat)
  | retire (launch : Nat)
  /-- steps of the engines -/
  | opAdmit (op : Nat)
  | start (op : Nat)
  | depfail (op : Nat)
  | remoteOp (op : Nat)
  | kblock (op : Nat)
  | vblock (op : Nat)
  | bankRows (op : Nat)
  | reelUnit (ply : Nat)
  | unitWrite (op unit : Nat)
  | unitAck (op unit : Nat)
  | aging (op : Nat)
  | opDone (op : Nat)
  | opCancel (op : Nat)
  | bankFree (core bank : Nat)
  | collMeet (team seq : Nat)
  | collRound (team seq : Nat)
  /-- steps of the hub and of fumarole -/
  | killed (ctx : Nat)
  | scrubbed (part : Nat)
  | ring (ring : Nat)
  | retention (island : Nat)
  | frameApply
  | frameLapse
  | currHold (island : Nat)
  | pkgLoop
  | thermLoop
  deriving DecidableEq, Repr

/-- Runs an entry of a ring: its command, or BADARG for a code or an action that R416 does not list. -/
def runEntry (ring : Nat) : RingEntry → State → Host.Outcome State Fault Refusal
  | .words 0x01 ctx [desc], s => execQattach ring ctx desc s
  | .words 0x02 ctx [lo, hi], s => execQclose ring ctx lo hi s
  | .words 0x03 ctx [base, len], s => execXinval ring ctx base len s
  | .words 0x04 ctx [frame], s => execSetroot ring ctx frame s
  | .words 0x07 ctx [], s => execCtxkill ring ctx s
  | .words 0x08 ctx [base, count], s => execSavepool ring ctx base count s
  | .words 0x09 ctx [mem, table, owner], s => execTabown ring ctx mem table owner s
  | .words 0x0A ctx [die, which, header], s => execTracebase ring ctx die which header s
  | .words 0x0B ctx [cls, id0, id1, offset, len, buf], s => execStaterd ring ctx cls id0 id1 offset len buf s
  | .words 0x0E ctx [cls, id0, id1, offset, len, buf], s => execStatewr ring ctx cls id0 id1 offset len buf s
  | .words 0x0C ctx [image], s => execHimage ring ctx image s
  | .words 0x0D ctx [limit, interval], s => execTimeout ring ctx limit interval s
  | .words 0x0F ctx [chip, list, count], s => execMsgcores ring ctx chip list count s
  | .words 0x10 ctx [chip, table, count], s => execRoutetab ring ctx chip table count s
  | .words 0x11 ctx [base, count], s => execSnaparea ring ctx base count s
  | .words 0x21 _ [part, map], s => execReach ring part map s
  | .words 0x22 _ [part, rank], s => execRank ring part rank s
  | .words 0x23 _ [part, mhz], s => execPartceil ring part mhz s
  | .words 0x25 _ [watts], s => execPkglimit ring watts s
  | .words 0x05 ctx (vcore :: slot :: action :: rest), s =>
    if action = 0 then execSettleResume ring ctx vcore slot s
    else if action = 1 then execSettleRequeue ring ctx vcore slot s
    else if action = 2 then execSettleKill ring ctx vcore slot s
    else if action = 3 then execFetchprot ring ctx vcore slot (rest.headD 0) s
    else s.ctxCommand (.words 0x05 ctx (vcore :: slot :: action :: rest)) ring ctx fun s => (hubBADARG, s)
  | .words 0x06 ctx [handle, action], s =>
    if action = 0 then execOpsettleResume ring ctx handle s
    else if action = 1 then execOpsettleFail ring ctx handle s
    else s.ctxCommand (.words 0x06 ctx [handle, action]) ring ctx fun s => (hubBADARG, s)
  | .words 0x24 _ [island, action], s =>
    if action = 0 then execUnpark ring island s
    else if action = 1 then execPark ring island s
    else s.hvCommand (.words 0x24 0 [island, action]) ring fun s => (hubBADARG, s)
  | .partset part islands sysCores hbm irqCore net quota, s => execPartset ring part islands sysCores hbm irqCore net quota s
  | i, s => s.command i ring fun s => (hubBADARG, s)

/-- R416: the next command of a ring starts, once none is under way. One that cannot complete yet stays the first. -/
def runRing (ring : Nat) (s : State) : Host.Outcome State Fault Refusal :=
  match s.waitingOn ring with
  | [] => .next s
  | i :: is =>
    if s.ringBusy ring then .next s
    else
      match runEntry ring i (s.setWaiting ring []) with
      | .next t => .next (t.setWaiting ring (t.waitingOn ring ++ is))
      | o => o

/-- Runs a step. What a peer chip answers a lookup is free. -/
def runDue : Due → State → Host.Outcome State Fault Refusal
  | .startDelay c n, s => execStartDelayExpiry c n s
  | .result c n i, s => execLongResultReturn c n i s
  | .snapshot c n i, s => execSnapshotWaitEnd c n i s
  | .answer c n i, s =>
    let codes := s.answerCodes c n i
    let st := codes.getD ((Config.freeWord s.free).toNat % codes.length) 0
    execRemoteResolve c n i (BitVec.ofNat 4 st) (Config.freeWord (s.free + 1)) (Config.freeWord (s.free + 2))
      { s with free := s.free + 3 }
  | .noAnswer c n i, s => execResolveTimeout c n i s
  | .line c n, s => execIcacheLineFill c n s
  | .budget c n, s => execBudgetExhausted c n s
  | .prefetch c n g, s => execStreamPrefetch c n (BitVec.ofNat 2 g) s
  | .append c n, s => execStreamAppendStore c n s
  | .wake c n, s => execWwaitWake c n s
  | .wakeTimeout c n, s => execWwaitTimeout c n s
  | .spuriousWake c n, s => execWwaitSpuriousWake c n s
  | .release c n, s => execBarWaitRelease c n s
  | .preempt c n, s => execPreemptCommand c n s
  | .save c n, s => execSaveComplete c n s
  | .restore c n, s => execRestoreComplete c n s
  | .halted c n, s => execHaltComplete c n s
  | .urgent c, s => execUrgentDelivery c s
  | .bind c, s => execSliceBind c s
  | .sample c, s => execSampleTick c s
  | .message i, s => execAmsgArrival i s
  | .hop i, s => execHopArrival i s
  | .invalidate n c, s => execShootdownInvalidate n c s
  | .shotDown n, s => execShootdownComplete n s
  | .wakeStore q x, s => execWakeStore q x s
  | .pageIn q, s => execQueuePageIn q s
  | .consume q, s => execSlotConsume q s
  | .validate q, s => execSkeinValidation q s
  | .validatePage q, s => execValidationPageIn q s
  | .tornDown q, s => execQueueTeardownComplete q s
  | .packetMsg q p, s => execAmsgPacket q p s
  | .packetCopy q p, s => execCopyPacket q p s
  | .packetBarrier q p, s => execBarrierPacketComplete q p s
  | .packetSignal q p, s => execSignalPacket q p s
  | .packetText q p, s => execTextsyncStart q p s
  | .packetTexted q p, s => execTextsyncComplete q p s
  | .place, s => execGroupPlacement s
  | .dispatch i, s => execBindRecordDispatch i s
  | .trigger l, s => execTriggerStore l s
  | .retire l, s => execLaunchRetire l s
  | .opAdmit o, s => execOpAdmit o s
  | .start o, s => execOpStart o s
  | .depfail o, s => execDepfail o s
  | .remoteOp o, s => execRemoteCommand o s
  | .kblock o, s => execMmaKblock o s
  | .vblock o, s => execMmvKblock o s
  | .bankRows o, s => execMldMstUnit o s
  | .reelUnit p, s => execReelUnitIssue p s
  | .unitWrite o u, s => execUnitDestWrite o u s
  | .unitAck o u, s => execUnitAck o u s
  | .aging o, s => execSlackAging o s
  | .opDone o, s => execCompletionWrite o s
  | .opCancel o, s => execOpCancelPoint o s
  | .bankFree c b, s => execBankReleaseComplete c (BitVec.ofNat 2 b) s
  | .collMeet t n, s => execCollRendezvous t n s
  | .collRound t n, s => execCollRound t n s
  | .killed c, s => execCtxkillComplete c s
  | .scrubbed p, s => execPartitionScrubComplete p s
  | .ring r, s => runRing r s
  | .retention i, s => execRetentionComplete i s
  | .frameApply, s => execCapFrameApply s
  | .frameLapse, s => execCapFrameLapse s
  | .currHold i, s => execCurrHoldExpiry i s
  | .pkgLoop, s => execPkgControlTick s
  | .thermLoop, s => execThermControlTick s

/-! ## What may be due -/

/-- A list under a condition. -/
def whenever {α : Type} (c : Bool) (xs : List α) : List α := if c then xs else []

/-- The steps of a long result. -/
def LongResult.dues (core slot : Nat) (r : LongResult) : List Due :=
  match r.wait with
  | .snapshot _ _ _ => [.snapshot core slot r.id]
  | .remote _ => [.answer core slot r.id, .noAnswer core slot r.id]
  | _ => [.result core slot r.id]

/-- The steps of a strand in a slot that its condition names. -/
def Strand.dues (t : Strand) : List Due :=
  let c := t.core
  let n := t.slot
  (match t.wait with
    | .start => [.startDelay c n]
    | .restoring => [.restore c n]
    | .wwait => [.wakeTimeout c n, .spuriousWake c n]
    | .woken _ => [.wake c n]
    | .barrier _ _ => [.release c n]
    | .remote => [.answer c n 0, .noAnswer c n 0]
    | .line => [.line c n]
    | .draining => [.save c n]
    | .kernel => [.save c n]
    | _ => [])
  ++ t.outstanding.flatMap (LongResult.dues c n)
  ++ whenever (t.budget == 0 && !t.budgetDue && !t.budgetTaken) [.budget c n]
  ++ whenever t.appends.isSome [.append c n]
  ++ whenever t.haltReq [.halted c n]
  ++ (([0, 1, 2, 3].filter fun g => (FMap.get Stream.reset t.streams g).bound).map fun g => .prefetch c n g)

/-- The steps of the cores and of what stands before them. -/
def State.coreDues (s : State) : List Due :=
  let bound := s.all.filter (·.bound)
  let high := s.hub.launches.any fun l => l.2.live && l.2.lrec.priority == 1
  bound.flatMap Strand.dues
  ++ whenever high (bound.map fun t => Due.preempt t.core t.slot)
  ++ ((s.cores.filter fun c => !c.2.urgent.isEmpty).map fun c => Due.urgent c.1)
  ++ (((s.all.filter fun t => decide (t.place = .pending t.core)).map (·.core)).eraseDups.map Due.bind)
  ++ whenever (s.hub.ctxs.any fun c => c.2.sampleInterval != 0) ((s.boundCores).map Due.sample)
  ++ ((List.range s.eng.messages.length).map Due.message)
  ++ (List.range (s.all.filter fun t => match t.place with
      | .transit _ => true
      | .buffered _ => true
      | _ => false).length).map Due.hop

/-- The steps of a packet that a queue holds. -/
def Packet.dues (q : Nat) (p : Packet) : List Due :=
  if p.type = ptAMSG then [.packetMsg q p.place]
  else if p.type = ptCOPY then [.packetCopy q p.place]
  else if p.type = ptBARRIER then [.packetBarrier q p.place]
  else if p.type = ptSIGNAL then [.packetSignal q p.place]
  else if p.type = ptTEXTSYNC then [.packetText q p.place, .packetTexted q p.place]
  else []

/-- The steps of the hub: names, queues, launches. -/
def State.hubDues (s : State) : List Due :=
  (s.hub.names.flatMap fun e =>
    whenever (decide (e.2.state = .dying) && !e.2.sdone) (.shotDown e.1 :: e.2.acks.map (Due.invalidate e.1)))
  ++ (s.hub.queues.flatMap fun q =>
    q.2.wakes.map (Due.wakeStore q.1)
    ++ whenever q.2.wakePending [.pageIn q.1]
    ++ whenever q.2.teardown [.tornDown q.1]
    ++ whenever q.2.consumes [.consume q.1, .validate q.1]
    ++ whenever q.2.pageWait.isSome [.validatePage q.1]
    ++ (q.2.packets.filter fun p => decide (p.state ≠ .complete)).flatMap (Packet.dues q.1))
  ++ whenever (s.hub.launches.any fun l => l.2.live) [.place]
  ++ ((s.hub.binds.filter fun b => b.2.valid).map fun b => Due.dispatch b.1)
  ++ (s.hub.launches.filter fun l => l.2.live).flatMap fun l => [.trigger l.1, .retire l.1]

/-- The steps of an op. -/
def Op.dues (n : Nat) (o : Op) : List Due :=
  whenever o.live
    ([.opAdmit n, .start n, .depfail n, .remoteOp n, .aging n, .opDone n, .opCancel n]
      ++ (match o.kind with
        | .mma _ => [.kblock n]
        | .mmv _ => [.vblock n]
        | .mld _ _ _ => [.bankRows n]
        | .mst _ _ _ _ => [.bankRows n]
        | _ => [])
      ++ o.flight.map fun f =>
        if f.written then Due.unitAck n (16 * f.unit + f.recv) else Due.unitWrite n (16 * f.unit + f.recv))

/-- The steps of the engines. -/
def State.engineDues (s : State) : List Due :=
  s.eng.ops.flatMap (fun o => Op.dues o.1 o.2)
  ++ ((s.eng.ops.filterMap fun o => match o.2.engine with
      | .reel p => some p
      | _ => none).eraseDups.map Due.reelUnit)
  ++ ((s.eng.banks.filter fun b => decide (b.2.cond = .releasing)).map fun b => Due.bankFree (b.1 / 4) (b.1 % 4))
  ++ s.eng.colls.flatMap fun c => [.collMeet (c.1 / 2 ^ 32) (c.1 % 2 ^ 32), .collRound (c.1 / 2 ^ 32) (c.1 % 2 ^ 32)]

/-- The steps of the package. -/
def State.pkgDues (s : State) : List Due :=
  ((s.hub.ctxs.filter fun c => c.2.killing).map fun c => Due.killed c.1)
  ++ ((s.hub.parts.filter fun p => p.2.scrubbing).map fun p => Due.scrubbed p.1)
  ++ (s.hub.rings.map fun r => Due.ring r.1)
  ++ (s.pkg.parkState.map fun i => Due.retention i.1)
  ++ whenever s.pkg.frameNext.isSome [.frameApply] ++ whenever (s.pkg.frame.isSome || s.pkg.frameNext.isSome) [.frameLapse]
  ++ (s.pkg.currBound.map fun i => Due.currHold i.1)
  ++ whenever (s.pkg.bootStep == 7) [.pkgLoop, .thermLoop]

/-- Whether a step does something. -/
def Due.acts (d : Due) (s : State) : Bool :=
  match runDue d s with
  | .next s' => decide (s' ≠ s)
  | _ => true

/-- The steps that are due: those that do something in this state. -/
def State.due (s : State) : List Due :=
  (s.coreDues ++ s.hubDues ++ s.engineDues ++ s.pkgDues).filter fun d => d.acts s

end Sys2Proof.Machine
end

