-- ==== Sys2Proof/Machine/Hints.lean ====
section
/-!
DEFINITION. The hints (06_instruction_words.md R126–R133, 08_strands_at_issue.md R168) and the end of a hold-off
count (R128).
-/

namespace Sys2Proof.Machine

/-- A hint that does nothing (R126, R132). -/
def plainHint : Act Flow := pure .next

/-- Whether a prefix breaks its group: it carries the marker, it follows an `xi` it may not follow, or the group has
one of its kind already (R129). -/
def prefixBreach (sw isXi full : Bool) (p : Prefix) : Bool := sw || (!isXi && !p.xis.isEmpty) || full

/-- A prefix hint: checked for its place, then recorded for the target (R129, R130). -/
def prefixHint (i : Instr) (sw isXi : Bool) (full : Prefix → Bool) (f : Prefix → Prefix) : Act Flow := do
  let s ← get
  let p := s.me.pfx
  if prefixBreach sw isXi (full p) p then throw (.trap (breachOf i p))
  let q := f p
  modMe fun t => { t with pfx := { q with count := p.count + 1, first := if p.count = 0 then t.pc else p.first } }
  pure .next

/-- R126. -/
def execNop (sw : Bool) (p : BitVec 24) (s : State) : Host.Outcome State Fault Refusal :=
  issue (.nop sw p) sw .hint plainHint s

/-- R131: at most two. -/
def execXi (sw : Bool) (p : BitVec 24) (s : State) : Host.Outcome State Fault Refusal :=
  issue (.xi sw p) sw .pre
    (prefixHint (.xi sw p) sw true (fun q => decide (2 ≤ q.xis.length)) fun q => { q with xis := q.xis ++ [p] }) s

/-- R168: the strand is not eligible in the next cycle. -/
def execPass (sw : Bool) (s : State) : Host.Outcome State Fault Refusal :=
  issue (.pass sw) sw .hint (do
    modMe fun t => { t with wait := .passed }
    pure .next) s

/-- R126. -/
def execPrio (sw : Bool) (k : BitVec 4) (p : BitVec 3) (s : State) : Host.Outcome State Fault Refusal :=
  issue (.prio sw k p) sw .pre
    (prefixHint (.prio sw k p) sw false (fun q => q.prio.isSome) fun q => { q with prio := some (k, p) }) s

/-- R126, R272. -/
def execAfter (sw : Bool) (k : Reg) (s : State) : Host.Outcome State Fault Refusal :=
  issue (.after sw k) sw .pre
    (prefixHint (.after sw k) sw false (fun q => q.after.isSome) fun q => { q with after := some k }) s

/-- R126, R204: rounding in bits 1:0, saturate in bit 2, stochastic in bit 3, as `rmode` has them. -/
def execMod (sw h t : Bool) (r : BitVec 2) (s : State) : Host.Outcome State Fault Refusal :=
  issue (.mod sw h t r) sw .pre
    (prefixHint (.mod sw h t r) sw false (fun q => q.mod.isSome) fun q => { q with mod := some (bit h ++ bit t ++ r) }) s

/-- The strand with the vector registers of a mask dead (R127). -/
def Strand.markDead (x : Strand) (m : BitVec 16) : Strand :=
  { x with
    vlive := x.vlive &&& ~~~m
    vregs := (List.range 16).foldl (fun v r =>
      if m.getLsbD r then FMap.clear v (64 * r) (64 * r + 64) else v) x.vregs }

/-- R127. -/
def execDead (sw : Bool) (m : BitVec 16) (s : State) : Host.Outcome State Fault Refusal :=
  issue (.dead sw m) sw .hint (do
    modMe fun t => t.markDead m
    pure .next) s

/-- R128: replaces a count already running. -/
def execMsk (sw : Bool) (c : BitVec 6) (s : State) : Host.Outcome State Fault Refusal :=
  issue (.msk sw c) sw .msk (do
    modMe fun t => { t with mskcnt := c }
    pure .next) s

/-- R132. Directly after a prefix it raises ILLOP 4, as R129 says of every hint that is not a prefix (log 105). -/
def execReservedHint (sw : Bool) (k : BitVec 3) (p : BitVec 24) (s : State) : Host.Outcome State Fault Refusal :=
  issue (.reservedHint sw k p) sw .hint plainHint s

/-- R128: the count of a strand that has one word left runs out. -/
def execMskCountExpiry (core slot : Nat) (s : State) : Host.Outcome State Fault Refusal :=
  .next (s.setStrand core slot fun t => if t.mskcnt = 1 then t.holdOffEnds else t)

end Sys2Proof.Machine
end

