-- ==== Sys2Proof/Machine/Dispatch.lean ====
section
/-!
DEFINITION. The meaning of each instruction word and of each step of the device, one arm each.
-/

namespace Sys2Proof.Machine

/-- The meaning of an instruction. -/
def exec (i : Instr) (s : State) : Host.Outcome State Fault Refusal :=
  match i with
  | .add sw d a b g => Sys2Proof.Machine.execAdd sw d a b g s
  | .sub sw d a b g => Sys2Proof.Machine.execSub sw d a b g s
  | .mul sw d a b g => Sys2Proof.Machine.execMul sw d a b g s
  | .mulh sw d a b g => Sys2Proof.Machine.execMulh sw d a b g s
  | .mulhu sw d a b g => Sys2Proof.Machine.execMulhu sw d a b g s
  | .div sw d a b g => Sys2Proof.Machine.execDiv sw d a b g s
  | .divu sw d a b g => Sys2Proof.Machine.execDivu sw d a b g s
  | .rem sw d a b g => Sys2Proof.Machine.execRem sw d a b g s
  | .remu sw d a b g => Sys2Proof.Machine.execRemu sw d a b g s
  | .and sw d a b g => Sys2Proof.Machine.execAnd sw d a b g s
  | .or sw d a b g => Sys2Proof.Machine.execOr sw d a b g s
  | .xor sw d a b g => Sys2Proof.Machine.execXor sw d a b g s
  | .andn sw d a b g => Sys2Proof.Machine.execAndn sw d a b g s
  | .orn sw d a b g => Sys2Proof.Machine.execOrn sw d a b g s
  | .shl sw d a b g => Sys2Proof.Machine.execShl sw d a b g s
  | .shr sw d a b g => Sys2Proof.Machine.execShr sw d a b g s
  | .sar sw d a b g => Sys2Proof.Machine.execSar sw d a b g s
  | .rol sw d a b g => Sys2Proof.Machine.execRol sw d a b g s
  | .ror sw d a b g => Sys2Proof.Machine.execRor sw d a b g s
  | .min sw d a b g => Sys2Proof.Machine.execMin sw d a b g s
  | .max sw d a b g => Sys2Proof.Machine.execMax sw d a b g s
  | .minu sw d a b g => Sys2Proof.Machine.execMinu sw d a b g s
  | .maxu sw d a b g => Sys2Proof.Machine.execMaxu sw d a b g s
  | .sel sw d a b g => Sys2Proof.Machine.execSel sw d a b g s
  | .clz sw d a g => Sys2Proof.Machine.execClz sw d a g s
  | .ctz sw d a g => Sys2Proof.Machine.execCtz sw d a g s
  | .pop sw d a g => Sys2Proof.Machine.execPop sw d a g s
  | .bext sw d a b g => Sys2Proof.Machine.execBext sw d a b g s
  | .bins sw d a b g => Sys2Proof.Machine.execBins sw d a b g s
  | .sextB sw d a g => Sys2Proof.Machine.execSextB sw d a g s
  | .sextH sw d a g => Sys2Proof.Machine.execSextH sw d a g s
  | .sextW sw d a g => Sys2Proof.Machine.execSextW sw d a g s
  | .zextB sw d a g => Sys2Proof.Machine.execZextB sw d a g s
  | .zextH sw d a g => Sys2Proof.Machine.execZextH sw d a g s
  | .zextW sw d a g => Sys2Proof.Machine.execZextW sw d a g s
  | .ceq sw d a b im => Sys2Proof.Machine.execCeq sw d a b im s
  | .cne sw d a b im => Sys2Proof.Machine.execCne sw d a b im s
  | .clt sw d a b im => Sys2Proof.Machine.execClt sw d a b im s
  | .cltu sw d a b im => Sys2Proof.Machine.execCltu sw d a b im s
  | .cle sw d a b im => Sys2Proof.Machine.execCle sw d a b im s
  | .cleu sw d a b im => Sys2Proof.Machine.execCleu sw d a b im s
  | .adds sw d a b h => Sys2Proof.Machine.execAdds sw d a b h s
  | .addi sw d a im => Sys2Proof.Machine.execAddi sw d a im s
  | .andi sw d a im => Sys2Proof.Machine.execAndi sw d a im s
  | .ori sw d a im => Sys2Proof.Machine.execOri sw d a im s
  | .xori sw d a im => Sys2Proof.Machine.execXori sw d a im s
  | .shli sw d a n => Sys2Proof.Machine.execShli sw d a n s
  | .shri sw d a n => Sys2Proof.Machine.execShri sw d a n s
  | .sari sw d a n => Sys2Proof.Machine.execSari sw d a n s
  | .muli sw d a im => Sys2Proof.Machine.execMuli sw d a im s
  | .ldi sw d im => Sys2Proof.Machine.execLdi sw d im s
  | .ceqi sw d a b im => Sys2Proof.Machine.execCeqi sw d a b im s
  | .cnei sw d a b im => Sys2Proof.Machine.execCnei sw d a b im s
  | .clti sw d a b im => Sys2Proof.Machine.execClti sw d a b im s
  | .cltui sw d a b im => Sys2Proof.Machine.execCltui sw d a b im s
  | .clei sw d a b im => Sys2Proof.Machine.execClei sw d a b im s
  | .cleui sw d a b im => Sys2Proof.Machine.execCleui sw d a b im s
  | .bseti sw d a n => Sys2Proof.Machine.execBseti sw d a n s
  | .bclri sw d a n => Sys2Proof.Machine.execBclri sw d a n s
  | .binvi sw d a n => Sys2Proof.Machine.execBinvi sw d a n s
  | .adr sw d im => Sys2Proof.Machine.execAdr sw d im s
  | .ldB sw t b o => Sys2Proof.Machine.execLdB sw t b o s
  | .ldBs sw t b o => Sys2Proof.Machine.execLdBs sw t b o s
  | .ldH sw t b o => Sys2Proof.Machine.execLdH sw t b o s
  | .ldHs sw t b o => Sys2Proof.Machine.execLdHs sw t b o s
  | .ldW sw t b o => Sys2Proof.Machine.execLdW sw t b o s
  | .ldWs sw t b o => Sys2Proof.Machine.execLdWs sw t b o s
  | .ldD sw t b o => Sys2Proof.Machine.execLdD sw t b o s
  | .ldp sw t b o => Sys2Proof.Machine.execLdp sw t b o s
  | .stB sw t b o => Sys2Proof.Machine.execStB sw t b o s
  | .stH sw t b o => Sys2Proof.Machine.execStH sw t b o s
  | .stW sw t b o => Sys2Proof.Machine.execStW sw t b o s
  | .stD sw t b o => Sys2Proof.Machine.execStD sw t b o s
  | .stp sw t b o => Sys2Proof.Machine.execStp sw t b o s
  | .ldx sw t b x h z g => Sys2Proof.Machine.execLdx sw t b x h z g s
  | .stx sw t b x h z => Sys2Proof.Machine.execStx sw t b x h z s
  | .amo sw t b r o c u => Sys2Proof.Machine.execAmo sw t b r o c u s
  | .cas sw t b r o c w => Sys2Proof.Machine.execCas sw t b r o c w s
  | .cas2 sw t b r o c => Sys2Proof.Machine.execCas2 sw t b r o c s
  | .ldAcq sw t b c o => Sys2Proof.Machine.execLdAcq sw t b c o s
  | .stRel sw t b c o => Sys2Proof.Machine.execStRel sw t b c o s
  | .br sw d => Sys2Proof.Machine.execBr sw d s
  | .bb sw r b n d => Sys2Proof.Machine.execBb sw r b n d s
  | .call sw d => Sys2Proof.Machine.execCall sw d s
  | .callr sw r => Sys2Proof.Machine.execCallr sw r s
  | .jmp sw r => Sys2Proof.Machine.execJmp sw r s
  | .ret sw => Sys2Proof.Machine.execRet sw s
  | .dbnz sw r d => Sys2Proof.Machine.execDbnz sw r d s
  | .sys sw c => Sys2Proof.Machine.execSys sw c s
  | .brk sw c => Sys2Proof.Machine.execBrk sw c s
  | .tret sw => Sys2Proof.Machine.execTret sw s
  | .hop sw r => Sys2Proof.Machine.execHop sw r s
  | .spawn sw e a => Sys2Proof.Machine.execSpawn sw e a s
  | .amsg sw d h p => Sys2Proof.Machine.execAmsg sw d h p s
  | .amsgUrg sw d h p => Sys2Proof.Machine.execAmsgUrg sw d h p s
  | .yield sw => Sys2Proof.Machine.execYield sw s
  | .done sw => Sys2Proof.Machine.execDone sw s
  | .mfs sw d n => Sys2Proof.Machine.execMfs sw d n s
  | .mts sw a n => Sys2Proof.Machine.execMts sw a n s
  | .fence sw c k => Sys2Proof.Machine.execFence sw c k s
  | .acq sw r c => Sys2Proof.Machine.execAcq sw r c s
  | .rel sw r c => Sys2Proof.Machine.execRel sw r c s
  | .ebind sw r n t => Sys2Proof.Machine.execEbind sw r n t s
  | .wwait sw d a b => Sys2Proof.Machine.execWwait sw d a b s
  | .barArr sw l p => Sys2Proof.Machine.execBarArr sw l p s
  | .barWait sw l p => Sys2Proof.Machine.execBarWait sw l p s
  | .trig sw => Sys2Proof.Machine.execTrig sw s
  | .tsync sw a l => Sys2Proof.Machine.execTsync sw a l s
  | .shbind sw a d n => Sys2Proof.Machine.execShbind sw a d n s
  | .shrel sw n => Sys2Proof.Machine.execShrel sw n s
  | .shpub sw a d => Sys2Proof.Machine.execShpub sw a d s
  | .istat sw d p => Sys2Proof.Machine.execIstat sw d p s
  | .vadd sw d a b x ty mk => Sys2Proof.Machine.execVadd sw d a b x ty mk s
  | .vsub sw d a b x ty mk => Sys2Proof.Machine.execVsub sw d a b x ty mk s
  | .vmul sw d a b x ty mk => Sys2Proof.Machine.execVmul sw d a b x ty mk s
  | .vmulHi sw d a b x ty mk => Sys2Proof.Machine.execVmulHi sw d a b x ty mk s
  | .vfma sw d a b x mk => Sys2Proof.Machine.execVfma sw d a b x mk s
  | .vfms sw d a b x mk => Sys2Proof.Machine.execVfms sw d a b x mk s
  | .vfnma sw d a b x mk => Sys2Proof.Machine.execVfnma sw d a b x mk s
  | .vmin sw d a b x ty mk => Sys2Proof.Machine.execVmin sw d a b x ty mk s
  | .vmax sw d a b x ty mk => Sys2Proof.Machine.execVmax sw d a b x ty mk s
  | .vabs sw d a ty mk => Sys2Proof.Machine.execVabs sw d a ty mk s
  | .vneg sw d a ty mk => Sys2Proof.Machine.execVneg sw d a ty mk s
  | .vand sw d a b x ty mk => Sys2Proof.Machine.execVand sw d a b x ty mk s
  | .vor sw d a b x ty mk => Sys2Proof.Machine.execVor sw d a b x ty mk s
  | .vxor sw d a b x ty mk => Sys2Proof.Machine.execVxor sw d a b x ty mk s
  | .vandn sw d a b x ty mk => Sys2Proof.Machine.execVandn sw d a b x ty mk s
  | .vshl sw d a b x ty mk => Sys2Proof.Machine.execVshl sw d a b x ty mk s
  | .vshr sw d a b x ty mk => Sys2Proof.Machine.execVshr sw d a b x ty mk s
  | .vsar sw d a b x ty mk => Sys2Proof.Machine.execVsar sw d a b x ty mk s
  | .vceq sw d a b x ty mk => Sys2Proof.Machine.execVceq sw d a b x ty mk s
  | .vcne sw d a b x ty mk => Sys2Proof.Machine.execVcne sw d a b x ty mk s
  | .vclt sw d a b x ty mk => Sys2Proof.Machine.execVclt sw d a b x ty mk s
  | .vcle sw d a b x ty mk => Sys2Proof.Machine.execVcle sw d a b x ty mk s
  | .vsel sw d a b x ty mk => Sys2Proof.Machine.execVsel sw d a b x ty mk s
  | .vmov sw d b x ty mk => Sys2Proof.Machine.execVmov sw d b x ty mk s
  | .vcvt sw d a ty mk f => Sys2Proof.Machine.execVcvt sw d a ty mk f s
  | .vrcp sw d a mk => Sys2Proof.Machine.execVrcp sw d a mk s
  | .vrsq sw d a mk => Sys2Proof.Machine.execVrsq sw d a mk s
  | .vexp2 sw d a mk => Sys2Proof.Machine.execVexp2 sw d a mk s
  | .vlog2 sw d a mk => Sys2Proof.Machine.execVlog2 sw d a mk s
  | .vtanh sw d a mk => Sys2Proof.Machine.execVtanh sw d a mk s
  | .vsig sw d a mk => Sys2Proof.Machine.execVsig sw d a mk s
  | .vlnormAcc sw d a b mk h => Sys2Proof.Machine.execVlnormAcc sw d a b mk h s
  | .vlnormFin sw d a b mk h => Sys2Proof.Machine.execVlnormFin sw d a b mk h s
  | .vredsum sw d a b x ty mk => Sys2Proof.Machine.execVredsum sw d a b x ty mk s
  | .vredmax sw d a b x ty mk => Sys2Proof.Machine.execVredmax sw d a b x ty mk s
  | .vredmin sw d a b x ty mk => Sys2Proof.Machine.execVredmin sw d a b x ty mk s
  | .vscan sw d a b x ty mk k => Sys2Proof.Machine.execVscan sw d a b x ty mk k s
  | .vslideDn sw d a b ty mk => Sys2Proof.Machine.execVslideDn sw d a b ty mk s
  | .vslideUp sw d a b ty mk => Sys2Proof.Machine.execVslideUp sw d a b ty mk s
  | .vslideRot sw d a b ty mk => Sys2Proof.Machine.execVslideRot sw d a b ty mk s
  | .vperm sw d a b x ty mk => Sys2Proof.Machine.execVperm sw d a b x ty mk s
  | .vins sw d l b ty h => Sys2Proof.Machine.execVins sw d l b ty h s
  | .vext sw d a l ty h => Sys2Proof.Machine.execVext sw d a l ty h s
  | .vpackBf sw d a b x mk => Sys2Proof.Machine.execVpackBf sw d a b x mk s
  | .vpackH sw d a b x ty mk => Sys2Proof.Machine.execVpackH sw d a b x ty mk s
  | .vunpackBf sw d a h mk => Sys2Proof.Machine.execVunpackBf sw d a h mk s
  | .vunpackH sw d a h ty mk => Sys2Proof.Machine.execVunpackH sw d a h ty mk s
  | .vsmaxSeg sw d a b mk c q => Sys2Proof.Machine.execVsmaxSeg sw d a b mk c q s
  | .vclass sw d a mk => Sys2Proof.Machine.execVclass sw d a mk s
  | .vld sw d b x o mk => Sys2Proof.Machine.execVld sw d b x o mk s
  | .vst sw d b x o mk => Sys2Proof.Machine.execVst sw d b x o mk s
  | .vldD sw d b x o mk => Sys2Proof.Machine.execVldD sw d b x o mk s
  | .vldDHi sw d b x o mk => Sys2Proof.Machine.execVldDHi sw d b x o mk s
  | .vldDInt sw d b x o mk => Sys2Proof.Machine.execVldDInt sw d b x o mk s
  | .vstQ sw d b x f => Sys2Proof.Machine.execVstQ sw d b x f s
  | .vlds sw d b p z mk => Sys2Proof.Machine.execVlds sw d b p z mk s
  | .vldx sw d b im z mk => Sys2Proof.Machine.execVldx sw d b im z mk s
  | .vstx sw d b im z mk => Sys2Proof.Machine.execVstx sw d b im z mk s
  | .vldSeg sw d b r g mk h => Sys2Proof.Machine.execVldSeg sw d b r g mk h s
  | .vsegsum sw d b p mk h => Sys2Proof.Machine.execVsegsum sw d b p mk h s
  | .vsegmax sw d b p mk h => Sys2Proof.Machine.execVsegmax sw d b p mk h s
  | .vldb sw d b x mk => Sys2Proof.Machine.execVldb sw d b x mk s
  | .sbind sw a c n r w g f => Sys2Proof.Machine.execSbind sw a c n r w g f s
  | .sunbind sw n => Sys2Proof.Machine.execSunbind sw n s
  | .sseek sw im n => Sys2Proof.Machine.execSseek sw im n s
  | .sstat sw d n p => Sys2Proof.Machine.execSstat sw d n p s
  | .mma sw k a => Sys2Proof.Machine.execMma sw k a s
  | .mmaZ sw k a => Sys2Proof.Machine.execMmaZ sw k a s
  | .mmv sw k a => Sys2Proof.Machine.execMmv sw k a s
  | .mmvZ sw k a => Sys2Proof.Machine.execMmvZ sw k a s
  | .mzero sw b => Sys2Proof.Machine.execMzero sw b s
  | .mld sw k a p b => Sys2Proof.Machine.execMld sw k a p b s
  | .mst sw k a p f b => Sys2Proof.Machine.execMst sw k a p f b s
  | .macq sw d => Sys2Proof.Machine.execMacq sw d s
  | .macqSpecific sw d b => Sys2Proof.Machine.execMacqSpecific sw d b s
  | .mrel sw b => Sys2Proof.Machine.execMrel sw b s
  | .mcap sw d im l m => Sys2Proof.Machine.execMcap sw d im l m s
  | .cpy sw k a => Sys2Proof.Machine.execCpy sw k a s
  | .cpym sw k a => Sys2Proof.Machine.execCpym sw k a s
  | .cpyfree sw d m t => Sys2Proof.Machine.execCpyfree sw d m t s
  | .coll sw k a => Sys2Proof.Machine.execColl sw k a s
  | .owait sw k d => Sys2Proof.Machine.execOwait sw k d s
  | .otest sw k d => Sys2Proof.Machine.execOtest sw k d s
  | .ocancel sw k => Sys2Proof.Machine.execOcancel sw k s
  | .ocancelN sw a c => Sys2Proof.Machine.execOcancelN sw a c s
  | .odetach sw k d c => Sys2Proof.Machine.execOdetach sw k d c s
  | .oadopt sw k a c => Sys2Proof.Machine.execOadopt sw k a c s
  | .ofaultResume sw a c => Sys2Proof.Machine.execOfaultResume sw a c s
  | .ofaultFail sw a c => Sys2Proof.Machine.execOfaultFail sw a c s
  | .ostat sw k d p => Sys2Proof.Machine.execOstat sw k d p s
  | .ostatN sw a d c p => Sys2Proof.Machine.execOstatN sw a d c p s
  | .nnew sw d a b c => Sys2Proof.Machine.execNnew sw d a b c s
  | .nres sw d a c => Sys2Proof.Machine.execNres sw d a c s
  | .nresV sw d a c => Sys2Proof.Machine.execNresV sw d a c s
  | .nkill sw a c => Sys2Proof.Machine.execNkill sw a c s
  | .nref sw a c => Sys2Proof.Machine.execNref sw a c s
  | .nrel sw a c => Sys2Proof.Machine.execNrel sw a c s
  | .nstat sw d a c => Sys2Proof.Machine.execNstat sw d a c s
  | .ncas sw d a b c o p => Sys2Proof.Machine.execNcas sw d a b c o p s
  | .tld sw d a => Sys2Proof.Machine.execTld sw d a s
  | .tst sw a b => Sys2Proof.Machine.execTst sw a b s
  | .tstImm sw a t => Sys2Proof.Machine.execTstImm sw a t s
  | .tset sw a b c => Sys2Proof.Machine.execTset sw a b c s
  | .tsetImm sw a b t => Sys2Proof.Machine.execTsetImm sw a b t s
  | .tabld sw a b c n => Sys2Proof.Machine.execTabld sw a b c n s
  | .tabsel sw a n => Sys2Proof.Machine.execTabsel sw a n s
  | .tabsync sw a => Sys2Proof.Machine.execTabsync sw a s
  | .tabrd sw d a b n => Sys2Proof.Machine.execTabrd sw d a b n s
  | .tabrdSel sw d a => Sys2Proof.Machine.execTabrdSel sw d a s
  | .rdset sw a b p => Sys2Proof.Machine.execRdset sw a b p s
  | .nop sw p => Sys2Proof.Machine.execNop sw p s
  | .xi sw p => Sys2Proof.Machine.execXi sw p s
  | .pass sw => Sys2Proof.Machine.execPass sw s
  | .prio sw k p => Sys2Proof.Machine.execPrio sw k p s
  | .after sw k => Sys2Proof.Machine.execAfter sw k s
  | .mod sw h t r => Sys2Proof.Machine.execMod sw h t r s
  | .dead sw m => Sys2Proof.Machine.execDead sw m s
  | .msk sw c => Sys2Proof.Machine.execMsk sw c s
  | .reservedHint sw k p => Sys2Proof.Machine.execReservedHint sw k p s
  | .mskCountExpiry core slot => Sys2Proof.Machine.execMskCountExpiry core slot s
  | .shootdownInvalidate counter core => Sys2Proof.Machine.execShootdownInvalidate counter core s
  | .shootdownComplete counter => Sys2Proof.Machine.execShootdownComplete counter s
  | .remoteResolve core slot id status addr version => Sys2Proof.Machine.execRemoteResolve core slot id status addr version s
  | .resolveTimeout core slot id => Sys2Proof.Machine.execResolveTimeout core slot id s
  | .snapshotWaitEnd core slot id => Sys2Proof.Machine.execSnapshotWaitEnd core slot id s
  | .wakeStore queue value => Sys2Proof.Machine.execWakeStore queue value s
  | .queuePageIn queue => Sys2Proof.Machine.execQueuePageIn queue s
  | .slotConsume queue => Sys2Proof.Machine.execSlotConsume queue s
  | .skeinValidation queue => Sys2Proof.Machine.execSkeinValidation queue s
  | .validationPageIn queue => Sys2Proof.Machine.execValidationPageIn queue s
  | .groupPlacement => Sys2Proof.Machine.execGroupPlacement s
  | .bindRecordDispatch index => Sys2Proof.Machine.execBindRecordDispatch index s
  | .sliceBind core => Sys2Proof.Machine.execSliceBind core s
  | .startDelayExpiry core slot => Sys2Proof.Machine.execStartDelayExpiry core slot s
  | .urgentDelivery core => Sys2Proof.Machine.execUrgentDelivery core s
  | .amsgArrival index => Sys2Proof.Machine.execAmsgArrival index s
  | .amsgPacket queue index => Sys2Proof.Machine.execAmsgPacket queue index s
  | .hopArrival index => Sys2Proof.Machine.execHopArrival index s
  | .longResultReturn core slot id => Sys2Proof.Machine.execLongResultReturn core slot id s
  | .icacheLineFill core slot => Sys2Proof.Machine.execIcacheLineFill core slot s
  | .fetch core slot => Sys2Proof.Machine.execFetch core slot s
  | .budgetExhausted core slot => Sys2Proof.Machine.execBudgetExhausted core slot s
  | .budgetTrap core slot => Sys2Proof.Machine.execBudgetTrap core slot s
  | .streamPrefetch core slot sg => Sys2Proof.Machine.execStreamPrefetch core slot sg s
  | .streamAppendStore core slot => Sys2Proof.Machine.execStreamAppendStore core slot s
  | .barrierPacketComplete queue index => Sys2Proof.Machine.execBarrierPacketComplete queue index s
  | .signalPacket queue index => Sys2Proof.Machine.execSignalPacket queue index s
  | .textsyncStart queue index => Sys2Proof.Machine.execTextsyncStart queue index s
  | .textsyncComplete queue index => Sys2Proof.Machine.execTextsyncComplete queue index s
  | .copyPacket queue index => Sys2Proof.Machine.execCopyPacket queue index s
  | .queueTeardown ctx => Sys2Proof.Machine.execQueueTeardown ctx s
  | .queueTeardownComplete queue => Sys2Proof.Machine.execQueueTeardownComplete queue s
  | .opAdmit op => Sys2Proof.Machine.execOpAdmit op s
  | .opStart op => Sys2Proof.Machine.execOpStart op s
  | .depfail op => Sys2Proof.Machine.execDepfail op s
  | .reelUnitIssue ply => Sys2Proof.Machine.execReelUnitIssue ply s
  | .unitDestWrite op unit => Sys2Proof.Machine.execUnitDestWrite op unit s
  | .unitAck op unit => Sys2Proof.Machine.execUnitAck op unit s
  | .slackAging op => Sys2Proof.Machine.execSlackAging op s
  | .completionWrite op => Sys2Proof.Machine.execCompletionWrite op s
  | .opCancelPoint op => Sys2Proof.Machine.execOpCancelPoint op s
  | .mmaKblock op => Sys2Proof.Machine.execMmaKblock op s
  | .mmvKblock op => Sys2Proof.Machine.execMmvKblock op s
  | .mldMstUnit op => Sys2Proof.Machine.execMldMstUnit op s
  | .remoteCommand op => Sys2Proof.Machine.execRemoteCommand op s
  | .bankReleaseComplete core bank => Sys2Proof.Machine.execBankReleaseComplete core bank s
  | .collRendezvous team seq => Sys2Proof.Machine.execCollRendezvous team seq s
  | .collRound team seq => Sys2Proof.Machine.execCollRound team seq s
  | .wwaitWake core slot => Sys2Proof.Machine.execWwaitWake core slot s
  | .wwaitTimeout core slot => Sys2Proof.Machine.execWwaitTimeout core slot s
  | .wwaitSpuriousWake core slot => Sys2Proof.Machine.execWwaitSpuriousWake core slot s
  | .barWaitRelease core slot => Sys2Proof.Machine.execBarWaitRelease core slot s
  | .triggerStore launch => Sys2Proof.Machine.execTriggerStore launch s
  | .launchRetire launch => Sys2Proof.Machine.execLaunchRetire launch s
  | .preemptCommand core slot => Sys2Proof.Machine.execPreemptCommand core slot s
  | .saveComplete core slot => Sys2Proof.Machine.execSaveComplete core slot s
  | .restoreComplete core slot => Sys2Proof.Machine.execRestoreComplete core slot s
  | .memerr word => Sys2Proof.Machine.execMemerr word s
  | .stopHit core slot => Sys2Proof.Machine.execStopHit core slot s
  | .sampleTick core => Sys2Proof.Machine.execSampleTick core s
  | .haltComplete core slot => Sys2Proof.Machine.execHaltComplete core slot s
  | .qattach ring ctx desc => Sys2Proof.Machine.execQattach ring ctx desc s
  | .qclose ring ctx lo hi => Sys2Proof.Machine.execQclose ring ctx lo hi s
  | .xinval ring ctx base len => Sys2Proof.Machine.execXinval ring ctx base len s
  | .setroot ring ctx frame => Sys2Proof.Machine.execSetroot ring ctx frame s
  | .settleResume ring ctx vcore slot => Sys2Proof.Machine.execSettleResume ring ctx vcore slot s
  | .settleRequeue ring ctx vcore slot => Sys2Proof.Machine.execSettleRequeue ring ctx vcore slot s
  | .settleKill ring ctx vcore slot => Sys2Proof.Machine.execSettleKill ring ctx vcore slot s
  | .fetchprot ring ctx vcore slot kind => Sys2Proof.Machine.execFetchprot ring ctx vcore slot kind s
  | .opsettleResume ring ctx handle => Sys2Proof.Machine.execOpsettleResume ring ctx handle s
  | .opsettleFail ring ctx handle => Sys2Proof.Machine.execOpsettleFail ring ctx handle s
  | .ctxkill ring ctx => Sys2Proof.Machine.execCtxkill ring ctx s
  | .ctxkillComplete ctx => Sys2Proof.Machine.execCtxkillComplete ctx s
  | .savepool ring ctx base count => Sys2Proof.Machine.execSavepool ring ctx base count s
  | .tabown ring ctx mem table owner => Sys2Proof.Machine.execTabown ring ctx mem table owner s
  | .tracebase ring ctx die which header => Sys2Proof.Machine.execTracebase ring ctx die which header s
  | .staterd ring ctx cls id0 id1 offset len buf => Sys2Proof.Machine.execStaterd ring ctx cls id0 id1 offset len buf s
  | .himage ring ctx image => Sys2Proof.Machine.execHimage ring ctx image s
  | .timeout ring ctx limit interval => Sys2Proof.Machine.execTimeout ring ctx limit interval s
  | .statewr ring ctx cls id0 id1 offset len buf => Sys2Proof.Machine.execStatewr ring ctx cls id0 id1 offset len buf s
  | .msgcores ring ctx chip list count => Sys2Proof.Machine.execMsgcores ring ctx chip list count s
  | .routetab ring ctx chip table count => Sys2Proof.Machine.execRoutetab ring ctx chip table count s
  | .snaparea ring ctx base count => Sys2Proof.Machine.execSnaparea ring ctx base count s
  | .partset ring part islands sysCores hbm irqCore net queueQuota => Sys2Proof.Machine.execPartset ring part islands sysCores hbm irqCore net queueQuota s
  | .reach ring part map => Sys2Proof.Machine.execReach ring part map s
  | .rank ring part rank => Sys2Proof.Machine.execRank ring part rank s
  | .partceil ring part mhz => Sys2Proof.Machine.execPartceil ring part mhz s
  | .park ring island => Sys2Proof.Machine.execPark ring island s
  | .unpark ring island => Sys2Proof.Machine.execUnpark ring island s
  | .islandExit island => Sys2Proof.Machine.execIslandExit island s
  | .retentionComplete island => Sys2Proof.Machine.execRetentionComplete island s
  | .pkglimit ring watts => Sys2Proof.Machine.execPkglimit ring watts s
  | .eventReadIndexWrite part index => Sys2Proof.Machine.execEventReadIndexWrite part index s
  | .registerWrite ply index value => Sys2Proof.Machine.execRegisterWrite ply index value s
  | .halt session target => Sys2Proof.Machine.execHalt session target s
  | .debugResume session target => Sys2Proof.Machine.execDebugResume session target s
  | .debugRead session ctx cls id0 id1 offset len buf => Sys2Proof.Machine.execDebugRead session ctx cls id0 id1 offset len buf s
  | .debugWrite session ctx place item value => Sys2Proof.Machine.execDebugWrite session ctx place item value s
  | .stopset session ctx vcore pc => Sys2Proof.Machine.execStopset session ctx vcore pc s
  | .stopclr session ctx vcore pc => Sys2Proof.Machine.execStopclr session ctx vcore pc s
  | .sample session ctx interval => Sys2Proof.Machine.execSample session ctx interval s
  | .getVersion port => Sys2Proof.Machine.execGetVersion port s
  | .getCapabilities port => Sys2Proof.Machine.execGetCapabilities port s
  | .negotiateAlgorithms port falcon shake => Sys2Proof.Machine.execNegotiateAlgorithms port falcon shake s
  | .getCertificate port => Sys2Proof.Machine.execGetCertificate port s
  | .challenge port nonce => Sys2Proof.Machine.execChallenge port nonce s
  | .getMeasurements port => Sys2Proof.Machine.execGetMeasurements port s
  | .hallKeyInstall session key id => Sys2Proof.Machine.execHallKeyInstall session key id s
  | .capFrame frame => Sys2Proof.Machine.execCapFrame frame s
  | .capFrameApply => Sys2Proof.Machine.execCapFrameApply s
  | .capFrameLapse => Sys2Proof.Machine.execCapFrameLapse s
  | .pkgControlTick => Sys2Proof.Machine.execPkgControlTick s
  | .thermControlTick => Sys2Proof.Machine.execThermControlTick s
  | .regulatorAlert island mhz => Sys2Proof.Machine.execRegulatorAlert island mhz s
  | .currHoldExpiry island => Sys2Proof.Machine.execCurrHoldExpiry island s
  | .boot => Sys2Proof.Machine.execBoot s
  | .firmwareImageWrite image => Sys2Proof.Machine.execFirmwareImageWrite image s
  | .rdmaWriteInbound qp addr data => Sys2Proof.Machine.execRdmaWriteInbound qp addr data s
  | .storageCommand part ctx addr data => Sys2Proof.Machine.execStorageCommand part ctx addr data s
  | .linkTraining port partnerMax => Sys2Proof.Machine.execLinkTraining port partnerMax s
  | .linkLoss port => Sys2Proof.Machine.execLinkLoss port s
  | .flitReceive port lane flit => Sys2Proof.Machine.execFlitReceive port lane flit s
  | .flitRetryTimeout port lane seq => Sys2Proof.Machine.execFlitRetryTimeout port lane seq s
  | .queueUnmap queue => Sys2Proof.Machine.execQueueUnmap queue s
  | .queuePageOut queue => Sys2Proof.Machine.execQueuePageOut queue s
  | .contextCreate part ctx plies => Sys2Proof.Machine.execContextCreate part ctx plies s
  | .partitionScrubComplete part => Sys2Proof.Machine.execPartitionScrubComplete part s
  | .netpageResume qp => Sys2Proof.Machine.execNetpageResume qp s
  | .hostMemoryRequest ctx req addr data => Sys2Proof.Machine.execHostMemoryRequest ctx req addr data s
  | .atsInvalidation ctx base len => Sys2Proof.Machine.execAtsInvalidation ctx base len s
  | .softError site correctable => Sys2Proof.Machine.execSoftError site correctable s
  | .debugSessionOpen right authentic => Sys2Proof.Machine.execDebugSessionOpen right authentic s
  | .queuePairCreate part ctx qp => Sys2Proof.Machine.execQueuePairCreate part ctx qp s
  | .rdmaReadInbound qp addr len => Sys2Proof.Machine.execRdmaReadInbound qp addr len s
  | .rdmaSendInbound qp data => Sys2Proof.Machine.execRdmaSendInbound qp data s

end Sys2Proof.Machine
end

