-- ==== Sys2Proof/Machine/Load.lean ====
section
/-!
DEFINITION. A program placed from outside: the smallest state in which a strand issues a given word next. It stands
for the load of a program (BOOT, partition and context commands, a launch): log 10.
-/

namespace Sys2Proof.Machine

/-- The text page's virtual address. -/
abbrev loadVa : Nat := 65536

/-- HBM frames 16–20 hold the five levels of tables, frame 21 the text. -/
def loadTables (m : Mem) : Mem :=
  let table (m : Mem) (tf va level e : Nat) : Mem := m.putBytes (hbmKey (entryAddr tf level va)) (toLE 8 e)
  let m := table m 16 loadVa 4 (1 + 17 * 65536)
  let m := table m 17 loadVa 3 (1 + 18 * 65536)
  let m := table m 18 loadVa 2 (1 + 19 * 65536)
  let m := table m 19 loadVa 1 (1 + 20 * 65536)
  -- V, leaf, R, W, X, U, RES, PIN, A, D
  table m 20 loadVa 0 (0x18FF + 21 * 65536)

/-- The strand that issues the word: context 1 of partition 1, slot 0 of core 0. -/
def loadStrand : Strand :=
  { Strand.empty with
    place := .slot 0 0, ctx := 1, part := 1, pc := BitVec.ofNat 64 loadVa, budget := BitVec.allOnes 64
    slicebud := BitVec.allOnes 64, deadline := BitVec.allOnes 64 }

/-- The state with a word stored where the next step fetches. -/
def State.placed (s : State) (w : Nat) : State :=
  let m := loadTables s.mem
  let m := m.putBytes (hbmKey (21 * 4096)) (toLE 4 w)
  let m := { m with icache := [{ core := 0, ctx := 1, va := loadVa, word := BitVec.ofNat 32 w }], tlb := [] }
  let s := { s with mem := m, agenda := [], me := loadStrand, strands := [] }
  let s := s.setPart 1 fun _ => { Part.none with live := true, islands := 1, hbm := [(0, 1)] }
  s.setCtx 1 fun _ => { Ctx.none with live := true, part := 1, plies := [0], root := 16 }

end Sys2Proof.Machine
end

