-- ==== Sys2Proof/Machine/Step.lean ====
section
/-!
DEFINITION. One step of the package: the next event of the agenda, a step of the device that is due, the next word of an eligible
strand, or an idle cycle.
-/

namespace Sys2Proof.Machine

/-- The word that a strand has fetched, decoded, or what failing to fetch it does (R106–R109, R134). -/
def issueFetched (s s' : State) : Fetched → Host.Outcome State Fault Refusal
  | .miss => .next { s' with me := { s'.me with wait := .line } }
  | .absent => execFetch s.me.core s.me.slot s
  | .prot t => .next (s'.takeTrap t)
  | .word w =>
    match decodeWord w with
    | .ok i => exec i (s'.holding w)
    | .error e =>
      .next (trapWord { cause := .illop, tinfo := illopInfo e.subcode s'.me.pfx.count w, taddr := 0 } s' s')

/-- The next word of the current strand, or what comes before it (R103, R106–R110, R266, R408). -/
def issueNext (s : State) : Host.Outcome State Fault Refusal :=
  match s.beforeWord with
  | .append => execStreamAppendStore s.me.core s.me.slot s
  | .trap t => .next (s.takeTrap t)
  | .stopHit => execStopHit s.me.core s.me.slot s
  | .budgetTrap => execBudgetTrap s.me.core s.me.slot s
  | .word =>
    match fetchFor s.me s with
    | .ok f s' => issueFetched s s' f
    | .error _ s' => .next s'

/-- Who moves. -/
inductive Mover
  | device (d : Due)
  | core (c : Nat)
  | idle
  deriving DecidableEq, Repr

/-- Who may move: the cores on which a word goes on that has been performed (R267); else the steps that are due, the cores with an
eligible strand, and the other cores' idle cycle. -/
def State.movers (s : State) : List Mover :=
  if s.goingCores.isEmpty then
    s.due.map .device ++ s.readyCores.map .core
      ++ (if s.readyCores.isEmpty ∨ !s.idleCores.isEmpty then [.idle] else [])
  else s.goingCores.map .core

/-- What a mover does. -/
def Mover.run (m : Mover) (s : State) : Host.Outcome State Fault Refusal :=
  match m with
  | .device d => runDue d s
  | .core c =>
    match s.pickSlot c with
    | none => .next s
    | some slot => issueNext (s.switchTo c slot)
  | .idle => .next s.idle

/-- The state after a choice among several movers: a free value is used. -/
def State.afterChoice (s : State) : State :=
  match s.movers with
  | _ :: _ :: _ => { s with free := s.free + 1 }
  | _ => s

/-- The time that a step took counts to the accounts of the launches that could not yet retire (R402, R405). -/
def accounted (s : State) (o : Host.Outcome State Fault Refusal) : Host.Outcome State Fault Refusal :=
  match o with
  | .next s' => .next (if s'.time ≤ s.time then s' else (s.noteTret s').account (s'.time - s.time))
  | _ => o

/-- A step that has met a parked island through the front end, the hub or a port is made again, once the exit it starts is complete
(R428; log 44). -/
def retried (s : State) (o : Host.Outcome State Fault Refusal) : Host.Outcome State Fault Refusal :=
  match o with
  | .next s' => if s'.hub.asleep.isEmpty then o else .next ((s.setHub fun h => { h with asleep := [] }).awaken s'.hub.asleep)
  | _ => o

/-- One step. -/
def step (s : State) : Host.Outcome State Fault Refusal :=
  match s.agenda with
  | i :: rest => retried s (accounted s (exec i { s with agenda := rest }))
  | [] =>
    match pickOf s.free s.movers with
    | none => .next s.idle
    | some m => retried s (accounted s (m.run s.afterChoice))

/-- The state in which the next step fetches a word and runs it. -/
def State.withFetchWord (s : State) (nbits w : Nat) : State := s.placed (if nbits < 32 then w % 2 ^ nbits else w % 2 ^ 32)

end Sys2Proof.Machine
end

