-- ==== Sys2Proof/Safety.lean ====
section
/-!
DEFINITION. The terms in which claims are stated: what a safe run is, the invariant of the memory, which operands a word can read
at once, and what the spec gives the words of the regular families as tables of values.
-/

namespace Sys2Proof.Machine

/-! ## Safe runs -/

/-- A step that does not stop. -/
def SafeStep (s : State) : Prop := ∃ t, step s = .next t

/-- The memory is in its canonical form: no two entries of one key, in rising order, none equal to what an unlisted key reads
as. -/
def Mem.wf (m : Mem) : Bool :=
  FMap.wf Mem.byte0 m.bytes && FMap.wf (0 : BitVec 4) m.tags && FMap.wf Mem.desc0 m.descs && FMap.wf (0 : BitVec 2) m.poison

/-- The byte at a physical address. -/
def State.byteAt (s : State) (p : PAddr) : Byte := FMap.get Mem.byte0 s.mem.bytes p.key

/-! ## Operands at hand -/

/-- A strand that has not tried its word before: nothing of it was done, read or settled and then parked (R249). -/
def Strand.untried (t : Strand) : Bool :=
  decide (t.replay = { Replay.none with word := t.replay.word } ∧ t.unitLog = [] ∧ t.unitPos = 0)

/-- A register that a word can read at once: no stream is bound to it, no result is outstanding for it, and its entry holds no
parity error. -/
def Strand.canRead (t : Strand) (r : Reg) : Bool :=
  (t.boundGen r).isNone && (lastG (entryOf t.cwp r) t.outstanding).isNone && !t.parity.contains (entryOf t.cwp r)

/-- A register that a word can write at once. -/
def Strand.canWrite (t : Strand) (r : Reg) : Bool :=
  (t.boundGen r).isNone && (lastG (entryOf t.cwp r) t.outstanding).isNone

/-- A vector register that a word can read at once. -/
def Strand.canReadV (t : Strand) (r : Reg) : Bool :=
  (lastV r.toNat t.outstanding).isNone && !t.parity.contains (64 + r.toNat)

/-- The strand with a value in a register, whose entry then holds no parity error. -/
def Strand.put (t : Strand) (r : Reg) (x : Word) : Strand :=
  { t with stack := FMap.set 0 t.stack (entryOf t.cwp r) x, parity := t.parity.filter (· ≠ entryOf t.cwp r) }

/-- A long result in several registers, of which the last named holds where two are one (R39), with what it waits for and the name
whose lookup it is. After that of an acquire the strand's streams read their elements afresh (R344). -/
def State.returns (s : State) (dests : List (Reg × Word)) (w : ResultWait) (name : Option Nat) : State :=
  let t := if w = .acquire then s.me.dropAhead else s.me
  { s with
    ages := s.ages + 1
    me := { t with
      outstanding := t.outstanding ++
        [{ id := s.ages, gdests := lastWins (dests.map fun x => (entryOf s.me.cwp x.1, x.2)), vdests := [], wait := w, name := name }] } }

/-- A long result on its way to some registers. -/
def State.sends (s : State) (dests : List (Reg × Word)) : State := s.returns dests .none none

/-- The result of a word that finds how an op ended: of one that is DONE it is an acquire's (R273, R344). -/
def State.ends (s : State) (dests : List (Reg × Word)) (status : Nat) : State :=
  s.returns dests (if status = 0 then .acquire else .none) none

/-- The state in which the results of the current strand's acquires have returned, as they have before it accesses memory (R343). -/
def State.acquires (s : State) : State := { s with me := s.me.acquired }

/-- The state in which the current strand's streams read their elements afresh, where an acquire or a fence asks for it (R344). -/
def State.afresh (s : State) (b : Bool) : State := { s with me := if b then s.me.dropAhead else s.me }

/-- What the result of an ordered access waits for, by its order and scope (R343): an acquire's is one, but for scope strand. -/
def acquireOf (order scope : Nat) : ResultWait := if scope ≠ 0 ∧ order ∈ [1, 3, 4] then .acquire else .none

/-- What a word of a class does is done: it has issued with this effect, and the strand goes on at the next word. -/
def completes (i : Instr) (sw : Bool) (k : Takes) (s s' : State) : Prop := exec i s = .next (completeWord sw k .next s s')

/-- The same for a word that ends with a jump. -/
def jumps (i : Instr) (sw : Bool) (k : Takes) (s s' : State) (t : Word) : Prop :=
  exec i s = .next (completeWord sw k (.jump t) s s')

/-- Whether a word of a class may begin: it may follow the strand's prefixes (R129), and nothing of it is done yet. -/
def Takes.follows (k : Takes) (t : Strand) : Bool := !k.breaks t.pfx && t.untried

/-! ## The scalar register and immediate words (R139–R143) -/

/-- A word that reads registers and writes one: its guard, the registers it reads besides the guard's, what it writes and where, and
whether the result is long. -/
structure ScalarForm where
  sw : Bool
  takes : Takes
  guard : Guard
  reads : List Reg
  dest : Reg
  long : Bool
  value : Strand → Word
  /-- sticky flags that it sets (R161) -/
  flags : Strand → Flags

/-- The guard of a word that is never guarded. -/
abbrev noGuard : Guard := { reg := 0, bit := 0, sense := false }

/-- A shift amount, bits 5:0 of a register (R139). -/
def shiftBy (y : Word) : Nat := y.toNat % 64

/-- `x` with bit `b` set to a truth value. -/
def withBit (x : Word) (b : Nat) (v : Bool) : Word := if v then x ||| (1#64 <<< b) else x &&& ~~~(1#64 <<< b)

/-- The immediate of a word of a strand, `w` bits wide in the word (R131). -/
def Strand.imm (t : Strand) (signed : Bool) (w i : Nat) : Word :=
  extendTo64 signed (widen w i t.pfx.xis).1 (widen w i t.pfx.xis).2

/-- A register form. -/
def srForm (sw : Bool) (g : Guard) (d : Reg) (rs : List Reg) (f : Strand → Word) : Option ScalarForm :=
  some { sw := sw, takes := .plain, guard := g, reads := rs, dest := d, long := false, value := f, flags := fun _ => 0 }

/-- A register form with a long result. -/
def srLong (sw : Bool) (g : Guard) (d : Reg) (rs : List Reg) (f : Strand → Word) : Option ScalarForm :=
  some { sw := sw, takes := .plain, guard := g, reads := rs, dest := d, long := true, value := f, flags := fun _ => 0 }

/-- A division, which sets DZ, bit 3 of `sflags`, on a zero divisor (R140). -/
def srDivide (sw : Bool) (g : Guard) (d a b : Reg) (f : Strand → Word) : Option ScalarForm :=
  some { sw := sw, takes := .plain, guard := g, reads := [a, b], dest := d, long := true, value := f
         flags := fun t => if t.g b = 0 then 0x008#9 else 0 }

/-- An immediate form. -/
def siForm (sw : Bool) (d : Reg) (rs : List Reg) (f : Strand → Word) : Option ScalarForm :=
  some { sw := sw, takes := .imm, guard := noGuard, reads := rs, dest := d, long := false, value := f, flags := fun _ => 0 }

/-- The register words whose results R139 and R140 state. -/
def srTable : Instr → Option ScalarForm
  | .add s d a b g => srForm s g d [a, b] fun t => t.g a + t.g b
  | .sub s d a b g => srForm s g d [a, b] fun t => t.g a - t.g b
  | .mul s d a b g => srLong s g d [a, b] fun t => BitVec.ofNat 64 ((t.g a).toNat * (t.g b).toNat)
  | .mulh s d a b g => srLong s g d [a, b] fun t => BitVec.ofInt 64 ((t.g a).toInt * (t.g b).toInt / 2 ^ 64)
  | .mulhu s d a b g => srLong s g d [a, b] fun t => BitVec.ofNat 64 ((t.g a).toNat * (t.g b).toNat / 2 ^ 64)
  | .div s d a b g => srDivide s g d a b fun t =>
      if t.g b = 0 then BitVec.allOnes 64 else BitVec.ofInt 64 ((t.g a).toInt.tdiv (t.g b).toInt)
  | .divu s d a b g => srDivide s g d a b fun t =>
      if t.g b = 0 then BitVec.allOnes 64 else t.g a / t.g b
  | .rem s d a b g => srDivide s g d a b fun t =>
      if t.g b = 0 then t.g a else BitVec.ofInt 64 ((t.g a).toInt.tmod (t.g b).toInt)
  | .remu s d a b g => srDivide s g d a b fun t => if t.g b = 0 then t.g a else t.g a % t.g b
  | .and s d a b g => srForm s g d [a, b] fun t => t.g a &&& t.g b
  | .or s d a b g => srForm s g d [a, b] fun t => t.g a ||| t.g b
  | .xor s d a b g => srForm s g d [a, b] fun t => t.g a ^^^ t.g b
  | .andn s d a b g => srForm s g d [a, b] fun t => t.g a &&& ~~~t.g b
  | .orn s d a b g => srForm s g d [a, b] fun t => t.g a ||| ~~~t.g b
  | .shl s d a b g => srForm s g d [a, b] fun t => t.g a <<< shiftBy (t.g b)
  | .shr s d a b g => srForm s g d [a, b] fun t => t.g a >>> shiftBy (t.g b)
  | .sar s d a b g => srForm s g d [a, b] fun t => (t.g a).sshiftRight (shiftBy (t.g b))
  | .rol s d a b g => srForm s g d [a, b] fun t => (t.g a).rotateLeft (shiftBy (t.g b))
  | .ror s d a b g => srForm s g d [a, b] fun t => (t.g a).rotateRight (shiftBy (t.g b))
  | .min s d a b g => srForm s g d [a, b] fun t => BitVec.ofInt 64 (Min.min (t.g a).toInt (t.g b).toInt)
  | .max s d a b g => srForm s g d [a, b] fun t => BitVec.ofInt 64 (Max.max (t.g a).toInt (t.g b).toInt)
  | .minu s d a b g => srForm s g d [a, b] fun t => BitVec.ofNat 64 (Min.min (t.g a).toNat (t.g b).toNat)
  | .maxu s d a b g => srForm s g d [a, b] fun t => BitVec.ofNat 64 (Max.max (t.g a).toNat (t.g b).toNat)
  | .sel s d a b g => srForm s g d [d, a, b] fun t => (t.g a &&& t.g d) ||| (t.g b &&& ~~~t.g d)
  | .clz s d a g => srForm s g d [a] fun t =>
      BitVec.ofNat 64 ((List.range 64).takeWhile fun i => !(t.g a).getLsbD (63 - i)).length
  | .ctz s d a g => srForm s g d [a] fun t => BitVec.ofNat 64 ((List.range 64).takeWhile fun i => !(t.g a).getLsbD i).length
  | .pop s d a g => srForm s g d [a] fun t => BitVec.ofNat 64 ((List.range 64).filter fun i => (t.g a).getLsbD i).length
  | _ => none

/-- The register words of R141: fields, extensions, comparisons and `adds`. -/
def fieldTable : Instr → Option ScalarForm
  | .bext s d a b g => srForm s g d [a, b] fun t =>
      BitVec.ofNat 64 ((t.g a).toNat / 2 ^ shiftBy (t.g b) % 2 ^ ((t.g b).extractLsb' 8 6).toNat)
  | .bins s d a b g => srForm s g d [d, a, b] fun t =>
      let mask := BitVec.ofNat 64 (2 ^ ((t.g b).extractLsb' 8 6).toNat - 1) <<< shiftBy (t.g b)
      (t.g d &&& ~~~mask) ||| (t.g a <<< shiftBy (t.g b) &&& mask)
  | .sextB s d a g => srForm s g d [a] fun t => ((t.g a).extractLsb' 0 8).signExtend 64
  | .sextH s d a g => srForm s g d [a] fun t => ((t.g a).extractLsb' 0 16).signExtend 64
  | .sextW s d a g => srForm s g d [a] fun t => ((t.g a).extractLsb' 0 32).signExtend 64
  | .zextB s d a g => srForm s g d [a] fun t => BitVec.ofNat 64 ((t.g a).toNat % 2 ^ 8)
  | .zextH s d a g => srForm s g d [a] fun t => BitVec.ofNat 64 ((t.g a).toNat % 2 ^ 16)
  | .zextW s d a g => srForm s g d [a] fun t => BitVec.ofNat 64 ((t.g a).toNat % 2 ^ 32)
  | .ceq s d a b i => srForm s noGuard d [d, a, b] fun t => withBit (t.g d) i.toNat (decide (t.g a = t.g b))
  | .cne s d a b i => srForm s noGuard d [d, a, b] fun t => withBit (t.g d) i.toNat (decide (t.g a ≠ t.g b))
  | .clt s d a b i => srForm s noGuard d [d, a, b] fun t => withBit (t.g d) i.toNat (decide ((t.g a).toInt < (t.g b).toInt))
  | .cltu s d a b i => srForm s noGuard d [d, a, b] fun t => withBit (t.g d) i.toNat (decide ((t.g a).toNat < (t.g b).toNat))
  | .cle s d a b i => srForm s noGuard d [d, a, b] fun t => withBit (t.g d) i.toNat (decide ((t.g a).toInt ≤ (t.g b).toInt))
  | .cleu s d a b i => srForm s noGuard d [d, a, b] fun t => withBit (t.g d) i.toNat (decide ((t.g a).toNat ≤ (t.g b).toNat))
  | .adds s d a b h => srForm s noGuard d [a, b] fun t => t.g a + (t.g b <<< h.toNat)
  | _ => none

/-- The immediate words of R142 and R143. -/
def immTable : Instr → Option ScalarForm
  | .addi s d a i => siForm s d [a] fun t => t.g a + t.imm true 15 i.toNat
  | .andi s d a i => siForm s d [a] fun t => t.g a &&& t.imm true 15 i.toNat
  | .ori s d a i => siForm s d [a] fun t => t.g a ||| t.imm false 15 i.toNat
  | .xori s d a i => siForm s d [a] fun t => t.g a ^^^ t.imm false 15 i.toNat
  | .muli s d a i => (siForm s d [a] fun t => t.g a * t.imm true 15 i.toNat).map fun f => { f with long := true }
  | .ldi s d i => siForm s d [] fun t => t.imm true 19 i.toNat
  | .adr s d i => siForm s d [] fun t => t.pc + t.imm true 19 i.toNat * 4
  | .ceqi s d a b i => siForm s d [d, a] fun t => withBit (t.g d) b.toNat (decide (t.g a = t.imm true 6 i.toNat))
  | .cnei s d a b i => siForm s d [d, a] fun t => withBit (t.g d) b.toNat (decide (t.g a ≠ t.imm true 6 i.toNat))
  | .clti s d a b i => siForm s d [d, a] fun t =>
      withBit (t.g d) b.toNat (decide ((t.g a).toInt < (t.imm true 6 i.toNat).toInt))
  | .cltui s d a b i => siForm s d [d, a] fun t =>
      withBit (t.g d) b.toNat (decide ((t.g a).toNat < (t.imm false 6 i.toNat).toNat))
  | .clei s d a b i => siForm s d [d, a] fun t =>
      withBit (t.g d) b.toNat (decide ((t.g a).toInt ≤ (t.imm true 6 i.toNat).toInt))
  | .cleui s d a b i => siForm s d [d, a] fun t =>
      withBit (t.g d) b.toNat (decide ((t.g a).toNat ≤ (t.imm false 6 i.toNat).toNat))
  | _ => none

/-- The shift and single-bit words of R142, with their count. -/
def countTable : Instr → Option (ScalarForm × Nat)
  | .shli s d a n => (siForm s d [a] fun t => t.g a <<< n.toNat).map (·, n.toNat)
  | .shri s d a n => (siForm s d [a] fun t => t.g a >>> n.toNat).map (·, n.toNat)
  | .sari s d a n => (siForm s d [a] fun t => (t.g a).sshiftRight n.toNat).map (·, n.toNat)
  | .bseti s d a n => (siForm s d [a] fun t => t.g a ||| (1#64 <<< n.toNat)).map (·, n.toNat)
  | .bclri s d a n => (siForm s d [a] fun t => t.g a &&& ~~~(1#64 <<< n.toNat)).map (·, n.toNat)
  | .binvi s d a n => (siForm s d [a] fun t => t.g a ^^^ (1#64 <<< n.toNat)).map (·, n.toNat)
  | _ => none

/-- Whether a strand's guard register lets a guarded word act (R116). -/
def guardOpen (g : Guard) (t : Strand) : Bool := decide (g = noGuard) || (t.g g.reg).getLsbD g.bit.toNat != g.sense

/-- The registers that a form's guard reads. -/
def guardReads (g : Guard) : List Reg := if g = noGuard then [] else [g.reg]

/-- Whether a word of a form can act at once: its prefixes fit, and its registers are at hand. -/
def ScalarForm.ready (f : ScalarForm) (t : Strand) : Bool :=
  f.takes.follows t && (guardReads f.guard ++ f.reads).all t.canRead && t.canWrite f.dest
    && (!f.long || decide (t.outstanding.length < 8))

/-- What such a word does: its register's new value, at once or as a long result. -/
def ScalarForm.effect (f : ScalarForm) (s : State) : State :=
  if guardOpen f.guard s.me then
    let s' := if f.long then s.sends [(f.dest, f.value s.me)] else { s with me := s.me.put f.dest (f.value s.me) }
    { s' with me := { s'.me with sflags := s'.me.sflags ||| f.flags s.me } }
  else s

/-! ## Control (R148–R153) -/

/-- What a control word does when nothing stands in its way: its marker, its class, the registers it reads and writes, what it leaves
in the strand, and where it goes; `none` for the next word. -/
structure ControlForm where
  sw : Bool
  takes : Takes
  reads : List Reg
  writes : List Reg
  /-- what must hold of the strand -/
  allowed : Strand → Bool
  effect : Strand → Strand
  target : Strand → Option Word

/-- An address in words from the current word (R117, R131). -/
def Strand.target (t : Strand) (w i : Nat) : Word := t.pc + t.imm true w i * 4

/-- The strand inside a call: the window has moved on, and g7 holds the link (R150). -/
def Strand.called (t : Strand) : Strand := { t with cwp := t.cwp + 1, rdep := t.rdep + 1 }.put 7 (t.pc + 4)

/-- Whether a call finds a free half-frame (R150). -/
def Strand.canCall (t : Strand) : Bool :=
  decide (t.rdep.toNat ≠ (if t.hm then 6 else 5)) && (lastG (entryOf (t.cwp + 1) 7) t.outstanding).isNone

/-- Whether an address is that of a word. -/
def aligned4 (x : Word) : Bool := decide (x.toNat % 4 = 0)

/-- The branches, calls and the return. -/
def controlTable : Instr → Option ControlForm
  | .br s d => some
      { sw := s, takes := .imm, reads := [], writes := [], allowed := fun _ => true, effect := id
        target := fun t => some (t.target 24 d.toNat) }
  | .bb s r b n d => some
      { sw := s, takes := .imm, reads := [r], writes := [], allowed := fun _ => true, effect := id
        target := fun t => if (t.g r).getLsbD b.toNat = !n then some (t.target 13 d.toNat) else none }
  | .dbnz s r d => some
      { sw := s, takes := .imm, reads := [r], writes := [r], allowed := fun _ => true, effect := fun t => t.put r (t.g r - 1)
        target := fun t => if t.g r = 1 then none else some (t.target 20 d.toNat) }
  | .jmp s r => some
      { sw := s, takes := .plain, reads := [r], writes := [], allowed := fun t => aligned4 (t.g r), effect := id
        target := fun t => some (t.g r) }
  | .call s d => some
      { sw := s, takes := .imm, reads := [], writes := [], allowed := Strand.canCall, effect := Strand.called
        target := fun t => some (t.target 24 d.toNat) }
  | .callr s r => some
      { sw := s, takes := .plain, reads := [r], writes := [], allowed := fun t => t.canCall && aligned4 (t.g r)
        effect := Strand.called, target := fun t => some (t.g r) }
  | .ret s => some
      { sw := s, takes := .plain, reads := [7], writes := [], allowed := fun t => decide (t.rdep ≠ 0) && aligned4 (t.g 7)
        effect := fun t => { t with cwp := t.cwp - 1, rdep := t.rdep - 1 }, target := fun t => some (t.g 7) }
  | _ => none

/-- Whether a control word can act at once. -/
def ControlForm.ready (f : ControlForm) (t : Strand) : Bool :=
  f.takes.follows t && f.reads.all t.canRead && f.writes.all t.canWrite && f.allowed t

/-- The flow of a target. -/
def flowTo (t : Option Word) : Flow :=
  match t with
  | some x => .jump x
  | none => .next

/-! ## Loads, stores and atomics (R144–R147, R345–R347) -/

/-- The unit of a strand's access to `n` bytes that lie in one block, under a leaf (R245). -/
def State.unitAt (s : State) (xk : XKind) (acc : Acc) (va n : Nat) (act : UnitAct) (l : Leaf) : AccessUnit :=
  { who := .strand s.me.core s.me.slot, ctx := s.me.ctx, sysm := s.me.sysm, core := s.me.core, va := va, pa := l.pa, xk := xk
    via := .core s.me.core, kind := strandKind l.pa.space s.me.core acc, acc := acc, offs := blockOffs va n, act := act, trace := none
    redirected := false }

/-- Nothing stands in the way of an access of the current strand: its address translates, to the state `s'` (which may have set A and D
and cached the leaf); the page is watched by no filter and traced by none; its memory is no device, is awake, holds no error at
these words, and its tags let them pass unchanged. -/
structure Open (s : State) (xk : XKind) (acc : Acc) (va n : Nat) (act : UnitAct) (l : Leaf) (s' : State) : Prop where
  found : translate { ctx := s.me.ctx, sysm := s.me.sysm, kind := xk, rd := decide (acc = .load ∨ acc = .atomic),
                      wr := decide (acc = .store ∨ acc = .atomic) } va s = .ok (.ok l) s'
  unwatched : bitsOf l.entry 8 1 = 0
  untraced : bitsOf l.entry 9 1 = 0
  memory : l.pa.space ≠ .mmio
  first : s'.me.unitLog[s'.me.unitPos]? = none
  awake : (s'.wakeIsland l.pa.space).isNone = true
  sound : (uncorrOf s' (s'.unitAt xk acc va n act l)).isNone = true
  passes : lookupUnit s'.mem (s'.unitAt xk acc va n act l) = .pass []

/-- The key of byte `i` of an access: a page keeps the place of a byte in its block. -/
def placeKey (l : Leaf) (va i : Nat) : Nat := 64 * l.pa.block + va % 64 + i

/-- The little-endian number that `n` bytes at a place hold (R2). -/
def State.numberAt (s : State) (l : Leaf) (va n : Nat) : Nat :=
  ofLE ((List.range n).map fun i => FMap.get Mem.byte0 s.mem.bytes (placeKey l va i))

/-- Only the bytes of `n` at a place may differ between two memories, and there the second holds the number `x`. -/
def storedAt (s s' : State) (l : Leaf) (va n x : Nat) : Prop :=
  ∀ k, FMap.get Mem.byte0 s'.mem.bytes k =
    if placeKey l va 0 ≤ k ∧ k < placeKey l va n then BitVec.ofNat 8 (x / 256 ^ (k - placeKey l va 0))
    else FMap.get Mem.byte0 s.mem.bytes k

/-- Two states differ in the bytes of memory, in who waits on them, and in what the strand's acquires have returned, at most. -/
def onlyStored (s s' : State) : Prop :=
  (∃ log pos w r, s'.me = { s.me.acquired with unitLog := log, unitPos := pos, wait := w, replay := r })
  ∧ s'.mem.tags = s.mem.tags ∧ s'.mem.descs = s.mem.descs ∧ s'.mem.parked = s.mem.parked
  ∧ s'.cores = s.cores ∧ s'.eng = s.eng ∧ s'.pkg = s.pkg ∧ s'.agenda = s.agenda ∧ s'.time = s.time

/-- A word that reaches memory: its marker and class, the registers it reads and writes, its size and address, the targets that it may
have (R184), and what its result waits for. -/
structure MemForm where
  sw : Bool
  takes : Takes
  reads : List Reg
  writes : List Reg
  size : Nat
  va : Strand → Word
  kind : XKind := .scalar size
  wait : ResultWait := .none

/-- Whether a memory word can act at once. -/
def MemForm.ready (f : MemForm) (t : Strand) : Bool :=
  f.takes.follows t && f.reads.all t.canRead && f.writes.all t.canWrite
    && (f.writes.isEmpty || decide (t.outstanding.length < 8)) && decide ((f.va t).toNat % f.size = 0)

/-- The address gB + offset × unit, the offset `w` bits wide in the word (R145). -/
def Strand.offsetTo (t : Strand) (b : Reg) (w o unit : Nat) : Word := t.g b + t.imm true w o * BitVec.ofNat 64 unit

/-- A load with an offset: its form, and what it sends to which register of the number it reads. -/
def loadOf (sw : Bool) (t b : Reg) (w o n : Nat) (f : Nat → Word) : Option (MemForm × (Nat → List (Reg × Word))) :=
  some ({ sw := sw, takes := .imm, reads := [b], writes := [t], size := n, va := fun x => x.offsetTo b w o n },
    fun x => [(t, f x)])

/-- The loads (R144, R146, R347). -/
def loadTable : Instr → Option (MemForm × (Nat → List (Reg × Word)))
  | .ldB s t b o => loadOf s t b 15 o.toNat 1 (BitVec.ofNat 64)
  | .ldBs s t b o => loadOf s t b 15 o.toNat 1 fun x => (BitVec.ofNat 8 x).signExtend 64
  | .ldH s t b o => loadOf s t b 15 o.toNat 2 (BitVec.ofNat 64)
  | .ldHs s t b o => loadOf s t b 15 o.toNat 2 fun x => (BitVec.ofNat 16 x).signExtend 64
  | .ldW s t b o => loadOf s t b 15 o.toNat 4 (BitVec.ofNat 64)
  | .ldWs s t b o => loadOf s t b 15 o.toNat 4 fun x => (BitVec.ofNat 32 x).signExtend 64
  | .ldD s t b o => loadOf s t b 15 o.toNat 8 (BitVec.ofNat 64)
  | .ldAcq s t b c o => (loadOf s t b 12 o.toNat 8 (BitVec.ofNat 64)).map fun x =>
      ({ x.1 with kind := .atomic, wait := acquireOf 1 c.toNat }, x.2)
  | .ldp s t b o => some
      ({ sw := s, takes := .imm, reads := [b], writes := [t, t + 1], size := 16, va := fun x => x.offsetTo b 15 o.toNat 16 },
       fun x => [(t, BitVec.ofNat 64 (x % 2 ^ 64)), (t + 1, BitVec.ofNat 64 (x / 2 ^ 64))])
  | .ldx s t b x h z g => some
      ({ sw := s, takes := .plain, reads := [b, x], writes := [t], size := 2 ^ z.toNat
         va := fun y => y.g b + (y.g x <<< h.toNat) },
       fun v => [(t, if g ∧ z ≠ 3 then
          BitVec.ofNat 64 (if 2 ^ (8 * 2 ^ z.toNat - 1) ≤ v then v + 2 ^ 64 - 2 ^ (8 * 2 ^ z.toNat) else v)
        else BitVec.ofNat 64 v)])
  | _ => none

/-- A store with an offset. -/
def storeOf (sw : Bool) (t b : Reg) (w o n : Nat) : Option (MemForm × (Strand → Nat)) :=
  some ({ sw := sw, takes := .imm, reads := [t, b], writes := [], size := n, va := fun x => x.offsetTo b w o n },
    fun x => (x.g t).toNat)

/-- The stores, with the number of which each stores the low bytes (R144, R146, R347). -/
def storeTable : Instr → Option (MemForm × (Strand → Nat))
  | .stB s t b o => storeOf s t b 15 o.toNat 1
  | .stH s t b o => storeOf s t b 15 o.toNat 2
  | .stW s t b o => storeOf s t b 15 o.toNat 4
  | .stD s t b o => storeOf s t b 15 o.toNat 8
  | .stRel s t b _ o => (storeOf s t b 12 o.toNat 8).map fun x => ({ x.1 with kind := .atomic }, x.2)
  | .stp s t b o => some
      ({ sw := s, takes := .imm, reads := [t, t + 1, b], writes := [], size := 16, va := fun x => x.offsetTo b 15 o.toNat 16 },
       fun x => (x.g t).toNat + 2 ^ 64 * (x.g (t + 1)).toNat)
  | .stx s t b x h z => some
      ({ sw := s, takes := .plain, reads := [t, b, x], writes := [], size := 2 ^ z.toNat
         va := fun y => y.g b + (y.g x <<< h.toNat) },
       fun y => (y.g t).toNat)
  | _ => none

/-- A number of `w` bits read as signed. -/
def signedOf (w x : Nat) : Int := if 2 ^ (w - 1) ≤ x then (x : Int) - 2 ^ w else x

/-- The new value of a location of `w` bits under the operations of R345 that both sizes have. -/
def amoResult (w op old b : Nat) : Nat :=
  match op with
  | 0 => (old + b) % 2 ^ w
  | 1 => old &&& b
  | 2 => old ||| b
  | 3 => old ^^^ b
  | 4 => if signedOf w b < signedOf w old then b else old
  | 5 => if signedOf w old < signedOf w b then b else old
  | 6 => Min.min old b
  | 7 => Max.max old b
  | _ => b

/-- An atomic of a strand: its form, its unit, what its location becomes from what it held, and what it sends to which register. -/
structure AtomicForm where
  mem : MemForm
  act : UnitAct
  next : Nat → Nat
  sends : Nat → List (Reg × Word)

/-- The atomics (R345, R346). -/
def atomicTable (t : Strand) : Instr → Option AtomicForm
  | .amo s d b r o c u => some
      { mem := { sw := s, takes := .plain, reads := [b, r], writes := [d], size := if u.toNat = 9 ∨ 16 ≤ u.toNat then 4 else 8
                 va := fun t => t.g b, kind := .atomic, wait := acquireOf o.toNat c.toNat }
        act := .amo ((t.g b).toNat % 64) u (t.g r)
        next := fun old =>
          if u.toNat = 9 then (add32 (BitVec.ofNat 32 old) ((t.g r).setWidth 32)).toNat
          else if 16 ≤ u.toNat then amoResult 32 (u.toNat - 16) old ((t.g r).toNat % 2 ^ 32)
          else amoResult 64 u.toNat old (t.g r).toNat
        sends := fun old => [(d, BitVec.ofNat 64 old)] }
  | .cas s d b r o c w => some
      { mem := { sw := s, takes := .plain, reads := [d, b, r], writes := [d], size := if w then 4 else 8, va := fun t => t.g b
                 kind := .atomic, wait := acquireOf o.toNat c.toNat }
        act := .cas ((t.g b).toNat % 64) (if w then 4 else 8) ((t.g d).setWidth 128) ((t.g r).setWidth 128)
        next := fun old =>
          if w then (if old = (t.g d).toNat % 2 ^ 32 then (t.g r).toNat % 2 ^ 32 else old)
          else if old = (t.g d).toNat then (t.g r).toNat else old
        sends := fun old => [(d, BitVec.ofNat 64 old)] }
  | .cas2 s d b r o c => some
      { mem := { sw := s, takes := .plain, reads := [d, d + 1, b, r, r + 1], writes := [d, d + 1], size := 16, va := fun t => t.g b
                 kind := .atomic, wait := acquireOf o.toNat c.toNat }
        act := .cas ((t.g b).toNat % 64) 16 (t.g (d + 1) ++ t.g d) (t.g (r + 1) ++ t.g r)
        next := fun old =>
          if old = (t.g d).toNat + 2 ^ 64 * (t.g (d + 1)).toNat then (t.g r).toNat + 2 ^ 64 * (t.g (r + 1)).toNat else old
        sends := fun old => [(d, BitVec.ofNat 64 (old % 2 ^ 64)), (d + 1, BitVec.ofNat 64 (old / 2 ^ 64))] }
  | _ => none

/-! ## State registers (R158–R161, R420) -/

/-- What each readable state register holds for the current strand, by number (R159, R420), but for `capcause` and `score`. One that the
device computes reads as a debugger has rewritten it (R399): by what it has added there, 0 without a rewrite. -/
def stateRegisters (s : State) : List (Nat × Word) :=
  let t := s.me
  [(0x000, BitVec.ofNat 64 (t.strict.toNat + 2 * t.hm.toNat + 4 * t.urg.toNat + 8 * t.sysm.toNat + 2 ^ 4 * t.cwp.toNat
      + 2 ^ 8 * t.rdep.toNat + 2 ^ 16 * t.mskcnt.toNat)),
   (0x001, t.srseed), (0x002, t.tvec), (0x003, t.tcause.setWidth 64), (0x004, t.taddr), (0x005, t.tinfo), (0x006, t.epc),
   (0x007, t.est), (0x008, t.budget), (0x009, t.deadline), (0x00A, t.wtmo), (0x00B, t.sflags.setWidth 64),
   (0x00C, t.rmode.setWidth 64), (0x00D, t.stk), (0x00E, t.tdeleg.setWidth 64),
   (0x100, t.budget), (0x101, t.deadline)]
  ++ ([(0x010, (s.vcoreWord t.ctx t.core).setWidth 64), (0x011, BitVec.ofNat 64 (t.ctx % 2 ^ 16)), (0x012, BitVec.ofNat 64 (t.part % 16)),
   (0x013, BitVec.ofNat 64 s.hub.chip), (0x015, (s.coreOf t.core).sissue + (s.idles + (s.coreOf t.core).sidle)),
   (0x016, BitVec.ofNat 64 (s.time / 10)), (0x103, (s.coreOf t.core).sissue),
   (0x104, s.idles + (s.coreOf t.core).sidle)].map fun x => (x.1, x.2 + FMap.get 0 t.bias x.1))
  ++ (List.range 8).map (fun i => (0x018 + i, FMap.get 0 t.lvl i))
  ++ (List.range 8).map (fun i => (0x020 + i, FMap.get 1 t.ext i))

/-- What a write of `x` to each writable state register does: only its writable fields change (R158–R161). -/
def stateWrites (x : Word) : List (Nat × (Strand → Strand)) :=
  [(0x000, fun t => { t with strict := x.getLsbD 0 }), (0x001, fun t => { t with srseed := x }),
   (0x002, fun t => { t with tvec := BitVec.ofNat 64 (x.toNat / 4 * 4) }), (0x006, fun t => { t with epc := x }),
   (0x00A, fun t => { t with wtmo := x }), (0x00B, fun t => { t with sflags := BitVec.ofNat 9 x.toNat }),
   (0x00C, fun t => { t with rmode := BitVec.ofNat 4 x.toNat }), (0x00D, fun t => { t with stk := x }),
   (0x00E, fun t => { t with tdeleg := BitVec.ofNat 20 (x.toNat / 2 * 2) }),
   (0x100, fun t => { t with budget := x, budgetTaken := t.budgetTaken && decide (x = 0) }),
   (0x101, fun t => { t with deadline := x })]

/-- The half-frame register's stack entry in handler mode: entry e of HF[est.cwp − est.rdep], and of the half-frame below it
(R159). -/
def frameEntry (t : Strand) (n : Nat) : Nat :=
  let below := if n < 0x48 then 0 else 1
  8 * ((t.est.toNat / 16 % 8 + 16 - t.est.toNat / 256 % 8 - below) % 8) + n % 8

/-- The numbers of registers that `mts` may not write (R159). -/
def readOnlyState : List Nat :=
  [3, 4, 5, 8, 9] ++ (List.range 7).map (0x10 + ·) ++ (List.range 16).map (0x18 + ·) ++ [0x102, 0x103, 0x104]

/-! ## Long results with a status -/

/-- A name of this chip and boot, of a class that is issued (R22, R23, R31). -/
def State.ownName (s : State) (n : Name) : Prop :=
  n ≠ 0 ∧ issuable (nameClass n) = true ∧ nameChip n ≤ 383 ∧ nameChip n = s.hub.chip ∧ nameSerial n = s.hub.serial.toNat

/-- A name of this chip whose entry stands for the current strand's partition in a state (R31). -/
def State.standing (s : State) (n : Name) (st : NameState) : Prop :=
  s.ownName n ∧ (s.nameEntry (nameCounter n)).state = st ∧ (s.nameEntry (nameCounter n)).cls = nameClass n
    ∧ (s.nameEntry (nameCounter n)).part = s.me.part

/-- The name in a register pair (R22). -/
def Strand.pair (t : Strand) (r : Reg) : Name := t.g (r + 1) ++ t.g r

/-- Whether a word with a long result, which reads and writes some registers, can act at once. -/
def Strand.atHand (t : Strand) (k : Takes) (reads writes : List Reg) : Bool :=
  k.follows t && reads.all t.canRead && writes.all t.canWrite && decide (t.outstanding.length < 8)

/-! ## Vector words (R213–R224) -/

/-- A vector word: its marker, the registers it reads and writes, the lanes of its destination that it writes, what each of those
gets, and the sticky flags that it sets. -/
structure VectorForm where
  sw : Bool
  reads : List Reg
  vreads : List Reg
  dest : Reg
  written : Strand → Word
  lane : Strand → Nat → Lane
  flags : Strand → Flags

/-- The lanes that a mask enables (R118). -/
def Strand.enabled (t : Strand) (m : Mask) : Word :=
  if m.reg = 0 ∧ m.sense = false then BitVec.allOnes 64 else if m.sense then ~~~t.g m.reg else t.g m.reg

/-- Lane `i` of a vector register. -/
def Strand.lane (t : Strand) (r : Reg) (i : Nat) : Lane := ((t.v r)[i]?).getD 0

/-- Lane `i` of a b operand (R213). -/
def Strand.bLane (t : Strand) (x : Bool) (b : Reg) (i : Nat) : Lane := if x then (t.g b).setWidth 32 else t.lane b i

/-- The rounding control of a word (R204). -/
def Strand.control (t : Strand) : Control := controlOf (t.pfx.mod.getD t.rmode)

/-- The flags that some lanes set together. -/
def unionFlags (m : Word) (f : Nat → Flags) : Flags :=
  (List.range 64).foldr (fun i acc => if m.getLsbD i then f i ||| acc else acc) 0

/-- A word that gives each enabled lane a value with flags. -/
def lanesForm (s : Bool) (mk : Mask) (rs vs : List Reg) (d : Reg) (f : Strand → Nat → Lane × Flags) : Option VectorForm :=
  some { sw := s, reads := rs ++ maskRegs mk, vreads := vs, dest := d, written := fun t => t.enabled mk
         lane := fun t i => (f t i).1, flags := fun t => unionFlags (t.enabled mk) fun i => (f t i).2 }

/-- A word of a, b and what the destination held. -/
def abForm (s : Bool) (d a b : Reg) (x : Bool) (mk : Mask) (f : Control → Lane → Lane → Lane → Lane × Flags) : Option VectorForm :=
  lanesForm s mk (bG x b) ([d, a] ++ bV x b) d fun t i => f t.control (t.lane a i) (t.bLane x b i) (t.lane d i)

/-- A word of a alone. -/
def aForm (s : Bool) (d a : Reg) (mk : Mask) (f : Control → Lane → Lane × Flags) : Option VectorForm :=
  lanesForm s mk [] [a] d fun t i => f t.control (t.lane a i)

/-- An integer in a lane of an integer type: modulo 2^32, or clamped with SAT under saturate (R213). -/
def wrapOrClamp (ty : VType) (sat : Bool) (x : Int) : Lane × Flags :=
  let lo : Int := if ty = .i then -(2 ^ 31) else 0
  let hi : Int := if ty = .i then 2 ^ 31 - 1 else 2 ^ 32 - 1
  if sat ∧ x < lo then (BitVec.ofInt 32 lo, 0x100#9)
  else if sat ∧ hi < x then (BitVec.ofInt 32 hi, 0x100#9)
  else (BitVec.ofInt 32 x, 0)

/-- A lane read as an integer of a type. -/
def asInt (ty : VType) (a : Lane) : Int := if ty = .i then a.toInt else a.toNat

/-- An exact value rounded to binary32 under a control, with NV where the operation is invalid (R205). -/
def roundedLane (c : Control) (x : Val) (invalid : Bool) : Lane × Flags :=
  let r := Fmt.encode .f32 x c.mode c.sat
  (BitVec.ofNat 32 r.1, r.2 ||| if invalid then 0x010#9 else 0)

/-- a + b of binary32 values (R197, R198, R216). -/
def addLane (c : Control) (x y : Val) (invalid : Bool) : Lane × Flags :=
  roundedLane c (addVal x y (decide (c.mode = 2))) (invalid || x.isSig || y.isSig || sumInvalid [x, y])

/-- ±(a × b) ± d with one rounding (R216). -/
def fusedLane (negP negD : Bool) (c : Control) (a b d : Lane) : Lane × Flags :=
  let p := mulVal (laneVal a) (laneVal b)
  let d := laneVal d
  addLane c (if negP then p.negate else p) (if negD then d.negate else d)
    ((laneVal a).isSig || (laneVal b).isSig || mulInvalid (laneVal a) (laneVal b))

/-- The elements of a packed register (R221). -/
def Strand.half (t : Strand) (r : Reg) (e : Nat) : Nat := (t.lane r (e / 2)).toNat / 2 ^ (16 * (e % 2)) % 2 ^ 16

/-- Half-word `e` of a pack (R221). -/
def packedHalf (t : Strand) (a b : Reg) (x : Bool) (f : Lane → Nat × Flags) (e : Nat) : Nat × Flags :=
  f (if e < 64 then t.lane a e else t.bLane x b (e - 64))

/-- Lane `j` of a pack. -/
def packedLane (t : Strand) (a b : Reg) (x : Bool) (f : Lane → Nat × Flags) (j : Nat) : Lane × Flags :=
  let lo := packedHalf t a b x f (2 * j)
  let hi := packedHalf t a b x f (2 * j + 1)
  (BitVec.ofNat 32 (lo.1 + 2 ^ 16 * hi.1), lo.2 ||| hi.2)

/-- A 16-bit integer by clamping (R221). -/
def clampHalf (ty : VType) (v : Lane) : Nat × Flags :=
  let lo : Int := if ty = .i then -32768 else 0
  let hi : Int := if ty = .i then 32767 else 65535
  let x := asInt ty v
  if x < lo then ((BitVec.ofInt 16 lo).toNat, 0x100#9) else if hi < x then ((BitVec.ofInt 16 hi).toNat, 0x100#9)
  else ((BitVec.ofInt 16 x).toNat, 0)

/-- A word that writes every lane. -/
def wholeForm (s : Bool) (rs vs : List Reg) (d : Reg) (f : Strand → Nat → Lane) (fl : Strand → Flags) : Option VectorForm :=
  some { sw := s, reads := rs, vreads := vs, dest := d, written := fun _ => BitVec.allOnes 64, lane := f, flags := fl }

/-- The enabled lanes of a register below a lane (R223). -/
def Strand.under (t : Strand) (mk : Mask) (a : Reg) (n : Nat) : List Lane :=
  ((List.range n).filter fun j => (t.enabled mk).getLsbD j).map (t.lane a)

/-- The integer combinations of R223. -/
def combineInt (k : Comb) (ty : VType) (sat : Bool) (c : Lane) (xs : List Lane) : Lane × Flags :=
  let v := (c :: xs).map (asInt ty)
  match k with
  | .sum => wrapOrClamp ty sat v.sum
  | .max => (BitVec.ofInt 32 (xs.foldl (fun m x => Max.max m (asInt ty x)) (asInt ty c)), 0)
  | .min => (BitVec.ofInt 32 (xs.foldl (fun m x => Min.min m (asInt ty x)) (asInt ty c)), 0)

/-- The combination of an initial value and some lanes (R223). -/
def combined (k : Comb) (ty : VType) (c : Control) (x : Lane) (xs : List Lane) : Lane × Flags :=
  if ty = .f then
    match k with
    | .sum =>
      let vs := (x :: xs).map laneVal
      roundedLane c (sumVals vs) (vs.any Val.isSig || sumInvalid vs)
    | k => combineAll k .f c x xs
  else combineInt k ty c.sat x xs

/-- A reduction (R223). -/
def reductionForm (k : Comb) (s : Bool) (d a b : Reg) (x : Bool) (ty : VType) (mk : Mask) : Option VectorForm :=
  wholeForm s (bG x b ++ maskRegs mk) ([a] ++ bV x b) d
    (fun t i => if i = 0 then (combined k ty t.control (t.bLane x b 0) (t.under mk a 64)).1 else 0)
    fun t => (combined k ty t.control (t.bLane x b 0) (t.under mk a 64)).2

/-- The vector words whose result lies in a vector register, but for those that need a shape (R213–R224). -/
def vectorTable : Instr → Option VectorForm
  | .vadd s d a b x ty mk => abForm s d a b x mk fun c p q _ =>
      if ty = .f then addLane c (laneVal p) (laneVal q) false else wrapOrClamp ty c.sat (asInt ty p + asInt ty q)
  | .vsub s d a b x ty mk => abForm s d a b x mk fun c p q _ =>
      if ty = .f then addLane c (laneVal p) (laneVal q).negate false else wrapOrClamp ty c.sat (asInt ty p - asInt ty q)
  | .vmul s d a b x ty mk => abForm s d a b x mk fun c p q _ =>
      if ty = .f then roundedLane c (mulVal (laneVal p) (laneVal q))
        ((laneVal p).isSig || (laneVal q).isSig || mulInvalid (laneVal p) (laneVal q))
      else wrapOrClamp ty c.sat (asInt ty p * asInt ty q)
  | .vmulHi s d a b x ty mk => abForm s d a b x mk fun _ p q _ => (BitVec.ofInt 32 (asInt ty p * asInt ty q / 2 ^ 32), 0)
  | .vfma s d a b x mk => abForm s d a b x mk (fusedLane false false)
  | .vfms s d a b x mk => abForm s d a b x mk (fusedLane false true)
  | .vfnma s d a b x mk => abForm s d a b x mk (fusedLane true false)
  | .vmin s d a b x ty mk => abForm s d a b x mk fun _ p q _ =>
      if ty = .f then opMinMax false .f p q else (BitVec.ofInt 32 (Min.min (asInt ty p) (asInt ty q)), 0)
  | .vmax s d a b x ty mk => abForm s d a b x mk fun _ p q _ =>
      if ty = .f then opMinMax true .f p q else (BitVec.ofInt 32 (Max.max (asInt ty p) (asInt ty q)), 0)
  | .vabs s d a ty mk => aForm s d a mk fun c p =>
      if ty = .f then (if (laneVal p).isNaN then (nan32, if (laneVal p).isSig then 0x010#9 else 0) else (p &&& 0x7FFFFFFF#32, 0))
      else wrapOrClamp ty c.sat (asInt ty p).natAbs
  | .vneg s d a ty mk => aForm s d a mk fun c p =>
      if ty = .f then (if (laneVal p).isNaN then (nan32, if (laneVal p).isSig then 0x010#9 else 0) else (p ^^^ 0x80000000#32, 0))
      else wrapOrClamp ty c.sat (-asInt ty p)
  | .vand s d a b x _ mk => abForm s d a b x mk fun _ p q _ => (p &&& q, 0)
  | .vor s d a b x _ mk => abForm s d a b x mk fun _ p q _ => (p ||| q, 0)
  | .vxor s d a b x _ mk => abForm s d a b x mk fun _ p q _ => (p ^^^ q, 0)
  | .vandn s d a b x _ mk => abForm s d a b x mk fun _ p q _ => (p &&& ~~~q, 0)
  | .vshl s d a b x ty mk => abForm s d a b x mk fun c p q _ => wrapOrClamp ty c.sat (asInt ty p * 2 ^ (q.toNat % 32))
  | .vshr s d a b x _ mk => abForm s d a b x mk fun _ p q _ => (p >>> (q.toNat % 32), 0)
  | .vsar s d a b x _ mk => abForm s d a b x mk fun _ p q _ => (p.sshiftRight (q.toNat % 32), 0)
  | .vsel s d a b x _ mk =>
      wholeForm s (bG x b ++ maskRegs mk) ([a] ++ bV x b) d
        (fun t i => if (t.enabled mk).getLsbD i then t.lane a i else t.bLane x b i) fun _ => 0
  | .vmov s d b x _ mk => lanesForm s mk (bG x b) (bV x b) d fun t i => (t.bLane x b i, 0)
  | .vcvt s d a ty mk f => aForm s d a mk (opCvt ty f)
  | .vpackBf s d a b x mk => lanesForm s mk (bG x b) ([a] ++ bV x b) d fun t =>
      packedLane t a b x fun v => Fmt.encode .bf16 (laneVal v) t.control.mode t.control.sat
  | .vpackH s d a b x ty mk => lanesForm s mk (bG x b) ([a] ++ bV x b) d fun t => packedLane t a b x (clampHalf ty)
  | .vunpackBf s d a h mk => lanesForm s mk [] [a] d fun t j =>
      let p := BitVec.ofNat 32 (t.half a (64 * h.toNat + j) * 2 ^ 16)
      if (laneVal p).isNaN then (nan32, if (laneVal p).isSig then 0x010#9 else 0) else (p, 0)
  | .vunpackH s d a h ty mk => lanesForm s mk [] [a] d fun t j =>
      let e := t.half a (64 * h.toNat + j)
      (if ty = .i then (BitVec.ofNat 16 e).signExtend 32 else BitVec.ofNat 32 e, 0)
  | .vrcp s d a mk => aForm s d a mk fun _ => rcp32
  | .vrsq s d a mk => aForm s d a mk fun _ => rsq32
  | .vexp2 s d a mk => aForm s d a mk fun _ => exp232
  | .vlog2 s d a mk => aForm s d a mk fun _ => log232
  | .vtanh s d a mk => aForm s d a mk fun _ => tanh32
  | .vsig s d a mk => aForm s d a mk fun _ => sig32
  | .vredsum s d a b x ty mk => reductionForm .sum s d a b x ty mk
  | .vredmax s d a b x ty mk => reductionForm .max s d a b x ty mk
  | .vredmin s d a b x ty mk => reductionForm .min s d a b x ty mk
  | .vscan s d a b x ty mk k => lanesForm s mk (bG x b) ([a] ++ bV x b) d fun t i =>
      combined (if k = 2 then .max else if k = 3 then .min else .sum) ty t.control (t.bLane x b 0)
        (t.under mk a (if k = 1 then i else i + 1))
  | .vslideDn s d a b _ mk => lanesForm s mk [b] [a] d fun t i =>
      (if i + (t.g b).toNat ≤ 63 then t.lane a (i + (t.g b).toNat) else 0, 0)
  | .vslideUp s d a b _ mk => lanesForm s mk [b] [a] d fun t i => (if (t.g b).toNat ≤ i then t.lane a (i - (t.g b).toNat) else 0, 0)
  | .vslideRot s d a b _ mk => lanesForm s mk [b] [a] d fun t i => (t.lane a ((i + (t.g b).toNat) % 64), 0)
  | .vperm s d a b x _ mk => lanesForm s mk (bG x b) ([a] ++ bV x b) d fun t i =>
      (if (t.bLane x b i).toNat < 64 then t.lane a (t.bLane x b i).toNat else 0, 0)
  | .vins s d l b _ h => wholeForm s [b] [d] d
      (fun t i => if i = l.toNat + 16 * h.toNat then (t.g b).setWidth 32 else t.lane d i) fun _ => 0
  | .vclass s d a mk => aForm s d a mk fun _ p => (classOf p, 0)
  | _ => none

/-- Whether a vector word can act at once. -/
def VectorForm.ready (f : VectorForm) (t : Strand) : Bool :=
  Takes.plain.follows t && f.reads.all t.canRead && f.vreads.all t.canReadV && decide (t.outstanding.length < 8)
    && (decide (f.written t = BitVec.allOnes 64) || t.canReadV f.dest) && (!t.strict || (lastV f.dest.toNat t.outstanding).isNone)

/-- A long result on its way to a vector register. -/
def State.sendsV (s : State) (r : Reg) (x : List Lane) : State :=
  { s with
    ages := s.ages + 1
    me := { s.me with
      outstanding := s.me.outstanding ++ [{ id := s.ages, gdests := [], vdests := [(r.toNat, x)], wait := .none, name := none }] } }

/-- What a vector word does: its destination's lanes on their way, the lanes that it does not write as they were, and its flags. -/
def VectorForm.effect (f : VectorForm) (s : State) : State :=
  let s' := s.sendsV f.dest ((List.range 64).map fun i =>
    if (f.written s.me).getLsbD i then f.lane s.me i else s.me.lane f.dest i)
  { s' with me := { s'.me with sflags := s'.me.sflags ||| f.flags s.me } }

/-- The comparisons of R218, with the sticky flags of one lane. -/
def compareLanes (op : Nat) (ty : VType) (p q : Lane) : Bool × Flags :=
  if ty = .f then
    let x := laneVal p
    let y := laneVal q
    (if x.isNaN || y.isNaN then decide (op = 1)
      else match op with
        | 0 => valEq x y
        | 1 => !valEq x y
        | 2 => valLess x y && !valEq x y
        | _ => valLess x y || valEq x y,
     if x.isSig || y.isSig then 0x010#9 else 0)
  else
    (match op with
      | 0 => decide (p = q)
      | 1 => decide (p ≠ q)
      | 2 => decide (asInt ty p < asInt ty q)
      | _ => decide (asInt ty p ≤ asInt ty q), 0)

/-- A vector word with its result in a general register (R218, R224). -/
def compareForm (op : Nat) (s : Bool) (d a b : Reg) (x : Bool) (ty : VType) (mk : Mask) : Option (ScalarForm × List Reg) :=
  some ({ sw := s, takes := .plain, guard := noGuard, reads := bG x b ++ maskRegs mk, dest := d, long := true
          value := fun t => BitVec.ofNat 64 (((List.range 64).map fun i =>
            if (t.enabled mk).getLsbD i && (compareLanes op ty (t.lane a i) (t.bLane x b i)).1 then 2 ^ i else 0).sum)
          flags := fun t => unionFlags (t.enabled mk) fun i => (compareLanes op ty (t.lane a i) (t.bLane x b i)).2 }, [a] ++ bV x b)

/-- The vector words with a result in a general register, and the vector registers that they read. -/
def toScalarTable : Instr → Option (ScalarForm × List Reg)
  | .vceq s d a b x ty mk => compareForm 0 s d a b x ty mk
  | .vcne s d a b x ty mk => compareForm 1 s d a b x ty mk
  | .vclt s d a b x ty mk => compareForm 2 s d a b x ty mk
  | .vcle s d a b x ty mk => compareForm 3 s d a b x ty mk
  | .vext s d a l ty h => some ({ sw := s, takes := .plain, guard := noGuard, reads := [], dest := d, long := true
                                  value := fun t =>
                                    let x := t.lane a (l.toNat + 16 * h.toNat)
                                    if ty = .i then x.signExtend 64 else x.setWidth 64
                                  flags := fun _ => 0 }, [a])
  | _ => none

/-! ## Vector memory words (R225–R232) -/

/-- A vector word that reaches an element for each enabled lane: the registers it reads, the register it loads or stores, its mask,
each lane's address, and an element's size and sign. -/
structure ElementForm where
  sw : Bool
  store : Bool
  reads : List Reg
  vreads : List Reg
  reg : Reg
  mask : Mask
  addr : Strand → Nat → Nat
  size : Nat
  signed : Bool

/-- The index of an address, scaled by 2^k; field 0 is none (R225). -/
def Strand.index (t : Strand) (x : Reg) (k : Nat) : Word := if x = 0 then 0 else t.g x <<< k

/-- The bytes and the sign of a size code (R225). -/
def elementSize (z : BitVec 4) : Nat × Bool :=
  match z.toNat with
  | 0 => (4, false)
  | 1 => (2, false)
  | 2 => (2, true)
  | 3 => (1, false)
  | _ => (1, true)

/-- The plain vector accesses (R227). -/
def elementTable : Instr → Option ElementForm
  | .vld s d b x o mk => some
      { sw := s, store := false, reads := [b] ++ indexRegs x ++ maskRegs mk, vreads := [], reg := d, mask := mk, size := 4, signed := false
        addr := fun t i => ((t.g b + t.index x (if o = 0 then 8 else 0)).toNat + 4 * i) % 2 ^ 64 }
  | .vst s d b x o mk => some
      { sw := s, store := true, reads := [b] ++ indexRegs x ++ maskRegs mk, vreads := [d], reg := d, mask := mk, size := 4, signed := false
        addr := fun t i => ((t.g b + t.index x (if o = 0 then 8 else 0)).toNat + 4 * i) % 2 ^ 64 }
  | .vldb s d b x mk => some
      { sw := s, store := false, reads := [b] ++ indexRegs x ++ maskRegs mk, vreads := [], reg := d, mask := mk, size := 4, signed := false
        addr := fun t _ => (t.g b + t.index x 2).toNat }
  | .vlds s d b p z mk => some
      { sw := s, store := false, reads := [b, p] ++ maskRegs mk, vreads := [], reg := d, mask := mk
        size := (elementSize z).1, signed := (elementSize z).2
        addr := fun t i => (((t.g b).toInt + i * (t.g p).toInt) % 2 ^ 64).toNat }
  | .vldx s d b v z mk => some
      { sw := s, store := false, reads := [b] ++ maskRegs mk, vreads := [v], reg := d, mask := mk
        size := (elementSize z).1, signed := (elementSize z).2
        addr := fun t i => ((t.g b).toNat + (t.lane v i).toNat * (elementSize z).1) % 2 ^ 64 }
  | .vstx s d b v z mk => some
      { sw := s, store := true, reads := [b] ++ maskRegs mk, vreads := [d, v], reg := d, mask := mk
        size := (elementSize z).1, signed := (elementSize z).2
        addr := fun t i => ((t.g b).toNat + (t.lane v i).toNat * (elementSize z).1) % 2 ^ 64 }
  | _ => none

/-- The lanes that a form's mask enables, rising. -/
def ElementForm.lanes (f : ElementForm) (t : Strand) : List Nat := (List.range 64).filter fun i => (t.enabled f.mask).getLsbD i

/-- Whether a destination of a long result can take it, its old lanes at hand where a mask keeps some. -/
def Strand.canSendV (t : Strand) (d : Reg) (m : Mask) : Bool :=
  decide (t.outstanding.length < 8) && (decide (t.enabled m = BitVec.allOnes 64) || t.canReadV d)
    && (!t.strict || (lastV d.toNat t.outstanding).isNone)

/-- Whether such a word can act at once: its registers are at hand, and each enabled lane's element is aligned. -/
def ElementForm.ready (f : ElementForm) (t : Strand) : Bool :=
  Takes.plain.follows t && f.reads.all t.canRead && f.vreads.all t.canReadV && (f.store || t.canSendV f.reg f.mask)
    && (f.lanes t).all fun i => decide (f.addr t i % f.size = 0)

/-- The bytes that a store's enabled lanes have in a block, in lane order. -/
def ElementForm.data (f : ElementForm) (t : Strand) (k : Nat) : List (Nat × Byte) :=
  ((f.lanes t).filter fun i => f.addr t i / 64 == k).flatMap fun i =>
    withOffsets (f.addr t i % 64) (toLE f.size (t.lane f.reg i).toNat)

/-- The units of such a word, one for each block that an enabled lane touches, in rising order (R226). -/
def ElementForm.pieces (f : ElementForm) (t : Strand) : List Piece :=
  elementPieces ((f.lanes t).map (f.addr t)) f.size fun k => if f.store then .write (f.data t k) else .read

/-- A vector register with a value in its enabled lanes. -/
def Strand.merged (t : Strand) (d : Reg) (m : Mask) (f : Nat → Lane) : List Lane :=
  (List.range 64).map fun i => if (t.enabled m).getLsbD i then f i else t.lane d i

/-- An element that some units read, extended to its lane (R225, R227). -/
def elementLane (got : List (Piece × UnitRes)) (a size : Nat) (signed : Bool) : Lane :=
  let x := elementOf got a size
  if signed then (if size = 1 then (BitVec.ofNat 8 x).signExtend 32 else (BitVec.ofNat 16 x).signExtend 32) else BitVec.ofNat 32 x

/-- A strand's unit on a leaf. -/
def State.pieceAt (s : State) (xk : XKind) (acc : Acc) (x : Piece × Leaf) : AccessUnit :=
  { who := .strand s.me.core s.me.slot, ctx := s.me.ctx, sysm := s.me.sysm, core := s.me.core, va := x.1.va, pa := x.2.pa, xk := xk
    via := .core s.me.core, kind := strandKind x.2.pa.space s.me.core acc, acc := acc, offs := x.1.offs, act := x.1.act, trace := none, redirected := false }

/-- Nothing stands in the way of a translated unit: it lies in no device, its page is not traced, its memory is awake, and holds no
error at these words, and its tags let it pass unchanged. -/
def State.openUnit (s : State) (xk : XKind) (acc : Acc) (x : Piece × Leaf) : Prop :=
  x.2.pa.space ≠ .mmio ∧ bitsOf x.2.entry 9 1 = 0 ∧ (s.wakeIsland x.2.pa.space).isNone = true
    ∧ uncorrOf s (s.pieceAt xk acc x) = none ∧ lookupUnit s.mem (s.pieceAt xk acc x) = .pass []

/-- A described block's lane (R229): what a lane gets of the blocks read, `f` the format that the first one names. -/
def describedLane (sub f : Nat) (blocks : List (Nat × UnitRes)) (i : Nat) : Lane × Flags :=
  let bad : Lane × Flags := (if sub = 2 then 0 else nan32, 0x002#9)
  let e := if sub = 1 then 64 + i else i
  if 8 ≤ f ∨ (sub = 1 ∧ f ≠ 6) ∨ (sub = 2 ∧ f ≠ 7) then bad
  else
    match blocks.find? (fun b => b.1 == e / perBlock f) with
    | none => bad
    | some (_, r) =>
      if r.desc.toNat % 256 ≠ f then bad
      else if sub = 2 then
        (if scaleOf r.desc f (e % perBlock f) = 255 then 0 else (BitVec.ofNat 8 (elementCode f r.bytes (e % perBlock f))).signExtend 32, 0)
      else (roundNE32 (elementVal r.desc r.bytes (e % perBlock f)), 0)

/-- The described loads: sub-operation and operands (R229). -/
def describedTable : Instr → Option (Nat × Bool × Reg × Reg × Reg × BitVec 4 × Mask)
  | .vldD s d b x o mk => some (0, s, d, b, x, o, mk)
  | .vldDHi s d b x o mk => some (1, s, d, b, x, o, mk)
  | .vldDInt s d b x o mk => some (2, s, d, b, x, o, mk)
  | _ => none

/-! ## Engine ops -/

/-- The state with an op record that the current strand has created, held by a token (R268): everything else of the ops, tokens and
memory is as before. -/
structure Created (s t : State) (k : Reg) (kind : OpKind) (engine : Engine) (desc : List Byte) : Prop where
  token : FMap.get none t.me.tokens k.toNat = some s.eng.nextOp
  others : ∀ j, j ≠ k.toNat → FMap.get none t.me.tokens j = FMap.get none s.me.tokens j
  counter : t.eng.nextOp = s.eng.nextOp + 1
  kept : ∀ n, n ≠ s.eng.nextOp → t.opOf n = s.opOf n
  kind : (t.opOf s.eng.nextOp).kind = kind
  engine : (t.opOf s.eng.nextOp).engine = engine
  desc : (t.opOf s.eng.nextOp).desc = desc
  ctx : (t.opOf s.eng.nextOp).ctx = s.me.ctx
  part : (t.opOf s.eng.nextOp).part = s.me.part
  launch : (t.opOf s.eng.nextOp).launch = s.me.launch
  strand : (t.opOf s.eng.nextOp).strand = s.me.uid
  /-- `prio` and `after` (R272), the control and the seed (R204, R209) -/
  prio : (t.opOf s.eng.nextOp).prio = ((s.me.pfx.prio.map (·.2)).getD 0)
  slack : (t.opOf s.eng.nextOp).slack = ((s.me.pfx.prio.map (·.1)).getD 15)
  after : (t.opOf s.eng.nextOp).after = s.me.pfx.after.bind fun r => FMap.get none s.me.tokens r.toNat
  rnd : (t.opOf s.eng.nextOp).rnd = s.me.pfx.mod.getD s.me.rmode
  seed : (t.opOf s.eng.nextOp).srseed = s.me.srseed
  /-- an earlier acquire has returned (R273, R344) -/
  registers : t.me.stack = s.me.acquired.stack ∧ t.me.vregs = s.me.vregs ∧ t.me.outstanding = s.me.acquired.outstanding

/-- Whether the token that `after` names is one of the strand's (R53). -/
def Strand.afterFits (t : Strand) : Bool := t.pfx.after.all fun r => decide (r.toNat < t.ntok)

/-- Whether a strand may create an op with a token (R53, R268). -/
def Strand.tokenFree (t : Strand) (k : Reg) : Bool :=
  decide (k.toNat < t.ntok) && (FMap.get none t.tokens k.toNat).isNone && t.afterFits

/-- The token that TOKBUSY names where a strand may not: its own, or the one that `after` names, which is checked with its number
(log 100). -/
def Strand.busyToken (t : Strand) (k : Reg) : Nat :=
  if k.toNat < t.ntok then
    match t.pfx.after with
    | some r => if t.ntok ≤ r.toNat then r.toNat else k.toNat
    | none => k.toNat
  else k.toNat

/-! ## Commands -/

/-- A command of a ring has run: it has taken the ring's next entry, had this effect, and written its status (R416). -/
def State.answered (s : State) (ring st : Nat) (f : State → State) : State :=
  (f (s.takeEntry ring).2).putStatus ring (s.takeEntry ring).1 st

/-- A command of a debug session has run, and this is the session's answer (R411). -/
def State.replied (s : State) (session st : Nat) : State :=
  { s with pkg := { s.pkg with sessions := s.pkg.sessions.modify session fun y => { y with status := st, awaits := [] } } }

/-- A debug session has a command to run, and waits for no earlier halt any more (R411, R412). -/
def State.asked (s : State) (session : Nat) : State :=
  { s with pkg := { s.pkg with sessions := s.pkg.sessions.modify session fun y => { y with awaits := [] } } }

/-! ## Tags -/

/-- Nothing stands in the way of a tag or table word at an address: it translates, its page is watched by no filter and traced by none,
its memory is awake, no parked unit may be affected, and no word waits after a lookup that found its way (R250, R262). -/
structure OpenTag (s : State) (xk : XKind) (write : Bool) (ga : Word) (l : Leaf) (s' : State) : Prop where
  found : translate { ctx := s.me.ctx, sysm := s.me.sysm, kind := xk, rd := !write, wr := write } ga.toNat s = .ok (.ok l) s'
  unwatched : bitsOf l.entry 8 1 = 0
  untraced : bitsOf l.entry 9 1 = 0
  awake : (s'.wakeIsland l.pa.space).isNone = true
  local_ : ∀ c o, l.pa.space ≠ .peer c o
  sound : FMap.get 0 s'.mem.poison l.pa.word = 0
  quiet : s'.mem.parked = []
  settled : ∀ t ∈ s'.all, t.replay.looked = none

/-- Two states differ in one word's tag and bytes, in who waits there, and in what the strand's acquires have returned, at most. -/
def onlyWord (s t : State) (w : Nat) (tag : BitVec 4) : Prop :=
  (∀ k, FMap.get 0 t.mem.tags k = if k = w then tag else FMap.get 0 s.mem.tags k)
  ∧ (∃ log pos x r, t.me = { s.me.acquired with unitLog := log, unitPos := pos, wait := x, replay := r })
  ∧ t.mem.descs = s.mem.descs ∧ t.mem.tables = s.mem.tables ∧ t.mem.selects = s.mem.selects

/-- What becomes of a matrix op at its creation (R290): accepted on a bank that its strand holds, or failed. -/
def State.acceptedOr (t : State) (n : Nat) (held : Bool) : Prop :=
  if held then (t.opOf n).state = .pending ∧ (t.opOf n).accepted = true
  else (t.opOf n).state = .failed ∧ (t.opOf n).fault = 0x24

/-- A little-endian field of a descriptor. -/
def bytesAt (d : List Byte) (o n : Nat) : Nat := ofLE ((d.drop o).take n)

/-- Bits of a number. -/
def bitField (x lo n : Nat) : Nat := x / 2 ^ lo % 2 ^ n

/-! ## Steps of the device -/

/-- The strand in a slot becomes another, and nothing else changes: no other slot, memory, core, engine, hub or fumarole record. -/
def State.slotBecomes (s t : State) (core slot : Nat) (u : Strand) : Prop :=
  t.strandAt core slot = some u ∧ (∀ c n, (c, n) ≠ (core, slot) → t.strandAt c n = s.strandAt c n)
    ∧ t.mem = s.mem ∧ t.cores = s.cores ∧ t.eng = s.eng ∧ t.hub = s.hub ∧ t.pkg = s.pkg

/-- A step of the device has one strand in a slot become another, and changes nothing else. -/
def State.slotStep (s : State) (e : Instr) (core slot : Nat) (u : Strand) : Prop :=
  ∃ t : State, exec e s = .next t ∧ s.slotBecomes t core slot u

/-- A partition's event ring has one more event (R418, R419). -/
def State.notified (s t : State) (part type ctx : Nat) (body : List Word) : Prop :=
  ∃ e : EventEntry, (t.partOf part).events = (s.partOf part).events ++ [e] ∧ e.type = BitVec.ofNat 8 type ∧ e.ctx = BitVec.ofNat 16 ctx
    ∧ e.seq = BitVec.ofNat 32 (s.partOf part).evSeq ∧ e.body = body ∧ (t.partOf part).evSeq = (s.partOf part).evSeq + 1

/-- The body of a system event (R419): its code, the vcore and slot it names, and its three words. -/
def systemBody (code slot : Nat) (vcore : BitVec 32) (addr handle kcause : Word) : List Word :=
  [BitVec.ofNat 64 (code + 256 * slot + 2 ^ 32 * vcore.toNat), addr, handle, kcause]

/-- A strand whose parked wait has been withdrawn (R355). -/
def Wait.given (w : Wait) : Wait :=
  match w with
  | .wwait => .none
  | .woken _ => .none
  | .barrier _ _ => .none
  | w => w

/-- Between two states only `n` bytes from a key of memory may differ, and there the second holds the little-endian number `x`. -/
def State.wrote (s t : State) (key n x : Nat) : Prop :=
  ∀ k, FMap.get Mem.byte0 t.mem.bytes k =
    if key ≤ k ∧ k < key + n then BitVec.ofNat 8 (x / 256 ^ (k - key)) else FMap.get Mem.byte0 s.mem.bytes k

/-- Whether one waiting slice is bound strictly before another (R102). -/
def Strand.ahead (a b : Strand) : Prop :=
  a.deadline.toNat < b.deadline.toNat
    ∨ (a.deadline = b.deadline ∧ ((a.high = true ∧ b.high = false) ∨ (a.high = b.high ∧ a.age < b.age)))

/-- Whether a core has room for some slices in its list of 64, with no pre-empted strand waiting for a place there (R101). -/
def State.roomFor (s : State) (core n : Nat) : Prop :=
  (s.all.filter fun t => decide (t.place = .pending core)).length + n ≤ 64 ∧ ∀ t ∈ s.all, t.place ≠ .held core

/-- A packet of a queue has completed: it is gone, or stands complete behind others (R72). -/
def State.packetDone (s : State) (q place : Nat) : Prop := ∀ p, (s.queueOf q).at? place = some p → p.state = .complete

/-- A packet of a queue that may start, by its type (R78, R80). -/
def State.canStart (s : State) (q place type : Nat) (p : Packet) : Prop :=
  (s.queueOf q).at? place = some p ∧ (s.queueOf q).mayStart p = true ∧ p.type = type

/-- One op becomes another, and nothing else changes (R270). -/
def State.opBecomes (s t : State) (n : Nat) (o : Op) : Prop :=
  t.opOf n = o ∧ (∀ m, m ≠ n → t.opOf m = s.opOf m) ∧ t.eng.acc = s.eng.acc ∧ t.eng.banks = s.eng.banks ∧ t.eng.nextOp = s.eng.nextOp
    ∧ t.mem = s.mem ∧ t.me = s.me ∧ t.strands = s.strands ∧ t.hub = s.hub ∧ t.cores = s.cores ∧ t.pkg = s.pkg

/-- An op has ended in a state; every other op is as it was. -/
def State.opEnds (s t : State) (n : Nat) (st : OpState) : Prop :=
  (t.opOf n).state = st ∧ (t.opOf n).flight = [] ∧ (∀ m, m ≠ n → t.opOf m = s.opOf m) ∧ t.eng.acc = s.eng.acc

/-- Whether an op that another follows has ended DONE, or there is none (R272). -/
def State.afterDone (s : State) (o : Op) : Prop := o.after = none ∨ ∃ a, o.after = some a ∧ (s.opOf a).state = .done

/-- One element of a bank after a K-block: the sum of what it holds and its products, exact and then rounded once (R211, R299). -/
def addProducts (acc : Lane) (a b : List Val) (inc : Nat → Bool) : Lane :=
  roundNE32 (addVal (laneVal acc)
    (sumVals ((List.range 32).filterMap fun k =>
      if inc k then some (mulVal ((a[k]?).getD (.nan false)) ((b[k]?).getD (.nan false))) else none)) false)

/-- A ring's next command may run on a context: no command of the ring is under way, and the context stands and is within its reach
(R416). -/
def State.mayCommand (s : State) (ring ctx : Nat) : Prop :=
  s.ringReady ring = true ∧ (s.ctxOf ctx).live = true ∧ (ring = 16 ∨ ring = (s.ctxOf ctx).part)

/-- Between two states a ring has taken its next entry, and the entry holds a status (R416). -/
def State.reports (s t : State) (ring st : Nat) : Prop :=
  if ring = 16 then t.hub.hvCmds = s.hub.hvCmds + 1 ∧ FMap.get 0 t.hub.hvStatus (s.hub.hvCmds % 64) = st
  else (t.partOf ring).cmds = (s.partOf ring).cmds + 1 ∧ FMap.get 0 (t.partOf ring).status ((s.partOf ring).cmds % 64) = st

/-- The state in which a command of a ring runs: its entry is taken. -/
def State.running (s : State) (ring : Nat) : State := (s.takeEntry ring).2

/-- The rounded form of a bound: a multiple of 50 MHz, at least 800 (R425). -/
def rounded50 (x : Nat) : Nat := Max.max 800 (x / 50 * 50)

/-- The bounds of an island in the order of their cause bits, 0 for none: HALL, PKG, THERM, CURR, PART (R425). -/
def State.boundsOf (s : State) (i : Nat) : List Nat :=
  let q := (s.hub.parts.find? fun p => p.2.live && p.2.islands.getLsbD i).map (·.2)
  let hall : Nat := match q, s.pkg.frame with
    | some q, some f =>
      let x := (f.levels[q.rank.toNat]?).getD 0xFFFF#16
      if x ≠ 0xFFFF#16 then x.toNat else 0
    | _, _ => 0
  [hall, FMap.get 0 s.pkg.pkgBound i, FMap.get 0 s.pkg.thermBound i, FMap.get 0 s.pkg.currBound i, (q.map (·.ceiling)).getD 0]

/-- What `capcause` holds for an island (R425, R427). -/
def State.capWord (s : State) (i : Nat) : Word :=
  let bs := s.boundsOf i
  let ceil := rounded50 ((bs.filter (· ≠ 0)).foldl Min.min 2500)
  let cause := ((List.range 5).map fun c =>
    if (bs[c]?).getD 0 = ceil ∧ ceil < 2500 then 2 ^ c else 0).sum
  let rank := ((s.hub.parts.find? fun p => p.2.live && p.2.islands.getLsbD i).map (·.2.rank.toNat)).getD 0
  BitVec.ofNat 64 (cause + 256 * rank + 65536 * ceil + 4294967296 * (s.pkg.appliedSeq.toNat % 4294967296))

/-- Every island's `capcause` holds what the bounds of a state give. -/
def State.capped (s t : State) : Prop := ∀ i, i < 32 → FMap.get capcause0 t.pkg.capcause i = s.capWord i

/-- The table of partitions is in its canonical form. -/
def State.partsWf (s : State) : Prop := FMap.wf Part.none s.hub.parts = true

/-- Whether a partition's memory holds a key: the local stores and pools of its islands, and its HBM ranges. -/
def State.partHolds (s : State) (p key : Nat) : Prop :=
  (∃ c, c < Config.cores ∧ (s.partOf p).islands.getLsbD (c / 80) = true ∧ ∃ o, o < Config.lsBytes ∧ key = PAddr.key { space := .ls c, off := o })
  ∨ (∃ y, y < Config.plies ∧ (s.partOf p).islands.getLsbD (y / 5) = true
      ∧ ∃ o, o < Config.poolBytes ∧ key = PAddr.key { space := .pool y, off := o })
  ∨ ∃ x ∈ (s.partOf p).hbm, ∃ o, x.1 * 1073741824 ≤ o ∧ o < (x.1 + x.2) * 1073741824 ∧ key = hbmKey o

/-- Whether a session's right reaches a partition (R411). -/
def rightCovers (r : DebugRight) (part : Nat) : Prop := r = .package ∨ r = .partition part

/-- What a session's right reaches, as readback takes it. -/
def reachOfRight : DebugRight → Option Nat
  | .package => none
  | .partition p => some p

/-- The answer of a session is a status, and no other session, frame, cap or port of the package has changed. -/
def State.replies (s t : State) (session st : Nat) : Prop :=
  t.pkg = { s.pkg with sessions := s.pkg.sessions.modify session fun y => { y with status := st, awaits := [] } }

/-- A little-endian number in a state's memory. -/
def State.numAt (s : State) (key n : Nat) : Nat := ofLE (s.mem.bytesAt key n)

end Sys2Proof.Machine
end

