-- ==== Sys2Proof/Certificates/Slice0/Obligations.lean ====
section
/-!
DEFINITION. The statements for the provers.
-/

open Sys2Proof Sys2Proof.Machine

/-! ## Scalar words -/

/-- R139, R140. -/
def Obligations.RegisterArithmetic : Prop :=
  ∀ (i : Instr) (f : ScalarForm) (s : State), srTable i = some f → f.ready s.me = true →
    completes i f.sw f.takes s (f.effect s)

/-- R141. -/
def Obligations.FieldAndCompareWords : Prop :=
  ∀ (i : Instr) (f : ScalarForm) (s : State), fieldTable i = some f → f.ready s.me = true →
    completes i f.sw f.takes s (f.effect s)

/-- R142, R143, with the immediate of R131.

R142: a count that its prefixes widen to 64 or more is ILLOP subcode 1 at the word. -/
def Obligations.ImmediateWords : Prop :=
  (∀ (i : Instr) (f : ScalarForm) (s : State), immTable i = some f → f.ready s.me = true →
      completes i f.sw f.takes s (f.effect s))
  ∧ (∀ (i : Instr) (f : ScalarForm) (n : Nat) (s : State), countTable i = some (f, n) → f.takes.follows s.me = true →
      ((widen 15 n s.me.pfx.xis).1 < 64 → f.ready s.me = true → completes i f.sw f.takes s (f.effect s))
      ∧ (64 ≤ (widen 15 n s.me.pfx.xis).1 →
          exec i s = .next (trapWord { cause := .illop, tinfo := illopInfo 1 s.me.pfx.count ((encode i).getD 0), taddr := 0 } s s)))

/-- R131: what one or two `xi` make of an immediate of `w` bits.

R129–R131, R204, R272: the prefixes gather for their target, without the marker, each once, `xi` twice and last.

R129, R134: a breach of the prefix group is ILLOP subcode 4 at the word, and the group's first word is resumed. (A count that `xi` widens to
64 or more is subcode 1 before it, R135 and R142.) -/
def Obligations.Prefixes : Prop :=
  (∀ (w i : Nat) (p q : BitVec 24), i < 2 ^ w → 6 ≤ w → w ≤ 24 →
      widen w i [] = (i, w)
      ∧ widen w i [p] = (p.toNat * 2 ^ w + i, w + 24)
      ∧ (w + 48 ≤ 63 → widen w i [p, q] = ((p.toNat * 2 ^ 24 + q.toNat) * 2 ^ w + i, w + 48))
      ∧ (63 < w + 48 → widen w i [p, q] = (((p.toNat * 2 ^ 24 + q.toNat) * 2 ^ w + i) % 2 ^ 63, 63)))
  ∧ (∀ (p : BitVec 24) (k : BitVec 4) (q : BitVec 3) (r : Reg) (h t : Bool) (m : BitVec 2) (s : State),
      let gathered (i : Instr) (f : Prefix) : Prop :=
        completes i false .pre s { s with me := { s.me with pfx := { f with
          count := s.me.pfx.count + 1, first := if s.me.pfx.count = 0 then s.me.pc else s.me.pfx.first } } }
      (s.me.pfx.xis.length < 2 → gathered (.xi false p) { s.me.pfx with xis := s.me.pfx.xis ++ [p] })
      ∧ (s.me.pfx.xis = [] → s.me.pfx.prio = none → gathered (.prio false k q) { s.me.pfx with prio := some (k, q) })
      ∧ (s.me.pfx.xis = [] → s.me.pfx.after = none → gathered (.after false r) { s.me.pfx with after := some r })
      ∧ (s.me.pfx.xis = [] → s.me.pfx.mod = none →
          gathered (.mod false h t m) { s.me.pfx with mod := some (BitVec.ofNat 4 (8 * h.toNat + 4 * t.toNat + m.toNat)) }))
  ∧ (∀ (s : State) (p : BitVec 24) (sw : Bool),
      (s.me.pfx.count ≠ 0 → exec (.nop sw p) s = .next (trapWord (breachOf (.nop sw p) s.me.pfx) s s))
      ∧ exec (.xi true p) s = .next (trapWord (breachOf (.xi true p) s.me.pfx) s s)
      ∧ (s.me.pfx.xis.length = 2 → exec (.xi sw p) s = .next (trapWord (breachOf (.xi sw p) s.me.pfx) s s))
      ∧ (∀ d a b g, s.me.pfx.xis ≠ [] → exec (.add sw d a b g) s = .next (trapWord (breachOf (.add sw d a b g) s.me.pfx) s s))
      ∧ ∀ i, wideCount i s.me.pfx = false → (breachOf i s.me.pfx).cause = .illop
          ∧ (breachOf i s.me.pfx).tinfo = BitVec.ofNat 64 (4 + 256 * (s.me.pfx.count % 256) + 2 ^ 32 * ((encode i).getD 0).toNat))

/-- R126–R132, R168. -/
def Obligations.Hints : Prop :=
  ∀ (sw : Bool) (k : BitVec 3) (p : BitVec 24) (m : BitVec 16) (c : BitVec 6) (s : State), s.me.pfx.count = 0 →
    completes (.nop sw p) sw .hint s s ∧ completes (.reservedHint sw k p) sw .hint s s
    ∧ completes (.pass sw) sw .hint s { s with me := { s.me with wait := .passed } }
    ∧ completes (.msk sw c) sw .msk s { s with me := { s.me with mskcnt := c } }
    ∧ ∃ t : Strand, completes (.dead sw m) sw .hint s { s with me := t } ∧ t.vlive = s.me.vlive &&& ~~~m
        ∧ (∀ r : Reg, m.getLsbD r.toNat = true → t.v r = List.replicate 64 0)
        ∧ (∀ r : Reg, m.getLsbD r.toNat = false → t.v r = s.me.v r) ∧ t.stack = s.me.stack

/-- R148–R150.

R148, R150, R382: which control words trap, before they change anything; ALIGN of a target stands before SPILL and FILL. -/
def Obligations.BranchesAndCalls : Prop :=
  (∀ (i : Instr) (f : ControlForm) (s : State), controlTable i = some f → f.ready s.me = true →
      exec i s = .next (completeWord f.sw f.takes (flowTo (f.target s.me)) s { s with me := f.effect s.me }))
  ∧ (∀ (sw : Bool) (r : Reg) (d : BitVec 24) (s : State), Takes.plain.follows s.me = true →
      (s.me.canRead r = true → aligned4 (s.me.g r) = false →
        let t : TrapInfo := { cause := .align, tinfo := 0x600, taddr := s.me.g r }
        exec (.jmp sw r) s = .next (trapWord t s s) ∧ exec (.callr sw r) s = .next (trapWord t s s))
      ∧ (s.me.canRead 7 = true → aligned4 (s.me.g 7) = false →
        exec (.ret sw) s = .next (trapWord { cause := .align, tinfo := 0x600, taddr := s.me.g 7 } s s))
      ∧ (s.me.canRead 7 = true → aligned4 (s.me.g 7) = true → s.me.rdep = 0 →
        exec (.ret sw) s = .next (trapWord { cause := .fill, tinfo := 0, taddr := 0 } s s))
      ∧ (s.me.rdep.toNat = (if s.me.hm then 6 else 5) → (lastG (entryOf (s.me.cwp + 1) 7) s.me.outstanding).isNone = true →
        let t : TrapInfo := { cause := .spill, tinfo := 0, taddr := 0 }
        exec (.call sw d) s = .next (trapWord t s s)
        ∧ (s.me.canRead r = true → aligned4 (s.me.g r) = true → exec (.callr sw r) s = .next (trapWord t s s))))

/-- R144–R146, R347. -/
def Obligations.Loads : Prop :=
  ∀ (i : Instr) (f : MemForm) (g : Nat → List (Reg × Word)) (s s' : State) (l : Leaf),
    loadTable i = some (f, g) → f.ready s.me = true →
    Open s f.kind .load (f.va s.me).toNat f.size .read l s' →
      completes i f.sw f.takes s (s'.acquires.returns (g (s'.numberAt l (f.va s.me).toNat f.size)) f.wait none)

/-- R144–R146, R347, and the frame of a store.

R345, R346, and the frame of an atomic. -/
def Obligations.StoresAndAtomics : Prop :=
  (∀ (i : Instr) (f : MemForm) (x : Strand → Nat) (s s' : State) (l : Leaf),
      storeTable i = some (f, x) → f.ready s.me = true →
      Open s f.kind .store (f.va s.me).toNat f.size
        (.write (withOffsets ((f.va s.me).toNat % 64) (toLE f.size (x s.me)))) l s' →
        ∃ t : State, completes i f.sw f.takes s t ∧ onlyStored s' t ∧ storedAt s' t l (f.va s.me).toNat f.size (x s.me))
  ∧ (∀ (i : Instr) (f : AtomicForm) (s s' : State) (l : Leaf),
      atomicTable s.me i = some f → f.mem.ready s.me = true →
      Open s .atomic .atomic (f.mem.va s.me).toNat f.mem.size f.act l s' →
        ∃ t : State, completes i f.mem.sw f.mem.takes s (t.returns (f.sends (s'.numberAt l (f.mem.va s.me).toNat f.mem.size)) f.mem.wait none)
          ∧ onlyStored s' t
          ∧ storedAt s' t l (f.mem.va s.me).toNat f.mem.size (f.next (s'.numberAt l (f.mem.va s.me).toNat f.mem.size)))

/-! ## Traps and state registers -/

/-- R151, R380, R384: what a trap to the strand's own handler saves and where it goes.

R384, R385, R387: a trap in handler mode or in an urgent slot, one whose cause is delegated, and one without a handler park the
strand in its slot for the resident kernel; no window shifts. -/
def Obligations.Traps : Prop :=
  (∀ (s : State) (i : TrapInfo), s.me.urg = false → s.me.hm = false → s.me.tdeleg.getLsbD i.cause.code = false → s.me.tvec ≠ 0 →
      s.takeTrap i = { s with me := (s.takeTrap i).me }
      ∧ (s.takeTrap i).me.tcause = BitVec.ofNat 6 i.cause.code ∧ (s.takeTrap i).me.taddr = i.taddr
      ∧ (s.takeTrap i).me.tinfo = i.tinfo ∧ (s.takeTrap i).me.est = s.me.pst
      ∧ (s.takeTrap i).me.epc =
          (if i.cause = .sys ∨ i.cause = .brk ∨ s.me.pfx.count = 0 then s.me.pc else s.me.pfx.first)
      ∧ (s.takeTrap i).me.hm = true ∧ (s.takeTrap i).me.cwp = s.me.cwp + 1 ∧ (s.takeTrap i).me.rdep = s.me.rdep + 1
      ∧ (s.takeTrap i).me.pc = s.me.tvec ∧ (s.takeTrap i).me.mskcnt = 0 ∧ (s.takeTrap i).me.wait = .none
      ∧ (s.takeTrap i).me.stack = s.me.stack ∧ (s.takeTrap i).me.vregs = s.me.vregs
      ∧ (s.takeTrap i).me.outstanding = s.me.outstanding ∧ (s.takeTrap i).me.tokens = s.me.tokens
      ∧ (s.takeTrap i).me.strict = s.me.strict ∧ (s.takeTrap i).me.sysm = s.me.sysm)
  ∧ (∀ (s : State) (i : TrapInfo),
      (s.me.urg = true ∨ s.me.hm = true ∨ s.me.tdeleg.getLsbD i.cause.code = true ∨ s.me.tvec = 0) →
      (s.takeTrap i).me.ktrap = true ∧ (s.takeTrap i).me.wait = .kernel
      ∧ (s.takeTrap i).me.kcause = BitVec.ofNat 6 i.cause.code
      ∧ (s.takeTrap i).me.tcause = BitVec.ofNat 6 i.cause.code ∧ (s.takeTrap i).me.taddr = i.taddr
      ∧ (s.takeTrap i).me.tinfo = i.tinfo ∧ (s.takeTrap i).me.mskcnt = 0
      ∧ (s.takeTrap i).me.pc =
          (if i.cause = .sys ∨ i.cause = .brk ∨ s.me.pfx.count = 0 then s.me.pc else s.me.pfx.first)
      ∧ (s.takeTrap i).me.cwp = s.me.cwp ∧ (s.takeTrap i).me.rdep = s.me.rdep ∧ (s.takeTrap i).me.hm = s.me.hm
      ∧ (s.takeTrap i).me.stack = s.me.stack ∧ (s.takeTrap i).me.place = s.me.place)

/-- R153: `sys` and `brk` take their own exceptions, at the word itself, with their code.

R152: `tret` in handler mode goes back to the interrupted strand; elsewhere it is PRIV. -/
def Obligations.SystemCalls : Prop :=
  (∀ (sw : Bool) (c : BitVec 16) (s : State), Takes.plain.follows s.me = true →
      exec (.sys sw c) s = .next (trapWord { cause := .sys, tinfo := BitVec.ofNat 64 c.toNat, taddr := 0 } s s)
      ∧ exec (.brk sw c) s = .next (trapWord { cause := .brk, tinfo := BitVec.ofNat 64 c.toNat, taddr := 0 } s s))
  ∧ (∀ (sw : Bool) (s : State), Takes.plain.follows s.me = true →
      (s.me.hm = false → exec (.tret sw) s = .next (trapWord { cause := .priv, tinfo := 2, taddr := 0 } s s))
      ∧ (s.me.hm = true → aligned4 s.me.epc = false →
        exec (.tret sw) s = .next (trapWord { cause := .align, tinfo := 0x600, taddr := s.me.epc } s s))
      ∧ (s.me.hm = true → aligned4 s.me.epc = true →
        ∃ t : State, exec (.tret sw) s = .next t ∧ t.me.pc = s.me.epc ∧ t.me.hm = false ∧ t.me.strict = s.me.est.getLsbD 0
          ∧ t.me.cwp = s.me.est.extractLsb' 4 3 ∧ t.me.rdep = s.me.est.extractLsb' 8 3 ∧ t.me.stack = s.me.stack
          ∧ t.me.est = s.me.est ∧ t.me.tvec = s.me.tvec ∧ t.mem = s.mem))

/-- R158, R159, R420: `mfs`. That a register which the device computes keeps what a debugger's rewrite added to it is the model's choice
(log 73), and so is `cycle` as the sum of `sissue` and `sidle` (log 8).

R158–R161, R420: `mts`.

R162: `istat`; that selector 0 counts the `istat` itself is the model's choice (log 12). -/
def Obligations.StateRegisters : Prop :=
  (∀ (sw : Bool) (d : Reg) (n : BitVec 15) (s : State), Takes.plain.follows s.me = true → s.me.canWrite d = true →
      (0x100 ≤ n.toNat → s.me.sysm = false →
        exec (.mfs sw d n) s = .next (trapWord { cause := .priv, tinfo := BitVec.ofNat 64 (1 + 2 ^ 16 * n.toNat), taddr := 0 } s s))
      ∧ ((n.toNat < 0x100 ∨ s.me.sysm = true) →
        (∀ x, (n.toNat, x) ∈ stateRegisters s → completes (.mfs sw d n) sw .plain s { s with me := s.me.put d x })
        ∧ (n.toNat = 0x014 → completes (.mfs sw d n) sw .plain s
            { s with me := s.me.put d (FMap.get capcause0 s.pkg.capcause (s.me.core / 80) + FMap.get 0 s.me.bias 0x014) })
        ∧ (n.toNat = 0x102 → ∃ x : Word, completes (.mfs sw d n) sw .plain s { s with me := s.me.put d (x + FMap.get 0 s.me.bias 0x102) }
            ∧ (∀ i, i < 10 → x.getLsbD i = (s.strandAt s.me.core i).isSome)
            ∧ ((s.all.filter fun t => decide (t.place = .pending s.me.core)).length ≤ 64 →
              x.extractLsb' 10 6 = 0
              ∧ (x.extractLsb' 16 8).toNat = (s.all.filter fun t => decide (t.place = .pending s.me.core)).length
              ∧ (∀ b, b < 4 → x.getLsbD (24 + b) = decide ((s.bankOf s.me.core b).cond = .free))
              ∧ (x.extractLsb' 28 4) = 0
              ∧ (x.extractLsb' 32 32).toNat = Min.min 8 (s.coreOf s.me.core).urgent.length))
        ∧ (n.toNat ≠ 0x14 → n.toNat ≠ 0x102 → (∀ x, (n.toNat, x) ∉ stateRegisters s) →
            (s.me.hm = false ∨ n.toNat < 0x40 ∨ 0x4F < n.toNat) →
            completes (.mfs sw d n) sw .plain s { s with me := s.me.put d 0 })
        ∧ (s.me.hm = true → 0x40 ≤ n.toNat → n.toNat ≤ 0x4F →
            lastG (frameEntry s.me n.toNat) s.me.outstanding = none → s.me.parity.contains (frameEntry s.me n.toNat) = false →
            completes (.mfs sw d n) sw .plain s { s with me := s.me.put d (FMap.get 0 s.me.stack (frameEntry s.me n.toNat)) })))
  ∧ (∀ (sw : Bool) (a : Reg) (n : BitVec 15) (s : State), Takes.plain.follows s.me = true → s.me.canRead a = true →
      ((n.toNat ∈ readOnlyState ∨ (0x100 ≤ n.toNat ∧ s.me.sysm = false)) →
        exec (.mts sw a n) s =
          .next (trapWord { cause := .priv, tinfo := BitVec.ofNat 64 (1 + 2 ^ 16 * n.toNat + 2 ^ 31), taddr := 0 } s s))
      ∧ ((n.toNat < 0x100 ∨ s.me.sysm = true) → ∀ f, (n.toNat, f) ∈ stateWrites (s.me.g a) → completes (.mts sw a n) sw .plain s { s with me := f s.me })
      ∧ (n.toNat = 0x007 → ∃ t : Word, completes (.mts sw a n) sw .plain s { s with me := { s.me with est := t } }
          ∧ t.getLsbD 0 = (s.me.g a).getLsbD 0
          ∧ t.extractLsb' 8 3 = (if ((s.me.g a).extractLsb' 8 3).toNat ≤ 5 then (s.me.g a).extractLsb' 8 3 else s.me.est.extractLsb' 8 3)
          ∧ t &&& ~~~0x701#64 = s.me.est &&& ~~~0x701#64)
      ∧ (s.me.hm = true → 0x40 ≤ n.toNat → n.toNat ≤ 0x4F → lastG (frameEntry s.me n.toNat) s.me.outstanding = none →
          completes (.mts sw a n) sw .plain s
            { s with me := { s.me with
                stack := FMap.set 0 s.me.stack (frameEntry s.me n.toNat) (s.me.g a)
                parity := s.me.parity.filter (· ≠ frameEntry s.me n.toNat) } })
      ∧ (n.toNat ∉ readOnlyState → n.toNat ≠ 7 → (n.toNat < 0x100 ∨ s.me.sysm = true) → (∀ f, (n.toNat, f) ∉ stateWrites (s.me.g a)) →
          (s.me.hm = false ∨ n.toNat < 0x40 ∨ 0x4F < n.toNat) → completes (.mts sw a n) sw .plain s s))
  ∧ (∀ (sw : Bool) (d : Reg) (p : BitVec 15) (s : State), Takes.plain.follows s.me = true → s.me.canWrite d = true →
      completes (.istat sw d p) sw .plain s { s with me := s.me.put d (BitVec.ofNat 64 (match p.toNat with
        | 0 => s.me.issued + 1
        | 1 => s.me.parkedCycles
        | 2 => s.me.outstanding.length
        | 3 => ((List.range 16).map fun k => if (FMap.get none s.me.tokens k).isSome then 2 ^ k else 0).sum
        | _ => 0)) })

/-! ## Names, order and shapes -/

/-- R24, R28, R40: `nnew` issues the next counter value with a LIVE entry of one reference, or says why it does not.

R31, R41, R42: what the three lookups return of a name that stands, and of one that cannot. -/
def Obligations.NamesMadeAndRead : Prop :=
  (∀ (sw : Bool) (d a b c : Reg) (s : State), s.me.atHand .plain [a, b] [d, d + 1, c] = true →
      let cls := (s.me.g a).setWidth 8
      let good : Prop := (s.me.g a).toNat < 256 ∧ issuable cls = true ∧ cls ≠ 1 ∧ cls ≠ 6
      let placed : Prop := (s.me.g b).toNat % 64 = 0 ∧ (s.me.g b).toNat < 2 ^ 57
      (¬ good → completes (.nnew sw d a b c) sw .plain s (s.returns [(d, 0), (d + 1, 0), (c, 7)] .none none))
      ∧ (good → ¬ placed → completes (.nnew sw d a b c) sw .plain s (s.returns [(d, 0), (d + 1, 0), (c, 8)] .none none))
      ∧ (good → placed → s.hub.issueCounter ≠ 2 ^ 64 - 1 → s.hub.issueCounter < 2 ^ 64 →
          (s.hub.names.filter fun x => homeDie x.1 == homeDie s.hub.issueCounter).length < 98304 →
          ∃ t : State, completes (.nnew sw d a b c) sw .plain s
              (t.returns [(d, BitVec.ofNat 64 s.hub.issueCounter),
                (d + 1, BitVec.ofNat 64 (cls.toNat * 2 ^ 56 + s.hub.chip % 2 ^ 16 * 2 ^ 40 + s.hub.serial.toNat)), (c, 0)] .none none)
            ∧ t.hub.issueCounter = s.hub.issueCounter + 1 ∧ t.hub.watermark = s.hub.issueCounter + 1
            ∧ t.nameEntry s.hub.issueCounter =
                { NameEntry.none with cls := cls, part := s.me.part, addr := s.me.g b, state := .live, refcount := 1 }
            ∧ (∀ k, k ≠ s.hub.issueCounter → t.nameEntry k = s.nameEntry k) ∧ t.me = s.me ∧ t.mem = s.mem))
  ∧ (∀ (sw : Bool) (d a c : Reg) (s : State), s.me.atHand .plain [a, a + 1] [d, c] = true →
      let n := s.me.pair a
      let k := nameCounter n
      let e := s.nameEntry k
      let status (st : Word) : Prop :=
        completes (.nresV sw d a c) sw .plain s (s.returns [(d, 0), (c, st)] .none none)
        ∧ completes (.nstat sw d a c) sw .plain s (s.returns [(d, 0), (c, st)] .none none)
        ∧ ((s.coreOf s.me.core).names.find? (fun x => x.1 == n) = none →
            completes (.nres sw d a c) sw .plain s (s.returns [(d, 0), (c, st)] .none none))
      let info := BitVec.ofNat 64 (e.refcount % 2 ^ 16 + 2 ^ 16 * e.cls.toNat + 2 ^ 24 * (e.part % 16) + 2 ^ 28 * e.sdone.toNat)
      (s.standing n .live →
        completes (.nresV sw d a c) sw .plain s (s.returns [(d, e.version), (c, 0)] .none (some k))
        ∧ completes (.nstat sw d a c) sw .plain s (s.returns [(d, info), (c, 0)] .none (some k))
        ∧ ((s.coreOf s.me.core).names.find? (fun x => x.1 == n) = none →
            ∃ t : State, completes (.nres sw d a c) sw .plain s (t.returns [(d, e.addr), (c, 0)] .none (some k))
              ∧ t.me = s.me ∧ t.mem = s.mem ∧ t.hub = s.hub ∧ (n, e.addr) ∈ (t.coreOf s.me.core).names
              ∧ (t.coreOf s.me.core).names.length ≤ Max.max 16 (s.coreOf s.me.core).names.length))
      ∧ (s.standing n .dying →
        completes (.nresV sw d a c) sw .plain s (s.returns [(d, e.version), (c, 1)] .none (some k))
        ∧ completes (.nstat sw d a c) sw .plain s (s.returns [(d, info), (c, 1)] .none (some k))
        ∧ ((s.coreOf s.me.core).names.find? (fun x => x.1 == n) = none →
            completes (.nres sw d a c) sw .plain s (s.returns [(d, 0), (c, 1)] .none (some k))))
      ∧ (n = 0 → status 5)
      ∧ (n ≠ 0 → issuable (nameClass n) = false → status 3)
      ∧ (n ≠ 0 → issuable (nameClass n) = true → nameChip n ≤ 383 → nameChip n ≠ s.hub.chip →
          (s.partOf s.me.part).reach.contains (nameChip n) = false → status 4)
      ∧ (s.ownName n → e.state = .free → (k < s.hub.watermark → status 2) ∧ (s.hub.watermark ≤ k → status 3)))

/-- R35, R43, R44: `nkill`, `nref` and `nrel` on a LIVE name, on one that is DYING, and on one whose entry is gone or was never issued. A name
of class OP or LAUNCH is no name for `nkill`; one of class QUEUE closes its queue (R74).

R45, R46: `ncas` of a name that is LIVE, or of the null name, swaps 16 bytes if they hold the expected name. -/
def Obligations.NamesChanged : Prop :=
  (∀ (sw : Bool) (a c : Reg) (s : State), s.me.atHand .plain [a, a + 1] [c] = true → s.standing (s.me.pair a) .live →
      let k := nameCounter (s.me.pair a)
      let e := s.nameEntry k
      let changed (i : Instr) (st : Word) (w : ResultWait) (of : Option Nat) (e' : NameEntry) : Prop :=
        ∃ t : State, completes i sw .plain s (t.returns [(c, st)] w of) ∧ t.nameEntry k = e' ∧ (∀ j, j ≠ k → t.nameEntry j = s.nameEntry j)
          ∧ t.me = s.me ∧ t.mem = s.mem
      (e.cls ≠ 1 → e.cls ≠ 6 → e.cls ≠ 2 →
        changed (.nkill sw a c) 0 (.shootdown k) none { e with state := .dying, sdone := false, acks := s.partCores e.part, dropRef := false })
      ∧ ((e.cls = 1 ∨ e.cls = 6) → completes (.nkill sw a c) sw .plain s (s.returns [(c, 7)] .none (some k)))
      ∧ (e.refcount < 65535 → changed (.nref sw a c) 0 .none (some k) { e with refcount := e.refcount + 1 })
      ∧ (65535 ≤ e.refcount → completes (.nref sw a c) sw .plain s (s.returns [(c, 9)] .none (some k)))
      ∧ (e.refcount ≠ 0 → changed (.nrel sw a c) 0 .none (some k) { e with refcount := e.refcount - 1 })
      ∧ (e.refcount = 0 → completes (.nrel sw a c) sw .plain s (s.returns [(c, 10)] .none (some k)))
      ∧ (e.cls = 2 → ∃ t : State, completes (.nkill sw a c) sw .plain s (t.returns [(c, 0)] (.shootdown k) none)
          ∧ (t.nameEntry k).state = .dying ∧ ((s.queueOf k).state ≠ .none → (t.queueOf k).state = .closed) ∧ t.me.stack = s.me.stack))
  ∧ (∀ (sw : Bool) (a c : Reg) (s : State), s.me.atHand .plain [a, a + 1] [c] = true → s.standing (s.me.pair a) .dying →
      let k := nameCounter (s.me.pair a)
      let e := s.nameEntry k
      (e.cls ≠ 1 → e.cls ≠ 6 → completes (.nkill sw a c) sw .plain s (s.returns [(c, 1)] (.shootdown k) none))
      ∧ ((e.cls = 1 ∨ e.cls = 6) → completes (.nkill sw a c) sw .plain s (s.returns [(c, 7)] .none (some k)))
      ∧ completes (.nref sw a c) sw .plain s (s.returns [(c, 1)] .none (some k))
      ∧ (e.refcount = 0 → completes (.nrel sw a c) sw .plain s (s.returns [(c, 10)] .none (some k)))
      ∧ (e.refcount ≠ 0 → ∃ t : State, completes (.nrel sw a c) sw .plain s (t.returns [(c, 1)] .none (some k))
          ∧ t.nameEntry k = (if e.refcount = 1 ∧ e.sdone = true then NameEntry.none else { e with refcount := e.refcount - 1 })
          ∧ (∀ j, j ≠ k → t.nameEntry j = s.nameEntry j) ∧ t.me = s.me ∧ t.mem = s.mem))
  ∧ (∀ (sw : Bool) (a c : Reg) (s : State), s.me.atHand .plain [a, a + 1] [c] = true → s.ownName (s.me.pair a) →
      (s.nameEntry (nameCounter (s.me.pair a))).state = .free →
      let st : Word := if nameCounter (s.me.pair a) < s.hub.watermark then 2 else 3
      completes (.nkill sw a c) sw .plain s (s.returns [(c, st)] .none none)
      ∧ completes (.nref sw a c) sw .plain s (s.returns [(c, st)] .none none)
      ∧ completes (.nrel sw a c) sw .plain s (s.returns [(c, st)] .none none))
  ∧ (∀ (sw : Bool) (d a b c : Reg) (o p : BitVec 3) (s s' : State) (l : Leaf),
      s.me.atHand .plain [a, b, b + 1, c, c + 1] [d] = true → (s.me.g a).toNat % 16 = 0 →
      Open s .atomic .atomic (s.me.g a).toNat 16 (.cas ((s.me.g a).toNat % 64) 16 (s.me.pair b) (s.me.pair c)) l s' →
      uncorrOf s' (s'.unitAt .atomic .atomic (s.me.g a).toNat 16 .look l) = none →
      (l.pa.space = .hbm ∨ (∃ k, l.pa.space = .ls k) ∨ ∃ k, l.pa.space = .pool k) →
      (s.me.pair c = 0 ∨ s'.standing (s.me.pair c) .live) →
        let old := s'.numberAt l (s.me.g a).toNat 16
        let hit := decide (old = (s.me.pair b).toNat)
        ∃ t : State, completes (.ncas sw d a b c o p) sw .plain s (t.returns [(d, if hit then 0 else 11)] (acquireOf o.toNat p.toNat)
              (if s.me.pair c = 0 then none else some (nameCounter (s.me.pair c))))
          ∧ onlyStored s' t ∧ storedAt s' t l (s.me.g a).toNat 16 (if hit then (s.me.pair c).toNat else old))

/-- R348, R352, R358, R359, R69: words that wait for nothing in a model that performs every access whole, in order: that `fence`, `acq` and
`rel` complete at once is the model's choice (log 7), and so is what `tsync` waits for (log 49).

R352: a release to an object adds 1 to it and an acquire reads it, each as one access. -/
def Obligations.OrderingWords : Prop :=
  (∀ (sw : Bool) (c : BitVec 3) (k : BitVec 4) (r q : Reg) (b : Bool) (s : State), Takes.plain.follows s.me = true →
      completes (.fence sw c k) sw .plain s (s.afresh (decide (c ≠ 0) && (k.getLsbD 0 || k.getLsbD 2)))
      ∧ (s.me.canRead r = true → s.me.g r = 0 → completes (.acq sw r c) sw .plain s (s.afresh (decide (c ≠ 0))))
      ∧ (s.me.canRead r = true → s.me.g r = 0 → s.me.launch = none → completes (.rel sw r c) sw .plain s s.acquires)
      ∧ (s.me.canRead r = true → s.me.g r = 0 → s.me.launch ≠ none →
          ∃ t : State, completes (.rel sw r c) sw .plain s t ∧ t.me = s.me.acquired ∧ t.mem = s.mem ∧ t.eng = s.eng)
      ∧ (∃ t : State, completes (.trig sw) sw .plain s t ∧ t.me = { s.me with triggered := s.me.triggered || s.me.counted }
          ∧ (∀ l, s.me.launch = some l → s.me.counted = true → s.me.triggered = false →
              (t.launchOf l).untriggered = (s.launchOf l).untriggered - 1)
          ∧ ((s.me.counted = false ∨ s.me.triggered = true) → t.hub = s.hub) ∧ t.mem = s.mem)
      ∧ (s.me.atHand .plain [r, q] [] = true →
          completes (.tsync sw r q) sw .plain s
            (s.returns [] (.text (s.me.g r).toNat (Min.min (2 ^ 57) ((s.me.g r).toNat + (s.me.g q).toNat))) none))
      ∧ ∃ t : State, completes (.shrel sw b) sw .plain s t ∧ t.me = (if b then { s.me with sh1 := none } else { s.me with sh0 := none })
          ∧ t.mem = s.mem ∧ t.eng = s.eng)
  ∧ (∀ (sw : Bool) (r : Reg) (c : BitVec 3) (s s' : State) (l : Leaf), Takes.plain.follows s.me = true → s.me.canRead r = true →
      (s.me.g r).toNat % 8 = 0 → s.me.g r ≠ 0 →
      (Open s .atomic .atomic (s.me.g r).toNat 8 (.amo ((s.me.g r).toNat % 64) 0 1) l s' →
        ∃ t : State, completes (.rel sw r c) sw .plain s t ∧ onlyStored s' t
          ∧ storedAt s' t l (s.me.g r).toNat 8 ((s'.numberAt l (s.me.g r).toNat 8 + 1) % 2 ^ 64))
      ∧ (Open s .atomic .atomic (s.me.g r).toNat 8 .read l s' → uncorrOf s' (s'.unitAt .atomic .load (s.me.g r).toNat 8 .read l) = none →
        lookupUnit s'.mem (s'.unitAt .atomic .load (s.me.g r).toNat 8 .read l) = .pass [] →
        ∃ t : State, completes (.acq sw r c) sw .plain s (t.afresh (decide (c ≠ 0))) ∧ onlyStored s' t ∧ t.mem.bytes = s'.mem.bytes))

/-- R353: `wwait` at a doubleword that differs from the value it names returns 0; at one that equals it, in a memory with a waiter
list that has room, the strand registers and parks.

R356, R357: a counted strand arrives in the open phase of a slot its launch has, once; it waits there until that phase is
complete. -/
def Obligations.WaitsAndBarriers : Prop :=
  (∀ (sw : Bool) (d a b : Reg) (s s' : State) (l : Leaf), s.me.atHand .plain [a, b] [d] = true → (s.me.g a).toNat % 8 = 0 →
      s.me.urg = false → l.pa.space.tagged = true →
      Open s .vector .load (s.me.g a).toNat 8 (.wwait ((s.me.g a).toNat % 64) (s.me.g b)) l s' →
        (s'.numberAt l (s.me.g a).toNat 8 ≠ (s.me.g b).toNat →
          completes (.wwait sw d a b) sw .plain s (s'.acquires.sends [(d, 0)]))
        ∧ (s'.numberAt l (s.me.g a).toNat 8 = (s.me.g b).toNat →
          (s'.mem.waiters.filter fun w => w.pa.space = l.pa.space).length < 64 →
          ∃ t : State, exec (.wwait sw d a b) s = .next t ∧ t.me.wait = .wwait
            ∧ t.mem.waiters = s'.mem.waiters ++
                [{ core := s'.me.core, slot := s'.me.slot, pa := l.pa, gb := s.me.g b }]
            ∧ t.mem.bytes = s'.mem.bytes))
  ∧ (∀ (sw : Bool) (lv : BitVec 2) (p : BitVec 5) (k : Nat) (s : State), Takes.plain.follows s.me = true →
      s.me.launch = some k → s.me.counted = true →
      p.toNat < (if lv.toNat = 0 then (s.launchOf k).lrec.nbply else (s.launchOf k).lrec.nbdie) →
        let slot := 32 * lv.toNat + p.toNat
        let open_ := FMap.get 0 (s.launchOf k).phases (phaseKey lv.toNat (s.me.homeAt lv.toNat) p.toNat)
        let last := FMap.get 0 s.me.arrived slot
        (last ≠ open_ + 1 →
          ∃ t : State, completes (.barArr sw lv p) sw .plain s t ∧ FMap.get 0 t.me.arrived slot = open_ + 1
            ∧ (∀ x, x ≠ slot → FMap.get 0 t.me.arrived x = FMap.get 0 s.me.arrived x) ∧ t.me.stack = s.me.acquired.stack ∧ t.mem = s.mem)
        ∧ ((last = 0 ∨ last ≤ open_) → completes (.barWait sw lv p) sw .plain s (s.afresh true))
        ∧ (last ≠ 0 → open_ < last →
          ∃ t : State, exec (.barWait sw lv p) s = .next t ∧ t.me.wait = .barrier lv.toNat p.toNat ∧ t.me.pc = s.me.pc ∧ t.mem = s.mem))

/-- R351: `ebind` adds a page-aligned region, bound to a LIVE sync name and clear of the launch's other regions, to its launch.

R65, R68, R70: `shbind` to a snapshot that stands binds the shape slot to it; `shpub` stores the next version, which the name's
entry then holds; both return what a name that does not stand LIVE is. -/
def Obligations.RegionsAndShapes : Prop :=
  (∀ (sw : Bool) (r n t : Reg) (k : Nat) (s : State), s.me.atHand .plain [r, r + 1, n, n + 1] [t] = true →
      s.me.launch = some k → s.standing (s.me.pair n) .live → nameClass (s.me.pair n) = 4 →
      (s.me.g r).toNat % 4096 = 0 → s.me.g (r + 1) ≠ 0 → (s.me.g (r + 1)).toNat % 4096 = 0 →
      (s.me.g r).toNat + (s.me.g (r + 1)).toNat ≤ 2 ^ 57 → (s.launchOf k).bindings.length < 256 →
        let clear := (s.launchOf k).bindings.all fun b => !b.overlaps (s.me.g r).toNat (s.me.g (r + 1)).toNat
        (clear = false → completes (.ebind sw r n t) sw .plain s (s.returns [(t, 13)] .none (some (nameCounter (s.me.pair n)))))
        ∧ (clear = true → (s.nameEntry (nameCounter (s.me.pair n))).refcount < 65535 →
          ∃ u : State, completes (.ebind sw r n t) sw .plain s (u.returns [(t, 0)] .none (some (nameCounter (s.me.pair n))))
            ∧ (u.launchOf k).bindings = (s.launchOf k).bindings ++
                [{ base := s.me.g r, length := s.me.g (r + 1), name := s.me.pair n }]
            ∧ (u.nameEntry (nameCounter (s.me.pair n))).refcount = (s.nameEntry (nameCounter (s.me.pair n))).refcount + 1
            ∧ u.me = s.me ∧ u.mem = s.mem))
  ∧ (∀ (sw : Bool) (a d : Reg) (b : Bool) (s : State), s.me.atHand .plain [a, a + 1] [d] = true →
      let n := s.me.pair a
      let k := nameCounter n
      (s.standing n .dying →
        completes (.shbind sw a d b) sw .plain s (s.returns [(d, 1)] .none (some k))
        ∧ completes (.shpub sw a d) sw .plain s (s.returns [(d, 1)] .none (some k)))
      ∧ (∀ i, s.standing n .live → nameClass n = 3 → s.findSnap s.me.ctx n (s.nameEntry k).version = some i →
        ∃ t : State, completes (.shbind sw a d b) sw .plain s (t.returns [(d, 0)] .none (some k))
          ∧ t.me = (if b then { s.me.dropAhead with sh1 := some i } else { s.me.dropAhead with sh0 := some i }) ∧ t.mem = s.mem)
      ∧ (∀ (l : Leaf) (s' : State), s.standing n .live → nameClass n = 3 → (s.nameEntry k).addr.toNat % 64 = 0 →
        Open s (.scalar 8) .store ((s.nameEntry k).addr.toNat + 0x20) 8
          (.write (withOffsets (((s.nameEntry k).addr.toNat + 0x20) % 64) (toLE 8 ((s.nameEntry k).version + 1).toNat))) l s' →
        s'.hub = s.hub →
        ∃ t : State, completes (.shpub sw a d) sw .plain s (t.returns [(d, 0)] .none (some k))
          ∧ (t.nameEntry k).version = (s.nameEntry k).version + 1
          ∧ storedAt s' t l ((s.nameEntry k).addr.toNat + 0x20) 8 ((s.nameEntry k).version + 1).toNat))

/-- R157: `done` ends the strand (what then enters its core's list is a group that waited for the slot, R400), and `yield` has it saved to go on at its next word, once no result is outstanding.

R155: `spawn` makes a sibling slice on the same core. -/
def Obligations.StrandEndsAndSiblings : Prop :=
  (∀ (sw : Bool) (core slot : Nat) (s : State), Takes.plain.follows s.me = true → s.me.place = .slot core slot →
      s.me.outstanding = [] →
      (∃ t : State, exec (.done sw) s = .next t ∧ (∀ u ∈ t.all, u.isLive = true → u.uid ≠ s.me.uid ∨ (s.ages < u.uid ∧ u.place = .pending core))
        ∧ ∀ u ∈ s.strands, u.uid ≠ s.me.uid → ∃ v ∈ t.strands, v.uid = u.uid)
      ∧ ((s.me.hm = true ∨ s.me.urg = true) →
        exec (.yield sw) s = .next (trapWord { cause := .priv, tinfo := 2, taddr := 0 } s s))
      ∧ (s.me.hm = false → s.me.urg = false →
        ∃ t : State, exec (.yield sw) s = .next t ∧ t.me.wait = .draining ∧ t.me.pc = s.me.pc + 4 ∧ t.me.mskcnt = 0 ∧ t.me.fresh = true
          ∧ t.me.place = s.me.place ∧ t.me.stack = s.me.stack ∧ t.me.uid = s.me.uid))
  ∧ (∀ (sw : Bool) (e a : Reg) (s : State), Takes.plain.follows s.me = true →
      ([e, a, a + 1, a + 2, a + 3] : List Reg).all s.me.canRead = true →
      (s.me.hm = true → exec (.spawn sw e a) s = .next (trapWord { cause := .priv, tinfo := 2, taddr := 0 } s s))
      ∧ (s.me.hm = false → aligned4 (s.me.g e) = false →
        exec (.spawn sw e a) s = .next (trapWord { cause := .align, tinfo := 0x600, taddr := s.me.g e } s s))
      ∧ (s.me.hm = false → aligned4 (s.me.g e) = true → s.pendingRoom s.me.core 1 = true →
        ∃ t n, exec (.spawn sw e a) s = .next t ∧ n ∈ t.strands ∧ n.place = .pending s.me.core ∧ n.pc = s.me.g e
          ∧ (∀ i < 4, FMap.get 0 n.stack i = s.me.g (a + BitVec.ofNat 4 i)) ∧ (∀ i, 4 ≤ i → FMap.get 0 n.stack i = 0)
          ∧ n.strict = s.me.strict ∧ n.hm = false ∧ n.cwp = 0 ∧ n.rdep = 0 ∧ n.stk = 0 ∧ n.tvec = s.me.tvec
          ∧ n.tdeleg = s.me.tdeleg ∧ n.rmode = s.me.rmode ∧ n.wtmo = s.me.wtmo ∧ n.lvl = s.me.lvl ∧ n.ext = s.me.ext
          ∧ n.sh0 = s.me.sh0 ∧ n.sh1 = s.me.sh1 ∧ n.tokens = [] ∧ n.vlive = 0 ∧ n.launch = s.me.launch
          ∧ n.deadline = (if s.me.urg then BitVec.allOnes 64 else s.me.deadline)
          ∧ t.me.stack = s.me.stack ∧ t.me.pc = s.me.pc + 4 ∧ t.mem = s.mem))

/-- R154, R176: `hop` from handler mode, from an urgent slot or with a bank is denied; otherwise the strand sets out for the core that
the address names, with its window in half-frames 0 and 1; its index and extent registers are computed anew.

R156: `amsg` and `amsg.urg` send a message to the core that owns an address. -/
def Obligations.HopsAndMessages : Prop :=
  (∀ (sw : Bool) (r : Reg) (s : State), Takes.plain.follows s.me = true → s.me.canRead r = true →
      ((s.me.hm = true ∨ s.me.urg = true) →
        exec (.hop sw r) s = .next (trapWord { cause := .hopdeny, tinfo := 3, taddr := 0 } s s))
      ∧ (s.me.hm = false → s.me.urg = false → s.heldBanks s.me.core s.me.slot ≠ 0 →
        exec (.hop sw r) s = .next (trapWord { cause := .hopdeny, tinfo := 1, taddr := 0 } s s))
      ∧ (∀ (dest : Nat) (s1 s2 : State), s.me.hm = false → s.me.urg = false → s.heldBanks s.me.core s.me.slot = 0 →
        hopTarget (s.me.g r) s = .ok dest s1 → s1.me.outstanding = [] → (∀ e ∈ s1.me.hopReads, e ∉ s1.me.parity) →
        saveFrames s1 = .ok () s2 →
        ∃ t : State, exec (.hop sw r) s = .next t ∧ t.me.place = .transit dest ∧ t.me.pc = s2.me.pc + 4 ∧ t.me.cwp = 0 ∧ t.me.rdep = 0
          ∧ t.me.stk = s2.me.stk - BitVec.ofNat 64 (64 * s2.me.rdep.toNat) ∧ (∀ q, t.me.g q = s2.me.g q)
          ∧ t.me.tokens = s2.me.tokens ∧ t.me.vlive = 0 ∧ t.me.mskcnt = 0 ∧ t.me.tvec = s2.me.tvec ∧ t.me.tdeleg = s2.me.tdeleg
          ∧ t.me.rmode = s2.me.rmode ∧ t.me.wtmo = s2.me.wtmo ∧ t.me.sh0 = s2.me.sh0 ∧ t.me.sh1 = s2.me.sh1
          ∧ (t.me.lvl, t.me.ext) = s2.levelsOf s2.me ∧ t.me.bias = []))
  ∧ (∀ (sw : Bool) (d h p : Reg) (core : Nat) (l : Leaf) (s s' : State), Takes.plain.follows s.me = true →
      ([d, h, p, p + 1, p + 2, p + 3] : List Reg).all s.me.canRead = true →
      (aligned4 (s.me.g h) = false →
        exec (.amsg sw d h p) s = .next (trapWord { cause := .align, tinfo := 0x600, taddr := s.me.g h } s s)
        ∧ exec (.amsgUrg sw d h p) s = .next (trapWord { cause := .align, tinfo := 0x600, taddr := s.me.g h } s s))
      ∧ (aligned4 (s.me.g h) = true →
        translate { ctx := s.me.ctx, sysm := s.me.sysm, kind := .scalar 1, rd := true, wr := false } (s.me.g d).toNat s = .ok (.ok l) s' →
        s'.msgOwner s'.me.ctx (s.me.g d).toNat l.pa = .core core →
        let sent (i : Instr) (urgent : Bool) : Prop :=
          ∃ t m, completes i sw .plain s t ∧ t.eng.messages = s'.eng.messages ++ [m] ∧ m.dest = core ∧ m.urgent = urgent
            ∧ m.pc = s.me.g h
            ∧ m.regs = [s.me.g p, s.me.g (p + 1), s.me.g (p + 2), s.me.g (p + 3), s.me.g d, (s'.vcoreWord s'.me.ctx s'.me.core).setWidth 64]
            ∧ m.launch = s'.me.launch ∧ t.me = s'.me ∧ t.mem = s'.mem
        sent (.amsg sw d h p) false ∧ sent (.amsgUrg sw d h p) true))

/-! ## Vector words -/

/-- R213, R216–R224, with the mask of R118, the control of R204 and the flags of R161. -/
def Obligations.VectorWords : Prop :=
  ∀ (i : Instr) (f : VectorForm) (s : State), vectorTable i = some f → i.wellFormed = true → f.ready s.me = true →
    completes i f.sw .plain s (f.effect s)

/-- R218, R224: the vector words with a result in a general register.

R65, R233, R234: the words that need a shape, with one and without. That `vlnorm.fin` has a free result where var + epsilon is
negative is the model's choice, and no case below rests on it. -/
def Obligations.VectorToScalar : Prop :=
  (∀ (i : Instr) (f : ScalarForm) (vs : List Reg) (s : State), toScalarTable i = some (f, vs) → i.wellFormed = true →
      f.ready s.me = true → vs.all s.me.canReadV = true → completes i f.sw f.takes s (f.effect s))
  ∧ (∀ (sw : Bool) (d a b : Reg) (mk : Mask) (c q : Bool) (s : State), Takes.plain.follows s.me = true →
      ([b] ++ maskRegs mk).all s.me.canRead = true → s.me.canReadV a = true → s.me.canReadV d = true → s.me.outstanding.length < 8 →
      (s.me.shape q = none →
        let t : TrapInfo := { cause := .segx, tinfo := 1, taddr := 0 }
        exec (.vsmaxSeg sw d a b mk c q) s = .next (trapWord t s s) ∧ exec (.vlnormAcc sw d a b mk q) s = .next (trapWord t s s)
        ∧ exec (.vlnormFin sw d a b mk q) s = .next (trapWord t s s))
      ∧ (∀ k, s.me.shape q = some k →
        let sh := s.snapOf k
        let used := s.usesShape k
        let row := (s.me.g b).toNat
        let xs := (s.me.under mk a 64).map laneVal
        let s1 := laneVal (s.me.lane d 1)
        let s2 := laneVal (s.me.lane d 2)
        let eps := laneVal (s.me.lane d 3)
        let n := (s.me.lane d 0).toNat
        let inc := softmaxIn sh c ((s.me.g b).toNat % 2 ^ 32) ((s.me.g b).toNat / 2 ^ 32) (s.me.enabled mk)
        let vals := inc.map fun i => laneVal (s.me.lane a i)
        let smax (f : Nat → Lane) (fl : Flags) : Prop :=
          completes (.vsmaxSeg sw d a b mk c q) sw .plain s
            { used.sendsV d (s.me.merged d mk f) with me := { (used.sendsV d (s.me.merged d mk f)).me with sflags := s.me.sflags ||| fl } }
        (vals.all (fun v => decide (v = .inf true)) = true → smax (fun _ => 0) 0)
        ∧ (vals.any (fun v => v.isNaN || decide (v = .inf false)) = true →
            smax (fun i => if inc.contains i then nan32 else 0) (if vals.any Val.isSig then 0x010#9 else 0))
        ∧ (vals.all (fun v => decide (v = .inf true)) = false → vals.any (fun v => v.isNaN || decide (v = .inf false)) = false →
            ∃ top ∈ vals, (∀ v ∈ vals, valLess top v = false)
              ∧ let e (i : Nat) : Val := laneVal (expF (roundNE32 (addVal (laneVal (s.me.lane a i)) top.negate false)))
                let total := (sumVals (inc.map e)).frac
                smax (fun i => if inc.contains i then ratNE false ((e i).frac.1 * total.2) ((e i).frac.2 * total.1) else 0) 0)
        ∧ ((sh.segment row).isNone = true →
            completes (.vlnormAcc sw d a b mk q) sw .plain s (used.sendsV d (s.me.v d))
            ∧ completes (.vlnormFin sw d a b mk q) sw .plain s (used.sendsV d (List.replicate 64 0)))
        ∧ (n = 0 → completes (.vlnormFin sw d a b mk q) sw .plain s (used.sendsV d (List.replicate 64 0)))
        ∧ ((sh.segment row).isSome = true → ∃ fl : Flags,
            let r := (List.range 64).map fun i =>
              match i with
              | 0 => s.me.lane d 0 + BitVec.ofNat 32 xs.length
              | 1 => roundNE32 (addVal s1 (sumVals xs) false)
              | 2 => roundNE32 (addVal s2 (sumVals (xs.map fun v => mulVal v v)) false)
              | i => s.me.lane d i
            completes (.vlnormAcc sw d a b mk q) sw .plain s
              { used.sendsV d r with me := { (used.sendsV d r).me with sflags := s.me.sflags ||| fl } }
            ∧ (fl = 0 ∨ fl = 0x010#9))
        ∧ ((sh.segment row).isSome = true → n ≠ 0 → s1.isFin = true → s2.isFin = true → eps.isFin = true →
            0 < (varPlus n s1 s2 eps).1 →
            let r : List Lane := ratNE s1.neg? s1.frac.1 (s1.frac.2 * n)
              :: rsqrtNE (varPlus n s1 s2 eps).1.toNat (varPlus n s1 s2 eps).2 :: List.replicate 62 0
            completes (.vlnormFin sw d a b mk q) sw .plain s { used.sendsV d r with free := s.free + 1 })))

/-- R226, R227: the plain vector loads and stores, from what their units read. -/
def Obligations.VectorAccesses : Prop :=
  ∀ (i : Instr) (f : ElementForm) (rs : List UnitRes) (s s' : State), elementTable i = some f → i.wellFormed = true →
    f.ready s.me = true →
    (f.store = false → strandAccess .vector .load 0 (f.pieces s.me) s = .ok rs s' →
      completes i f.sw .plain s
        (s'.sendsV f.reg (s.me.merged f.reg f.mask fun k => elementLane ((f.pieces s.me).zip rs) (f.addr s.me k) f.size f.signed)))
    ∧ (f.store = true → strandAccess .vector .store 3 (f.pieces s.me) s = .ok rs s' → completes i f.sw .plain s s')

/-- R226: units in whose way nothing stands are read in order, each whole, and nothing changes but the strand's record of them. The
results of the strand's acquires have returned before (R343).

R226, R245: the frame of an access: where no filter redirects and no unit is parked, the only bytes that a strand's units change are
those that they store. -/
def Obligations.AccessUnits : Prop :=
  (∀ (xk : XKind) (acc : Acc) (k : BitVec 8) (ps : List (Piece × Leaf)) (s : State), s.me.unitPos = s.me.unitLog.length →
      (∀ x ∈ ps, s.openUnit xk acc x) →
      ((∀ x ∈ ps, x.1.act = .read) →
        let rs := ps.map fun x =>
          { bytes := x.1.offs.map fun o => FMap.get Mem.byte0 s.mem.bytes (64 * x.2.pa.block + o), desc := Mem.desc0, flags := 0 : UnitRes }
        let me := if ps = [] then s.me else s.me.acquired
        performPieces xk acc k ps s = .ok rs
          { s with me := { me with unitLog := s.me.unitLog ++ rs, unitPos := s.me.unitPos + ps.length } }))
  ∧ (∀ (xk : XKind) (acc : Acc) (k : BitVec 8) (ps : List (Piece × Leaf)) (rs : List UnitRes) (s s' : State),
      s.mem.redirects = [] → s.mem.parked = [] → (∀ x ∈ ps, bitsOf x.2.entry 9 1 = 0) →
      performPieces xk acc k ps s = .ok rs s' →
        (∀ a, FMap.get Mem.byte0 s'.mem.bytes a ≠ FMap.get Mem.byte0 s.mem.bytes a →
          ∃ x ∈ ps, 64 * x.2.pa.block ≤ a ∧
            match x.1.act with
            | .write d => a - 64 * x.2.pa.block ∈ d.map (·.1)
            | .writeBlock d _ => a - 64 * x.2.pa.block < d.length
            | .amo o u _ => o ≤ a - 64 * x.2.pa.block ∧ a - 64 * x.2.pa.block < o + amoSize u
            | .cas o n _ _ => o ≤ a - 64 * x.2.pa.block ∧ a - 64 * x.2.pa.block < o + n
            | .land d _ _ => a - 64 * x.2.pa.block ∈ d.map (·.1)
            | .reduce _ d _ => ∃ y ∈ d, y.1 ≤ a - 64 * x.2.pa.block ∧ a - 64 * x.2.pa.block < y.1 + 4
            | _ => False)
        ∧ ∃ me ∈ [s.me, s.me.acquired],
            s'.me.stack = me.stack ∧ s'.me.vregs = me.vregs ∧ s'.me.outstanding = me.outstanding)

/-- R229: the described loads: from the first block's descriptor, the further blocks, and what their units read.

R208–R210, R230: `vst.q` quantizes one register, or two for E2M1, into whole described blocks; the draws of stochastic rounding
move `srseed` on. -/
def Obligations.DescribedBlocks : Prop :=
  (∀ (i : Instr) (sub : Nat) (sw : Bool) (d b x : Reg) (o : BitVec 4) (mk : Mask) (s : State),
      describedTable i = some (sub, sw, d, b, x, o, mk) → i.wellFormed = true → Takes.plain.follows s.me = true →
      ([b] ++ indexRegs x ++ maskRegs mk).all s.me.canRead = true → s.me.canSendV d mk = true →
      let ea := (s.me.g b + s.me.index x (if o = 0 then 6 else 0)).toNat
      let lanes := (List.range 64).filter fun i => (s.me.enabled mk).getLsbD i
      let align : TrapInfo := { cause := .align, tinfo := 0, taddr := BitVec.ofNat 64 ea }
      (ea % 64 ≠ 0 → exec i s = .next (trapWord align s s))
      ∧ (ea % 64 = 0 → lanes = [] → completes i sw .plain s (s.sendsV d (s.me.merged d mk fun _ => 0)))
      ∧ (∀ (l : Leaf) (ls : List (Piece × Leaf)) (r : UnitRes) (rs : List UnitRes) (s1 s2 s3 s4 s5 : State),
        ea % 64 = 0 → lanes ≠ [] → translatePieces .vector .load true false [blockPiece ea] s = .ok [(blockPiece ea, l)] s1 →
        let f := (FMap.get Mem.desc0 s1.mem.descs l.pa.block).toNat % 256
        let more := furtherBlocks sub f lanes
        translatePieces .vector .load true false (more.map fun k => blockPiece ((ea + 64 * k) % 2 ^ 64)) s1 = .ok ls s2 →
        watchPieces .load ((blockPiece ea, l) :: ls) s2 = .ok () s3 →
        performPieces .vector .load 0 [(blockPiece ea, l)] s3 = .ok [r] s4 → r.desc.toNat % 256 = f →
        performPieces .vector .load 0 ls s4 = .ok rs s5 →
        let got := ((0 :: more).zip (r :: rs))
        let sent := s5.sendsV d (s.me.merged d mk fun k => (describedLane sub f got k).1)
        completes i sw .plain s
          { sent with me := { sent.me with
              sflags := s.me.sflags ||| unionFlags (s.me.enabled mk) fun k => (describedLane sub f got k).2 } }))
  ∧ (∀ (sw : Bool) (d b x : Reg) (f : BitVec 4) (s : State), (Instr.vstQ sw d b x f).wellFormed = true →
      Takes.plain.follows s.me = true → ([b] ++ indexRegs x).all s.me.canRead = true → s.me.canReadV d = true →
      (f = 6 → s.me.canReadV (d + 1) = true) →
      let ea := (s.me.g b + s.me.index x 6).toNat
      let align : TrapInfo := { cause := .align, tinfo := 512, taddr := BitVec.ofNat 64 ea }
      (ea % 64 ≠ 0 → exec (.vstQ sw d b x f) s = .next (trapWord align s s))
      ∧ (ea % 64 = 0 → ∀ fmt, fmtOfCode f.toNat = some fmt →
        let vals := (s.me.v d ++ if f = 6 then s.me.v (d + 1) else []).map laneVal
        let q := quantize f.toNat fmt s.me.control (vals.length / perBlock f.toNat) vals s.me.srseed
        let s1 := { s with me := { s.me with srseed := q.2.2, sflags := s.me.sflags ||| q.2.1 } }
        ∀ (rs : List UnitRes) (s2 : State),
          strandAccess .vector .store 3 ((List.range q.1.length).map fun k =>
            { va := (ea + 64 * k) % 2 ^ 64, offs := List.range 64
              act := .writeBlock (q.1[k]?.getD ([], 0)).1 (q.1[k]?.getD ([], 0)).2 }) s1 = .ok rs s2 →
          completes (.vstQ sw d b x f) sw .plain s s2))

/-- R65, R231, R232: the ragged words, from what their units read.

R235, R237: the stream words. STREAM subcode 4 naming the word's own generator is the model's reading (log 24). -/
def Obligations.RaggedAndStreams : Prop :=
  (∀ (sw : Bool) (d b p r : Reg) (mk : Mask) (q : Bool) (s : State), Takes.plain.follows s.me = true →
      ([b, p, r] ++ maskRegs mk).all s.me.canRead = true → s.me.canSendV d mk = true →
      let lanes := (List.range 64).filter fun i => (s.me.enabled mk).getLsbD i
      let at_ (row i : Nat) : Nat := ((s.me.g b).toNat + 256 * row + 4 * i) % 2 ^ 64
      let units (row : Nat) : List Piece := elementPieces (lanes.map (at_ row)) 4 fun _ => .read
      (s.me.shape q = none →
        let t : TrapInfo := { cause := .segx, tinfo := 1, taddr := 0 }
        exec (.vldSeg sw d b p r mk q) s = .next (trapWord t s s) ∧ exec (.vsegsum sw d b p mk q) s = .next (trapWord t s s)
        ∧ exec (.vsegmax sw d b p mk q) s = .next (trapWord t s s))
      ∧ (∀ k, s.me.shape q = some k →
        let sh := s.snapOf k
        let used := s.usesShape k
        let row := (s.me.g p).toNat
        let own := sh.segment row
        ((own = none ∨ own ≠ sh.segment (s.me.g r).toNat) →
          (sh.strict = true →
            let t : TrapInfo := { cause := .segx, tinfo := BitVec.ofNat 64 (2 + 2 ^ 32 * (row % 2 ^ 32)), taddr := 0 }
            exec (.vldSeg sw d b p r mk q) s = .next (trapWord t s used))
          ∧ (sh.strict = false → completes (.vldSeg sw d b p r mk q) sw .plain s (used.sendsV d (s.me.merged d mk fun _ => 0))))
        ∧ (own ≠ none → own = sh.segment (s.me.g r).toNat → (∀ i ∈ lanes, at_ row i % 4 = 0) →
          ∀ (rs : List UnitRes) (s' : State), strandAccess .vector .load 0 (units row) used = .ok rs s' →
            completes (.vldSeg sw d b p r mk q) sw .plain s
              (s'.sendsV d (s.me.merged d mk fun i => elementLane ((units row).zip rs) (at_ row i) 4 false)))
        ∧ (let rows := if sh.nseg ≤ row then [] else
              (List.range ((sh.start[row + 1]?).getD 0 - (sh.start[row]?).getD 0)).map ((sh.start[row]?).getD 0 + ·)
          (rows = [] →
            completes (.vsegsum sw d b p mk q) sw .plain s (used.sendsV d (s.me.merged d mk fun _ => 0))
            ∧ (let sent := used.sendsV d (s.me.merged d mk fun _ => 0xFF800000#32)
               completes (.vsegmax sw d b p mk q) sw .plain s { sent with me := { sent.me with sflags := s.me.sflags ||| 0x004#9 } }))
          ∧ ∀ first rest, rows = first :: rest → (∀ x ∈ rows, ∀ i ∈ lanes, at_ x i % 4 = 0) →
            ∀ (rs : List UnitRes) (s' : State), strandAccess .vector .load 0 (rows.flatMap units) used = .ok rs s' →
              let value (i x : Nat) : Lane := elementLane ((rows.flatMap units).zip rs) (at_ x i) 4 false
              let reduced (i : Instr) (k : Comb) : Prop :=
                let f (j : Nat) := combined k .f s.me.control (value j first) (rest.map (value j))
                let sent := s'.sendsV d (s.me.merged d mk fun j => (f j).1)
                completes i sw .plain s { sent with me := { sent.me with sflags := s.me.sflags ||| unionFlags (s.me.enabled mk) fun j => (f j).2 } }
              reduced (.vsegsum sw d b p mk q) .sum ∧ reduced (.vsegmax sw d b p mk q) .max)))
  ∧ (∀ (sw g : Bool) (a c i d : Reg) (n r w f : BitVec 2) (p : BitVec 4) (s : State), Takes.plain.follows s.me = true →
      let priv : TrapInfo := { cause := .priv, tinfo := 2, taddr := 0 }
      let gen : Stream := FMap.get Stream.reset s.me.streams n.toNat
      let becomes (x : Stream) : State := { s with me := { s.me with streams := FMap.set Stream.reset s.me.streams n.toNat x } }
      (s.me.hm = true →
        exec (.sbind sw a c n r w g f) s = .next (trapWord priv s s) ∧ exec (.sunbind sw n) s = .next (trapWord priv s s)
        ∧ exec (.sseek sw i n) s = .next (trapWord priv s s))
      ∧ (s.me.hm = false → ([a, a + 1, c] : List Reg).all s.me.canRead = true →
        let taken := [0, 1, 2, 3].any fun k =>
          decide (k ≠ n.toNat) && (FMap.get Stream.reset s.me.streams k).bound && decide ((FMap.get Stream.reset s.me.streams k).reg = r)
        (taken = true →
          exec (.sbind sw a c n r w g f) s =
            .next (trapWord { cause := .stream, tinfo := BitVec.ofNat 64 (4 + 256 * n.toNat), taddr := 0 } s s))
        ∧ (taken = false → completes (.sbind sw a c n r w g f) sw .plain s (becomes
            { base := s.me.g a, stride := s.me.g (a + 1), n := BitVec.ofNat 32 (s.me.g c).toNat, p := 0, bound := true, binding := gen.binding + 1
              write := decide (f = 1), reg := r, width := w, signed := g, fetched := [], parked := [], stopped := [] })))
      ∧ (s.me.hm = false →
        completes (.sunbind sw n) sw .plain s (becomes { gen with bound := false, binding := gen.binding + 1, fetched := [], parked := [], stopped := [] }))
      ∧ (s.me.hm = false → s.me.canRead i = true →
        completes (.sseek sw i n) sw .plain s
          (becomes { gen with p := BitVec.ofNat 32 (Min.min (s.me.g i).toNat gen.n.toNat), fetched := [], stopped := [] }))
      ∧ (p.toNat ≤ 4 → s.me.canWrite d = true → s.me.outstanding.length < 8 →
        completes (.sstat sw d n p) sw .plain s (s.sends [(d, match p.toNat with
          | 0 => BitVec.ofNat 64 gen.p.toNat
          | 1 => BitVec.ofNat 64 gen.n.toNat
          | 2 => gen.base
          | 3 => gen.stride
          | _ => BitVec.ofNat 64 (gen.bound.toNat + 2 * gen.write.toNat + 4 * gen.reg.toNat + 16 * gen.width.toNat
                  + 64 * gen.signed.toNat))])))

/-- R138, R238, R239: a bound register is popped by a word that reads it and appended to by `vext`, whose store counts as a long result
until it is performed, and the two stream events read ahead and store what is appended. -/
def Obligations.StreamAccesses : Prop :=
  ∀ (sw : Bool) (d r v : Reg) (im : BitVec 15) (l : BitVec 4) (h : BitVec 2) (k : Nat) (s : State), s.me.boundGen r = some k →
    (lastG (entryOf s.me.cwp r) s.me.outstanding).isNone = true →
    let g := FMap.get Stream.reset s.me.streams k
    let n := 2 ^ g.width.toNat
    let va := (g.base + BitVec.ofNat 64 g.p.toNat * g.stride).toNat
    let stream (x : Nat) : TrapInfo := { cause := .stream, tinfo := BitVec.ofNat 64 (x + 256 * k), taddr := 0 }
    (s.me.pfx.xis = [] → Takes.imm.follows s.me = true → s.me.canWrite d = true →
      let pops (x : Word) (m : Strand) (t : State) : Prop :=
        completes (.addi sw d r im) sw .imm s t ∧ (FMap.get Stream.reset t.me.streams k).p = g.p + 1
        ∧ t.me.g d = x + extendTo64 true im.toNat 15 ∧ ∀ q, q ≠ d → t.me.g q = m.g q
      (g.write = true → exec (.addi sw d r im) s = .next (trapWord (stream 3) s s))
      ∧ (g.write = false → g.n.toNat ≤ g.p.toNat → exec (.addi sw d r im) s = .next (trapWord (stream 2) s s))
      ∧ (g.write = false → g.p.toNat < g.n.toNat → g.p.toNat ∉ g.parked → (∀ x ∈ g.stopped, x.1 ≠ g.p.toNat) →
          (∀ x, g.fetched.find? (fun y => y.1 == g.p.toNat) = some x → ∃ t : State, pops x.2 s.me t ∧ t.mem = s.mem)
          ∧ ((∀ y ∈ g.fetched, y.1 ≠ g.p.toNat) → va % n = 0 →
            ∀ (lf : Leaf) (s' : State), Open s (.scalar n) .load va n .read lf s' →
              ∃ t : State, pops (extendBytes n (s'.numberAt lf va n) g.signed) s.me.acquired t ∧ t.mem.bytes = s'.mem.bytes)))
    ∧ (Takes.plain.follows s.me = true → s.me.canReadV v = true → s.me.outstanding.length < 8 →
      let x := (s.me.lane v (l.toNat + 16 * h.toNat)).signExtend 64
      let app : Instr := .vext sw r v l .i h
      (g.write = false → exec app s = .next (trapWord (stream 1) s s))
      ∧ (g.write = true → g.n.toNat ≤ g.p.toNat → exec app s = .next (trapWord (stream 2) s s))
      ∧ (g.write = true → g.p.toNat < g.n.toNat → va % n = 0 →
        ∀ (lf : Leaf) (s' : State),
          translate { ctx := s.me.ctx, sysm := s.me.sysm, kind := .scalar n, rd := false, wr := true } va s = .ok (.ok lf) s' →
          bitsOf lf.entry 8 1 = 0 →
          ∃ t a, completes app sw .plain s t ∧ t.me.appends = some a ∧ a.va = BitVec.ofNat 64 va ∧ a.leaf = lf ∧ a.width = g.width
            ∧ a.value = x ∧ a.sg = k ∧ a.pc = s.me.pc
            ∧ (∃ w, t.me.outstanding = s.me.outstanding ++ [w] ∧ w.id = a.id ∧ w.wait = .append ∧ w.gdests = [] ∧ w.vdests = [])
            ∧ (FMap.get Stream.reset t.me.streams k).p = g.p + 1 ∧ (∀ q, t.me.g q = s.me.g q) ∧ t.mem.bytes = s'.mem.bytes))
    ∧ (∀ (core slot : Nat) (a : Append) (x y : State) (e : Unit), s.strandAt core slot = some y.me → y = s.switchTo core slot →
      y.me.appends = some a → storeAppend a y = .ok e x →
        ∃ t : State, exec (.streamAppendStore core slot) s = .next t ∧ t.mem = x.mem ∧ t.me.appends = none
          ∧ t.me.outstanding = x.me.outstanding.map (fun w => if w.id = a.id then { w with wait := .none } else w)
          ∧ t.me.pc = x.me.pc ∧ t.me.stack = x.me.stack ∧ t.me.sflags = x.me.sflags ∧ t.me.streams = x.me.streams)
    ∧ (∀ (core slot : Nat) (sg : BitVec 2) (e : Nat) (lf : Leaf) (x y : State), s.strandAt core slot = some y.me →
      y = s.switchTo core slot →
      let q := FMap.get Stream.reset y.me.streams sg.toNat
      let z := 2 ^ q.width.toNat
      let a := (q.base + BitVec.ofNat 64 (BitVec.ofNat 32 e).toNat * q.stride).toNat
      let u : AccessUnit := { x.unitAt (.scalar z) .load a z .read lf with who := .prefetch core slot sg.toNat q.binding e, core := core }
      y.me.hm = false → y.me.halted = false → y.me.haltReq = false → y.me.ktrap = false → y.me.wait ≠ .draining → y.me.wait ≠ .restoring →
      (s.ctxOf y.me.ctx).killing = false → (∀ w ∈ y.me.outstanding, w.wait ≠ .acquire) →
      q.bound = true → q.write = false → q.nextAhead = some e → a % z = 0 →
      translate { ctx := y.me.ctx, sysm := y.me.sysm, kind := .scalar z, rd := true, wr := false } a y = .ok (.ok lf) x →
      bitsOf lf.entry 8 1 = 0 → lf.pa.space ≠ .mmio → (x.wakeIsland lf.pa.space).isNone = true →
      uncorrOf x { u with kind := strandKind lf.pa.space core .load } = none →
      lookupUnit x.mem { u with kind := strandKind lf.pa.space core .load } = .pass [] →
        ∃ t : State, exec (.streamPrefetch core slot sg) s = .next t ∧ t.mem.bytes = x.mem.bytes
          ∧ (FMap.get Stream.reset t.me.streams sg.toNat).fetched = q.fetched ++ [(e, extendBytes z (x.numberAt lf a z) q.signed)]
          ∧ (FMap.get Stream.reset t.me.streams sg.toNat).p = q.p)

/-- R259–R263, R382: the tag and table words where nothing stands in their way. That ALIGN of `tst` and `tset` has TINFO 0, as of `tld`, is the
model's reading (log 27). -/
def Obligations.TagWords : Prop :=
  ∀ (sw : Bool) (a b c d : Reg) (tag : BitVec 4) (m p : BitVec 3) (s s' : State) (l : Leaf), Takes.plain.follows s.me = true →
    ([a, b, c] : List Reg).all s.me.canRead = true → s.me.canWrite d = true → s.me.outstanding.length < 8 →
    let ga := s.me.g a
    let w := l.pa.word
    let owns (t : Nat) : Prop := FMap.get none s'.mem.owners (8 * l.pa.space.index + t) = some s.me.ctx
    (ga.toNat % 8 ≠ 0 →
      let align : TrapInfo := { cause := .align, tinfo := 0, taddr := ga }
      exec (.tld sw d a) s = .next (trapWord align s s) ∧ exec (.tst sw a b) s = .next (trapWord align s s)
      ∧ exec (.tstImm sw a tag) s = .next (trapWord align s s) ∧ exec (.tset sw a b c) s = .next (trapWord align s s)
      ∧ exec (.tsetImm sw a b tag) s = .next (trapWord align s s))
    ∧ (ga.toNat % 8 = 0 → OpenTag s .tag false ga l s' →
      completes (.tld sw d a) sw .plain s (s'.acquires.sends [(d, BitVec.ofNat 64 (FMap.get 0 s'.mem.tags w).toNat)]))
    ∧ (ga.toNat % 8 = 0 → OpenTag s .tag true ga l s' →
      let tags (i : Instr) (x : BitVec 4) : Prop :=
        ∃ t : State, completes i sw .plain s t ∧ onlyWord s' t w x ∧ t.mem.bytes = s'.mem.bytes
      let both (i : Instr) (x : BitVec 4) : Prop :=
        ∃ t : State, completes i sw .plain s t ∧ onlyWord s' t w x ∧
          ∀ k, FMap.get Mem.byte0 t.mem.bytes k =
            if 8 * w ≤ k ∧ k < 8 * w + 8 then BitVec.ofNat 8 ((s.me.g b).toNat / 256 ^ (k - 8 * w))
            else FMap.get Mem.byte0 s'.mem.bytes k
      tags (.tst sw a b) (BitVec.ofNat 4 (s.me.g b).toNat) ∧ tags (.tstImm sw a tag) tag
      ∧ both (.tset sw a b c) (BitVec.ofNat 4 (s.me.g c).toNat) ∧ both (.tsetImm sw a b tag) tag)
    ∧ (OpenTag s .table false ga l s' →
      completes (.tabsync sw a) sw .plain s (s'.acquires.sends [])
      ∧ completes (.tabrdSel sw d a) sw .plain s (s'.acquires.sends [(d, BitVec.ofNat 64 (s'.mem.selectOf l.pa))])
      ∧ completes (.tabrd sw d a b m) sw .plain s (s'.acquires.sends [(d, if m = 0 then 0 else
          BitVec.ofNat 64 (FMap.get 0 s'.mem.tables ((8 * l.pa.space.index + m.toNat) * 128 + (s.me.g b).toNat % 128)).toNat)]))
    ∧ (OpenTag s .table true ga l s' →
      let target : TrapInfo := { cause := .prot, tinfo := protInfo faultTARGET .tag l.level false, taddr := ga }
      ((m = 0 ∨ owns m.toNat) → completes (.tabsel sw a m) sw .plain s
        ({ s'.acquires with mem := { s'.mem with selects := FMap.set 0 s'.mem.selects l.pa.region m } }.sends []))
      ∧ (m ≠ 0 → ¬ owns m.toNat → exec (.tabsel sw a m) s = .next (trapWord target s s'))
      ∧ ((s.me.g b).toNat % 4096 = 0 → (if p = 0 then ∃ t, 1 ≤ t ∧ t ≤ 7 ∧ owns t else owns p.toNat) →
        let base : Redirect := { base := s.me.g b &&& 0x01FFFFFFFFFFF000#64, ctx := some s.me.ctx }
        completes (.rdset sw a b p) sw .plain s { s'.acquires with mem := { s'.mem with
          redirects := FMap.set Redirect.reset s'.mem.redirects (8 * l.pa.space.index + p.toNat) base } })
      ∧ ((s.me.g b).toNat % 64 = 0 → m ≠ 0 → owns m.toNat →
        ∀ (rs : List UnitRes) (s'' : State),
          strandAccess (.scalar 64) .load 0 (splitUnits (fun _ _ => .read) 5 (s.me.g b).toNat 0 256) s' = .ok rs s'' →
          s''.mem.parked = [] → (∀ t ∈ s''.all, t.replay.looked = none) →
          let image := (rs.map (·.bytes)).flatten
          ∃ t : State, completes (.tabld sw a b c m) sw .plain s (t.sends [])
            ∧ (∀ e, e < 128 → FMap.get 0 t.mem.tables ((8 * l.pa.space.index + m.toNat) * 128 + e) =
                BitVec.ofNat 16 (ofLE ((image.drop (2 * e)).take 2)))
            ∧ FMap.get 0 t.mem.vectors (8 * l.pa.space.index + m.toNat) = s.me.g c &&& ~~~3#64
            ∧ t.mem.bytes = s''.mem.bytes ∧ t.mem.tags = s''.mem.tags ∧ t.me = s''.me))

/-! ## Engine words -/

/-- R53, R268, R290–R292, R298, R306, R308–R311: the words that create matrix ops. That TOKBUSY names the token of `after` where that one
does not fit is the model's reading (log 100). -/
def Obligations.MatrixOps : Prop :=
  ∀ (sw : Bool) (k a p : Reg) (b : BitVec 2) (f : BitVec 4) (s : State), Takes.engine.follows s.me = true →
    ([a, p] : List Reg).all s.me.canRead = true →
    let core := s.me.core
    let n := s.eng.nextOp
    let room (s : State) (b : Nat) : Prop := (s.bankOps core b).length < 2
    (s.me.tokenFree k = false →
      let busy : TrapInfo := { cause := .tokbusy, tinfo := BitVec.ofNat 64 (s.me.busyToken k), taddr := 0 }
      exec (.mma sw k a) s = .next (trapWord busy s s) ∧ exec (.mmaZ sw k a) s = .next (trapWord busy s s)
      ∧ exec (.mmv sw k a) s = .next (trapWord busy s s) ∧ exec (.mmvZ sw k a) s = .next (trapWord busy s s)
      ∧ exec (.mld sw k a p b) s = .next (trapWord busy s s) ∧ exec (.mst sw k a p f b) s = .next (trapWord busy s s))
    ∧ (s.me.tokenFree k = true → (s.me.g a).toNat % 64 = 0 → (s.me.g p).toNat % 64 = 0 →
      (room s b.toNat → ∃ t : State, completes (.mld sw k a p b) sw .engine s t
        ∧ Created s t k (.mld b.toNat (s.me.g a) (s.me.g p)) (.matrix core) [] ∧ t.acceptedOr n (s.holdsBank b.toNat))
      ∧ (room s b.toNat → ∃ t : State, completes (.mst sw k a p f b) sw .engine s t
        ∧ Created s t k (.mst b.toNat (s.me.g a) (s.me.g p) f.toNat) (.matrix core) [] ∧ t.acceptedOr n (s.holdsBank b.toNat)
        ∧ t.me.srseed = (if s.me.control.sr then drawMany 4096 s.me.srseed else s.me.srseed))
      ∧ (2 ≤ (s.bankOps core b.toNat).length → ∃ t : State, exec (.mld sw k a p b) s = .next t ∧ t.me.wait = .issue ∧ t.me.pc = s.me.pc
          ∧ t.eng = s.eng))
    ∧ (∀ (d : List Byte) (s' : State), s.me.tokenFree k = true → (s.me.g a).toNat % 32 = 0 →
      readDescriptor (s.me.g a).toNat 32 s = .ok d s' → s'.eng = s.eng → s'.cores = s.cores →
      (∃ log pos r, s'.me = { s.me.acquired with unitLog := log, unitPos := pos, replay := r }) →
      let c := bytesAt d 0x10 8
      let cap := bytesAt d 0x18 8
      (room s' (bitField c 23 2) →
        (∃ t : State, completes (.mmv sw k a) sw .engine s t ∧ Created s' t k (.mmv false) (.matrix core) d
          ∧ t.acceptedOr n (s'.holdsBank (bitField c 23 2)))
        ∧ ∃ t : State, completes (.mmvZ sw k a) sw .engine s t ∧ Created s' t k (.mmv true) (.matrix core) d
          ∧ t.acceptedOr n (s'.holdsBank (bitField c 23 2)))
      ∧ (let slot := decide (bitField c 29 1 = 1)
         let ragged := bitField c 27 2 ≠ 0
         let snap := if ragged then s'.me.shape slot else none
         (ragged → s'.me.shape slot = none →
            exec (.mma sw k a) s = .next (trapWord { cause := .segx, tinfo := 1, taddr := 0 } s s'))
         ∧ (cap = 0 → (ragged → s'.me.shape slot ≠ none) → room s' (bitField c 30 2) →
          (∃ t : State, completes (.mma sw k a) sw .engine s t ∧ Created s' t k (.mma false) (.matrix core) d
            ∧ t.acceptedOr n (s'.holdsBank (bitField c 30 2))
            ∧ (s'.holdsBank (bitField c 30 2) = true → (t.opOf n).snapshot = snap))
          ∧ ∃ t : State, completes (.mmaZ sw k a) sw .engine s t ∧ Created s' t k (.mma true) (.matrix core) d
            ∧ t.acceptedOr n (s'.holdsBank (bitField c 30 2)))
         ∧ (∀ grantor, cap ≠ 0 → (ragged → s'.me.shape slot ≠ none) → s'.capTarget s'.me.ctx cap = some grantor →
            ∃ t : State, completes (.mma sw k a) sw .engine s t ∧ Created s' t k (.mma false) (.matrix grantor) d
              ∧ (t.opOf n).state = .pending ∧ (t.opOf n).accepted = false)))

/-- R78, R317, R318, R323, R325, R330, R334: the words that create copies and collectives. That TOKBUSY names the token of `after` where that
one does not fit (log 100), and that ARM has no effect without a completion address and on `cpym` (log 35), are the model's readings.

R332: `cpyfree` marks its core as having freed a multicast's tile, and the last receiver adds to the mailbox. -/
def Obligations.CopyWords : Prop :=
  (∀ (sw : Bool) (k a : Reg) (d : List Byte) (s s' : State), Takes.engine.follows s.me = true → s.me.canRead a = true →
      (s.me.tokenFree k = false →
        let busy : TrapInfo := { cause := .tokbusy, tinfo := BitVec.ofNat 64 (s.me.busyToken k), taddr := 0 }
        exec (.cpy sw k a) s = .next (trapWord busy s s) ∧ exec (.cpym sw k a) s = .next (trapWord busy s s)
        ∧ exec (.coll sw k a) s = .next (trapWord busy s s))
      ∧ (s.me.tokenFree k = true → (s.me.g a).toNat % 64 ≠ 0 →
        let align : TrapInfo := { cause := .align, tinfo := 0, taddr := s.me.g a }
        exec (.cpy sw k a) s = .next (trapWord align s s) ∧ exec (.cpym sw k a) s = .next (trapWord align s s)
        ∧ exec (.coll sw k a) s = .next (trapWord align s s))
      ∧ (s.me.tokenFree k = true → (s.me.g a).toNat % 64 = 0 → readDescriptor (s.me.g a).toNat 64 s = .ok d s' →
        s'.eng = s.eng → (∃ log pos r, s'.me = { s.me.acquired with unitLog := log, unitPos := pos, replay := r }) →
        let n := s.eng.nextOp
        let arm := bitField (bytesAt d 0x3C 4) 9 1 = 1 ∧ bytesAt d 0x30 8 ≠ 0
        let made (i : Instr) (kind : OpKind) (e : Engine) (good : Bool) (free : Prop) : Prop :=
          (good = true → free → ∃ t : State, completes i sw .engine s t ∧ Created s' t k kind e d ∧ (t.opOf n).state = .pending ∧ t.mem = s'.mem)
          ∧ (good = false → ∃ t : State, completes i sw .engine s t ∧ Created s' t k kind e d ∧ (t.opOf n).state = .failed
              ∧ (t.opOf n).fault = 0x27 ∧ t.mem.bytes = s'.mem.bytes)
        made (.cpy sw k a) .cpy (.reel (corePly s.me.core)) (copyHeader false d && copyRules false d) (¬ arm)
        ∧ made (.cpym sw k a) .cpym (.reel (corePly s.me.core)) (copyHeader true d && copyRules true d) True
        ∧ made (.coll sw k a) .coll (.twister (coreDie s.me.core)) (Op.collRules { Op.none with kind := .coll, desc := d }) (¬ arm)
        ∧ (∀ (l : Leaf) (s'' : State), (copyHeader false d && copyRules false d) = true → arm → s'.mem.parked = [] →
            let va := bytesAt d 0x30 8
            translate { ctx := s'.me.ctx, sysm := s'.me.sysm, kind := .tag, rd := false, wr := true, via := .ply (corePly s.me.core) }
              (va - va % 8) s' = .ok (.ok l) s'' →
            bitsOf l.entry 9 1 = 0 → (∀ c o, l.pa.space ≠ .peer c o) → FMap.get 0 s''.mem.poison l.pa.word = 0 →
              ∃ t : State, completes (.cpy sw k a) sw .engine s t ∧ (t.opOf n).state = .pending ∧
                FMap.get 0 t.mem.tags l.pa.word = BitVec.ofNat 4 (bitField (bytesAt d 0x3C 4) 10 4))))
  ∧ (∀ (sw : Bool) (d m t : Reg) (l : Leaf) (s s' : State), Takes.plain.follows s.me = true → ([m, t] : List Reg).all s.me.canRead = true →
      s.me.canWrite d = true → s.me.outstanding.length < 8 →
      translate { ctx := s.me.ctx, sysm := s.me.sysm, kind := .scalar 8, rd := true, wr := false } (s.me.g m).toNat s = .ok (.ok l) s' →
      (s'.wakeIsland l.pa.space).isNone = true → s'.me = s.me →
      let p := s.me.core % 16
      let mine (e : FreeEntry) : Bool := decide (e.ply = corePly s.me.core ∧ e.ctx = s.me.ctx ∧ e.mailbox = (s.me.g m).toNat
        ∧ e.tile = (s.me.g t).toNat % 65536)
      (s'.eng.entries.find? mine = none → completes (.cpyfree sw d m t) sw .plain s (s'.sends [(d, 1)]))
      ∧ ∀ e, s'.eng.entries.find? mine = some e →
        (e.receivers.getLsbD p = false → completes (.cpyfree sw d m t) sw .plain s (s'.sends [(d, 1)]))
        ∧ (e.receivers.getLsbD p = true → e.freed.getLsbD p = true → completes (.cpyfree sw d m t) sw .plain s (s'.sends [(d, 2)]))
        ∧ (e.receivers.getLsbD p = true → e.freed.getLsbD p = false →
            let freed := e.freed ||| BitVec.ofNat 16 (2 ^ p)
            (freed ≠ e.receivers → ∃ u : State, completes (.cpyfree sw d m t) sw .plain s (u.sends [(d, 0)])
              ∧ { e with freed := freed } ∈ u.eng.entries ∧ u.eng.entries.length = s'.eng.entries.length ∧ u.mem = s'.mem ∧ u.me = s'.me)
            ∧ (freed = e.receivers → ∃ u : State, completes (.cpyfree sw d m t) sw .plain s (u.sends [(d, 0)])
              ∧ u.eng.entries.length + 1 = s'.eng.entries.length ∧ u.me.stack = s'.me.stack)))

/-- R289, R293–R295, R304: the bank words.

R271, R274–R284: the token and op words. -/
def Obligations.BankAndOpWords : Prop :=
  (∀ (sw : Bool) (d i l : Reg) (b : BitVec 2) (m : BitVec 4) (s : State), Takes.plain.follows s.me = true → s.me.canWrite d = true →
      let core := s.me.core
      let put (x : Nat) (s : State) : State := { s with me := s.me.put d (BitVec.ofNat 64 x) }
      let taken (x : Nat) : State := s.setBank core x fun k =>
        { cond := .held s.me.slot s.me.hm, launch := s.me.launch, gen := k.gen + 1 }
      let allowed := s.allowance s.me.launch core
      let more := s.launchHolds s.me.launch core < allowed
      (allowed = 0 → completes (.macq sw d) sw .plain s (put 4 s) ∧ completes (.macqSpecific sw d b) sw .plain s (put 4 s))
      ∧ (more → ∀ x : Nat, x < 4 → (s.bankOf core x).cond = .free → (∀ y, y < x → (s.bankOf core y).cond ≠ .free) →
          completes (.macq sw d) sw .plain s (put x (taken x)))
      ∧ (allowed ≠ 0 → s.holdsBank b.toNat = true → completes (.macqSpecific sw d b) sw .plain s (put b.toNat s))
      ∧ (more → s.holdsBank b.toNat = false → (s.bankOf core b.toNat).cond = .free →
          completes (.macqSpecific sw d b) sw .plain s (put b.toNat (taken b.toNat)))
      ∧ (allowed ≠ 0 → ¬ more → ∃ t : State, exec (.macq sw d) s = .next t ∧ t.me.wait = .issue ∧ t.me.pc = s.me.pc ∧ t.eng = s.eng)
      ∧ (s.me.outstanding.length < 8 →
        (s.holdsBank b.toNat = true → completes (.mrel sw b) sw .plain s
          ((s.setBank core b.toNat fun k => { k with cond := .releasing, gen := k.gen + 1 }).returns [] (.bank core b.toNat) none))
        ∧ (s.holdsBank b.toNat = false → completes (.mrel sw b) sw .plain s (s.returns [] .none none)))
      ∧ (s.holdsBank b.toNat = false → completes (.mzero sw b) sw .plain s s)
      ∧ (s.holdsBank b.toNat = true → s.bankOps core b.toNat = [] →
          ∃ t : State, completes (.mzero sw b) sw .plain s t ∧ (∀ r c, r < 64 → c < 64 → t.eng.elem core b.toNat r c = 0)
            ∧ t.eng.ops = s.eng.ops ∧ t.eng.banks = s.eng.banks ∧ t.me = s.me ∧ t.mem = s.mem)
      ∧ (([i, l] : List Reg).all s.me.canRead = true → s.me.outstanding.length < 8 →
        let held := (List.range 4).all fun x => !m.getLsbD x || s.holdsBank x
        let good : Prop := held = true ∧ (s.me.g i).toNat < 4096 ∧ ((s.ctxOf s.me.ctx).coreAt (s.me.g i).toNat).isSome = true
          ∧ 1 ≤ (s.me.g l).toNat ∧ (s.me.g l).toNat ≤ 32767
        (¬ good → completes (.mcap sw d i l m) sw .plain s (s.sends [(d, 0)]))
        ∧ (good → ∃ x : Word, completes (.mcap sw d i l m) sw .plain s (s.sends [(d, x)])
            ∧ bitField x.toNat 0 12 = (s.me.g i).toNat ∧ bitField x.toNat 12 12 = (s.vcoreWord s.me.ctx core).toNat % 4096
            ∧ bitField x.toNat 24 4 = m.toNat ∧ bitField x.toNat 28 16 = (s.ns.toNat / 1024 + (s.me.g l).toNat) % 65536
            ∧ BitVec.ofNat 20 (bitField x.toNat 44 20) =
                Config.capCheck (s.coreKey core) (BitVec.ofNat 44 x.toNat) s.me.ctx (s.maskGens core m.toNat))))
  ∧ (∀ (sw : Bool) (k d a c : Reg) (p : BitVec 3) (s : State), Takes.plain.follows s.me = true →
      ([a, a + 1] : List Reg).all s.me.canRead = true → ([d, d + 1, c] : List Reg).all s.me.canWrite = true →
      s.me.outstanding.length < 8 → k.toNat < s.me.ntok →
      let held := FMap.get none s.me.tokens k.toNat
      let h := (s.me.g a).toNat
      (held = none →
        completes (.owait sw k d) sw .plain s (s.sends [(d, 6)]) ∧ completes (.otest sw k d) sw .plain s (s.sends [(d, 6)])
        ∧ completes (.ocancel sw k) sw .plain s (s.sends []) ∧ completes (.ostat sw k d p) sw .plain s (s.sends [(d, 0)])
        ∧ completes (.odetach sw k d c) sw .plain s (s.returns [(d, 0), (d + 1, 0), (c, 5)] .none none))
      ∧ (∀ n, held = some n →
        let o := s.opOf n
        completes (.otest sw k d) sw .plain s (s.ends [(d, BitVec.ofNat 64 o.status)] o.status)
        ∧ (o.live = true → ∃ t : State, exec (.owait sw k d) s = .next t ∧ t.me.wait = .issue ∧ t.me.pc = s.me.pc ∧ t.me.tokens = s.me.tokens)
        ∧ (o.live = false → ∃ t : State, completes (.owait sw k d) sw .plain s (t.ends [(d, BitVec.ofNat 64 o.status)] o.status)
            ∧ t.me = s.me.setToken k.toNat none ∧ t.opOf n = { o with reaped := true } ∧ ∀ m, m ≠ n → t.opOf m = s.opOf m)
        ∧ (o.state = .pending → o.packet = none → o.parked = [] → s.lastUnitDone n = false → ∃ t : State, completes (.ocancel sw k) sw .plain s (t.returns [] (.op n) none)
            ∧ (t.opOf n).state = .cancelled ∧ (∀ m, m ≠ n → t.opOf m = s.opOf m) ∧ t.me = s.me)
        ∧ ((∀ x, o.kind ≠ .foreign x) → completes (.ostat sw k d p) sw .plain s (s.sends [(d, o.recordWord p.toNat)]))
        ∧ (∀ (x : Name) (u : State), s.nameOp n false = (some x, u) → ∃ t : State, completes (.odetach sw k d c) sw .plain s
            (t.returns [(d, x.extractLsb' 0 64), (d + 1, x.extractLsb' 64 64), (c, 0)] .none none)
            ∧ t.me = u.me.setToken k.toNat none ∧ t.eng = u.eng ∧ t.hub = u.hub)
        ∧ (let busy : TrapInfo := { cause := .tokbusy, tinfo := BitVec.ofNat 64 k.toNat, taddr := 0 }
           exec (.oadopt sw k a c) s = .next (trapWord busy s s)))
      ∧ (s.standing (s.me.pair a) .live → nameClass (s.me.pair a) = 1 →
        let e := nameCounter (s.me.pair a)
        ∀ n, (s.nameEntry e).op = some n →
          completes (.ostatN sw a d c p) sw .plain s (s.returns [(d, (s.opOf n).recordWord p.toNat), (c, 0)] .none (some e))
          ∧ (∃ t : State, completes (.ocancelN sw a c) sw .plain s (t.returns [(c, 0)] (.op n) none)
              ∧ (t.nameEntry e).state = .dying ∧ ((s.opOf n).state = .pending → (s.opOf n).packet = none → s.lastUnitDone n = false →
                  (t.opOf n).state = .cancelled))
          ∧ (held = none → ∃ t : State, completes (.oadopt sw k a c) sw .plain s (t.returns [(c, 0)] .none (some e))
              ∧ FMap.get none t.me.tokens k.toNat = some n ∧ (t.nameEntry e).state = .dying ∧ (t.opOf n).name = none))
      ∧ (let n := h % 2 ^ 39
         let o := s.opOf n
         let chip := h / 2 ^ 39 % 2 ^ 9
         let away : Prop := chip ≠ s.hub.chip ∧ chip ∈ (s.partOf (s.ctxOf s.me.ctx).part).reach
         let paused : Prop := chip = s.hub.chip ∧ o.state ≠ .free ∧ o.reaped = false ∧ o.ctx = s.me.ctx
         (away → ∃ (x y : Word) (t u : State), x.toNat < 3 ∧ y.toNat < 3
            ∧ completes (.ofaultResume sw a c) sw .plain s (t.returns [(c, x)] .none none) ∧ t.me = s.me ∧ t.mem = s.mem ∧ t.eng = s.eng
            ∧ completes (.ofaultFail sw a c) sw .plain s (u.returns [(c, y)] .none none) ∧ u.me = s.me ∧ u.mem = s.mem ∧ u.eng = s.eng)
         ∧ (¬ paused → ¬ away → completes (.ofaultResume sw a c) sw .plain s (s.returns [(c, 2)] .none none)
            ∧ completes (.ofaultFail sw a c) sw .plain s (s.returns [(c, 2)] .none none))
         ∧ (paused → (o.state ≠ .paused ∨ o.gen.toNat ≠ h / 2 ^ 48) →
            completes (.ofaultResume sw a c) sw .plain s (s.returns [(c, 1)] .none none)
            ∧ completes (.ofaultFail sw a c) sw .plain s (s.returns [(c, 1)] .none none))
         ∧ (paused → o.state = .paused → o.gen.toNat = h / 2 ^ 48 →
            (∃ t : State, completes (.ofaultResume sw a c) sw .plain s (t.returns [(c, 0)] .none none) ∧ (t.opOf n).state = .running
              ∧ (∀ m, m ≠ n → t.opOf m = s.opOf m) ∧ t.me = s.me ∧ t.mem = s.mem)
            ∧ ∃ t : State, completes (.ofaultFail sw a c) sw .plain s (t.returns [(c, 0)] .none none) ∧ (t.opOf n).state = .failed
              ∧ t.me = s.me)))

/-! ## Steps of the cores -/

/-- R107, R109, R128, R165, R170: what the steps of a core do to the strand in a slot.

R64: a `shbind` that waits for a free snapshot slot takes one, and its result can return; that the slot's bytes in HBM stay as they were
is the model's choice (log 98).

R359: the return of `tsync`'s result drops the lines of its range from every core of the partition.

R32, R41–R43, R431: an answer of a remote home chip over a trained link, or 100 µs without one (status 4, UNREACHABLE), gives the waiting result its values,
or the waiting word what it needs. -/
def Obligations.StrandSteps : Prop :=
  (∀ (core slot : Nat) (x : Strand) (s : State), s.strandAt core slot = some x →
      (x.mskcnt = 1 → s.slotStep (.mskCountExpiry core slot) core slot { x with mskcnt := 0, sflags := x.sflags ||| 0x001#9 })
      ∧ (x.wait = .start → s.slotStep (.startDelayExpiry core slot) core slot { x with wait := .none })
      ∧ (∀ r : LongResult, x.outstanding.find? (fun y => y.id == r.id) = some r → x.ktrap = false →
          (r.wait = .none ∨ r.wait = .acquire ∨ (∃ c, r.wait = .shootdown c ∧ (s.nameEntry c).sdone = true) ∨ (∃ n, r.wait = .op n ∧ (s.opOf n).live = false)
            ∨ ∃ c b, r.wait = .bank c b ∧ (s.bankOf c b).cond ≠ .releasing) →
          ∃ u : Strand, s.slotStep (.longResultReturn core slot r.id) core slot u
            ∧ (∀ e, FMap.get 0 u.stack e = ((r.gdests.reverse.find? fun y => y.1 == e).map (·.2)).getD (FMap.get 0 x.stack e))
            ∧ (∀ q : Reg, (∀ y ∈ r.vdests, y.1 ≠ q.toNat ∧ y.1 < 16) → u.v q = x.v q)
            ∧ (∀ (q : Reg) (v : List Lane), r.vdests = [(q.toNat, v)] → v.length = 64 → u.v q = v)
            ∧ u.outstanding = x.outstanding.filter (·.id ≠ r.id) ∧ u.pc = x.pc
            ∧ u.wait = (if x.outstanding.filter (·.id ≠ r.id) ≠ [] then x.wait
                else if x.wait = .marker ∨ x.wait = .returns then .none else if x.wait = .passedMarker then .passed else x.wait))
      ∧ (∀ (r : LongResult) (lo hi : Nat), x.outstanding.find? (fun y => y.id == r.id) = some r → r.wait = .text lo hi → x.ktrap = false →
          ∃ (t : State) (u : Strand), exec (.longResultReturn core slot r.id) s = .next t ∧ t.strandAt core slot = some u
            ∧ u.outstanding = x.outstanding.filter (·.id ≠ r.id) ∧ u.pc = x.pc ∧ t.mem.bytes = s.mem.bytes
            ∧ ∀ w : CachedWord, w ∈ t.mem.icache ↔ w ∈ s.mem.icache ∧
                ¬ (w.ctx = x.ctx ∧ w.core ∈ s.partCores x.part ∧ lo < hi ∧ w.va / 64 * 64 < hi ∧ lo < w.va / 64 * 64 + 64))
      ∧ (∀ (l : Leaf) (s' : State), x.wait = .line → translate x.fetchReq x.pc.toNat s = .ok (.ok l) s' →
          (s'.wakeIsland l.pa.space).isNone = true →
          ∃ t : State, exec (.icacheLineFill core slot) s = .next t ∧ t.strandAt core slot = some { x with wait := .none }
            ∧ t.mem.bytes = s'.mem.bytes
            ∧ ∀ k, k < 16 → t.mem.cached core x.ctx (x.pc.toNat / 64 * 64 + 4 * k) =
                some (BitVec.ofNat 32 (ofLE (s'.mem.bytesAt (64 * l.pa.block + 4 * k) 4))))
      ∧ (∀ (kind level : Nat) (remote : Bool) (s' : State), x.wait = .none → x.reissue = false →
          translate x.fetchReq x.pc.toNat s = .ok (.fail kind level remote) s' → (kind = faultNOMAP ∨ kind = faultNOTRES) →
          ∃ t : State, exec (.fetch core slot) s = .next t ∧ t.strandAt core slot = some { x with wait := .fetch }
            ∧ s'.notified t x.part 1 x.ctx (systemBody 0x14 (slot % 256) (s.vcoreWord x.ctx core) x.pc 0 0)))
  ∧ (∀ (core slot i g : Nat) (n : Bool) (r : LongResult) (y : Snapshot) (x : Strand) (s : State), s.strandAt core slot = some x →
      x.outstanding.find? (fun z => z.id == r.id) = some r → r.wait = .snapshot n g y → y.live = true → x.isLive = true →
      s.freeSnaps.findSnap x.ctx y.name y.version = none → s.freeSnaps.freeSnapSlot x.ctx = some i →
        ∃ t : State, exec (.snapshotWaitEnd core slot r.id) s = .next t ∧ t.snapOf (x.ctx * 2 ^ 32 + i) = y ∧ t.mem = s.mem ∧ t.eng = s.eng
          ∧ t.strandAt core slot = some { (if n then { x with sh1 := some (x.ctx * 2 ^ 32 + i) } else { x with sh0 := some (x.ctx * 2 ^ 32 + i) }) with
              outstanding := x.outstanding.map fun z => if z.id = r.id then { z with wait := .none } else z })
  ∧ (∀ (core slot id : Nat) (st : BitVec 4) (addr version : Word) (x : Strand) (s : State), s.strandAt core slot = some x →
      let answered (codes : List Nat) (f : Word → Word → Word → Strand) : Prop :=
        (st.toNat ∈ codes → s.noTwine = false → s.slotStep (.remoteResolve core slot id st addr version) core slot (f (st.setWidth 64) addr version))
        ∧ s.slotStep (.resolveTimeout core slot id) core slot (f 4 0 0)
      (∀ (r : LongResult) (use : RemoteUse), x.outstanding.find? (fun y => y.id == id) = some r → r.wait = .remote use →
        answered (match use with | .status _ codes => codes | _ => [0, 1, 2, 3]) fun c a v =>
          let dests : List (Nat × Word) := match use with
            | .addr d w => [(d, if c = 0 then a &&& 0x01FFFFFFFFFFFFC0#64 else 0), (w, c)]
            | .version d w => [(d, if c = 0 ∨ c = 1 then v else 0), (w, c)]
            | .info d w cls => [(d, if c = 0 then (a &&& 0x0F00FFFF#64) ||| (cls.setWidth 64 <<< 16)
                else if c = 1 then (a &&& 0x1F00FFFF#64) ||| (cls.setWidth 64 <<< 16) else 0), (w, c)]
            | .status w _ => [(w, c)]
          { x with outstanding := x.outstanding.map fun y => if y.id = id then { r with gdests := lastWins dests, wait := .none } else y })
      ∧ (x.outstanding.find? (fun y => y.id == id) = none → x.wait = .remote →
        answered [0, 1, 2, 3] fun c a v =>
          { x with
            wait := .none
            replay := { x.replay with answers := x.replay.answers ++ [(c.toNat, 0, a &&& 0x01FFFFFFFFFFFFC0#64, v)] } }))

/-- R103, R355, R386, R398, R408, R412: the budget, stops and halts of the strand in a slot.

R353, R354, R357: what ends a `wwait` and a `bar.wait`. -/
def Obligations.BudgetsHaltsAndWakes : Prop :=
  (∀ (core slot : Nat) (x : Strand) (s : State), s.strandAt core slot = some x →
      (x.budget = 0 → x.urg = false → x.halted = false → x.budgetTaken = false →
        ∃ t : State, exec (.budgetExhausted core slot) s = .next t
          ∧ t.strandAt core slot = some { x with budgetDue := true, wait := x.wait.given }
          ∧ t.mem = { s.mem with waiters := s.mem.waiters.filter fun w => !(w.core == core && w.slot == slot) })
      ∧ (x.budgetDue = true → x.budgetTaken = false → x.hm = false → x.wait = .none → x.pfx.count = 0 → x.reissue = false →
        x.appends = none → exec (.budgetTrap core slot) s =
          .next ({ s.switchTo core slot with me := { x with budgetDue := false, budgetTaken := true } }.takeTrap
            { cause := .budget, tinfo := 0, taddr := 0 }))
      ∧ (x.wait = .none → x.halted = false → x.reissue = false →
        (∃ y ∈ (s.ctxOf x.ctx).stops, y.pc = x.pc ∧ (y.vcore = none ∨ y.vcore = some (s.vcoreWord x.ctx core).toNat)) →
        s.slotStep (.stopHit core slot) core slot { x with haltReq := true })
      ∧ (x.haltReq = true → x.halted = false → x.continues = false → x.wait ≠ .draining → x.wait ≠ .restoring → x.outstanding = [] → x.appends = none →
        let stays : Prop := x.wait = .start ∨ x.wait = .kernel ∨ (x.wait = .fetch ∧ x.pfx.count = 0)
        ∃ (t : State) (u : Strand), exec (.haltComplete core slot) s = .next t ∧ t.strandAt core slot = some u
          ∧ u.halted = true ∧ u.haltReq = false ∧ u.mskcnt = 0 ∧ u.stack = x.stack ∧ u.vregs = x.vregs
          ∧ (stays → u.pc = x.pc ∧ u.wait = x.wait)
          ∧ (¬ stays → u.pc = (if x.pfx.count = 0 then x.pc else x.pfx.first) ∧ u.wait = .none)
          ∧ (∀ n, n < 4 → (FMap.get Stream.reset u.streams n).fetched = [])
          ∧ (∀ l, x.launch = some l → (t.launchOf l).wasHalted = true)
          ∧ (∀ y ∈ t.mem.parked, y.who ≠ .strand core slot ∨ stays)
          ∧ (∀ y ∈ t.pkg.sessions, x.uid ∉ y.awaits)
          ∧ (∀ k, FMap.get Mem.byte0 t.mem.bytes k =
              if x.area.any (fun i => decide (k = hbmKey (s.areaAddr x.ctx i + 0xAF))) then BitVec.ofNat 8 (1 + 2 * x.ktrap.toNat)
              else FMap.get Mem.byte0 s.mem.bytes k)
          ∧ t.eng = s.eng))
  ∧ (∀ (core slot : Nat) (x : Strand) (s : State), s.strandAt core slot = some x →
      let leaves (t : State) : Prop := t.me.pc = x.pc + 4 ∧ t.me.vregs = x.vregs ∧ t.me.outstanding = x.outstanding ∧ t.me.place = x.place
        ∧ t.me.wait = (if x.pmark ∧ x.outstanding ≠ [] then .marker else .none)
        ∧ (x.budget = 0 → x.urg = false → x.halted = false → x.budgetTaken = false → t.me.budgetDue = true) ∧ t.mem.bytes = s.mem.bytes ∧ t.eng = s.eng ∧ t.hub = s.hub
      let returns (e : Instr) (k : Nat) : Prop := ∃ t : State, exec e s = .next t ∧ leaves t
        ∧ t.me.stack = FMap.set 0 x.stack x.pdest (BitVec.ofNat 64 k) ∧ (∀ w ∈ t.mem.waiters, ¬ (w.core = core ∧ w.slot = slot))
      (∀ k, x.wait = .woken k → lastG x.pdest x.outstanding = none → returns (.wwaitWake core slot) k)
      ∧ (x.wait = .wwait → lastG x.pdest x.outstanding = none → (x.wtmo ≠ 0 ∨ (s.ctxOf x.ctx).wakeLimit ≠ 0) →
          returns (.wwaitTimeout core slot) 2)
      ∧ (x.wait = .wwait → ∃ t : State, exec (.wwaitSpuriousWake core slot) s = .next t
          ∧ t.strandAt core slot = some { x with wait := .woken 1 } ∧ t.mem.bytes = s.mem.bytes)
      ∧ (∀ (lv n l : Nat), x.wait = .barrier lv n → x.launch = some l →
          (FMap.get 0 x.arrived (32 * lv + n)) ≤ FMap.get 0 (s.launchOf l).phases (phaseKey lv (if lv = 0 then x.homePly else x.homeDie) n) →
          ∃ t : State, exec (.barWaitRelease core slot) s = .next t ∧ leaves t ∧ t.me.stack = x.stack ∧ t.mem = s.mem))

/-- R156, R164, R177: messages and contexts that arrive at a core.

R102, R103, R163, R314: a free normal slot takes the slice with the earliest deadline. That it is the lowest free slot, and slot 8 before 9
for an urgent handler (log 52), what budget a restored slice has (log 91), and when a restore that meets an error stops (log 106) are the
model's choices. -/
def Obligations.ArrivalsAndBinding : Prop :=
  (∀ (s : State) (core : Nat),
      (∀ (i : Nat) (m : Message), s.eng.messages[i]? = some m → m.sender = none →
        (m.urgent = true → ∃ t : State, exec (.amsgArrival i) s = .next t ∧ t.eng.messages = s.eng.messages.eraseIdx i
          ∧ (t.coreOf m.dest).urgent = (s.coreOf m.dest).urgent ++ [m] ∧ t.strands = s.strands ∧ t.me = s.me ∧ t.mem = s.mem)
        ∧ (m.urgent = false → s.roomFor m.dest 1 → ∃ (t : State) (u : Strand), exec (.amsgArrival i) s = .next t
          ∧ t.eng.messages = s.eng.messages.eraseIdx i ∧ t.strands = s.strands ++ [u] ∧ t.me = s.me ∧ t.mem = s.mem
          ∧ u.place = .pending m.dest ∧ u.pc = m.pc ∧ (∀ e, FMap.get 0 u.stack e = (m.regs[e]?).getD 0) ∧ u.tnum = 0x80000000#32
          ∧ u.ctx = m.ctx ∧ u.launch = m.launch ∧ u.deadline = m.deadline ∧ u.urg = false ∧ u.hm = false ∧ u.strict = false
          ∧ u.cwp = 0 ∧ u.rdep = 0 ∧ u.tokens = [] ∧ u.vlive = 0))
      ∧ (∀ (slot : Nat) (m : Message) (rest : List Message), (s.coreOf core).urgent = m :: rest → m.urgent = true →
        ((slot = 8 ∧ s.strandAt core 8 = none) ∨ (slot = 9 ∧ (s.strandAt core 8).isSome = true ∧ s.strandAt core 9 = none)) →
        ∃ (t : State) (u : Strand), exec (.urgentDelivery core) s = .next t ∧ (t.coreOf core).urgent = rest
          ∧ t.strandAt core slot = some u ∧ u.urg = true ∧ u.wait = .start ∧ u.pc = m.pc
          ∧ (∀ e, FMap.get 0 u.stack e = (m.regs[e]?).getD 0) ∧ u.launch = m.launch ∧ u.hm = false ∧ t.mem = s.mem)
      ∧ (∀ (i : Nat) (x : Strand), s.travelling[i]? = some x → x.core = core →
        (s.roomFor core 1 → ∃ t : State, exec (.hopArrival i) s = .next t
          ∧ { x with place := .pending core, wait := .none, age := s.ages } ∈ t.strands ∧ t.mem = s.mem ∧ t.eng = s.eng ∧ t.hub = s.hub)
        ∧ (¬ s.roomFor core 1 → x.place = .transit core →
          (s.all.filter fun u => match u.place with | .buffered c => corePly c == corePly core | _ => false).length < 16 →
          ∃ t : State, exec (.hopArrival i) s = .next t ∧ { x with place := .buffered core } ∈ t.strands ∧ t.mem = s.mem)))
  ∧ (∀ (core slot : Nat) (x : Strand) (s : State), slot < 8 → s.strandAt core slot = none →
      (∀ n, n < slot → (s.strandAt core n).isSome = true) → x ∈ s.all → s.bindable core x = true →
      (∀ y ∈ s.all, s.bindable core y = true → y = x ∨ x.ahead y) →
      (∀ l y, s.nextPlaced = some (l, y) → ∀ z ∈ s.all, z.core = core → z.forGroup ≠ some (y.order, y.nextGroup)) →
      (∀ i, s.restoreBad x = true → x.area = some i →
        ∃ t : State, exec (.sliceBind core) s = .next t ∧ t.strandAt core slot = none ∧ t.eng = s.eng
          ∧ (∃ z ∈ t.all, z.uid = x.uid ∧ z.place = x.place ∧ z.restErr = true ∧ z.kslot = slot)
          ∧ s.notified t x.part 1 x.ctx
              (systemBody 0x19 (slot % 256) (s.vcoreWord x.ctx core) 0 (BitVec.ofNat 64 (s.areaAddr x.ctx i)) 0))
      ∧ (s.restoreBad x = false →
        ∃ (t : State) (u : Strand), exec (.sliceBind core) s = .next t ∧ t.strandAt core slot = some u
          ∧ u.wait = (if x.restore then .restoring else .start) ∧ u.age = s.ages ∧ u.uid = x.uid ∧ u.issued = 0 ∧ u.parkedCycles = 0
          ∧ (∀ l, x.launch = some l → (t.launchOf l).tbind.isSome = true) ∧ t.mem = s.mem
          ∧ (x.fresh = true → u.budget = x.slicebud)
          ∧ (x.restore = false → u.pc = x.pc ∧ u.stack = x.stack ∧ u.vregs = x.vregs ∧ u.budgetDue = false ∧ t.eng = s.eng
              ∧ (x.fresh = false → u.budget = x.budget))
          ∧ (∀ i, x.restore = true → x.area = some i →
              let field (o n : Nat) : Nat := s.hbmNat (s.areaAddr x.ctx i + o) n
              u.pc.toNat = field 0 8 / 4 * 4 ∧ u.stk.toNat = field 8 8 ∧ u.tvec.toNat = field 0x10 8 / 4 * 4
              ∧ u.epc.toNat = field 0x18 8 ∧ u.wtmo.toNat = field 0x20 8 ∧ u.srseed.toNat = field 0x28 8
              ∧ u.deadline.toNat = field 0x98 8 ∧ u.budgetDue = decide (u.budget = 0)
              ∧ (x.fresh = false → u.budget.toNat = field 0xA0 8 - (x.savedBudget.toNat - x.budget.toNat))
              ∧ (∀ e, e < 64 → (FMap.get 0 u.stack e).toNat = field (0x140 + 8 * e) 8)
              ∧ u.vlive = BitVec.ofNat 16 (field 0x3E 2)
              ∧ (∀ r n, r < 16 → n < 64 → u.vlive.getLsbD r = true →
                  (FMap.get 0 u.vregs (64 * r + n)).toNat = field (0x340 + 256 * r + 4 * n) 4)
              ∧ ∀ b, b < 4 → x.banks.getLsbD b = true →
                  (t.bankOf core b).cond = .held slot (x.banks.getLsbD (4 + b)) ∧ (t.bankOf core b).gen = (s.bankOf core b).gen + 1
                  ∧ ∀ n, n < 4096 →
                      (FMap.get 0 t.eng.acc (4096 * (4 * core + b) + n)).toNat = field (0x1340 + 16384 * b + 4 * n) 4)))

/-- R393, R394: the pre-emption of a strand for a high-priority group that no core fits stops it at its boundary. Which strand is
stopped where the first would free nothing is the model's choice (log 21).

R394: the saves of strands pre-empted together go in slot order.

R388, R389, R392, R394, R396: a drained strand is saved to the lowest free area, its banks are zeroed and free, and its slot frees;
and a saved strand is read back. What its budget becomes is the model's reading (log 91), as is what binds between (log 21). -/
def Obligations.PreemptionAndSaving : Prop :=
  (∀ (core slot l : Nat) (y : Launch) (x : Strand) (s : State), s.nextPlaced = some (l, y) → s.strandAt core slot = some x →
      y.lrec.priority = 1 → core ∈ s.candidates y → (∀ c ∈ s.candidates y, s.fits y c = false) → s.preemptible core x = true →
      (∀ z ∈ s.all, s.preemptible core z = true → z.uid = x.uid ∨ z.deadline.toNat < x.deadline.toNat
        ∨ (z.deadline = x.deadline ∧ z.age < x.age)) →
      (let stopping := s.all.filter fun u => u.bound && u.core == core && decide (u.wait = .draining) && !u.fresh
       s.fitsWithout y core stopping = false ∧ s.fitsWithout y core (stopping ++ s.all.filter (s.preemptible core)) = true) →
      (∀ z ∈ s.all, z.forGroup = some (y.order, y.nextGroup) → z.core = core) → x.pendingTrap = none → x.appends = none →
      x.budgetDue = false → x.continues = false →
        ∃ (t : State) (u : Strand), exec (.preemptCommand core slot) s = .next t ∧ t.strandAt core slot = some u ∧ u.wait = .draining
          ∧ u.mskcnt = 0 ∧ u.pc = (if x.pfx.count = 0 then x.pc else x.pfx.first) ∧ u.stack = x.stack ∧ u.vregs = x.vregs
          ∧ u.pfx.count = 0 ∧ u.outstanding = x.outstanding ∧ u.forGroup = some (y.order, y.nextGroup) ∧ t.mem.bytes = s.mem.bytes
          ∧ t.hub = s.hub)
  ∧ (∀ (core slot : Nat) (x y : Strand) (s : State), s.strandAt core slot = some x → x.wait = .draining → x.forGroup ≠ none →
      y ∈ s.all → y.bound = true → y.core = core → y.slot < slot → y.wait = .draining → y.forGroup = x.forGroup →
        exec (.saveComplete core slot) s = .next s)
  ∧ (∀ (core slot i : Nat) (x : Strand) (s : State), s.strandAt core slot = some x →
      let a := s.areaAddr x.ctx i
      let field (m : State) (o n : Nat) : Nat := m.hbmNat (a + o) n
      (x.wait = .draining → x.outstanding = [] → x.ktrap = false → x.area = none → x.forGroup = none →
        (∀ b, b < 4 → ∀ h, (s.bankOf core b).cond = .held slot h → s.bankOps core b = []) →
        i < (s.ctxOf x.ctx).savePool.2 → i ∉ (s.ctxOf x.ctx).areas → (∀ j, j < i → j ∈ (s.ctxOf x.ctx).areas) →
        ∃ (t : State) (u : Strand), exec (.saveComplete core slot) s = .next t ∧ u ∈ t.all ∧ u.uid = x.uid ∧ u.area = some i
          ∧ (u.place = .pending core ∨ u.place = .held core) ∧ u.restore = true ∧ u.banks = s.heldBanks core slot
          ∧ field t 0 8 = x.pc.toNat ∧ field t 8 8 = x.stk.toNat ∧ field t 0x18 8 = x.epc.toNat
          ∧ field t 0x30 8 = x.pst.toNat % 2 ^ 22 + x.tdeleg.toNat * 2 ^ 32 + x.rmode.toNat * 2 ^ 52
          ∧ (∀ e, e < 64 → field t (0x140 + 8 * e) 8 = (FMap.get 0 x.stack e).toNat)
          ∧ (∀ r n, r < 16 → n < 64 → x.vlive.getLsbD r = true →
              field t (0x340 + 256 * r + 4 * n) 4 = (FMap.get 0 x.vregs (64 * r + n)).toNat)
          ∧ (∀ b n, b < 4 → n < 4096 → (s.heldBanks core slot).getLsbD b = true →
              field t (0x1340 + 16384 * b + 4 * n) 4 = (FMap.get 0 s.eng.acc (4096 * (4 * core + b) + n)).toNat
              ∧ FMap.get 0 t.eng.acc (4096 * (4 * core + b) + n) = 0 ∧ (t.bankOf core b).cond = .free)
          ∧ i ∈ (t.ctxOf x.ctx).areas)
      ∧ (x.wait = .restoring → x.area = some i →
        ∃ t : State, exec (.restoreComplete core slot) s = .next t
          ∧ t.strandAt core slot = some { x with wait := .none, area := none, banks := 0, restore := false }
          ∧ i ∉ (t.ctxOf x.ctx).areas ∧ t.mem = s.mem ∧ t.eng.banks = s.eng.banks ∧ t.eng.acc = s.eng.acc))

/-! ## Launches, queues and engines -/

/-- R35, R37, R95–R100, R400: the steps of the name unit, the spindle and dispatch. That a group takes the lowest free record (log 52), and
what a group on another chip does from then on (log 42), are the model's choices, as is that the trigger and completion stores make no tag
lookup (log 13).

R105, R285, R358, R402, R403, R419: the trigger store, and the retirement of a launch all of whose strands and ops have ended. -/
def Obligations.LaunchesPlacedAndEnded : Prop :=
  (∀ (s : State) (n core : Nat),
      (core ∈ (s.nameEntry n).acks → (∀ t ∈ s.all, t.core = core → ∀ r ∈ t.outstanding, r.name ≠ some n) →
        ∃ t : State, exec (.shootdownInvalidate n core) s = .next t
          ∧ (t.nameEntry n).acks = (s.nameEntry n).acks.filter (· ≠ core) ∧ (t.nameEntry n).state = (s.nameEntry n).state
          ∧ (t.coreOf core).names = (s.coreOf core).names.filter (fun x => nameCounter x.1 != n) ∧ t.mem = s.mem ∧ t.me = s.me)
      ∧ ((s.nameEntry n).state = .dying → (s.nameEntry n).acks = [] → (s.nameEntry n).sdone = false →
        let left := if (s.nameEntry n).dropRef then (s.nameEntry n).refcount - 1 else (s.nameEntry n).refcount
        ∃ t : State, exec (.shootdownComplete n) s = .next t ∧ t.mem = s.mem ∧ t.me = s.me
          ∧ t.nameEntry n = (if left = 0 then NameEntry.none else { s.nameEntry n with sdone := true, dropRef := false, refcount := left }))
      ∧ (∀ (l slot : Nat), s.nextPlaced = some (l, s.launchOf l) → slot < 4096 →
        (∀ j, j < slot → ∃ b, (j, b) ∈ s.hub.binds ∧ b.valid = true) → (∀ b, (slot, b) ∈ s.hub.binds → b.valid = false) →
        let x := s.launchOf l
        (s.candidates x).find? (s.fits x) = some core → core < 4096 →
        (∀ z ∈ s.all, z.core = core → z.forGroup ≠ some (x.order, x.nextGroup)) →
          ∃ t : State, exec .groupPlacement s = .next t ∧ (t.launchOf l).nextGroup = x.nextGroup + 1
            ∧ FMap.get Group.none (t.launchOf l).groups x.nextGroup =
                { core := core, reserved := x.lrec.nstr, left := x.lrec.nstr, banks := x.lrec.nbank, haltReq := x.haltReq, finish := none }
            ∧ FMap.get BindRec.none t.hub.binds slot =
                { valid := true, lslot := l, core := core, vcore := s.vcoreWord x.ctx core, group := x.nextGroup
                  tbase := x.nextGroup * x.lrec.nstr, nstr := x.lrec.nstr, high := decide (x.lrec.priority = 1)
                  deadline := if x.lrec.reldl.toNat + x.accept.toNat < 2 ^ 64 then x.accept + x.lrec.reldl else BitVec.allOnes 64 }
            ∧ t.mem = s.mem ∧ t.me = s.me ∧ t.eng = s.eng)
      ∧ (∀ (l slot : Nat), s.nextPlaced = some (l, s.launchOf l) → slot < 4096 →
        (∀ j, j < slot → ∃ b, (j, b) ∈ s.hub.binds ∧ b.valid = true) → (∀ b, (slot, b) ∈ s.hub.binds → b.valid = false) →
        let x := s.launchOf l
        (s.candidates x).find? (s.fits x) = some core → core < 4096 →
        (∃ z ∈ s.all, z.core = core ∧ z.forGroup = some (x.order, x.nextGroup)) → s.roomFor core x.lrec.nstr →
          ∃ t : State, exec .groupPlacement s = .next t ∧ (t.launchOf l).nextGroup = x.nextGroup + 1
            ∧ (FMap.get BindRec.none t.hub.binds slot).valid = false ∧ (t.launchOf l).strands = x.strands + x.lrec.nstr
            ∧ t.strands.length = s.strands.length + x.lrec.nstr ∧ t.mem = s.mem ∧ t.me = s.me ∧ t.eng = s.eng
            ∧ ∀ i, i < x.lrec.nstr → ∃ u ∈ t.strands, u.place = .pending core ∧ u.launch = some l
                ∧ u.tnum = BitVec.ofNat 32 (x.nextGroup * x.lrec.nstr + i))
      ∧ (∀ l : Nat, s.nextPlaced = some (l, s.launchOf l) →
        let x := s.launchOf l
        (s.candidates x).find? (s.fits x) = some core → 4096 ≤ core →
          ∃ t : State, exec .groupPlacement s = .next t ∧ (t.launchOf l).nextGroup = x.nextGroup + 1
            ∧ (FMap.get Group.none (t.launchOf l).groups x.nextGroup).core = core ∧ t.hub.binds = s.hub.binds
            ∧ t.strands = s.strands ∧ t.mem = s.mem ∧ t.me = s.me ∧ t.eng = s.eng)
      ∧ (let b := FMap.get BindRec.none s.hub.binds n
         let x := s.launchOf b.lslot
         b.valid = true → s.roomFor b.core b.nstr →
          ∃ t : State, exec (.bindRecordDispatch n) s = .next t ∧ (FMap.get BindRec.none t.hub.binds n).valid = false
            ∧ (t.launchOf b.lslot).strands = x.strands + b.nstr ∧ t.strands.length = s.strands.length + b.nstr ∧ t.me = s.me ∧ t.mem = s.mem
            ∧ ∀ i, i < b.nstr → ∃ u ∈ t.strands, u.place = .pending b.core ∧ u.tnum = BitVec.ofNat 32 (b.tbase + i) ∧ u.pc = x.lrec.entry
              ∧ u.strict = x.lrec.strict ∧ u.srseed = BitVec.ofNat 64 (b.tbase + i) ∧ u.launch = some b.lslot ∧ u.group = b.group
              ∧ u.deadline = b.deadline ∧ u.slicebud = x.lrec.slicebud ∧ u.counted = true ∧ u.ntok = x.lrec.ntok
              ∧ u.stack = [] ∧ u.tvec = 0 ∧ u.tdeleg = 0x400B4#20 ∧ u.hm = false ∧ u.urg = false ∧ u.cwp = 0 ∧ u.rdep = 0 ∧ u.vlive = 0
              ∧ ∀ j lv, x.lrec.levels[j]? = some lv → j < 8 →
                  FMap.get 0 u.lvl j = BitVec.ofNat 64 ((b.tbase + i) / ((x.lrec.levels.take j).map (·.extent)).prod % lv.extent)
                  ∧ FMap.get 1 u.ext j = BitVec.ofNat 64 lv.extent))
  ∧ (∀ (l : Nat) (s : State), (s.launchOf l).live = true → (s.ctxOf (s.launchOf l).ctx).killing = false →
      let x := s.launchOf l
      (x.untriggered = 0 → x.triggerStored = false → x.awayLeft = false →
        ∃ t : State, exec (.triggerStore l) s = .next t ∧ (t.launchOf l).triggerStored = true
          ∧ (x.lrec.trigaddr = 0 → t.mem = s.mem)
          ∧ ∀ (pa : PAddr) (s' : State), x.lrec.trigaddr ≠ 0 → x.lrec.trigaddr.toNat % 64 ≤ 56 →
              (s.setLaunch l fun x => { x with triggerStored := true }).vtranslate x.ctx x.lrec.trigaddr.toNat true = some (pa, s') →
              s'.wrote t pa.key 8 x.lrec.compval.toNat)
      ∧ (x.started = true → x.nextGroup = x.lrec.groupCount → x.strands = 0 → x.awayLeft = false →
        (∀ b ∈ s.hub.binds, b.2.lslot = l → b.2.valid = false) → (∀ o ∈ s.eng.ops, o.2.launch = some l → o.2.live = false) →
        ∃ t : State, exec (.launchRetire l) s = .next t ∧ (t.launchOf l).live = false ∧ (t.nameEntry (nameCounter x.name)).state = .dying
          ∧ (x.notify = true → ∃ e ∈ (t.partOf x.part).events, e.type = 2
              ∧ e.body.take 3 = [x.name.extractLsb' 0 64, x.name.extractLsb' 64 64, BitVec.ofNat 64 x.index])
          ∧ ∀ (pa : PAddr) (s' s'' : State), x.triggerStored = true → x.lrec.acctaddr = 0 → x.lrec.compaddr ≠ 0 → x.lrec.compaddr.toNat % 64 ≤ 56 →
              (s.queueOf x.queue).packets = [] → s' = s.dropLaunchRefs l →
              s'.vtranslate x.ctx x.lrec.compaddr.toNat true = some (pa, s'') → s''.wrote t pa.key 8 x.lrec.compval.toNat))

/-- R74, R76: what a wake store does to a queue by its state, and the mapping, unmapping and paging out of queues.

R92, R329: the teardown of a PASID stops its queues, and each then closes; without queues it fails the ops that reach host memory.

That an ERROR queue holds a context and that a wake without room leaves the queue IDLE are the model's readings (log 58). -/
def Obligations.QueueStates : Prop :=
  (∀ (q : Nat) (v : Word) (s : State),
      let k := s.queueOf q
      let becomes (e : Instr) (st : QState) : Prop := ∃ t : State, exec e s = .next t ∧ (t.queueOf q).state = st ∧ t.eng = s.eng
        ∧ (t.queueOf q).name = k.name ∧ (t.queueOf q).awaiting = k.awaiting
      let room : Prop := (s.hub.queues.filter fun x => decide (x.2.state = .mapped ∨ x.2.state = .error)).length < 1024
      (k.teardown = false → k.state = .idle → k.wakes.contains v = true → room → k.packets = [] → becomes (.wakeStore q v) .mapped)
      ∧ (k.teardown = false → k.state = .idle → k.wakes.contains v = true → ¬ room →
          ∃ t : State, exec (.wakeStore q v) s = .next t ∧ (t.queueOf q).state = .idle ∧ (t.queueOf q).wakePending = true)
      ∧ (k.teardown = false → k.state = .paged → k.wakes.contains v = true →
          ∃ t : State, exec (.wakeStore q v) s = .next t ∧ (t.queueOf q).state = .paged ∧ (t.queueOf q).wakePending = true ∧ t.mem = s.mem)
      ∧ (k.teardown = false → k.state = .error → k.wakes.contains v = true → k.packets = [] →
          becomes (.wakeStore q v) (if v.getLsbD 0 then .mapped else .error))
      ∧ (k.state = .closed → k.wakes.contains v = true → becomes (.wakeStore q v) .closed)
      ∧ (∀ (pa : PAddr) (s' : State), k.state = .closed → k.wakes.contains v = false → (k.desc.toNat + 0x38) % 64 ≤ 56 → k.desc.toNat + 0x38 < 2 ^ 64 →
          s.vtranslate k.ctx (k.desc.toNat + 0x38) true = some (pa, s') →
          ∃ t : State, exec (.wakeStore q v) s = .next t ∧ (t.queueOf q).state = .closed ∧ s'.wrote t pa.key 8 v.toNat)
      ∧ (k.wakePending = true → k.teardown = false → (k.state = .paged ∨ k.state = .idle) → room → k.packets = [] →
          becomes (.queuePageIn q) .mapped)
      ∧ (k.state = .mapped → becomes (.queueUnmap q) .idle)
      ∧ (k.state = .idle → becomes (.queuePageOut q) .paged))
  ∧ (∀ (ctx q : Nat) (s : State),
      ((∀ x ∈ s.hub.queues, x.2.opened ctx = false) →
        (∀ x ∈ s.eng.ops, x.2.ctx = ctx → x.2.live = true → s.hostAddr x.2 = none) → exec (.queueTeardown ctx) s = .next s)
      ∧ ((∃ x ∈ s.hub.queues, x.2.opened ctx = true) →
        ∃ t : State, exec (.queueTeardown ctx) s = .next t ∧ t.mem = s.mem ∧ t.eng = s.eng ∧ t.me = s.me
        ∧ ∀ n, let k := s.queueOf n
            t.queueOf n = { k with teardown := k.teardown || decide (k.ctx = ctx ∧ k.state ≠ .none ∧ k.state ≠ .closed) })
      ∧ ((s.queueOf q).teardown = true → (s.queueOf q).state ≠ .closed → (s.queueOf q).state ≠ .none →
        s.recordWaits q = false →
        ∃ t : State, exec (.queueTeardownComplete q) s = .next t ∧ (t.queueOf q).state = .closed))

/-- R75, R77, R86, R88–R91: a slot at rdidx is copied and cleared, and rdidx advances; a copied packet of an undefined type fails its
skein and stops the queue. A copied NOP, and any copied skein that passes the checks, is accepted, at once or when the page it waited
for is there.

R80–R83, R85, R323: the packets that messages, copies, barriers, signals and text invalidations start and complete; a signal is a store or
an atomic add.

That a validation that waited for a page begins anew (log 55), and that a signal's write makes no tag lookup (log 13), are the model's
choices. -/
def Obligations.QueuePackets : Prop :=
  (∀ (q : Nat) (s : State),
      let k := s.queueOf q
      let i := s.queueField q 0x28 8
      (∀ (b : List Byte) (s' : State), k.state = .mapped → k.teardown = false → k.skein = none → k.awaiting = [] →
        s.vread k.ctx (k.ring.toNat + 64 * (i % 2 ^ k.lgslots)) 64 = some (b, s') →
        ofLE (b.take 1) ≠ 0 → ofLE (b.take 1) ≠ 6 →
        ∃ (t u : State) (p : Packet), exec (.slotConsume q) s = .next t ∧ (t.queueOf q).awaiting = [p] ∧ p.index = i ∧ p.bytes = b
          ∧ p.tseen = s.ns ∧ p.state = .copied ∧ (t.queueOf q).packets = k.packets
          ∧ u = s'.vput k.ctx (k.ring.toNat + 64 * (i % 2 ^ k.lgslots)) 8 0 ∧ t.mem = (u.vput k.ctx (k.desc.toNat + 0x28) 8 (i + 1)).mem)
      ∧ (∀ p : Packet, k.skein = none → k.awaiting = [p] → (p.type = 0 ∨ 10 < p.type) → s.recordWaits q = false →
        (k.state = .mapped → k.teardown = false → k.pageWait = none →
          ∃ t : State, exec (.skeinValidation q) s = .next t ∧ (t.queueOf q).state = .error ∧ (t.queueOf q).awaiting = [])
        ∧ (∀ va, k.pageWait = some va → s.vfault k.ctx va false ≠ faultNOTRES →
          ∃ t : State, exec (.validationPageIn q) s = .next t ∧ (t.queueOf q).pageWait = none
            ∧ (t.queueOf q).state = (if k.state = .mapped ∧ k.teardown = false then .error else k.state)))
      ∧ (∀ p : Packet, k.skein = none → k.awaiting = [p] → p.header = 0x1000A + 2 ^ 48 * (p.index % 2 ^ 16) →
        k.state = .mapped → k.teardown = false → k.packets = [] →
        let accepted (t : State) : Prop := (t.queueOf q).state = .mapped ∧ (t.queueOf q).awaiting = [] ∧ (t.queueOf q).packets = []
          ∧ (t.queueOf q).pageWait = none ∧ t.mem = (s.vput k.ctx (k.desc.toNat + 0x30) 8 (p.index + 1)).mem ∧ t.eng = s.eng ∧ t.me = s.me
        (k.pageWait = none → ∃ t : State, exec (.skeinValidation q) s = .next t ∧ accepted t)
        ∧ (∀ va, k.pageWait = some va → s.vfault k.ctx va false ≠ faultNOTRES →
            ∃ t : State, exec (.validationPageIn q) s = .next t ∧ accepted t))
      ∧ (∀ (ms : List Packet) (c : Option Packet) (first last : Nat) (ps : List Packet) (s' : State),
        k.framed = some (ms, c, first, last) → k.state = .mapped → k.teardown = false →
        let settled (t : State) : Prop := (t.queueOf q).awaiting = [] ∧ (t.queueOf q).skein = none ∧ (t.queueOf q).pageWait = none
          ∧ (t.queueOf q).state = (s'.queueOf q).state
        (k.pageWait = none → validateAll q ms c first s.freeSnaps = .ok ps s' → ∃ t : State, exec (.skeinValidation q) s = .next t ∧ settled t)
        ∧ (∀ va, k.pageWait = some va → s.vfault k.ctx va false ≠ faultNOTRES →
            validateAll q ms c first (s.setQueue q fun k => { k with pageWait := none }).freeSnaps = .ok ps s' →
            ∃ t : State, exec (.validationPageIn q) s = .next t ∧ settled t)))
  ∧ (∀ (q place : Nat) (p : Packet) (s : State),
      let k := s.queueOf q
      let started (t : State) : Prop := ∃ x, (t.queueOf q).at? place = some x ∧ x.state = .started
      let leaf : Prop := ∀ x ∈ k.packets, x.sub ≠ 0 → 2 ^ 17 * x.index + x.parent ≠ place
      (∀ core w rest, s.canStart q place 2 p → leaf → p.targets = (core, w) :: rest →
        ∃ t : State, exec (.amsgPacket q place) s = .next t ∧ started t
          ∧ ∃ m, t.eng.messages = s.eng.messages ++ [m] ∧ m.dest = core ∧ m.urgent = decide (p.field 0x38 1 = 1)
            ∧ m.pc = BitVec.ofNat 64 (p.field 8 8) ∧ m.packet = some (q, place) ∧ m.launch = none ∧ m.ctx = k.ctx ∧ m.part = k.part
            ∧ m.regs = [BitVec.ofNat 64 (p.field 0x18 8), BitVec.ofNat 64 (p.field 0x20 8), BitVec.ofNat 64 (p.field 0x28 8),
                BitVec.ofNat 64 (p.field 0x30 8), BitVec.ofNat 64 (p.field 0x10 8), 0xFFFFFFFF#64])
      ∧ (s.canStart q place 3 p → leaf → (p.field 0x30 8 = 0 ∨ bitField (p.field 0x3C 4) 9 1 = 0) →
        ∃ t : State, exec (.copyPacket q place) s = .next t ∧ started t ∧ t.eng.nextOp = s.eng.nextOp + 1
          ∧ (t.opOf s.eng.nextOp).state = .pending ∧ (t.opOf s.eng.nextOp).packet = some (q, place) ∧ (t.opOf s.eng.nextOp).desc = p.bytes
          ∧ (t.opOf s.eng.nextOp).kind = (if bitField p.header 32 16 = 0 then .cpy else .cpym) ∧ (t.opOf s.eng.nextOp).ctx = k.ctx
          ∧ (t.opOf s.eng.nextOp).vcore = 0xFFFFFFFF#32 ∧ (t.opOf s.eng.nextOp).sysm = true)
      ∧ (k.at? place = some p → p.state = .started → p.type = 4 →
          (p.field 8 1 = 0 ∧ (∀ i, i < p.field 9 1 → s.resolve k.part (BitVec.ofNat 128 (p.field (0x10 + 16 * i) 16)) = .status 2))
            ∨ (p.field 8 1 = 1 ∧ p.targets.length = p.field 9 1 ∧ ∀ x ∈ p.targets, x.2.toNat ≤ s.queueField x.1 0x30 8)
            ∨ (p.field 8 1 = 2 ∧ ∃ x s', s.vreadNat k.ctx (p.field 0x10 8) 8 = some (x, s')
                ∧ if p.field 0x20 1 = 0 then x = p.field 0x18 8 else p.field 0x18 8 ≤ x) →
          ∃ t : State, exec (.barrierPacketComplete q place) s = .next t ∧ t.packetDone q place)
      ∧ (∀ (pa : PAddr) (s' : State), s.canStart q place 5 p → p.field 8 8 % 64 ≤ 56 → p.field 0x18 1 = 0 →
          s.vtranslate k.ctx (p.field 8 8) true = some (pa, s') →
          ∃ t u : State, exec (.signalPacket q place) s = .next t ∧ s'.wrote u pa.key 8 (p.field 0x10 8)
            ∧ t = u.completePacket (some (q, place)) ∧ t.packetDone q place)
      ∧ (∀ (pa : PAddr) (s' s'' : State), s.canStart q place 5 p → p.field 8 8 % 64 ≤ 56 → p.field 0x18 1 ≠ 0 →
          s.vtranslate k.ctx (p.field 8 8) true = some (pa, s') → s.vtranslate k.ctx (p.field 8 8) false = some (pa, s'') →
          ∃ t u : State, exec (.signalPacket q place) s = .next t
            ∧ s'.wrote u pa.key 8 ((s''.numAt pa.key 8 + p.field 0x10 8) % 2 ^ 64)
            ∧ t = u.completePacket (some (q, place)) ∧ t.packetDone q place)
      ∧ (s.canStart q place 9 p →
          ∃ t : State, exec (.textsyncStart q place) s = .next t
            ∧ ∃ x, (t.queueOf q).at? place = some x ∧ x.state = .started ∧ x.acks = s.partCores k.part)
      ∧ (k.at? place = some p → p.state = .started → p.type = 9 →
          ∃ t : State, exec (.textsyncComplete q place) s = .next t ∧ t.packetDone q place
            ∧ ∀ w, w ∈ t.mem.icache ↔ w ∈ s.mem.icache ∧ ¬ (w.ctx = k.ctx ∧ w.core ∈ p.acks ∧ w.va < p.field 8 8 + p.field 0x10 8
                ∧ p.field 8 8 < w.va + 4)))

/-- R270, R272, R277, R291, R306, R323, R324: how ops move from state to state. -/
def Obligations.OpStates : Prop :=
  ∀ (n : Nat) (s : State),
    let o := s.opOf n
    let earlier (st : OpState → Prop) : Prop := ∃ x ∈ s.eng.ops, x.2.strand = o.strand ∧ x.2.packet = none ∧ o.packet = none
      ∧ x.2.engine = o.engine ∧ x.2.issue < o.issue ∧ st x.2.state
    let goes (e : Instr) (p : Op) : Prop := ∃ t : State, exec e s = .next t ∧ s.opBecomes t n p
    let ends (e : Instr) (st : OpState) : Prop := ∃ t : State, exec e s = .next t ∧ s.opEnds t n st
    let room (ply : Nat) : Prop := (s.eng.ops.filter fun x => x.2.onReel ply).length < 64
    (o.state = .pending → s.afterDone o → ¬ earlier (· = .pending) →
      (∀ ply, o.engine = .reel ply → (o.kind = .cpy ∨ (o.kind = .cpym ∧ o.compaddr = 0)) → room ply →
        goes (.opAdmit n) { o with state := .queued })
      ∧ (∀ core, o.engine = .matrix core → o.accepted = true →
          ((∃ z, o.kind = .mma z) ∨ (∃ b a p, o.kind = .mld b a p) ∨ (∃ b a p f, o.kind = .mst b a p f)
            ∨ ((∃ z, o.kind = .mmv z) ∧ room (corePly core))) →
          goes (.opAdmit n) { o with state := .queued }))
    ∧ (o.state = .queued → o.haltReq = false → ¬ earlier (fun st => st = .pending ∨ st = .queued) →
        (∃ core, o.engine = .matrix core ∧ o.accepted = true ∧ o.suspended = false ∧ ∀ x ∈ s.bankOps core o.bank, o.reach ≤ x.2.reach)
          ∨ (∃ ply, o.engine = .reel ply ∧ s.reelHead ply = some n) →
        goes (.opStart n) { o with state := .running })
    ∧ (o.state = .pending → o.parked = [] → (∃ a, o.after = some a ∧ ((s.opOf a).state = .failed ∨ (s.opOf a).state = .cancelled)) →
        ∃ t : State, exec (.depfail n) s = .next t ∧ s.opEnds t n .failed ∧ (t.opOf n).fault = 0x25)
    ∧ (o.state = .running → o.cancelReq = true → s.lastUnitDone n = false → o.parked = [] →
        (match o.kind with
          | .cpy => o.flight = [] ∧ (o.unitAt o.issuedUnits).isSome = true
          | .cpym => o.flight = [] ∧ (o.unitAt o.issuedUnits).isSome = true
          | .coll => True
          | .foreign _ => True
          | _ => o.under = false) →
        ends (.opCancelPoint n) .cancelled)
    ∧ (o.state = .running → o.cancelReq = true → s.lastUnitDone n = true → o.parked = [] → exec (.opCancelPoint n) s = .next s)
    ∧ ((match o.kind with
          | .coll => ∃ t q, o.team = some (t, q) ∧ s.roundReady t q = true
          | _ => s.unitReady n = true) → goes (.slackAging n) { o with effSlack := o.effSlack - 1 })
    ∧ (∀ z core, o.kind = .mma z → o.engine = .matrix core → o.live = true → o.accepted = false → o.arrived = false →
        let before : Prop := ∃ x ∈ s.eng.ops, x.2.strand = o.strand ∧ x.2.packet = none ∧ o.packet = none ∧ x.2.engine = o.engine
          ∧ x.2.issue < o.issue ∧ x.2.live = true ∧ x.2.arrived = false ∧ x.2.accepted = false ∧ x.2.bank = o.bank
        (¬ before → goes (.remoteCommand n) { o with arrived := true, reach := s.ages })
        ∧ (before → exec (.remoteCommand n) s = .next s))
    ∧ (∀ z core, o.kind = .mma z → o.engine = .matrix core → o.live = true → o.accepted = false → o.arrived = true → o.parked = [] →
        (s.bankOps core o.bank).length < 2 →
        (∀ x ∈ s.eng.ops, x.2.live = true → x.2.arrived = true → x.2.accepted = false → x.2.engine = .matrix core → x.2.bank = o.bank →
          o.reach ≤ x.2.reach) →
        (s.capOk o core = true → ∃ t : State, exec (.remoteCommand n) s = .next t ∧ s.opBecomes t n { o with accepted := true, reach := s.ages })
        ∧ (s.capOk o core = false → ∃ t : State, exec (.remoteCommand n) s = .next t ∧ s.opEnds t n .failed ∧ (t.opOf n).fault = 0x24))

/-- R320, R321, R324, R326: the units of a copy, and its completion write. -/
def Obligations.CopyUnits : Prop :=
  ∀ (n ply : Nat) (s : State),
    let o := s.opOf n
    (∀ (u : CopyUnit) (rs : List (Nat × UnitRes)) (s' : State), s.reelHead ply = some n → o.pendingStop = none → o.kind = .cpy →
      o.unitAt o.issuedUnits = some u →
      (let whole := decide (u.src % 64 = 0 ∧ u.len = 64 ∧ o.reduceCode = 0)
       let ps := splitUnits (fun _ _ => if whole then .readBlock else .read) 3 u.src 0 u.len
       opPieces n .load (fun _ => true) (((List.range ps.length).map (64 * o.issuedUnits + ·)).zip ps)
        (s.setOp n fun o => { o with state := .running }) = .ok (some rs) s') → (s'.opOf n).flight = o.flight →
      ∃ (t : State) (f : Flight), exec (.reelUnitIssue ply) s = .next t ∧ (t.opOf n).state = (s'.opOf n).state
        ∧ (t.opOf n).issuedUnits = o.issuedUnits + 1 ∧ (t.opOf n).flight = o.flight ++ [f] ∧ f.unit = o.issuedUnits
        ∧ f.data = (rs.map (·.2.bytes)).flatten ∧ f.written = false ∧ f.recv = 0 ∧ t.mem = s'.mem)
    ∧ (∀ (f : Flight) (u : CopyUnit) (r : UnitRes) (s' : State), o.kind = .cpy → o.state = .running → o.pendingStop = none →
      o.flight.find? (fun g => 16 * g.unit + g.recv == 16 * f.unit + f.recv) = some f → o.unitAt f.unit = some u →
      f.written = false → f.stopped = false → f.key ∉ o.parked → (∀ k ∈ o.parked, f.unit ≤ k / 64) →
      16 * f.unit + f.recv ∉ o.applied → s.unitBlocked o f = false →
      opPiece n f.key .store (fun sp => o.reduceCode == 0 || sp.described) (o.unitPiece f u) s = .ok (some r) s' →
      s'.opOf n = { o with unitLog := (s'.opOf n).unitLog } →
      ∃ t : State, exec (.unitDestWrite n (16 * f.unit + f.recv)) s = .next t ∧ t.mem = s'.mem
        ∧ 16 * f.unit + f.recv ∈ (t.opOf n).applied ∧ (t.opOf n).flags = o.flags ||| r.flags.extractLsb' 4 5
        ∧ ∀ g ∈ (t.opOf n).flight, 16 * g.unit + g.recv = 16 * f.unit + f.recv → g.written = true)
    ∧ (∀ k, (∃ f ∈ o.flight, 16 * f.unit + f.recv = k ∧ f.written = true) →
      let left := o.flight.filter fun f => 16 * f.unit + f.recv != k
      let last : Prop := o.state = .running ∧ left = [] ∧ (o.unitAt o.issuedUnits).isNone = true ∧ (o.kind = .cpym ∨ o.compaddr = 0)
      ∃ t : State, exec (.unitAck n k) s = .next t ∧ (t.opOf n).units = o.units + 1
        ∧ (last → (t.opOf n).state = .done) ∧ (¬ last → (t.opOf n).state = o.state ∧ (t.opOf n).flight = left ∧ t.mem = s.mem))
    ∧ (∀ (l : Leaf) (s' : State), (o.kind = .cpy ∧ (o.unitAt o.issuedUnits).isNone = true) ∨ (o.kind = .coll ∧ o.issuedUnits = 1) →
      o.state = .running → o.haltReq = false → o.compaddr ≠ 0 → o.compaddr % 64 ≤ 60 → o.flight = [] → o.parked = [] → o.pendingStop = none →
      o.packet = none → o.unitLog = [] → bitsOf o.land 8 1 = 0 →
      translate { ctx := o.ctx, sysm := o.sysm, kind := .engine, rd := false, wr := true, via := o.engine.via } o.compaddr s
        = .ok (.ok l) s' →
      (s'.wakeIsland l.pa.space).isNone = true →
      (let u := opUnit n o 3 .store o.completionPiece l.pa
       uncorrOf s' u = none ∧ lookupUnit s'.mem u = .pass []) →
      ∃ t : State, exec (.completionWrite n) s = .next t ∧ (t.opOf n).state = .done
        ∧ s'.wrote t (placeKey l o.compaddr 0) 4 (o.field 0x38 4))

/-- R288, R294, R299–R302, R308, R309, R311: what matrix ops do to their banks. -/
def Obligations.MatrixSteps : Prop :=
  ∀ (n core b : Nat) (s : State),
    let o := s.opOf n
    let going : Prop := o.state = .running ∧ o.haltReq = false ∧ o.suspended = false ∧ (o.cancelReq = true → o.under = true) ∧ o.parked = []
      ∧ o.pendingStop = none ∧ o.engine = .matrix core ∧ o.flight = [] ∧ s.unitServes n core = true
    let begun : State := { s with free := s.free + 1 }.setOp n fun o => { o with under := true }
    let ahead (t : State) : Prop := o.cancelReq = false ∧ t.eng.acc = s.eng.acc ∧ (t.opOf n).units = o.units
    let ended (t : State) : Prop := (t.opOf n).units = o.units + 1
      ∧ (o.lastBlock < o.units + 1 → (t.opOf n).state = .done)
      ∧ (o.units + 1 ≤ o.lastBlock → (t.opOf n).state = if o.cancelReq then .cancelled else .running)
    (∀ (z : Bool) (s' : State), going → o.kind = .mma z → b = o.bank → s.eng.badAcc = [] → s'.eng.badAcc = [] → s'.eng.acc = s.eng.acc →
      readOperands n core o.units begun = .ok true s' →
      (∃ log fmts, s'.opOf n = { o with under := true, unitLog := log, fmts := fmts }) →
      let p := s'.opOf n
      let sh := match o.snapshot with | some k => s'.snapOf k | none => Snapshot.none
      let old (i j : Nat) : Lane := if z = true ∧ o.units = 0 then 0 else s.eng.elem core b i j
      ∃ t : State, exec (.mmaKblock n) s = .next t ∧ (ahead t ∨ (ended t ∧ ∀ i j, i < 64 → j < 64 →
        t.eng.elem core b i j = addProducts (old i j) (p.rowVals i o.units) (p.rowVals (64 + j) o.units) fun k =>
          includedIn sh (bitField o.control 27 2) (bitField o.control 32 16) (bitField o.control 48 16) i j (32 * o.units + k))))
    ∧ (∀ (z : Bool) (s' : State), going → o.kind = .mmv z → b = o.bank → s.eng.badAcc = [] → s'.eng.badAcc = [] → s'.eng.acc = s.eng.acc →
      readOperands n core o.units begun = .ok true s' →
      (∃ log fmts, s'.opOf n = { o with under := true, unitLog := log, fmts := fmts }) →
      let p := s'.opOf n
      let old (i j : Nat) : Lane := if z = true ∧ o.units = 0 then 0 else s.eng.elem core b i j
      ∃ t : State, exec (.mmvKblock n) s = .next t ∧ (ahead t ∨ ((t.opOf n).units = o.units + 1 ∧ ∀ m v, m < o.outs → v < o.vecs →
        t.eng.elem core b (8 * (m / 64) + v) (m % 64) =
          addProducts (old (8 * (m / 64) + v) (m % 64)) (p.rowVals m o.units) (p.rowVals (o.outs + v) o.units) fun _ => true)))
    ∧ (∀ (k : Nat) (r : UnitRes) (s' : State), going → k ∉ o.unitLog.map (·.1) → (∀ i, i < k → i ∈ o.unitLog.map (·.1)) →
      let log := o.unitLog ++ [(k, r)]
      let more (m : Nat) : Prop := ∃ i, i < m ∧ i ∉ log.map (·.1)
      let whole (m : Nat) : Prop := ∀ i, i < m → i ∈ log.map (·.1)
      s'.opOf n = { o with under := true, unitLog := log } → s'.eng.acc = s.eng.acc →
      (∀ addr stride : Word, o.kind = .mld b addr stride → k < 4 →
        let base := (addr.toNat + o.units * stride.toNat) % 2 ^ 64
        opPiece n k .load (fun _ => true) { va := (base + 64 * k) % 2 ^ 64, offs := List.range 64, act := .read }
          (s.setOp n fun o => { o with under := true }) = .ok (some r) s' →
        let data := (List.range 4).flatMap fun i => ((log.find? fun y => y.1 == i).map (·.2.bytes)).getD []
        ∃ t : State, exec (.mldMstUnit n) s = .next t
          ∧ (more 4 → t.opOf n = s'.opOf n ∧ t.eng.acc = s.eng.acc)
          ∧ (whole 4 → (t.opOf n).units = o.units + 1 ∧ (64 ≤ o.units + 1 → (t.opOf n).state = .done)
              ∧ ∀ c, c < 64 → t.eng.elem core b o.units c = BitVec.ofNat 32 (ofLE ((data.drop (4 * c)).take 4))))
      ∧ ∀ (addr stride : Word) (f : Nat) (fmt : Fmt), o.kind = .mst b addr stride f → fmtOfCode f = some fmt → s.eng.badAcc = [] →
        let per := if f = 6 then 2 else 1
        let vals := (List.range (64 * per)).map fun c => laneVal (s.eng.elem core b (per * o.units + c / 64) (c % 64))
        let q := quantize f fmt (controlOf o.rnd) (64 * per / perBlock f) vals o.srseed
        let base := (addr.toNat + o.units * stride.toNat) % 2 ^ 64
        ∀ x, q.1[k]? = some x →
          opPiece n k .store (fun _ => true) { va := (base + 64 * k) % 2 ^ 64, offs := List.range 64, act := .writeBlock x.1 x.2 }
            (s.setOp n fun o => { o with under := true }) = .ok (some r) s' →
          ∃ t : State, exec (.mldMstUnit n) s = .next t ∧ t.eng.acc = s.eng.acc ∧ t.mem.bytes = s'.mem.bytes
            ∧ (more q.1.length → t.opOf n = s'.opOf n)
            ∧ (whole q.1.length → (t.opOf n).units = o.units + 1 ∧ (t.opOf n).srseed = q.2.2
                ∧ (64 / per ≤ o.units + 1 → (t.opOf n).state = .done)))
    ∧ (∀ x : BitVec 2, (s.bankOf core x.toNat).cond = .releasing → s.bankOps core x.toNat = [] →
      ∃ t : State, exec (.bankReleaseComplete core x) s = .next t ∧ (t.bankOf core x.toNat).cond = .free
        ∧ (t.bankOf core x.toNat).launch = none ∧ (t.bankOf core x.toNat).gen = (s.bankOf core x.toNat).gen
        ∧ (∀ r c, r < 64 → c < 64 → t.eng.elem core x.toNat r c = 0) ∧ t.eng.ops = s.eng.ops ∧ t.mem = s.mem ∧ t.me = s.me)

/-- R336–R338: a collective whose members are all of this chip meets, and a round of a small all-reduce among a power of two of members
combines each with the partner whose rank differs in one bit. -/
def Obligations.Collectives : Prop :=
  ∀ (team seq l : Nat) (ms : List Nat) (s : State), FMap.get none s.eng.teams team = some ms → ms ≠ [] → ms.Nodup →
    (∀ v ∈ ms, v / 4096 = s.hub.chip) →
    let c := s.collOf team seq
    let opOf (v : Nat) : Option Nat := (c.members.find? fun x => x.1 == v).map (·.2)
    (∀ x ∈ c.members, x.1 ∈ ms ∧ opOf x.1 = some x.2) → (∀ v ∈ ms, (opOf v).isSome = true) → (c.members.map (·.2)).Nodup →
    (c.met = false → (∀ x ∈ c.members, (s.opOf x.2).state = .queued ∧ (s.opOf x.2).haltReq = false ∧ s.startable x.2 = true) →
      (∀ x ∈ c.members, ∀ y ∈ c.members, let o := s.opOf x.2
        let p := s.opOf y.2
        o.cOp = p.cOp ∧ o.cCode = p.cCode ∧ o.cCount = p.cCount ∧ o.cRoot = p.cRoot) →
      ∃ t : State, exec (.collRendezvous team seq) s = .next t ∧ t.collOf team seq = { c with met := true } ∧ t.mem = s.mem
        ∧ ∀ x ∈ c.members, t.opOf x.2 = { s.opOf x.2 with state := .running })
    ∧ (c.met = true → c.final = false → c.vals ≠ [] → ms.length = 2 ^ l → c.round < l → s.twisterServes team seq = true →
      (∀ x ∈ c.members, let o := s.opOf x.2
        o.state = .running ∧ o.cancelReq = false ∧ o.haltReq = false ∧ o.parked = [] ∧ o.pendingStop = none
          ∧ o.cOp = 0 ∧ o.cCount * o.cWidth ≤ 256) →
      (∀ x ∈ c.members, ∀ y ∈ c.members, (s.opOf x.2).cCode = (s.opOf y.2).cCode) →
      ∃ t : State, exec (.collRound team seq) s = .next t ∧ (t.collOf team seq).round = c.round + 1 ∧ t.mem = s.mem
        ∧ (t.collOf team seq).final = decide (l ≤ c.round + 1)
        ∧ (∀ x ∈ c.members, (t.opOf x.2).units = (s.opOf x.2).units + 1)
        ∧ ∀ i x, i < 2 ^ l → c.members.head? = some x →
            let p := i ^^^ 2 ^ c.round
            FMap.get [] (t.collOf team seq).vals i =
              (combineBytes (s.opOf x.2).cCode 128 (FMap.get [] c.vals (Min.min i p)) (FMap.get [] c.vals (Max.max i p))).1)

/-! ## Commands, power, debugging and ports -/

/-- R55, R64, R84, R111, R112, R178, R187, R240, R353, R368, R388, R407, R416: the commands on a context's own registers, tables and areas.

That `xinval` drops no entry outside its range and stays in its ring while a leaf is still to be used (log 65), and that TABOWN names its memory
by an address and 0xFFFF for no context (log 61), are the model's readings. -/
def Obligations.ContextCommands : Prop :=
  ∀ (ring ctx : Nat) (a b c : Word) (s : State), s.mayCommand ring ctx →
    let p := (s.ctxOf ctx).part
    let r := s.running ring
    let sets (e : Instr) (f : Ctx → Ctx) : Prop := exec e s = .next (s.answered ring 0 fun s => s.setCtx ctx f)
    let badArg (e : Instr) : Prop := exec e s = .next (s.answered ring 2 id)
    let busy (e : Instr) : Prop := exec e s = .next (s.answered ring 3 id)
    (if s.inHbm (some p) (4096 * a.toNat) 4096 then sets (.setroot ring ctx a) fun c => { c with root := a.toNat } else badArg (.setroot ring ctx a))
    ∧ (if a.toNat % 4096 ≠ 0 ∨ s.inHbm (some p) a.toNat (73728 * b.toNat) = false then badArg (.savepool ring ctx a b)
       else if (s.ctxOf ctx).areas ≠ [] then busy (.savepool ring ctx a b)
       else sets (.savepool ring ctx a b) fun c => { c with savePool := (a, b.toNat) })
    ∧ (if b ≠ 0 ∧ (b.toNat < 256 ∨ 16777216 < b.toNat) then badArg (.timeout ring ctx a b)
       else sets (.timeout ring ctx a b) fun c => { c with wakeLimit := a, sampleInterval := b.toNat })
    ∧ (a.toNat < 8 → b.toNat < 2 → c.toNat + 64 ≤ Config.dsmBytes → ∃ t : State, exec (.tracebase ring ctx a b c) s = .next t ∧ s.reports t ring 0
        ∧ FMap.get 0 t.mem.ringBase (2 * a.toNat + b.toNat) = c ∧ t.mem.bytes = s.mem.bytes
        ∧ ∀ k, k ≠ 2 * a.toNat + b.toNat → FMap.get 0 t.mem.ringBase k = FMap.get 0 s.mem.ringBase k)
    ∧ (let used : Prop := ∃ u ∈ s.usedLeaves, u.1 = ctx ∧ a.toNat ≤ u.2.1 + 63 ∧ u.2.1 < a.toNat + b.toNat
       (used → exec (.xinval ring ctx a b) s = .next (s.append ring (.words 0x03 ctx [a, b])))
       ∧ (¬ used → a.toNat + b.toNat ≤ 144115188075855872 → ∃ t : State, exec (.xinval ring ctx a b) s = .next t ∧ s.reports t ring 0
        ∧ (∀ e, e ∈ t.mem.tlb ↔ e ∈ s.mem.tlb
            ∧ ¬ (e.ctx = ctx ∧ e.va < a.toNat + b.toNat ∧ a.toNat < e.va + entrySpan e.entry e.level))
        ∧ t.mem.bytes = s.mem.bytes ∧ t.me = s.me ∧ t.eng = s.eng))
    ∧ (∀ (pa : PAddr) (core : Nat), r.placeOf ctx a.toNat = some pa → (pa.space = .ls core ∨ pa.space = .pool core) → 1 ≤ b.toNat →
        b.toNat ≤ 7 → (c = 0xFFFF ∨ (c.toNat < 65535 ∧ (s.ctxOf c.toNat).live = true ∧ (ring = 16 ∨ ring = (s.ctxOf c.toNat).part))) →
        ∃ t : State, exec (.tabown ring ctx a b c) s = .next t ∧ s.reports t ring 0
          ∧ FMap.get none t.mem.owners (slotKey pa.space b.toNat) = (if c = 0xFFFF then none else some c.toNat)
          ∧ (∀ k, k ≠ slotKey pa.space b.toNat → FMap.get none t.mem.owners k = FMap.get none s.mem.owners k)
          ∧ t.mem.tables = s.mem.tables ∧ t.mem.bytes = s.mem.bytes)
    ∧ (∀ cs : List Nat, a.toNat = s.hub.chip → s.hub.chip ≤ 383 → c.toNat ≤ 256 →
        (∃ vs, r.readVcores ctx b.toNat c.toNat = some vs ∧ vs.length = cs.length ∧ vs.filterMap (r.namedCore ctx) = cs) →
        sets (.msgcores ring ctx a b c) fun k => { k with msgCores := cs })
    ∧ (∀ vs, a.toNat ≠ s.hub.chip → a.toNat ≤ 383 → c.toNat ≤ 256 → r.readVcores ctx b.toNat c.toNat = some vs →
        exec (.msgcores ring ctx a b c) s = .next (s.answered ring
          (if vs.all (fun v => v / 4096 == a.toNat && (r.reachCore ctx v).isSome) then 0 else 2) id))
    ∧ (a.toNat = s.hub.chip → s.hub.chip ≤ 383 → c.toNat ≤ 65536 → (c = 0 ∨ r.pinnedHbm ctx b.toNat (4 * c.toNat) = true) →
        sets (.routetab ring ctx a b c) fun k => { k with routeTab := (b, c.toNat) })
    ∧ (r.freeSnaps.hub.snaps = [] → (b = 0 ∨ (a.toNat % 4096 = 0 ∧ r.freeSnaps.pinnedHbm ctx a.toNat (4160 * b.toNat) = true)) →
        ∃ t : State, exec (.snaparea ring ctx a b) s = .next t ∧ s.reports t ring 0 ∧ (t.ctxOf ctx).snapArea = (a, b.toNat) ∧ t.mem = s.mem)
    ∧ (∀ (h img : List Byte) (s1 s2 : State), r.vread ctx a.toNat 64 = some (h, s1) →
        r.vread ctx a.toNat (64 + 4 * bytesAt h 6 2) = some (img, s2) → bytesAt img 6 2 = bytesAt h 6 2 →
        let n := bytesAt img 6 2
        let text := a.toNat + (64 + 4 * n + 63) / 64 * 64
        let entries := (List.range n).map fun i => bytesAt img (64 + 4 * i) 4
        bytesAt img 0 4 = 0x49484E44 → bytesAt img 4 2 = 1 → 1 ≤ n → n ≤ 256 → bytesAt img 8 4 ≠ 0 → bytesAt img 8 4 % 64 = 0 →
        (∀ x ∈ (img.drop 12).take 52, x = 0) → (∀ x ∈ entries, x % 4 = 0 ∧ x < bytesAt img 8 4) →
        s2.pinnedFor .fetch ctx (BitVec.ofNat 64 text).toNat (bytesAt img 8 4) = true →
        ∃ t : State, exec (.himage ring ctx a) s = .next t ∧ s.reports t ring 0 ∧ (a, BitVec.ofNat 64 text, entries) ∈ (t.ctxOf ctx).images
          ∧ ∀ x ∈ (t.ctxOf ctx).images, x.1 = a → x = (a, BitVec.ofNat 64 text, entries))

/-- R72, R73, R74, R416: attaching and closing a queue.

R409, R410, R417: reading and writing the device's state through a buffer of HBM. That the hypervisor's buffer lies in HBM that no partition
holds, and that a partition does not reach the counters of all memories, are the model's readings (log 120). -/
def Obligations.QueueAndStateCommands : Prop :=
  (∀ (ring ctx q : Nat) (s : State), s.mayCommand ring ctx →
      let p := (s.ctxOf ctx).part
      (∀ lo hi : Word, s.queueNamed (hi ++ lo) = some q →
        ((ring = 16 ∨ ring = (s.queueOf q).part) →
          ∃ t : State, exec (.qclose ring ctx lo hi) s = .next t ∧ s.reports t ring 0 ∧ (t.queueOf q).state = .closed)
        ∧ (ring ≠ 16 → ring ≠ (s.queueOf q).part → exec (.qclose ring ctx lo hi) s = .next (s.answered ring 1 id)))
      ∧ (∀ lo hi : Word, s.queueNamed (hi ++ lo) = none → exec (.qclose ring ctx lo hi) s = .next (s.answered ring 2 id))
      ∧ (∀ (desc : Word) (b : List Byte) (s1 : State), (s.running ring).vread ctx desc.toNat 128 = some (b, s1) →
        let name : Name := BitVec.ofNat 128 (bytesAt b 0 16)
        let at_ := bytesAt b 0x10 8
        let lg := bytesAt b 0x18 1
        desc.toNat % 128 = 0 → at_ % 4096 = 0 → 4 ≤ lg → lg ≤ 16 → bytesAt b 0x40 8 % 64 = 0 → bytesAt b 0x1A 6 = 0 →
        (∀ x ∈ b.drop 0x48, x = 0) → s1.rangeInHbm ctx desc.toNat 128 = true → s1.rangeInHbm ctx at_ (64 * 2 ^ lg) = true →
        q = nameCounter name → s1.resolve p name = .found 0 q → nameClass name = classQUEUE → (s1.nameEntry q).addr = desc →
        (s1.hub.queues.filter fun x => x.2.part == p && decide (x.2.state ≠ .none ∧ x.2.state ≠ .closed)).length < (s1.partOf p).queueQuota →
        ((((s.queueOf q).state = .none ∨ (s.queueOf q).state = .closed) ∧ (s.queueOf q).packets = []) →
          ∃ t : State, exec (.qattach ring ctx desc) s = .next t ∧ s.reports t ring 0
            ∧ (let k := t.queueOf q
               k.state = .idle ∧ k.name = name ∧ k.part = p ∧ k.ctx = ctx ∧ k.desc = desc ∧ k.ring = BitVec.ofNat 64 at_ ∧ k.lgslots = lg
                ∧ k.errrec = BitVec.ofNat 64 (bytesAt b 0x40 8) ∧ k.packets = [] ∧ k.awaiting = [] ∧ k.teardown = false
                ∧ k.attachOrder = s.hub.attachCount))
        ∧ (((s.queueOf q).state = .idle ∨ (s.queueOf q).state = .mapped ∨ (s.queueOf q).state = .error ∨ (s.queueOf q).state = .paged) →
          ∃ t : State, exec (.qattach ring ctx desc) s = .next t ∧ s.reports t ring 3 ∧ t.queueOf q = s.queueOf q)))
  ∧ (∀ (ring ctx : Nat) (cls id0 id1 offset len buf : Word) (s : State), s.mayCommand ring ctx →
      let r := s.running ring
      let reach : Option Nat := if ring = 16 then none else some ring
      let (o, n, a) := (offset.toNat, len.toNat, buf.toNat)
      ((o % 8 ≠ 0 ∨ n % 8 ≠ 0 ∨ n < 8 ∨ 4096 < n ∨ a % 8 ≠ 0 ∨ s.inHbm reach a n = false) →
        exec (.staterd ring ctx cls id0 id1 offset len buf) s = .next (s.answered ring 2 id)
        ∧ exec (.statewr ring ctx cls id0 id1 offset len buf) s = .next (s.answered ring 2 id))
      ∧ (o % 8 = 0 → n % 8 = 0 → 8 ≤ n → n ≤ 4096 → a % 8 = 0 → s.inHbm reach a n = true →
        (∀ b, cls.toNat < 256 → r.objectForm reach ctx cls.toNat id0 id1 (o + n) = .ok b → o + n ≤ b.length →
          ∃ t : State, exec (.staterd ring ctx cls id0 id1 offset len buf) s = .next t ∧ s.reports t ring 0
            ∧ ∀ i, i < n → FMap.get Mem.byte0 t.mem.bytes (hbmKey a + i) = (b[o + i]?).getD 0)
        ∧ (∀ st, cls.toNat < 256 → r.objectForm reach ctx cls.toNat id0 id1 (o + n) = .error st →
          exec (.staterd ring ctx cls id0 id1 offset len buf) s = .next (s.answered ring st id))
        ∧ (cls.toNat ∉ [3, 5, 6, 7, 10] → exec (.statewr ring ctx cls id0 id1 offset len buf) s = .next (s.answered ring 2 id))
        ∧ (∀ (b : List Byte) (pa : PAddr), cls = 6 → id1 = 0 → r.objectForm reach ctx 6 id0 0 (o + n) = .ok b → b.length = 8 → o = 0 → n = 8 →
          r.placeOf ctx id0.toNat = some pa → s.mem.parked = [] →
          ∃ t : State, exec (.statewr ring ctx cls id0 id1 offset len buf) s = .next t ∧ s.reports t ring 0 ∧ t.mem.bytes = s.mem.bytes
            ∧ ∀ k, k < 8 → FMap.get 0 t.mem.tags (8 * pa.block + k) = (FMap.get Mem.byte0 s.mem.bytes (hbmKey a + k)).setWidth 4)
        ∧ (∀ b, cls = 10 → id0 = 0 → r.objectForm reach ctx 10 0 id1 (o + n) = .ok b → o + n ≤ b.length →
          (∀ i, i < n → FMap.get Mem.byte0 s.mem.bytes (hbmKey a + i) = 0) →
          ∃ t : State, exec (.statewr ring ctx cls id0 id1 offset len buf) s = .next t ∧ s.reports t ring 0
            ∧ (∀ e, FMap.get 0 t.mem.errors e = 0 ∨ FMap.get 0 t.mem.errors e = FMap.get 0 s.mem.errors e)
            ∧ ∀ j sp i, allMemories[j]? = some sp → i < 2 → o ≤ 16 * j + 8 * i → 16 * j + 8 * i + 8 ≤ o + n →
                FMap.get 0 t.mem.errors (2 * sp.index + i) = 0)
        ∧ (∀ (b : List Byte) (pa : PAddr), cls = 10 → id0 ≠ 0 → r.objectForm reach ctx 10 id0 id1 (o + n) = .ok b → o + n ≤ b.length →
          (∀ i, i < n → FMap.get Mem.byte0 s.mem.bytes (hbmKey a + i) = 0) → r.placeOf ctx id0.toNat = some pa →
          (∀ e, FMap.get 0 s.mem.errors e < 2 ^ 64) →
          let reset (e : Nat) : Prop := ∃ i, i < 2 ∧ e = 2 * pa.space.index + i ∧ o ≤ 8 * i ∧ 8 * i + 8 ≤ o + n
          ∃ t : State, exec (.statewr ring ctx cls id0 id1 offset len buf) s = .next t ∧ s.reports t ring 0
            ∧ ∀ e, (reset e → FMap.get 0 t.mem.errors e = 0) ∧ (¬ reset e → FMap.get 0 t.mem.errors e = FMap.get 0 s.mem.errors e))
        ∧ (ring ≠ 16 → cls = 10 → id0 = 0 →
          exec (.staterd ring ctx cls id0 id1 offset len buf) s = .next (s.answered ring 1 id)
          ∧ ((∀ i, i < n → FMap.get Mem.byte0 s.mem.bytes (hbmKey a + i) = 0) →
            exec (.statewr ring ctx cls id0 id1 offset len buf) s = .next (s.answered ring 1 id)))))

/-- R109, R385, R387, R392, R396, R398: the settlement of a strand parked at the kernel or on a fetch, or stopped at its restore.

That the budget is the area's, less what has elapsed since the save (R103; log entry 91, DEDUCED), and that a REQUEUE restores first and is
DENIED for an urgent slot (log 64), are the model's readings. -/
def Obligations.SettleCommands : Prop :=
  (∀ (ring ctx core slot : Nat) (vcore : Word) (x : Strand) (s : State), s.mayCommand ring ctx → s.namedCore ctx vcore.toNat = some core →
    slot < 10 → s.strandAt core slot = some x → x.ctx = ctx → x.pfx.count = 0 →
    let w := BitVec.ofNat 64 slot
    let busy (e : Instr) : Prop := exec e s = .next (s.answered ring 3 id)
    let field (i o n : Nat) : Nat := s.hbmNat (s.areaAddr ctx i + o) n
    let restored (u : Strand) (i : Nat) : Prop := u.ktrap = false ∧ u.area = none ∧ u.banks = 0 ∧ u.pc.toNat = field i 0 8 / 4 * 4
      ∧ u.halted = decide (field i 0xAF 1 % 2 = 1)
      ∧ u.stk.toNat = field i 8 8 ∧ u.epc.toNat = field i 0x18 8 ∧ u.budget.toNat = field i 0xA0 8 - (x.savedBudget.toNat - x.budget.toNat)
      ∧ (∀ e, e < 64 → (FMap.get 0 u.stack e).toNat = field i (0x140 + 8 * e) 8)
      ∧ (∀ r n, r < 16 → n < 64 → (FMap.get 0 u.vregs (64 * r + n)).toNat =
          if (BitVec.ofNat 16 (field i 0x3E 2)).getLsbD r then field i (0x340 + 256 * r + 4 * n) 4 else 0)
    (x.ktrap = true → x.area = none → x.wait ≠ .draining →
      busy (.settleResume ring ctx vcore w) ∧ busy (.settleRequeue ring ctx vcore w) ∧ busy (.settleKill ring ctx vcore w))
    ∧ (∀ i, x.ktrap = true → x.wait = .kernel → x.area = some i → s.mem.poison = [] →
      (∃ (t : State) (u : Strand), exec (.settleResume ring ctx vcore w) s = .next t ∧ s.reports t ring 0 ∧ t.strandAt core slot = some u
        ∧ u.wait = .none ∧ restored u i ∧ i ∉ (t.ctxOf ctx).areas ∧ t.mem = s.mem ∧ t.eng = s.eng)
      ∧ (x.urg = true → exec (.settleRequeue ring ctx vcore w) s = .next (s.answered ring 1 id))
      ∧ (x.urg = false → x.budgetDue = false → x.savedBudget.toNat - x.budget.toNat < field i 0xA0 8 →
        ∃ (t : State) (u : Strand), exec (.settleRequeue ring ctx vcore w) s = .next t ∧ s.reports t ring 0
        ∧ t.strandAt core slot = some u ∧ u.wait = .draining ∧ restored u i ∧ i ∉ (t.ctxOf ctx).areas ∧ t.mem.bytes = s.mem.bytes))
    ∧ ((x.ktrap = false ∨ x.area ≠ none) → (x.wait = .kernel ∨ x.wait = .fetch) → (x.ktrap = true ∨ x.wait = .fetch) →
      ∃ t : State, exec (.settleKill ring ctx vcore w) s = .next t ∧ s.reports t ring 0
        ∧ ∀ u ∈ t.all, u.isLive = true → u.uid ≠ x.uid ∨ (s.ages < u.uid ∧ u.place = .pending core))
    ∧ (x.ktrap = false → x.wait = .fetch →
      exec (.settleResume ring ctx vcore w) s = .next (s.answered ring 0 fun s => s.setStrand core slot fun y => { y with wait := .none })
      ∧ ∀ (kind level cause : Nat) (remote : Bool) (s' : State), 1 ≤ kind → kind ≤ 11 → level < 8 →
          translate x.fetchReq x.pc.toNat (s.running ring) = .ok (.fail cause level remote) s' →
          exec (.fetchprot ring ctx vcore w (BitVec.ofNat 64 kind)) s = .next (s.answered ring 0 fun s =>
            ((s.setStrand core slot fun y => { y with wait := .none }).switchTo core slot).takeTrap
              { cause := .prot, tinfo := BitVec.ofNat 64 (kind + 256 + 512 * 3 + 4096 * level), taddr := x.pc })))
  ∧ (∀ (ring ctx core slot : Nat) (vcore : Word) (z : Strand) (s : State), s.mayCommand ring ctx →
      s.namedCore ctx vcore.toNat = some core → slot < 10 → s.strandAt core slot = none →
      s.all.find? (fun t => t.isLive && !t.bound && t.ctx == ctx && t.core == core && (t.ktrap || t.restErr) && t.kslot == slot) = some z →
      (z.ktrap = false ∨ z.area ≠ none) →
      let w := BitVec.ofNat 64 slot
      exec (.settleResume ring ctx vcore w) s = .next (s.answered ring 0 fun s => s.mapAll fun u =>
          if u.uid = z.uid ∧ u.isLive then { u with ktrap := false, restErr := false, kcause := 0, wait := .none, halted := s.savedHalt z }
          else u)
      ∧ (z.urg = false → exec (.settleRequeue ring ctx vcore w) s = .next (s.answered ring 0 id))
      ∧ ∃ t : State, exec (.settleKill ring ctx vcore w) s = .next t ∧ s.reports t ring 0 ∧ ∀ u ∈ t.all, u.isLive = true → u.uid ≠ z.uid)

/-- R281, R287, R397, R416: the settlement of a paused op, and the kill of a context.

R397: a kill completes once its ops have ended, and nothing of the context is left. That the context itself is gone then is the model's
reading (log 66). -/
def Obligations.OpsAndKills : Prop :=
  (∀ (ring ctx n : Nat) (h : Word) (s : State), s.mayCommand ring ctx →
      let o := s.opOf n
      (s.handleAway ctx h = false → (s.opOfHandle h = none ∨ (s.opOfHandle h = some n ∧ o.ctx ≠ ctx)) →
        exec (.opsettleResume ring ctx h) s = .next (s.answered ring 1 id) ∧ exec (.opsettleFail ring ctx h) s = .next (s.answered ring 1 id))
      ∧ (s.opOfHandle h = some n → o.ctx = ctx → (o.state ≠ .paused ∨ o.gen.toNat ≠ h.toNat / 281474976710656) →
        exec (.opsettleResume ring ctx h) s = .next (s.answered ring 3 id) ∧ exec (.opsettleFail ring ctx h) s = .next (s.answered ring 3 id))
      ∧ (s.opOfHandle h = some n → o.ctx = ctx → o.state = .paused → o.gen.toNat = h.toNat / 281474976710656 →
        (∃ t : State, exec (.opsettleResume ring ctx h) s = .next t ∧ s.reports t ring 0 ∧ (t.opOf n).state = .running
          ∧ (t.opOf n).desc = o.desc ∧ (t.opOf n).issuedUnits = o.issuedUnits ∧ (∀ m, m ≠ n → t.opOf m = s.opOf m) ∧ t.mem = s.mem)
        ∧ ∃ t : State, exec (.opsettleFail ring ctx h) s = .next t ∧ s.reports t ring 0 ∧ (t.opOf n).state = .failed
            ∧ (t.opOf n).fault = o.fault ∧ (o.parked = [] → ∀ m, m ≠ n → t.opOf m = s.opOf m))
      ∧ (s.handleAway ctx h = true → ∃ (t u : State) (x y : Nat), x ∈ [0, 1, 3] ∧ y ∈ [0, 1, 3]
        ∧ exec (.opsettleResume ring ctx h) s = .next t ∧ s.reports t ring x ∧ t.eng = s.eng ∧ t.mem = s.mem ∧ t.me = s.me
        ∧ exec (.opsettleFail ring ctx h) s = .next u ∧ s.reports u ring y ∧ u.eng = s.eng ∧ u.mem = s.mem ∧ u.me = s.me)
      ∧ ((s.ctxOf ctx).killing = true → exec (.ctxkill ring ctx) s = .next (s.answered ring 3 id))
      ∧ ((s.ctxOf ctx).killing = false → ∃ t : State, exec (.ctxkill ring ctx) s = .next t
          ∧ (t.ctxOf ctx).killing = true ∧ t.ringReady ring = false
          ∧ (∀ q, (s.queueOf q).ctx = ctx → (s.queueOf q).state ≠ .none → (t.queueOf q).state = .closed)
          ∧ (∀ u ∈ t.mem.parked, ∀ y ∈ s.all, y.ctx = ctx → y.isLive = true → y.bound = true → u.who ≠ .strand y.core y.slot)
          ∧ ∀ m, (s.opOf m).ctx = ctx → (s.opOf m).live = true →
              (t.opOf m).state = .cancelled ∨ ((t.opOf m).cancelReq = true ∧ (t.opOf m).state = (s.opOf m).state)))
  ∧ (∀ (ctx ring : Nat) (s : State), (s.ctxOf ctx).killing = true → (s.ctxOf ctx).killRing = some ring →
      (∀ o ∈ s.eng.ops, o.2.ctx = ctx → o.2.live = false) →
        ∃ t : State, exec (.ctxkillComplete ctx) s = .next t ∧ s.reports t ring 0 ∧ (t.ctxOf ctx).live = false
          ∧ (∀ y ∈ t.all, y.isLive = true → y.ctx ≠ ctx) ∧ (∀ y ∈ s.strands, y.ctx ≠ ctx → ∃ z ∈ t.strands, z.uid = y.uid)
          ∧ (∀ u ∈ t.mem.parked, u.ctx ≠ ctx) ∧ (∀ m ∈ t.eng.messages, m.ctx ≠ ctx) ∧ (∀ e ∈ t.eng.entries, e.ctx ≠ ctx)
          ∧ (∀ l, (t.launchOf l).live = true → (t.launchOf l).ctx ≠ ctx)
          ∧ (∀ y ∈ s.all, y.isLive = true → y.ctx = ctx → y.bound = true → ∀ b h, b < 4 → (s.bankOf y.core b).cond = .held y.slot h →
              (t.bankOf y.core b).cond = .free ∧ ∀ k, k < 4096 → FMap.get 0 t.eng.acc (4096 * (4 * y.core + b) + k) = 0))

/-- R32, R34, R193, R240, R414, R415, R416: the hypervisor's commands on partitions, the contexts of a partition, and its scrub. -/
def Obligations.PartitionLife : Prop :=
  ∀ (ring p : Nat) (part : Word) (islands : BitVec 32) (sysCores : BitVec 16) (hbm : List (Nat × Nat)) (qps queues map w : Word)
    (irq : BitVec 4) (ports : BitVec 2) (s : State),
    let old := s.partOf p
    let set (ring : Nat) : Instr := .partset ring part islands sysCores hbm irq ⟨qps, ports⟩ queues
    let answers (e : Instr) (st : Nat) : Prop := exec e s = .next (s.answered 16 st id)
    (ring ≠ 16 → s.ringReady ring = true → ∀ e ∈ [set ring, .reach ring part map, .rank ring part w, .partceil ring part w, .pkglimit ring w,
        .park ring w, .unpark ring w], exec e s = .next (s.answered ring 1 id))
    ∧ (s.ringReady 16 = true → s.partsWf → part.toNat = p →
      (15 < p → answers (set 16) 2)
      ∧ (p ≤ 15 → (s.partBusy p = true ∨ old.scrubbing = true) → answers (set 16) 3)
      ∧ (p ≤ 15 → s.partBusy p = false → old.scrubbing = false →
        (islands = 0 → sysCores = 0 → old.live = true → (∀ c ∈ s.hub.ctxs, c.2.live = true → c.2.part ≠ p) →
          exec (set 16) s = .next (s.answered 16 0 fun s => s.setPart p fun q => { q with scrubbing := true }))
        ∧ (islands ≠ 0 → sysCores ≠ 0 → sysCores.getLsbD irq.toNat = true → hbm.length ≤ 64 →
          hbm.Pairwise (fun a b => rangesMeet a b = false) → (∀ r ∈ hbm, 0 < r.2 ∧ r.1 + r.2 ≤ 896) → queues.toNat ≤ 65536 →
          qps.toNat + (s.sharedQuotas p).1 ≤ 16384 * (2 - portCount ((s.sharedQuotas p).2 ||| ports)) →
          s.resourceTaken p islands sysCores hbm ports = false → s.ctxOutside p islands = false →
          ∃ t : State, exec (set 16) s = .next t ∧ s.reports t 16 0 ∧ t.capped t ∧ t.mem = s.mem
            ∧ (let q := t.partOf p
               q.live = true ∧ q.islands = islands ∧ q.sysCores = sysCores ∧ q.irqCore = irq ∧ q.qpQuota = qps.toNat
                ∧ q.hbm = hbm ∧ q.netPorts = ports ∧ q.queueQuota = queues.toNat ∧ q.rank = old.rank ∧ q.ceiling = old.ceiling
                ∧ (old.image ≠ none → q.image = old.image))
            ∧ (∀ k, k ≠ p → (t.partOf k).islands = (s.partOf k).islands ∧ (t.partOf k).live = (s.partOf k).live)
            ∧ (∀ c, c < Config.cores → (islands ^^^ old.islands).getLsbD (c / 80) = true → (t.coreOf c).names = [])))
      ∧ (p ≤ 15 → old.live = true → s.inHbm none map.toNat 64 = true →
          ∃ t : State, exec (.reach 16 part map) s = .next t ∧ s.reports t 16 0 ∧ t.mem = s.mem ∧ (t.partOf p).islands = old.islands
            ∧ ∀ c ∈ (t.partOf p).reach, c < 384 ∧ c ≠ s.hub.chip))
    ∧ (∀ (ctx : Nat) (plies : List Nat), old.live = true → old.scrubbing = false → ctx < 65535 → (s.ctxOf ctx).live = false →
        (∀ y ∈ plies, y < Config.plies ∧ old.islands.getLsbD (y / 5) = true) →
        ∃ t : State, exec (.contextCreate p ctx plies) s = .next t ∧ (t.ctxOf ctx).live = true ∧ (t.ctxOf ctx).part = p
          ∧ (t.ctxOf ctx).plies = (List.range Config.plies).filter (fun y => plies.contains y)
          ∧ (t.ctxOf ctx).root = Ctx.none.root ∧ (t.ctxOf ctx).born = s.ages ∧ (t.ctxOf ctx).savePool = Ctx.none.savePool
          ∧ (∀ c, c ≠ ctx → t.ctxOf c = s.ctxOf c) ∧ t.mem = s.mem ∧ t.me = s.me)
    ∧ (old.scrubbing = true → s.partsWf →
        ∃ t : State, exec (.partitionScrubComplete p) s = .next t ∧ (t.partOf p).live = false ∧ t.capped t
          ∧ (∀ n, (t.nameEntry n).state ≠ .free → (t.nameEntry n).part ≠ p)
          ∧ (∀ n, (t.qpOf n).live = true → (t.qpOf n).part ≠ p)
          ∧ (∀ k, s.partHolds p k → FMap.get Mem.byte0 t.mem.bytes k = 0 ∧ FMap.get 0 t.mem.tags (k / 8) = 0
              ∧ FMap.get Mem.desc0 t.mem.descs (k / 64) = Mem.desc0 ∧ FMap.get 0 t.mem.selects (k / 4096) = 0)
          ∧ (∀ c n, c < Config.cores → old.islands.getLsbD (c / 80) = true → n < 8 →
              FMap.get none t.mem.owners (slotKey (.ls c) n) = none ∧ FMap.get 0 t.mem.vectors (slotKey (.ls c) n) = 0
              ∧ ∀ e, e < 128 → FMap.get 0 t.mem.tables (tableKey (.ls c) n e) = 0))

/-- R18, R424–R427: ranks, ceilings, cap frames and the control loops. That the signature's check is an operand of the datagram, and that the
frame in force stays until the next is applied, are the model's choices (log 123).

R419, R427: a ceiling that changes tells the kernel of the partition that owns the island; that a change of the cause alone does not is the
model's reading (log 69).

R428: an idle island is parked, an access starts its exit, and a command on it completes when the entry or the exit does. -/
def Obligations.CapsAndRetention : Prop :=
  (∀ (p island mhz : Nat) (part w : Word) (f : CapFrame) (s : State), s.partsWf →
      let k := s.pkg
      let applies (e : Instr) (g : State → Prop) : Prop := ∃ t : State, exec e s = .next t ∧ t.capped t ∧ g t
      (s.ringReady 16 = true → part.toNat = p → p ≤ 15 → (s.partOf p).live = true →
        (w.toNat ≤ 15 → applies (.rank 16 part w) fun t => s.reports t 16 0 ∧ (t.partOf p).rank = w.setWidth 4 ∧ t.pkg.frame = k.frame)
        ∧ (15 < w.toNat → exec (.rank 16 part w) s = .next (s.answered 16 2 id))
        ∧ ((w = 0 ∨ (800 ≤ w.toNat ∧ w.toNat ≤ 2500)) →
            applies (.partceil 16 part w) fun t => s.reports t 16 0 ∧ (t.partOf p).ceiling = w.toNat)
        ∧ ((w ≠ 0 ∧ (w.toNat < 800 ∨ 2500 < w.toNat)) → exec (.partceil 16 part w) s = .next (s.answered 16 2 id)))
      ∧ (s.ringReady 16 = true →
          if 1500 ≤ w.toNat ∧ w.toNat ≤ 8000 then ∃ t : State, exec (.pkglimit 16 w) s = .next t ∧ s.reports t 16 0 ∧ t.pkg.pkgLimit = w.toNat
          else exec (.pkglimit 16 w) s = .next (s.answered 16 2 id))
      ∧ (let field (f : CapFrame) (o n : Nat) : Nat := bytesAt f.payload o n
         let good (f : CapFrame) : Prop := f.payload.length = 1344 ∧ field f 0 4 = 0x43415046 ∧ field f 4 2 = 1 ∧ field f 7 1 = 0 ∧ field f 0x14 12 = 0
            ∧ field f 6 1 ≤ 1 ∧ (FMap.get none k.hallKeys (field f 6 1)).isSome = true ∧ k.capSeq.toNat < field f 8 8 ∧ f.sigOk = true
         let held (f : CapFrame) (time : Nat) : FrameInForce := { seq := BitVec.ofNat 64 (field f 8 8), life := BitVec.ofNat 32 (field f 0x10 4)
                                                                  levels := (List.range 16).map fun r => BitVec.ofNat 16 (field f (0x20 + 2 * r) 2)
                                                                  received := time }
         let lapsed (x : FrameInForce) : Prop := x.received + 10000000 * x.life.toNat ≤ s.time
         (f.udpPort ≠ 7218 → exec (.capFrame f) s = .next s)
         ∧ (f.udpPort = 7218 → k.frameNext = none → good f → exec (.capFrame f) s = .next { s with pkg := { k with
            capSeq := BitVec.ofNat 64 (field f 8 8), frameNext := some (held f s.time) } })
         ∧ (f.udpPort = 7218 → k.frameNext = none → ¬ good f →
            exec (.capFrame f) s = .next { s with pkg := { k with framesDropped := k.framesDropped + 1 } })
         ∧ (f.udpPort = 7218 → k.frameNext ≠ none → k.framesWaiting.length < 4 →
            exec (.capFrame f) s = .next { s with pkg := { k with framesWaiting := k.framesWaiting ++ [(f, s.time)] } })
         ∧ (f.udpPort = 7218 → k.frameNext ≠ none → 4 ≤ k.framesWaiting.length →
            exec (.capFrame f) s = .next { s with pkg := { k with framesDropped := k.framesDropped + 1 } })
         ∧ (∀ x, k.frameNext = some x → k.framesWaiting = [] → applies .capFrameApply fun t => t.pkg.frame = some x ∧ t.pkg.frameNext = none
            ∧ t.pkg.appliedSeq = x.seq ∧ t.pkg.capSeq = k.capSeq)
         ∧ (∀ (x : FrameInForce) (rest : List (CapFrame × Nat)) (time : Nat), k.frameNext = some x → k.framesWaiting = (f, time) :: rest →
            (good f → ∃ t : State, exec .capFrameApply s = .next t ∧ t.pkg.frame = some x ∧ t.pkg.appliedSeq = x.seq
              ∧ t.pkg.frameNext = some (held f time) ∧ t.pkg.framesWaiting = rest)
            ∧ (good f → lapsed x → (∀ y, k.frame = some y → ¬ lapsed y) → exec .capFrameLapse s = .next { s with pkg := { k with
              capSeq := BitVec.ofNat 64 (field f 8 8), frameNext := some (held f time), framesWaiting := rest } }))
         ∧ (∀ x, k.frame = some x → lapsed x → (∀ y, k.frameNext = some y → ¬ lapsed y) →
            applies .capFrameLapse fun t => t.pkg.frame = none ∧ t.pkg.frameNext = k.frameNext))
      ∧ (applies .pkgControlTick fun t => ∀ i, i < 32 → FMap.get ParkState.running k.parkState i = .parked →
          FMap.get 0 t.pkg.pkgBound i = FMap.get 0 k.pkgBound i)
      ∧ (applies .thermControlTick fun t => t.pkg.pkgBound = k.pkgBound)
      ∧ (island < 32 →
          (∃ t : State, exec (.regulatorAlert island mhz) s = .next t ∧ FMap.get 0 t.pkg.currBound island = mhz
            ∧ FMap.get capcause0 t.pkg.capcause island = t.capWord island)
          ∧ (FMap.get 0 k.currBound island ≠ 0 → FMap.get 0 k.currAt island + 10000000 ≤ s.time →
              ∃ t : State, exec (.currHoldExpiry island) s = .next t ∧ FMap.get 0 t.pkg.currBound island = 0
                ∧ FMap.get capcause0 t.pkg.capcause island = t.capWord island)))
  ∧ (∀ (island mhz p : Nat) (q : Part) (s : State), island < 32 → s.partsWf →
      s.hub.parts.find? (fun x => x.2.live && x.2.islands.getLsbD island) = some (p, q) →
      let u := { s with pkg := { s.pkg with currBound := FMap.set 0 s.pkg.currBound island mhz } }
      (FMap.get capcause0 s.pkg.capcause island).toNat / 65536 % 4096 ≠ (u.capWord island).toNat / 65536 % 4096 →
        ∃ t : State, exec (.regulatorAlert island mhz) s = .next t ∧ s.notified t p 4 0xFFFF [BitVec.ofNat 64 island, u.capWord island, 0, 0]
          ∧ (∀ n, n ≠ p → t.partOf n = s.partOf n) ∧ t.mem = s.mem ∧ t.me = s.me)
  ∧ (∀ (island : Nat) (w : Word) (s : State), w.toNat = island → island < 32 →
      let at_ (t : State) (x : ParkState) : Prop := FMap.get ParkState.running t.pkg.parkState island = x
      let idle : Prop := (∀ t ∈ s.all, t.bound = true → t.core / 80 ≠ island) ∧ (∀ o ∈ s.eng.ops, o.2.live = true → o.2.core / 80 ≠ island)
      let completes (e : Instr) (x : ParkState) : Prop := ∃ t : State, exec e s = .next t ∧ at_ t x ∧ t.mem = s.mem
        ∧ (s.hub.hvPark = some island → s.reports t 16 0 ∧ t.hub.hvPark = none) ∧ (s.hub.hvPark ≠ some island → t.hub = s.hub)
      (s.ringReady 16 = true → idle → at_ s .running →
        ∃ t : State, exec (.park 16 w) s = .next t ∧ at_ t .entering ∧ t.hub.hvPark = some island ∧ t.hub.hvCmds = s.hub.hvCmds)
      ∧ (s.ringReady 16 = true → (¬ idle ∨ ¬ at_ s .running) → exec (.park 16 w) s = .next (s.answered 16 3 id))
      ∧ (s.ringReady 16 = true → at_ s .parked →
        ∃ t : State, exec (.unpark 16 w) s = .next t ∧ at_ t .exiting ∧ t.hub.hvPark = some island ∧ t.hub.hvCmds = s.hub.hvCmds)
      ∧ (s.ringReady 16 = true → at_ s .running → exec (.unpark 16 w) s = .next (s.answered 16 0 id))
      ∧ (at_ s .parked → ∃ t : State, exec (.islandExit island) s = .next t ∧ at_ t .exiting ∧ t.hub = s.hub ∧ t.mem = s.mem)
      ∧ (at_ s .entering → completes (.retentionComplete island) .parked)
      ∧ (at_ s .exiting → s.mem.parked = [] → completes (.retentionComplete island) .running))

/-- R25, R421, R422: a boot whose steps succeed leaves the package as after reset, with a new boot serial and its image; the first
step that fails stops it, and then only a recovery image is taken. That the memories are then as after the first reset, and whether a step
succeeds, are the model's choices (log 5).

R423, R433: the SPDM requests; a requester that does not offer version 1.3 is refused until it asks anew. -/
def Obligations.BootAndIdentity : Prop :=
  (∀ (s : State) (image : FirmwareImage),
      let k := s.pkg
      let n := s.hub.serial.toNat
      let next : Option FirmwareImage := match k.nextImage with | some i => some i | none => k.image
      let good : Prop := ∃ i, next = some i ∧ i.sigOk = true ∧ Config.rollbackFuse ≤ i.rollback ∧ (k.recovery = true → i.recovery = true)
      (n + 1 < 1099511627776 → good → (∀ j, 1 ≤ j → j ≤ 3 → Config.bootStepOk n j = true) → (∀ j, 4 ≤ j → j ≤ 7 → Config.bootStepOk (n + 1) j = true) →
        ∃ t : State, exec .boot s = .next t ∧ t.pkg.bootStep = 7 ∧ t.pkg.bootFailed = none ∧ t.hub.serial = s.hub.serial + 1 ∧ t.pkg.image = next
          ∧ t.pkg.nextImage = none ∧ t.pkg.recovery = false ∧ t.pkg.hallKeys = k.hallKeys ∧ t.pkg.capSeq = k.capSeq
          ∧ t.mem = State.reset.mem ∧ t.me = State.reset.me ∧ t.strands = [] ∧ t.eng = State.reset.eng ∧ t.hub.names = [] ∧ t.hub.parts = []
          ∧ t.hub.ctxs = [] ∧ t.hub.chip = s.hub.chip ∧ t.pkg.frame = none ∧ t.pkg.harvested = true ∧ t.pkg.keySerial = n + 1
          ∧ ∀ i, i < 24 → (t.portOf i).trained =
              (Config.linkLocks i 0 && ((Config.twinePartner i (n + 1)).contains 1 || (Config.twinePartner i (n + 1)).contains 2)))
      ∧ ((∃ i, next = some i) → ¬ good → Config.bootStepOk n 1 = true →
        ∃ t : State, exec .boot s = .next t ∧ t.pkg.bootStep = 1 ∧ t.pkg.bootFailed = some 2 ∧ t.pkg.recovery = true ∧ t.hub.serial = s.hub.serial)
      ∧ ((k.recovery = false ∨ image.recovery = true) →
          exec (.firmwareImageWrite image) s = .next { s with pkg := { k with nextImage := some image } })
      ∧ (k.recovery = true → image.recovery = false → exec (.firmwareImageWrite image) s = .next s))
  ∧ (∀ (port : SpdmPort) (nonce : Word) (falcon shake : Bool) (versions : List Nat) (s : State),
      let x (t : State) : Spdm := match port with | .host => t.pkg.spdmHost | .management => t.pkg.spdmMgmt
      let other (t : State) : Spdm := match port with | .host => t.pkg.spdmMgmt | .management => t.pkg.spdmHost
      let gives (e : Instr) (g : Spdm → Prop) : Prop := ∃ t : State, exec e s = .next t ∧ g (x t) ∧ other t = other s ∧ t.mem = s.mem
        ∧ t.hub = s.hub ∧ t.me = s.me ∧ t.pkg.sessions = s.pkg.sessions
      (gives (.getVersion ⟨port, versions⟩) fun y => y.negotiated = false
        ∧ (0x13 ∈ versions → y.version = true ∧ y.refused = false ∧ y.answer = [0x13])
        ∧ (0x13 ∉ versions → y.version = false ∧ y.refused = true ∧ y.answer = []))
      ∧ ((x s).refused = true → (x s).version = false →
        ∀ e ∈ [Instr.getCapabilities port, .negotiateAlgorithms port falcon shake, .getCertificate port, .challenge port nonce, .getMeasurements port],
          gives e fun y => y = x s)
      ∧ (((x s).refused = true → (x s).version = true) →
      (gives (.getCapabilities port) fun y => y.capabilities = true)
      ∧ (gives (.negotiateAlgorithms port falcon shake) fun y =>
          y.negotiated = (falcon && shake) ∧ y.refused = !(falcon && shake) ∧ y.answer = (if falcon && shake then [1, 1] else []))
      ∧ (gives (.getCertificate port) fun y => y.answer = [Config.certificate])
      ∧ (gives (.challenge port nonce) fun y => y.answer = [nonce.toNat, Config.deviceSign nonce.toNat])
      ∧ (gives (.getMeasurements port) fun y => y.answer.length = 20
          ∧ (y.answer[0]? = some (Config.measurement 1 0).toNat)
          ∧ (∀ i, s.pkg.image = some i → y.answer[1]? = some i.digest.toNat)
          ∧ ∀ p, p < 16 → y.answer[p + 3]? = some (((s.partOf p).image).getD 0).toNat)))

/-- R398, R407, R408, R411, R412, R424: sessions, halts, stops and sampling intervals. A HALT waits for the strands that it stops. That a
strand goes on at a RESUME only where the HALT of no other target stands on it, and a restored halt in its save area, are the model's
reading (log 72). -/
def Obligations.DebugCommands : Prop :=
  ∀ (session ctx part : Nat) (r : DebugRight) (st : Nat) (v : Option Nat) (pc interval : Word) (key : BitVec 1) (id : Nat) (auth : Bool)
    (vcore : BitVec 32) (slot : Nat) (us : List Nat) (s : State),
    let made (e : Instr) (g : State → Prop) : Prop := ∃ t : State, exec e s = .next t ∧ s.replies t session 0 ∧ g t
    let answers (e : Instr) (k : Nat) : Prop := exec e s = .next (s.replied session k)
    let changed (t : State) (g : Strand → Strand → Prop) : Prop := t.strands.length = s.strands.length
      ∧ ∀ i, i ≤ s.strands.length → ∀ x, s.all[i]? = some x → ∃ y, t.all[i]? = some y ∧ g x y
    let halts (target : DebugTarget) (mine : Strand → Bool) (g : State → Prop) : Prop := ∃ t : State,
      exec (.halt session target) s = .next t ∧ g t ∧ t.mem = s.mem
      ∧ t.pkg.sessions = s.pkg.sessions.modify session (fun y => { y with
          status := 0, awaits := (s.all.filter fun x => mine x && x.bound && !x.halted).map (·.uid) })
      ∧ changed t fun x y => (mine x = false → y = x)
          ∧ (mine x = true → y = { x with haltReq := x.haltReq || !x.halted, haltBy := (x.haltBy ++ [target]).eraseDups })
    let resumes (target : DebugTarget) (mine : Strand → Bool) (g : State → Prop) : Prop := ∃ t : State,
      exec (.debugResume session target) s = .next t ∧ g t ∧ ((∀ x ∈ s.all, mine x = true → x.area = none) → t.mem = s.mem)
      ∧ t.pkg.sessions[session]? = some { right := r, status := 0, awaits := [] }
      ∧ (∀ i x, i ≠ session → s.pkg.sessions[i]? = some x → ∃ y, t.pkg.sessions[i]? = some y ∧ y.right = x.right ∧ y.status = x.status
          ∧ ∀ u, u ∈ y.awaits ↔ u ∈ x.awaits
              ∧ ¬ ∃ z ∈ s.all, mine z = true ∧ z.uid = u ∧ ((∀ h ∈ z.haltBy, h = target) ∨ z.haltReq = false))
      ∧ changed t fun x y => (mine x = false → y = x)
          ∧ (mine x = true → (∀ h ∈ x.haltBy, h = target) → y = { x with haltReq := false, halted := false, haltBy := [] })
          ∧ (mine x = true → (∃ h ∈ x.haltBy, h ≠ target) → y = { x with haltBy := x.haltBy.filter (· ≠ target) })
    (auth = true → s.pkg.sessions.length < 4 → exec (.debugSessionOpen r auth) s =
      .next { s with pkg := { s.pkg with sessions := s.pkg.sessions ++ [{ right := r, status := 0, awaits := [] }] } })
    ∧ ((auth = false ∨ 4 ≤ s.pkg.sessions.length) → exec (.debugSessionOpen r auth) s = .next s)
    ∧ (s.pkg.sessions[session]? = some { right := r, status := st, awaits := us } → (s.ctxOf ctx).live = true →
      ((∃ p, r = .partition p ∧ p ≠ (s.ctxOf ctx).part) → answers (.halt session (.context ctx)) 1 ∧ answers (.debugResume session (.context ctx)) 1
        ∧ answers (.stopset session ctx v pc) 1 ∧ answers (.stopclr session ctx v pc) 1 ∧ answers (.sample session ctx interval) 1)
      ∧ (rightCovers r (s.ctxOf ctx).part →
        (halts (.context ctx) (fun x => x.isLive && x.ctx == ctx) fun t => (t.ctxOf ctx).haltReq = true)
        ∧ (resumes (.context ctx) (fun x => x.isLive && x.ctx == ctx) fun t => (t.ctxOf ctx).haltReq = false)
        ∧ (let stops := (s.ctxOf ctx).stops
           (⟨v, pc⟩ ∈ stops → answers (.stopset session ctx v pc) 0)
           ∧ (⟨v, pc⟩ ∉ stops → stops.length < 64 → made (.stopset session ctx v pc) fun t => (t.ctxOf ctx).stops = stops ++ [⟨v, pc⟩])
           ∧ (⟨v, pc⟩ ∉ stops → 64 ≤ stops.length → answers (.stopset session ctx v pc) 3)
           ∧ made (.stopclr session ctx v pc) fun t => (∀ x, x ∈ (t.ctxOf ctx).stops ↔ x ∈ stops ∧ x ≠ ⟨v, pc⟩) ∧ t.mem = s.mem ∧ t.me = s.me)
        ∧ ((interval = 0 ∨ (256 ≤ interval.toNat ∧ interval.toNat ≤ 16777216)) →
            made (.sample session ctx interval) fun t => (t.ctxOf ctx).sampleInterval = interval.toNat)
        ∧ (interval ≠ 0 → (interval.toNat < 256 ∨ 16777216 < interval.toNat) → answers (.sample session ctx interval) 2)))
    ∧ (s.pkg.sessions[session]? = some { right := r, status := st, awaits := us } →
      (∀ l, (s.launchOf l).live = true → rightCovers r (s.launchOf l).part →
        (halts (.launch l) (fun x => x.launch == some l) fun t => (t.launchOf l).haltReq = true)
        ∧ (resumes (.launch l) (fun x => x.launch == some l) fun t => (t.launchOf l).haltReq = false)
        ∧ ∀ g, let mine (x : Strand) : Bool := x.launch == some l && x.counted && x.group == g
            halts (.group l g) mine (fun _ => True) ∧ resumes (.group l g) mine (fun _ => True))
      ∧ (∀ core z, s.coreOfVcore ctx vcore.toNat = some core → vcore.toNat < 2097152 → slot < 10 → s.strandAt core slot = some z →
        rightCovers r z.part →
        halts (.strand ctx vcore slot) (fun x => x.isLive && z.uid == x.uid) (fun _ => True)
        ∧ resumes (.strand ctx vcore slot) (fun x => x.isLive && z.uid == x.uid) (fun _ => True))
      ∧ (s.coreOfVcore ctx vcore.toNat = none → answers (.halt session (.strand ctx vcore slot)) 2)
      ∧ (∀ n, (s.opOf n).live = true → rightCovers r (s.opOf n).part →
        (made (.halt session (.op n)) fun t => (t.opOf n).haltReq = true ∧ (t.opOf n).state = (s.opOf n).state)
        ∧ made (.debugResume session (.op n)) fun t => (t.opOf n).haltReq = false ∧ (t.opOf n).state = (s.opOf n).state)
      ∧ (r = .package → part < 16 → ∃ t : State, exec (.halt session (.systemCore part)) s = .next t ∧ t.pkg.sysHalted.getLsbD part = true
          ∧ ∀ k, k ≠ part → t.pkg.sysHalted.getLsbD k = s.pkg.sysHalted.getLsbD k)
      ∧ (r = .package → ∃ t : State, exec (.hallKeyInstall session key id) s = .next t ∧ FMap.get none t.pkg.hallKeys key.toNat = some id)
      ∧ (∀ p, r = .partition p → answers (.hallKeyInstall session key id) 1))

/-- R399, R407, R409, R411: a session reads state, rewrites a halted strand, and the samples of a core.

R368, R407: a core samples its bound slots in rotation, into the sample ring of its die. -/
def Obligations.DebugStateAndSamples : Prop :=
  (∀ (session vctx core slot : Nat) (vcore : BitVec 32) (r : DebugRight) (st : Nat) (us : List Nat) (x : Strand) (value : Word)
    (s : State),
      s.pkg.sessions[session]? = some { right := r, status := st, awaits := us } →
      let write (item : DebugItem) : Instr := .debugWrite session vctx ⟨vcore, slot⟩ item value
      let wrote (item : DebugItem) (y : Strand) : Prop := ∃ t : State, exec (write item) s = .next t ∧ s.replies t session 0
        ∧ t.strandAt core slot = some { y with savedBudget := y.budget } ∧ t.mem = s.mem ∧ t.eng = s.eng ∧ t.hub = s.hub
      (s.coreOfVcore vctx vcore.toNat = some core → vcore.toNat < 2097152 → slot < 10 → s.strandAt core slot = some x → rightCovers r x.part →
        (x.halted = false → ∀ e, exec (write (.stack e)) s = .next (s.replied session 3))
        ∧ (x.halted = true → ∀ i, x.area = some i → ∃ t : State, exec (write .pc) s = .next t ∧ s.replies t session 0
            ∧ t.hbmNat (s.areaAddr x.ctx i) 8 = value.toNat / 4 * 4)
        ∧ (x.halted = true → x.area = none →
          (∀ e, e < 64 → wrote (.stack e) { x with stack := FMap.set 0 x.stack e value, parity := x.parity.filter (· ≠ e) })
          ∧ (wrote .pc { x with pc := BitVec.ofNat 64 (value.toNat / 4 * 4) })
          ∧ (∀ n, deviceState n = true → ∃ y, wrote (.state n) y ∧ y.shown n (s.stateOf y n) = value ∧ y.stack = x.stack ∧ y.pc = x.pc)
          ∧ (∀ q i, q < 16 → i < 64 → ∃ y, wrote (.lane q i) y ∧ FMap.get 0 y.vregs (64 * q + i) = value.setWidth 32
              ∧ (∀ k, k ≠ 64 * q + i → FMap.get 0 y.vregs k = FMap.get 0 x.vregs k) ∧ y.vlive = x.vlive ||| BitVec.ofNat 16 (2 ^ q) ∧ y.stack = x.stack)
          ∧ (wrote (.state 9) { x with deadline := value }) ∧ (wrote (.state 4) { x with taddr := value })
          ∧ (wrote (.state 5) { x with tinfo := value })
          ∧ (∀ k, k < 16 → FMap.get none x.tokens k = none →
              ∃ t : State, exec (write (.emptyToken k)) s = .next t ∧ s.replies t session 0 ∧ t.mem = s.mem ∧ t.eng = s.eng)))
      ∧ (∀ (ctx : Nat) (cls id0 id1 offset len buf : Word) (b : List Byte),
          offset.toNat % 8 = 0 → len.toNat % 8 = 0 → 8 ≤ len.toNat → len.toNat ≤ 4096 → buf.toNat % 8 = 0 →
          s.inHbm (reachOfRight r) buf.toNat len.toNat = true → cls.toNat < 256 →
          (s.asked session).objectForm (reachOfRight r) ctx cls.toNat id0 id1 (offset.toNat + len.toNat) = .ok b → offset.toNat + len.toNat ≤ b.length →
          ∃ t : State, exec (.debugRead session ctx cls id0 id1 offset len buf) s = .next t ∧ s.replies t session 0
            ∧ ∀ i, i < len.toNat → FMap.get Mem.byte0 t.mem.bytes (hbmKey buf.toNat + i) = (b[offset.toNat + i]?).getD 0))
  ∧ (∀ (core slot : Nat) (x : Strand) (s : State), slot < 10 → s.strandAt core slot = some x → x.ctx < 65536 →
      (let next := (s.coreOf core).sampleNext
       ∀ k, k < 10 → (∃ y, s.strandAt core ((next + k) % 10) = some y) → ∃ j, j ≤ k ∧ (next + j) % 10 = slot) →
      let hdr := PAddr.key { space := .dsm (core / 320), off := (FMap.get 0 s.mem.ringBase (2 * (core / 320) + 1)).toNat }
      let head := s.numAt (hdr + 0x10) 8
      let held := (head + 18446744073709551616 - s.numAt (hdr + 0x18) 8) % 18446744073709551616
      let cap := s.numAt (hdr + 8) 4
      let rec_ := PAddr.key { space := .dsm (core / 320), off := s.numAt hdr 8 + 32 * (head % cap) }
      ((s.ctxOf x.ctx).sampleInterval = 0 → ∃ t : State, exec (.sampleTick core) s = .next t ∧ t.mem = s.mem
          ∧ (t.coreOf core).sampleNext = (slot + 1) % 10)
      ∧ ((s.ctxOf x.ctx).sampleInterval ≠ 0 → s.numAt (hdr + 0x0C) 4 % 2 = 1 → held < cap → (rec_ + 32 ≤ hdr ∨ hdr + 64 ≤ rec_) →
          ∃ t : State, exec (.sampleTick core) s = .next t ∧ t.numAt rec_ 8 = s.time / 10 % 18446744073709551616
            ∧ t.numAt (rec_ + 8) 8 = x.pc.toNat ∧ t.numAt (rec_ + 0x10) 4 = (s.vcoreWord x.ctx core).toNat ∧ t.numAt (rec_ + 0x14) 2 = x.ctx
            ∧ t.numAt (rec_ + 0x16) 1 = slot ∧ t.numAt (rec_ + 0x18) 4 = x.tnum.toNat
            ∧ (x.halted = true → t.numAt (rec_ + 0x17) 1 = 5)
            ∧ (x.halted = false → x.wait = .marker → t.numAt (rec_ + 0x17) 1 = 1)
            ∧ (x.halted = false → x.wait = .passed → t.numAt (rec_ + 0x17) 1 = 3)
            ∧ (x.halted = false → x.wait = .passedMarker → t.numAt (rec_ + 0x17) 1 = 3 ∨ t.numAt (rec_ + 0x17) 1 = 1)
            ∧ (x.halted = false → x.wait = .kernel → t.numAt (rec_ + 0x17) 1 = 4)
            ∧ t.numAt (hdr + 0x10) 8 = (head + 1) % 18446744073709551616 ∧ (t.coreOf core).sampleNext = (slot + 1) % 10)
      ∧ ((s.ctxOf x.ctx).sampleInterval ≠ 0 → s.numAt (hdr + 0x0C) 4 % 2 = 1 → cap ≤ held →
          ∃ t : State, exec (.sampleTick core) s = .next t ∧ t.numAt (hdr + 0x20) 8 = (s.numAt (hdr + 0x20) 8 + 1) % 18446744073709551616
            ∧ t.numAt (hdr + 0x10) 8 = head))

/-- R390, R391, R392, R418, R191: errors of memory, registers and banks that strike on their own, the read index of an event ring, and the
watch-filter registers. That MEMERR names the place in its memory, no context and no slot is the model's choice (log 71). -/
def Obligations.ErrorsAndRegisters : Prop :=
  ∀ (word part ply : Nat) (c : Bool) (index : Word) (reg : BitVec 4) (value : Word) (s : State),
    let old (k : Nat) : BitVec 2 := FMap.get 0 s.mem.poison k
    let struck (t : State) (code : BitVec 2) : Prop := t.mem.bytes = s.mem.bytes ∧ t.mem.tags = s.mem.tags ∧ t.me = s.me ∧ t.eng = s.eng ∧ t.hub = s.hub
      ∧ (∀ k, FMap.get 0 t.mem.poison k = if k = word ∧ c = false ∧ old k = 0 then code else old k)
      ∧ ∀ k, FMap.get 0 t.mem.errors k = FMap.get 0 s.mem.errors k
          + (if k = 2 * (word / 2305843009213693952) + (if c then 0 else 1) then 1 else 0)
    (∃ t : State, exec (.softError (.word word) c) s = .next t ∧ struck t 1)
    ∧ (∀ (core off : Nat), core < Config.cores → off < Config.lsBytes → word = PAddr.key { space := .ls core, off := off } / 8 →
        ∃ t : State, exec (.softError (.tag word) c) s = .next t ∧ struck t 2)
    ∧ (∀ (core slot e : Nat) (x : Strand), e < 64 → s.strandAt core slot = some x →
        ∃ t : State, exec (.softError (.stack core slot e) c) s = .next t ∧ t.mem = s.mem ∧ t.eng = s.eng ∧ t.strands.length = s.strands.length
          ∧ ∃ y, t.strandAt core slot = some y ∧ e ∈ y.parity ∧ y.stack = x.stack ∧ (∀ k, k ≠ e → (k ∈ y.parity ↔ k ∈ x.parity)))
    ∧ (∀ (core element : Nat) (bank : BitVec 2), core < Config.cores → element < 4096 →
        ∃ t : State, exec (.softError (.bank core bank element) c) s = .next t ∧ t.mem = s.mem ∧ t.me = s.me ∧ t.strands = s.strands
          ∧ ∀ k, k ∈ t.eng.badAcc ↔ k = 4096 * (4 * core + bank.toNat) + element ∨ k ∈ s.eng.badAcc)
    ∧ (∀ (core off : Nat), core < Config.cores → off < Config.lsBytes → off % 8 = 0 → word = PAddr.key { space := .ls core, off := off } / 8 →
        (s.hub.parts.find? fun x => x.2.live && x.2.islands.getLsbD (core / 80)).map (·.1) = some part →
        ∃ t : State, exec (.memerr word) s = .next t ∧ FMap.get 0 t.mem.poison word ≠ 0 ∧ t.mem.bytes = s.mem.bytes ∧ t.me = s.me
          ∧ s.notified t part 1 0xFFFF (systemBody 0x18 255 0xFFFFFFFF#32 (BitVec.ofNat 64 off)
              (if old word = 2 then 1 else 0) 0))
    ∧ (let q := s.partOf part
       let n := Min.min (index.toNat - q.evRead) (Min.min 256 q.events.length)
       ∃ t : State, exec (.eventReadIndexWrite part index) s = .next t ∧ (t.partOf part).events = q.events.drop n ∧ (t.partOf part).evRead = q.evRead + n
         ∧ (t.partOf part).evSeq = q.evSeq ∧ (∀ p, p ≠ part → t.partOf p = s.partOf p) ∧ t.mem = s.mem ∧ t.me = s.me)
    ∧ (ply < Config.plies → reg.toNat < 12 →
        ∃ t : State, exec (.registerWrite ply reg value) s = .next t ∧ t.mem.bytes = s.mem.bytes ∧ t.me = s.me
          ∧ FMap.get 0 t.mem.watch (12 * ply + reg.toNat) =
              value &&& (match reg.toNat % 3 with | 0 => 0x01FFFFFFFFFFFFC0#64 | 1 => 0x800007FFFFFFFFFF#64 | _ => 0xFFFFFFFFFFFFFFFF#64)
          ∧ ∀ k, k ≠ 12 * ply + reg.toNat → FMap.get 0 t.mem.watch k = FMap.get 0 s.mem.watch k)

/-- R190, R430: packets that arrive on a queue pair, a page that pauses it, and its resumption; queue pairs and storage commands. That a read or
a send waits behind a pause as a write does, and what counts in the buffer, are the model's choices (log 76), and so is what a storage command
leaves that meets a page that is not resident (log 77).

R187, R429, R434: what a host request does to device memory, the version register, the wake-word window, and the invalidation of cached host
pages, which waits for what has found a leaf and still uses it: the sizes, the place of a queue in the window and the waiting are the model's
reading (logs 78, 79 and 121). -/
def Obligations.NetworkStorageAndHost : Prop :=
  (∀ (qp part ctx : Nat) (addr : Word) (data : List Byte) (len : Nat) (s : State),
      let q := s.qpOf qp
      let event : NetPacket → Instr := fun p => match p with
        | .write a d => .rdmaWriteInbound qp a d
        | .read a n => .rdmaReadInbound qp a n
        | .send d => .rdmaSendInbound qp d
      let fits (n : Nat) : Prop := 1 ≤ n ∧ addr.toNat % 64 + n ≤ 64 ∧ addr.toNat < 144115188075855872
      let open_ : Prop := q.live = true ∧ q.errored = false ∧ q.paused = false
      let wrote (s' t : State) (pa : PAddr) : Prop := ∀ k, FMap.get Mem.byte0 t.mem.bytes k =
        if pa.key ≤ k ∧ k < pa.key + data.length then (data[k - pa.key]?).getD 0 else FMap.get Mem.byte0 s'.mem.bytes k
      (∀ (pa : PAddr) (s' : State), open_ → fits data.length → s.vtranslate q.ctx addr.toNat true = some (pa, s') →
        ∃ t : State, exec (.rdmaWriteInbound qp addr data) s = .next t ∧ wrote s' t pa ∧ (t.qpOf qp).errored = false ∧ (t.qpOf qp).paused = false)
      ∧ (∀ (pa : PAddr) (s' : State), open_ → fits len → s.vtranslate q.ctx addr.toNat false = some (pa, s') →
        ∃ t : State, exec (.rdmaReadInbound qp addr len) s = .next t ∧ (t.qpOf qp).sent = q.sent ++ [s'.mem.bytesAt pa.key len] ∧ t.mem = s'.mem)
      ∧ (open_ → ∃ t : State, exec (.rdmaSendInbound qp data) s = .next t ∧ (t.qpOf qp).received = q.received ++ [data] ∧ t.mem = s.mem)
      ∧ (∀ p : NetPacket,
        ((q.live = false ∨ q.errored = true) → exec (event p) s = .next s)
        ∧ (∀ f va, open_ → (s.packetFault q.ctx p = some (f, va) ∨ s.deliver qp q.ctx p = .error (f, va)) →
          (f = 7 → ∃ t : State, exec (event p) s = .next t ∧ (t.qpOf qp).paused = true ∧ (t.qpOf qp).buffer = [p] ∧ t.mem = s.mem
            ∧ (t.qpOf qp).pausedAt = BitVec.ofNat 64 va ∧ s.notified t q.part 1 q.ctx (systemBody 0x16 255 0xFFFFFFFF#32 (BitVec.ofNat 64 va) (BitVec.ofNat 64 qp) 0))
          ∧ (f ≠ 7 → ∃ t : State, exec (event p) s = .next t ∧ (t.qpOf qp).errored = true ∧ (t.qpOf qp).buffer = [] ∧ t.mem = s.mem))
        ∧ (q.live = true → q.errored = false → q.paused = true →
          if q.naking = false ∧ (q.buffer.map NetPacket.size).sum + p.size ≤ 1048576 then
            ∃ t : State, exec (event p) s = .next t ∧ (t.qpOf qp).buffer = q.buffer ++ [p] ∧ (t.qpOf qp).naking = false ∧ t.mem = s.mem
          else ∃ t : State, exec (event p) s = .next t ∧ (t.qpOf qp).buffer = q.buffer ∧ (t.qpOf qp).rnrNaks = q.rnrNaks + 1
            ∧ (t.qpOf qp).naking = true ∧ t.mem = s.mem)
        ∧ (∀ va ps, q.paused = true → q.buffer = p :: ps → s.packetFault q.ctx p = some (7, va) →
          (va / 4096 = q.pausedAt.toNat / 4096 → exec (.netpageResume qp) s = .next s)
          ∧ (va / 4096 ≠ q.pausedAt.toNat / 4096 →
            ∃ t : State, exec (.netpageResume qp) s = .next t ∧ (t.qpOf qp).paused = true ∧ (t.qpOf qp).buffer = p :: ps ∧ t.mem = s.mem
              ∧ s.notified t q.part 1 q.ctx (systemBody 0x16 255 0xFFFFFFFF#32 (BitVec.ofNat 64 va) (BitVec.ofNat 64 qp) 0))))
      ∧ (∀ (pa : PAddr) (s' : State), q.paused = true → q.buffer = [.write addr data] → fits data.length →
          s.vtranslate q.ctx addr.toNat true = some (pa, s') →
          ∃ t : State, exec (.netpageResume qp) s = .next t ∧ wrote s' t pa ∧ (t.qpOf qp).paused = false ∧ (t.qpOf qp).buffer = [])
      ∧ ((s.partOf part).live = true → (s.ctxOf ctx).live = true → (s.ctxOf ctx).part = part → q.live = false →
          (s.partOf part).qpairs < (s.partOf part).qpLimit →
          ∃ t : State, exec (.queuePairCreate part ctx qp) s = .next t ∧ (t.qpOf qp).live = true ∧ (t.qpOf qp).ctx = ctx ∧ (t.qpOf qp).part = part
            ∧ (t.partOf part).qpairs = (s.partOf part).qpairs + 1 ∧ ∀ n, n ≠ qp → t.qpOf n = s.qpOf n)
      ∧ ((s.ctxOf ctx).live = true → (s.ctxOf ctx).part = part → fits data.length →
          let made (w : Transfer) (st : Nat) (t : State) : Prop := exec (.storageCommand part ctx addr w) s = .next t
            ∧ t.pkg.storage = st :: s.pkg.storage
          (∀ (pa : PAddr) (s' : State), s.vtranslate ctx addr.toNat true = some (pa, s') →
            ∃ t : State, made (.toMemory data) 0 t ∧ wrote s' t pa ∧ t.pkg.stored = s.pkg.stored)
          ∧ (s.vtranslate ctx addr.toNat true = none → ∃ t : State, made (.toMemory data) 1 t ∧ t.mem = s.mem ∧ t.pkg.stored = s.pkg.stored)
          ∧ (∀ (pa : PAddr) (s' : State), s.vtranslate ctx addr.toNat false = some (pa, s') →
            ∃ t : State, made (.toDevice data.length) 0 t ∧ t.mem = s'.mem
              ∧ t.pkg.stored = (part, s'.mem.bytesAt pa.key data.length) :: s.pkg.stored)
          ∧ (s.vtranslate ctx addr.toNat false = none →
            ∃ t : State, made (.toDevice data.length) 1 t ∧ t.mem = s.mem ∧ t.pkg.stored = s.pkg.stored)))
  ∧ (∀ (ctx len : Nat) (addr span : Word) (data : List Byte) (s : State),
      let ask (r : HostReq) : Instr := .hostMemoryRequest ctx r addr data
      let fits (n : Nat) : Prop := 1 ≤ n ∧ addr.toNat % 64 + n ≤ 64
      let refused (r : HostReq) : Prop := exec (ask r) s = .next { s with pkg := { s.pkg with hostAnswers := none :: s.pkg.hostAnswers } }
      (refused .cas ∧ refused .swap)
      ∧ (∀ (pa : PAddr) (s' : State), s.vtranslate ctx addr.toNat true = some (pa, s') →
        (fits data.length → ∃ t : State, exec (ask .write) s = .next t ∧ s'.wrote t pa.key data.length (ofLE data) ∧ t.pkg = s.pkg)
        ∧ ∀ n r, (n, r) ∈ [(4, HostReq.fetchAdd32), (8, HostReq.fetchAdd64)] → addr.toNat % n = 0 → s'.mem.poison = [] →
            ∃ t : State, exec (ask r) s = .next t ∧ s'.wrote t pa.key n ((s'.numAt pa.key n + ofLE (data.take n)) % 256 ^ n)
              ∧ t.pkg.hostAnswers = some (s'.mem.bytesAt pa.key n) :: s.pkg.hostAnswers)
      ∧ (∀ n r, (n, r) ∈ [(4, HostReq.fetchAdd32), (8, HostReq.fetchAdd64)] →
          addr.toNat % n ≠ 0 ∨ s.vtranslate ctx addr.toNat true = none → refused r)
      ∧ (512 < data.length ∨ s.vwrite ctx addr.toNat data = none → exec (ask .write) s = .next s)
      ∧ (∀ (pa : PAddr) (s' : State), s.vtranslate ctx addr.toNat false = some (pa, s') → s.mem.poison = [] → fits len →
          ∃ t : State, exec (ask (.read len)) s = .next t ∧ t.mem = s'.mem
            ∧ t.pkg.hostAnswers = some (s'.mem.bytesAt pa.key len) :: s.pkg.hostAnswers)
      ∧ (len = 0 ∨ 4096 < len ∨ (fits len ∧ s.vtranslate ctx addr.toNat false = none) → refused (.read len))
      ∧ (∀ fn : HostFn, exec (.hostMemoryRequest ctx (.readRegister fn) 0 data) s =
            .next { s with pkg := { s.pkg with hostAnswers := some (toLE 8 s.hostVersion.toNat) :: s.pkg.hostAnswers } }
          ∧ exec (ask (.writeRegister fn)) s = .next s)
      ∧ (∀ (n : BitVec 4) (q : Nat), s.windowQueue n.toNat addr.toNat = some q → addr.toNat % 8 = 0 → data.length = 8 →
          exec (ask (.writeWake (.vf n))) s = exec (.wakeStore q (BitVec.ofNat 64 (ofLE data))) s)
      ∧ (let meets (u : Nat × Nat × PAddr) : Prop := u.2.2.space = .host ctx ∧ u.2.2.off < addr.toNat + span.toNat ∧ addr.toNat < u.2.2.off + 64
         ((∃ u ∈ s.usedLeaves, meets u) → exec (.atsInvalidation ctx addr span) s = .next s)
         ∧ ((∀ u ∈ s.usedLeaves, ¬ meets u) → ∃ t : State, exec (.atsInvalidation ctx addr span) s = .next t ∧ t.mem.bytes = s.mem.bytes
            ∧ t.me = s.me ∧ ∀ e, e ∈ t.mem.tlb ↔ e ∈ s.mem.tlb ∧ ¬ (e.ctx = ctx ∧ e.entry / 2 % 2 = 1 ∧ leafType e.entry = 5
              ∧ 4096 * leafPage e.entry < addr.toNat + span.toNat ∧ addr.toNat < 4096 * leafPage e.entry + entrySpan e.entry e.level))))

/-- R431–R434: link training, loss, the flits of a virtual lane with their acknowledgements and pauses, and the host interface version
register. That a paused lane resends nothing, and that no flit waits beyond the 256 of a lane's retry buffer, are the model's reading
(log 122). -/
def Obligations.Links : Prop :=
  ∀ (port seq : Nat) (offered : List Nat) (lane : BitVec 3) (flit : BitVec 2048) (s : State),
    let x := s.portOf port
    let becomes (e : Instr) (y : TwinePort) : Prop := ∃ t : State, exec e s = .next t ∧ t.portOf port = y ∧ (∀ n, n ≠ port → t.portOf n = s.portOf n)
      ∧ t.mem = s.mem ∧ t.me = s.me ∧ t.hub = s.hub ∧ t.eng = s.eng
    let lost : TwinePort := { x with trained := false, version := 0, expected := [], resends := [], paused := 0 }
    (s.hostVersion.toNat % 4294967296 = 0x01070103 ∧ s.hostVersion.toNat / 1099511627776 = 0
      ∧ ((∀ n, n < 24 → (s.portOf n).trained = false) → s.hostVersion.toNat / 4294967296 = 0)
      ∧ (port < 24 → x.trained = true → (∀ n, n < port → (s.portOf n).trained = false) →
          s.hostVersion.toNat / 4294967296 % 256 = x.version % 256))
    ∧ (port < 24 → x.trained = false → ∃ y, becomes (.linkTraining port offered) y ∧ y.attempts = x.attempts + 1 ∧ y.expected = [] ∧ y.resends = []
      ∧ y.paused = 0 ∧ (y.trained = true → y.version = if 2 ∈ offered then 2 else 1) ∧ (y.trained = false → y.version = 0)
      ∧ (y.trained = true ↔ Config.linkLocks port x.attempts = true ∧ (1 ∈ offered ∨ 2 ∈ offered)))
    ∧ (x.trained = true →
      becomes (.linkLoss port) lost
      ∧ (let e := FMap.get 0 x.expected lane.toNat
         let comes (f : Flit) : TwinePort → Prop := becomes (.flitReceive port lane f)
         (seq = e → comes (.data seq flit) { x with expected := FMap.set 0 x.expected lane.toNat (e + 1), delivered := x.delivered + 1, flit := flit })
         ∧ (seq < e → comes (.data seq flit) { x with duplicates := x.duplicates + 1 })
         ∧ (e < seq → comes (.data seq flit) x)
         ∧ (∃ y, comes (.ack seq) y ∧ (∀ z, z ∈ y.resends ↔ z ∈ x.resends ∧ ¬ (z.1 = lane.toNat ∧ z.2.1 ≤ seq))
              ∧ y.trained = true ∧ y.paused = x.paused ∧ y.expected = x.expected)
         ∧ (∀ on, ∃ y, comes (.pause on) y ∧ y.resends = x.resends ∧ y.trained = true
              ∧ ∀ k, k < 8 → y.paused.getLsbD k = if k = lane.toNat then on else x.paused.getLsbD k))
      ∧ (let others := (x.resends.filter fun z => z.1 == lane.toNat && !(z.1 == lane.toNat && z.2.1 == seq)).length
         ((x.paused.getLsbD lane.toNat = true ∨ 256 ≤ others) → exec (.flitRetryTimeout port lane seq) s = .next s)
         ∧ (x.paused.getLsbD lane.toNat = false → others < 256 →
           (∀ n, x.resends.find? (fun y => y.1 == lane.toNat && y.2.1 == seq) = some (lane.toNat, seq, n) →
              (8 ≤ n → becomes (.flitRetryTimeout port lane seq) lost)
              ∧ (n < 8 → ∃ y, becomes (.flitRetryTimeout port lane seq) y ∧ (lane.toNat, seq, n + 1) ∈ y.resends ∧ y.trained = true
                  ∧ ∀ z ∈ y.resends, z.1 = lane.toNat → z.2.1 = seq → z = (lane.toNat, seq, n + 1)))
           ∧ (x.resends.find? (fun y => y.1 == lane.toNat && y.2.1 == seq) = none →
              becomes (.flitRetryTimeout port lane seq) { x with resends := x.resends ++ [(lane.toNat, seq, 1)] }))))

/-! ## The machine as a whole -/

/-- R113, R115–R126: words whose encodings the spec works out, and what they stand for. -/
def Obligations.DecodeWords : Prop :=
  decodeWord 0x00000000#32 = .ok (.add false 0 0 0 ⟨0, 0, false⟩)
  ∧ decodeWord 0x8022B18F#32 = .ok (.add true 4 5 6 ⟨3, 7, true⟩)
  ∧ decodeWord 0x104CFF00#32 = .ok (.addi false 9 9 0x7F00)
  ∧ decodeWord 0x23290002#32 = .ok (.ldD false 5 2 2)
  ∧ decodeWord 0x364FFFFD#32 = .ok (.dbnz false 4 0xFFFFD)
  ∧ decodeWord 0x37000021#32 = .ok (.sys false 0x21)
  ∧ decodeWord 0x3F0C8007#32 = .ok (.mts false 9 7)
  ∧ decodeWord 0x400D1534#32 = .ok (.vadd false 3 4 5 false .f ⟨6, true⟩)
  ∧ decodeWord 0x51090000#32 = .ok (.vldD false 1 2 0 0 ⟨0, false⟩)
  ∧ decodeWord 0xE30C0140#32 = .ok (.owait true 3 5)
  ∧ decodeWord 0x66CC8000#32 = .ok (.tld false 3 2)
  ∧ decodeWord 0x60800002#32 = .ok (.mzero false 2)
  ∧ decodeWord 0x73000035#32 = .ok (.prio false 3 5)
  ∧ decodeWord 0xFFFFFFFF#32 = .ok (.reservedHint true 7 0xFFFFFF)
  ∧ decodeWord 0x14800000#32 = .error .reservedOp

/-- R113–R126, R134: every word that the encoding tables give to a well-formed instruction decodes to it, with every operand.

R113–R126, R134, R135: a word that decodes is the encoding of what it decodes to, which is well formed: no bit of it is dropped. -/
def Obligations.DecodeAndEncode : Prop :=
  (∀ (i : Instr) (w : Lane), i.wellFormed = true → encode i = some w → decodeWord w = .ok i)
  ∧ (∀ (w : Lane) (i : Instr), decodeWord w = .ok i → encode i = some w ∧ i.wellFormed = true)

/-- R24, R26, R193, R240, R427: what reset leaves: no partition, no context and no strand, memory with nothing listed and in its
canonical form, the op and issue counters at 1, and the ceiling of every island at 2,500 MHz. -/
def Obligations.ResetState : Prop :=
  State.reset.mem.wf = true ∧ State.reset.mem = Mem.reset ∧ State.reset.me.isLive = false ∧ State.reset.strands = []
  ∧ (∀ p, (State.reset.partOf p).live = false) ∧ (∀ c, (State.reset.ctxOf c).live = false) ∧ State.reset.hub.issueCounter = 1
  ∧ (∀ i, FMap.get capcause0 State.reset.pkg.capcause i = 0x09C40000#64) ∧ (∀ n, (State.reset.opOf n).live = false)
  ∧ (∀ p, State.reset.byteAt p = 0)

/-- Every step keeps the memory in its canonical form. -/
def Obligations.MemoryStaysCanonical : Prop :=
  ∀ (s t : State), s.mem.wf = true → step s = .next t → t.mem.wf = true

/-- R106, R107, R134, R166, R267: a step runs the event at hand, or the word that the one strand that may move fetches, or that it had
fetched before it parked: the decoded instruction, or ILLOP with its subcode, its position in its prefix group and the word. That a step which
meets a parked island is made again after its exit is the model's choice (log 44). -/
def Obligations.StepRunsDecodedWord : Prop :=
  ∀ (s : State),
    (∀ (i : Instr) (rest : List Instr), s.agenda = i :: rest → step s = retried s (accounted s (exec i { s with agenda := rest })))
    ∧ ∀ (core slot : Nat) (w : Lane) (u s' : State), s.agenda = [] → s.due = [] → s.readyCores = [core] → s.idleCores = [] →
        s.pickSlot core = some slot → u = s.switchTo core slot → u.beforeWord = .word →
        ((u.me.reissue = true ∧ u.me.replay.word = some w ∧ s' = u)
          ∨ (u.me.reissue = false ∧ ∃ l : Leaf, translate u.me.fetchReq u.me.pc.toNat u = .ok (.ok l) s'
              ∧ s'.mem.cached u.me.core u.me.ctx u.me.pc.toNat = some w ∧ FMap.get 0 s'.mem.poison l.pa.word = 0
              ∧ ofLE (s'.mem.bytesAt l.pa.key 4) = w.toNat)) →
        (∀ i, decodeWord w = .ok i → step s = retried s (accounted s (exec i { s' with me := { s'.me with replay := { s'.me.replay with word := some w } } })))
        ∧ ∀ e sub, decodeWord w = .error e →
            (sub = match e with | .reservedOp => 0 | .reservedField => 1 | .badGroup => 2 | .reservedType => 3 | .tooShort => 0) →
            step s = retried s (accounted s (.next (trapWord
              { cause := .illop, tinfo := BitVec.ofNat 64 (sub + 256 * (s'.me.pfx.count % 256) + 4294967296 * w.toNat), taddr := 0 } s' s')))

/-- R163, R166, R167, R266, R267: the strand that moves on a core is an eligible one: one that has a trap of a re-evaluation to take; else
one whose word has been performed and goes on; else an urgent one where one is eligible, the greedy one or the oldest under GTO, and the next
slot in rotation under RR. -/
def Obligations.IssueOrder : Prop :=
  ∀ (core : Nat) (s : State),
    let ready (x : Strand) : Prop := x ∈ s.all ∧ s.eligible x = true ∧ x.core = core
    ((∃ x, ready x) → (∀ x, ready x → x.slot < 10) → ∃ n, s.pickSlot core = some n)
    ∧ ∀ n, s.pickSlot core = some n →
      ∃ x, ready x ∧ x.slot = n
        ∧ ((∃ y, ready y ∧ y.pendingTrap ≠ none) → x.pendingTrap ≠ none)
        ∧ ((∀ y, ready y → y.pendingTrap = none) → (∃ y, ready y ∧ y.continues = true) → x.continues = true)
        ∧ ((∀ y, ready y → y.pendingTrap = none) → (∀ y, ready y → y.continues = false) →
          (∀ y, ready y → 8 ≤ y.slot → 8 ≤ n ∧ x.age ≤ y.age)
          ∧ (n < 8 → s.roundRobin core = false → ∀ g, (s.coreOf core).greedy = some g → (∃ y, ready y ∧ y.slot = g) → n = g)
          ∧ (n < 8 → s.roundRobin core = false → (s.coreOf core).greedy ≠ some n → ∀ y, ready y → x.age ≤ y.age)
          ∧ (n < 8 → s.roundRobin core = true → ∀ k, k < 8 → (∃ y, ready y ∧ y.slot = ((s.coreOf core).rr + 1 + k) % 8) →
              ∃ j, j ≤ k ∧ n = ((s.coreOf core).rr + 1 + j) % 8))

/-- R114, R128, R162, R165, R166, R170: what follows the effect of every word: the cycle, the count of words, the hold-off count, the
prefixes, the marker and the next word; nothing else of the state changes. That a word takes one cycle and no more is the model's choice
(log 8). -/
def Obligations.WordFrame : Prop :=
  ∀ (sw : Bool) (k : Takes) (target : Word) (s s' : State), s.me.reissue = false →
    let kept (t : State) : Prop := t.mem = s'.mem ∧ t.eng = s'.eng ∧ t.hub = s'.hub ∧ t.pkg = s'.pkg ∧ t.agenda = s'.agenda ∧ t.free = s'.free
      ∧ t.ages = s'.ages ∧ t.time = s'.time + 4 ∧ (∀ c, c ≠ s.me.core → t.coreOf c = s'.coreOf c)
      ∧ (t.coreOf s.me.core).names = (s'.coreOf s.me.core).names ∧ (t.coreOf s.me.core).urgent = (s'.coreOf s.me.core).urgent
      ∧ (t.coreOf s.me.core).sissue = (s'.coreOf s.me.core).sissue + 1
      ∧ (let (a, b) := (t.me, s'.me)
         a.stack = b.stack ∧ a.vregs = b.vregs ∧ a.vlive = b.vlive ∧ a.tokens = b.tokens ∧ a.outstanding = b.outstanding ∧ a.cwp = b.cwp
          ∧ a.rdep = b.rdep ∧ a.hm = b.hm ∧ a.strict = b.strict ∧ a.sysm = b.sysm ∧ a.urg = b.urg ∧ a.place = b.place ∧ a.streams = b.streams
          ∧ a.tvec = b.tvec ∧ a.tdeleg = b.tdeleg ∧ a.epc = b.epc ∧ a.est = b.est ∧ a.tcause = b.tcause ∧ a.tinfo = b.tinfo ∧ a.taddr = b.taddr
          ∧ a.stk = b.stk ∧ a.rmode = b.rmode ∧ a.wtmo = b.wtmo ∧ a.srseed = b.srseed ∧ a.sh0 = b.sh0 ∧ a.sh1 = b.sh1 ∧ a.deadline = b.deadline
          ∧ a.issued = b.issued + 1
          ∧ (k = .msk ∨ b.mskcnt = 0 → a.mskcnt = b.mskcnt ∧ a.sflags = b.sflags)
          ∧ (k ≠ .msk → b.mskcnt ≠ 0 → a.mskcnt = b.mskcnt - 1 ∧ a.sflags = (if b.mskcnt = 1 then b.sflags ||| 1 else b.sflags)))
      ∧ t.strands.length = s'.strands.length
      ∧ ∀ (i : Nat) (y : Strand), s'.strands[i]? = some y → ∃ z : Strand, t.strands[i]? = some z ∧ z.uid = y.uid ∧ z.place = y.place ∧ z.pc = y.pc ∧ z.stack = y.stack
          ∧ z.vregs = y.vregs ∧ z.tokens = y.tokens ∧ z.outstanding = y.outstanding ∧ (y.wait ≠ .passed → y.wait ≠ .passedMarker → y.wait ≠ .issue → z.wait = y.wait)
    (∀ t, t = completeWord sw k .next s s' → kept t ∧ t.me.pc = s.me.pc + 4
      ∧ (k = .pre → t.me.pfx = s'.me.pfx)
      ∧ (k ≠ .pre → t.me.pfx = Prefix.empty ∧ t.me.reissue = false
        ∧ t.me.wait = (if sw = true ∧ s'.me.outstanding ≠ [] then (if s'.me.wait = .passed then .passedMarker else .marker) else s'.me.wait)))
    ∧ (∀ t, t = completeWord sw k (.jump target) s s' → kept t ∧ t.me.pc = target ∧ t.me.pfx = Prefix.empty
      ∧ t.me.wait = (if sw = true ∧ s'.me.outstanding ≠ [] then .marker else .none))

/-- R116, R170, R173–R175: a register whose long result is outstanding: RUNHAZ in strict-run mode, before any effect; else a read gives
the old value or the new one; and a ninth outstanding result waits at issue. -/
def Obligations.RunHazards : Prop :=
  ∀ (i : Instr) (f : ScalarForm) (r : Reg) (x : Word) (s : State), (srTable i = some f ∨ fieldTable i = some f) →
    f.takes.follows s.me = true → (guardReads f.guard).all s.me.canRead = true → guardOpen f.guard s.me = true →
    let e (q : Reg) : Nat := entryOf s.me.cwp q
    let free (q : Reg) : Prop := lastG (e q) s.me.outstanding = none
    let runhaz (kind : Nat) (q : Reg) : Prop := exec i s = .next (trapWord
      { cause := .runhaz, tinfo := BitVec.ofNat 64 (kind + 256 * q.toNat + 65536 * e q), taddr := 0 } s s)
    (s.me.strict = true → (f.long = true → s.me.outstanding.length < 8) → r ∈ f.reads → s.me.boundGen r = none → lastG (e r) s.me.outstanding = some x →
      (∀ q ∈ f.reads, q ≠ r → free q) → runhaz 1 r)
    ∧ (s.me.strict = true → (f.long = true → s.me.outstanding.length < 8) → (∀ q ∈ f.reads, free q) → s.me.boundGen f.dest = none →
      lastG (e f.dest) s.me.outstanding = some x → runhaz 2 f.dest)
    ∧ (s.me.strict = false → f.long = false → f.reads = [r] → s.me.boundGen r = none → s.me.parity = [] → lastG (e r) s.me.outstanding = some x →
      s.me.canWrite f.dest = true →
      ∃ y : Strand, (y = s.me ∨ y = { s.me with stack := FMap.set 0 s.me.stack (e r) x }) ∧
        completes i f.sw f.takes s { s with free := s.free + 1, me := s.me.put f.dest (f.value y) })
    ∧ (f.long = true → 8 ≤ s.me.outstanding.length → exec i s = .next (waitWord .issue s s))
end

