-- ==== Sys2Proof/Laws/FMap.lean ====
section
/-!
SUPPORT. The laws of sparse maps: a read after a write, and that every operation keeps the canonical form.
-/

namespace Sys2Proof.Machine

variable {α : Type}

theorem FMap.get_erase (d : α) (m : FMap α) (i j : Nat) :
    FMap.get d (FMap.erase m i) j = if j = i then d else FMap.get d m j := by
  induction m with
  | nil => simp [FMap.erase, FMap.get]
  | cons e t ih =>
    obtain ⟨k, v⟩ := e
    by_cases h : i = k
    · subst h
      by_cases hj : j = i
      · rw [if_pos hj] at ih
        subst hj
        simpa [FMap.erase] using ih
      · simp [FMap.erase, FMap.get, ih, hj]
    · by_cases hj : j = k
      · subst hj
        have : ¬ j = i := fun e => h e.symm
        simp [FMap.erase, FMap.get, h, this]
      · simp [FMap.erase, FMap.get, h, hj, ih]

theorem FMap.get_insert (d : α) (m : FMap α) (i j : Nat) (x : α) (h : ∀ e ∈ m, e.1 ≠ i) :
    FMap.get d (FMap.insert m i x) j = if j = i then x else FMap.get d m j := by
  induction m with
  | nil => simp [FMap.insert, FMap.get]
  | cons e t ih =>
    obtain ⟨k, v⟩ := e
    have hk : k ≠ i := h (k, v) (by simp)
    have ht : ∀ e ∈ t, e.1 ≠ i := fun e he => h e (by simp [he])
    by_cases hl : i < k
    · simp [FMap.insert, FMap.get, hl]
    · by_cases hj : j = k
      · subst hj; simp [FMap.insert, FMap.get, hl, hk]
      · simp [FMap.insert, FMap.get, hl, hj, ih ht]

theorem FMap.erase_keys (m : FMap α) (i : Nat) : ∀ e ∈ FMap.erase m i, e.1 ≠ i := by
  induction m with
  | nil => simp [FMap.erase]
  | cons e t ih =>
    obtain ⟨k, v⟩ := e
    by_cases h : i = k
    · intro e he
      subst h
      simp only [FMap.erase, if_true] at he
      exact ih e he
    · intro e he
      simp only [FMap.erase, h, if_false, List.mem_cons] at he
      rcases he with rfl | he
      · exact fun e => h e.symm
      · exact ih e he

/-- A read after a write: the written value at the written key, the old value elsewhere. -/
@[simp] theorem FMap.get_set [DecidableEq α] (d : α) (m : FMap α) (i j : Nat) (x : α) :
    FMap.get d (FMap.set d m i x) j = if j = i then x else FMap.get d m j := by
  unfold FMap.set
  split
  · next h => rw [FMap.get_erase]; simp [h]
  · rw [FMap.get_insert d _ i j x (FMap.erase_keys m i), FMap.get_erase]
    split <;> rfl

@[simp] theorem FMap.get_nil (d : α) (i : Nat) : FMap.get d [] i = d := rfl

/-- A read of a run: inside the run the written values, outside it the old ones. -/
theorem FMap.get_setList [DecidableEq α] (d : α) (m : FMap α) (i j : Nat) (xs : List α) :
    FMap.get d (FMap.setList d m i xs) j
      = if i ≤ j ∧ j < i + xs.length then xs.getD (j - i) d else FMap.get d m j := by
  induction xs generalizing m i with
  | nil =>
    simp only [FMap.setList, List.length_nil, Nat.add_zero]
    rw [if_neg (by omega)]
  | cons x t ih =>
    simp only [FMap.setList, ih, FMap.get_set, List.length_cons]
    by_cases h1 : j = i
    · subst h1
      simp
    · by_cases h2 : i + 1 ≤ j ∧ j < i + 1 + t.length
      · have h3 : i ≤ j ∧ j < i + (t.length + 1) := by omega
        rw [if_pos h2, if_pos h3]
        have : j - i = (j - (i + 1)) + 1 := by omega
        rw [this]; rfl
      · have h3 : ¬ (i ≤ j ∧ j < i + (t.length + 1)) := by omega
        rw [if_neg h2, if_neg h3, if_neg h1]

/-- A write leaves every key outside the run as it was. -/
theorem FMap.get_setList_other [DecidableEq α] (d : α) (m : FMap α) (i j : Nat) (xs : List α)
    (h : j < i ∨ i + xs.length ≤ j) : FMap.get d (FMap.setList d m i xs) j = FMap.get d m j := by
  rw [FMap.get_setList, if_neg (by omega)]

@[simp] theorem FMap.length_getList (d : α) (m : FMap α) (i n : Nat) : (FMap.getList d m i n).length = n := by
  induction n generalizing i with
  | zero => rfl
  | succ n ih => simp [FMap.getList, ih]

theorem FMap.getD_getList (d e : α) (m : FMap α) (i n k : Nat) (h : k < n) :
    (FMap.getList d m i n).getD k e = FMap.get d m (i + k) := by
  induction n generalizing i k with
  | zero => omega
  | succ n ih =>
    cases k with
    | zero => rfl
    | succ k =>
      have := ih (i + 1) k (by omega)
      simp only [FMap.getList, List.getD_cons_succ, this]
      congr 1
      omega

/-- What was written over a run is read back from it. -/
theorem FMap.getList_setList [DecidableEq α] (d : α) (m : FMap α) (i : Nat) (xs : List α) :
    FMap.getList d (FMap.setList d m i xs) i xs.length = xs := by
  apply List.ext_getElem (by simp)
  intro k h1 h2
  have h := FMap.getD_getList d d (FMap.setList d m i xs) i xs.length k h2
  rw [FMap.get_setList, if_pos (by omega)] at h
  have e : i + k - i = k := by omega
  rw [e] at h
  simpa [List.getD_eq_getElem?_getD, h1, h2] using h

variable [DecidableEq α]

theorem FMap.wfFrom_weaken (d : α) (lo lo' : Option Nat) (m : FMap α)
    (h : FMap.wfFrom d lo m = true)
    (hle : ∀ l', lo' = some l' → ∃ l, lo = some l ∧ l' ≤ l) : FMap.wfFrom d lo' m = true := by
  cases m with
  | nil => rfl
  | cons e t =>
    obtain ⟨k, v⟩ := e
    simp only [FMap.wfFrom, Bool.and_eq_true] at h ⊢
    refine ⟨⟨?_, h.1.2⟩, h.2⟩
    cases lo' with
    | none => rfl
    | some l' =>
      obtain ⟨l, rfl, hl⟩ := hle l' rfl
      have := h.1.1
      simp only [decide_eq_true_eq] at this ⊢
      omega

theorem FMap.wfFrom_erase (d : α) (lo : Option Nat) (m : FMap α) (i : Nat)
    (h : FMap.wfFrom d lo m = true) : FMap.wfFrom d lo (FMap.erase m i) = true := by
  induction m generalizing lo with
  | nil => rfl
  | cons e t ih =>
    obtain ⟨k, v⟩ := e
    simp only [FMap.wfFrom, Bool.and_eq_true] at h
    by_cases hk : i = k
    · simp only [FMap.erase, hk, if_true]
      refine hk ▸ FMap.wfFrom_weaken d (some k) lo _ (ih _ h.2) ?_
      intro l' hl'
      refine ⟨k, rfl, ?_⟩
      subst hl'
      have := h.1.1
      simp only [decide_eq_true_eq] at this
      omega
    · simp only [FMap.erase, hk, if_false, FMap.wfFrom, Bool.and_eq_true]
      exact ⟨h.1, ih _ h.2⟩

theorem FMap.wfFrom_insert (d : α) (lo : Option Nat) (m : FMap α) (i : Nat) (x : α)
    (h : FMap.wfFrom d lo m = true) (hx : x ≠ d) (hm : ∀ e ∈ m, e.1 ≠ i)
    (hlo : ∀ l, lo = some l → l < i) : FMap.wfFrom d lo (FMap.insert m i x) = true := by
  induction m generalizing lo with
  | nil =>
    cases lo with
    | none => simp [FMap.insert, FMap.wfFrom, hx]
    | some l => simp [FMap.insert, FMap.wfFrom, hx, hlo l rfl]
  | cons e t ih =>
    obtain ⟨k, v⟩ := e
    simp only [FMap.wfFrom, Bool.and_eq_true] at h
    have hk : k ≠ i := hm (k, v) (by simp)
    by_cases hl : i < k
    · simp only [FMap.insert, hl, if_true, FMap.wfFrom, Bool.and_eq_true]
      refine ⟨⟨?_, by simp [hx]⟩, ⟨rfl, h.1.2⟩, h.2⟩
      cases lo with
      | none => rfl
      | some l => simp [hlo l rfl]
    · simp only [FMap.insert, hl, if_false, FMap.wfFrom, Bool.and_eq_true]
      refine ⟨h.1, ih (some k) h.2 (fun e he => hm e (by simp [he])) ?_⟩
      intro l hl'
      injection hl' with hl'
      omega

/-- A write keeps the canonical form. -/
theorem FMap.wf_set (d : α) (m : FMap α) (i : Nat) (x : α) (h : FMap.wf d m = true) :
    FMap.wf d (FMap.set d m i x) = true := by
  unfold FMap.set
  split
  · exact FMap.wfFrom_erase d none m i h
  · next hx =>
    exact FMap.wfFrom_insert d none _ i x (FMap.wfFrom_erase d none m i h) hx (FMap.erase_keys m i) (by simp)

/-- A run of writes keeps the canonical form. -/
theorem FMap.wf_setList (d : α) (m : FMap α) (i : Nat) (xs : List α) (h : FMap.wf d m = true) :
    FMap.wf d (FMap.setList d m i xs) = true := by
  induction xs generalizing m i with
  | nil => exact h
  | cons x t ih => exact ih _ _ (FMap.wf_set d m i x h)

theorem FMap.wf_fill (d : α) (m : FMap α) (i n : Nat) (x : α) (h : FMap.wf d m = true) :
    FMap.wf d (FMap.fill d m i n x) = true := FMap.wf_setList d m i _ h

theorem FMap.wfFrom_clear (d : α) (lo : Option Nat) (m : FMap α) (a b : Nat)
    (h : FMap.wfFrom d lo m = true) : FMap.wfFrom d lo (FMap.clear m a b) = true := by
  induction m generalizing lo with
  | nil => rfl
  | cons e t ih =>
    obtain ⟨k, v⟩ := e
    simp only [FMap.wfFrom, Bool.and_eq_true] at h
    by_cases hk : a ≤ k ∧ k < b
    · simp only [FMap.clear, hk, and_self, if_true]
      refine FMap.wfFrom_weaken d (some k) lo _ (ih _ h.2) ?_
      intro l' hl'
      refine ⟨k, rfl, ?_⟩
      subst hl'
      have := h.1.1
      simp only [decide_eq_true_eq] at this
      omega
    · simp only [FMap.clear, hk, if_false, FMap.wfFrom, Bool.and_eq_true]
      exact ⟨h.1, ih _ h.2⟩

/-- Clearing a range keeps the canonical form. -/
theorem FMap.wf_clear (d : α) (m : FMap α) (a b : Nat) (h : FMap.wf d m = true) :
    FMap.wf d (FMap.clear m a b) = true := FMap.wfFrom_clear d none m a b h

end Sys2Proof.Machine
end

