-- ==== Sys2Proof/Laws/Memory.lean ====
section
/-!
SUPPORT. The laws of memory: a read after a write of bytes, that every operation on memory keeps the canonical form, and that a
wake leaves the contents of memory alone.
-/

namespace Sys2Proof.Machine

theorem ofLE_toLE (n x : Nat) : ofLE (toLE n x) = x % 256 ^ n := by
  induction n generalizing x with
  | zero => simp [toLE, ofLE, Nat.mod_one]
  | succ n ih =>
    have h : x % 256 ^ (n + 1) = x % 256 + 256 * (x / 256 % 256 ^ n) := by
      rw [Nat.pow_succ, Nat.mul_comm, Nat.mod_mul]
    rw [h, ← ih]
    rfl

@[simp] theorem length_toLE (n x : Nat) : (toLE n x).length = n := by
  induction n generalizing x with
  | zero => rfl
  | succ n ih => simp [toLE, ih]

theorem ofLE_lt (bs : List Byte) : ofLE bs < 256 ^ bs.length := by
  induction bs with
  | nil => simp [ofLE]
  | cons b t ih =>
    have := b.isLt
    simp only [ofLE, List.length_cons, Nat.pow_succ]
    omega

/-! ## Bytes -/

/-- The bytes that a write put there are read back. -/
theorem Mem.bytesAt_putBytes (m : Mem) (k : Nat) (bs : List Byte) : (m.putBytes k bs).bytesAt k bs.length = bs :=
  FMap.getList_setList Mem.byte0 m.bytes k bs

/-- A number written little-endian is read back. -/
theorem Mem.number_putBytes (m : Mem) (k n x : Nat) : ofLE ((m.putBytes k (toLE n x)).bytesAt k n) = x % 256 ^ n := by
  have h := Mem.bytesAt_putBytes m k (toLE n x)
  rw [length_toLE] at h
  rw [h, ofLE_toLE]

/-- A write leaves every byte outside it as it was. -/
theorem Mem.putBytes_other (m : Mem) (k j : Nat) (bs : List Byte) (h : j < k ∨ k + bs.length ≤ j) :
    FMap.get Mem.byte0 (m.putBytes k bs).bytes j = FMap.get Mem.byte0 m.bytes j :=
  FMap.get_setList_other Mem.byte0 m.bytes k j bs h

@[simp] theorem Mem.putBytes_tags (m : Mem) (k : Nat) (bs : List Byte) : (m.putBytes k bs).tags = m.tags := rfl
@[simp] theorem Mem.putBytes_descs (m : Mem) (k : Nat) (bs : List Byte) : (m.putBytes k bs).descs = m.descs := rfl
@[simp] theorem Mem.putBytes_poison (m : Mem) (k : Nat) (bs : List Byte) : (m.putBytes k bs).poison = m.poison := rfl
@[simp] theorem Mem.putBytes_parked (m : Mem) (k : Nat) (bs : List Byte) : (m.putBytes k bs).parked = m.parked := rfl
@[simp] theorem Mem.putBytes_waiters (m : Mem) (k : Nat) (bs : List Byte) : (m.putBytes k bs).waiters = m.waiters := rfl
@[simp] theorem Mem.putWords_bytes (m : Mem) (k : Nat) (bs : List Byte) : (m.putWords k bs).bytes = (m.putBytes k bs).bytes := rfl
@[simp] theorem Mem.putWords_tags (m : Mem) (k : Nat) (bs : List Byte) : (m.putWords k bs).tags = m.tags := rfl
@[simp] theorem Mem.putWords_descs (m : Mem) (k : Nat) (bs : List Byte) : (m.putWords k bs).descs = m.descs := rfl
@[simp] theorem Mem.putAt_tags (m : Mem) (b : Nat) (d : List (Nat × Byte)) : (m.putAt b d).tags = m.tags := rfl
@[simp] theorem Mem.putAt_descs (m : Mem) (b : Nat) (d : List (Nat × Byte)) : (m.putAt b d).descs = m.descs := rfl
@[simp] theorem Mem.putAt_poison (m : Mem) (b : Nat) (d : List (Nat × Byte)) : (m.putAt b d).poison = m.poison := rfl

/-! ## The canonical form -/

theorem Mem.wf_iff (m : Mem) : m.wf = true ↔
    FMap.wf Mem.byte0 m.bytes = true ∧ FMap.wf (0 : BitVec 4) m.tags = true ∧ FMap.wf Mem.desc0 m.descs = true
      ∧ FMap.wf (0 : BitVec 2) m.poison = true := by
  simp [Mem.wf, Bool.and_eq_true, and_assoc]

theorem reset_mem_wf : State.reset.mem.wf = true := by decide

/-- Writes one after another keep the canonical form. -/
theorem FMap.wf_foldl {α β : Type} [DecidableEq α] (d : α) (xs : List β) (k : β → Nat) (v : β → α) (m : FMap α)
    (h : FMap.wf d m = true) : FMap.wf d (xs.foldl (fun m x => FMap.set d m (k x) (v x)) m) = true := by
  induction xs generalizing m with
  | nil => exact h
  | cons x t ih => exact ih _ (FMap.wf_set d m _ _ h)

/-- A loop whose body keeps the canonical form keeps it. -/
theorem Mem.wf_foldl {β : Type} (f : Mem → β → Mem) (hf : ∀ m x, m.wf = true → (f m x).wf = true) (xs : List β) (m : Mem)
    (h : m.wf = true) : (xs.foldl f m).wf = true := by
  induction xs generalizing m with
  | nil => exact h
  | cons x t ih => exact ih _ (hf m x h)

theorem Mem.wf_putBytes {m : Mem} (k : Nat) (bs : List Byte) (h : m.wf = true) : (m.putBytes k bs).wf = true := by
  rw [Mem.wf_iff] at h ⊢
  exact ⟨FMap.wf_setList _ _ _ _ h.1, h.2⟩

theorem Mem.wf_putWords {m : Mem} (k : Nat) (bs : List Byte) (h : m.wf = true) : (m.putWords k bs).wf = true := by
  rw [Mem.wf_iff] at h ⊢
  exact ⟨FMap.wf_setList _ _ _ _ h.1, h.2.1, h.2.2.1, FMap.wf_clear _ _ _ _ h.2.2.2⟩

theorem Mem.wf_putAt {m : Mem} (b : Nat) (d : List (Nat × Byte)) (h : m.wf = true) : (m.putAt b d).wf = true := by
  rw [Mem.wf_iff] at h ⊢
  exact ⟨FMap.wf_foldl _ d (fun x => 64 * b + x.1) (fun x => x.2) m.bytes h.1, h.2⟩

theorem Mem.wf_setDesc {m : Mem} (k : Nat) (x : BitVec 48) (h : m.wf = true) :
    ({ m with descs := FMap.set Mem.desc0 m.descs k x } : Mem).wf = true := by
  rw [Mem.wf_iff] at h ⊢
  exact ⟨h.1, h.2.1, FMap.wf_set _ _ _ _ h.2.2.1, h.2.2.2⟩

theorem Mem.wf_setPoison {m : Mem} (k : Nat) (x : BitVec 2) (h : m.wf = true) :
    ({ m with poison := FMap.set 0 m.poison k x } : Mem).wf = true := by
  rw [Mem.wf_iff] at h ⊢
  exact ⟨h.1, h.2.1, h.2.2.1, FMap.wf_set _ _ _ _ h.2.2.2⟩

theorem Mem.wf_setTag {m : Mem} (k : Nat) (x : BitVec 4) (h : m.wf = true) :
    ({ m with tags := FMap.set 0 m.tags k x } : Mem).wf = true := by
  rw [Mem.wf_iff] at h ⊢
  exact ⟨h.1, FMap.wf_set _ _ _ _ h.2.1, h.2.2⟩

theorem Mem.wf_setTags {m : Mem} (k : Nat) (xs : List (BitVec 4)) (h : m.wf = true) :
    ({ m with tags := FMap.setList 0 m.tags k xs } : Mem).wf = true := by
  rw [Mem.wf_iff] at h ⊢
  exact ⟨h.1, FMap.wf_setList _ _ _ _ h.2.1, h.2.2⟩

theorem Mem.wf_clearPoison {m : Mem} (ws : List Nat) (h : m.wf = true) :
    ({ m with poison := ws.foldl (fun p w => FMap.set 0 p w 0) m.poison } : Mem).wf = true := by
  rw [Mem.wf_iff] at h ⊢
  exact ⟨h.1, h.2.1, h.2.2.1, FMap.wf_foldl 0 ws id (fun _ => 0) m.poison h.2.2.2⟩

/-- The data effect of a unit keeps the canonical form. -/
theorem applyAct_wf {m : Mem} (u : AccessUnit) (h : m.wf = true) : (applyAct m u).1.wf = true := by
  unfold applyAct
  cases u.act with
  | read => exact h
  | readBlock => exact h
  | write d => exact Mem.wf_putAt _ _ h
  | writeBlock d x =>
    dsimp only
    repeat' split
    all_goals first | exact Mem.wf_setDesc _ _ (Mem.wf_putAt _ _ h) | exact Mem.wf_putAt _ _ h
  | amo o sub b => exact Mem.wf_putAt _ _ h
  | cas o n e x =>
    dsimp only
    split
    · exact Mem.wf_putAt _ _ h
    · exact h
  | wwait o gb =>
    dsimp only
    split
    · repeat' split
      all_goals exact h
    · exact h
  | land d x t =>
    dsimp only
    repeat' split
    all_goals first | exact Mem.wf_setDesc _ _ (Mem.wf_putAt _ _ h) | exact Mem.wf_putAt _ _ h
  | reduce c d t => exact Mem.wf_putAt _ _ h
  | look => exact h

/-! ## Wakes and traces -/

@[simp] theorem State.setStrand_mem (s : State) (c k : Nat) (f : Strand → Strand) : (s.setStrand c k f).mem = s.mem := rfl

@[simp] theorem State.noteWakes_mem (s : State) (ws : List Nat) : (s.noteWakes ws).mem = s.mem := by
  unfold State.noteWakes
  dsimp only
  split <;> rfl

/-- A wake changes the list of waiters and nothing else of memory. -/
theorem State.wakeWords_mem (s : State) (ws : List Nat) :
    (s.wakeWords ws).mem = { s.mem with waiters := (s.wakeWords ws).mem.waiters } := by
  have loop : ∀ (hit : List Waiter) (t : State), (hit.foldl (fun (s : State) w =>
      s.setStrand w.core w.slot fun x => x.wake (natOf (decide (ofLE (s.mem.bytesAt (8 * w.pa.word) 8) = w.gb.toNat)))) t).mem
        = t.mem := by
    intro hit
    induction hit with
    | nil => intro t; rfl
    | cons w r ih => intro t; rw [List.foldl_cons, ih, State.setStrand_mem]
  unfold State.wakeWords
  dsimp only
  split
  · rw [State.noteWakes_mem]
  · rw [loop]
    simp only [State.noteWakes_mem]

@[simp] theorem State.wakeWords_bytes (s : State) (ws : List Nat) : (s.wakeWords ws).mem.bytes = s.mem.bytes := by
  rw [State.wakeWords_mem]
@[simp] theorem State.wakeWords_tags (s : State) (ws : List Nat) : (s.wakeWords ws).mem.tags = s.mem.tags := by
  rw [State.wakeWords_mem]
@[simp] theorem State.wakeWords_descs (s : State) (ws : List Nat) : (s.wakeWords ws).mem.descs = s.mem.descs := by
  rw [State.wakeWords_mem]
@[simp] theorem State.wakeWords_poison (s : State) (ws : List Nat) : (s.wakeWords ws).mem.poison = s.mem.poison := by
  rw [State.wakeWords_mem]
@[simp] theorem State.wakeWords_wf (s : State) (ws : List Nat) : (s.wakeWords ws).mem.wf = s.mem.wf := by
  simp [Mem.wf]

theorem State.raceLog_wf {s : State} (u : AccessUnit) (k : BitVec 8) (n : Nat) (h : s.mem.wf = true) :
    (s.raceLog u k n).mem.wf = true := by
  unfold State.raceLog
  dsimp only
  repeat' split
  all_goals first | exact h | exact Mem.wf_putWords _ _ h | exact Mem.wf_putWords _ _ (Mem.wf_putWords _ _ h)

/-- Performing a unit keeps the canonical form: data, tags, descriptor, poison, wakes and trace. -/
theorem State.perform_wf {s : State} (u : AccessUnit) (sets : List (Nat × BitVec 4)) (h : s.mem.wf = true) :
    (s.perform u sets).1.mem.wf = true := by
  have hm := applyAct_wf u h
  unfold State.perform
  generalize applyAct s.mem u = r at hm
  obtain ⟨m, x, offs⟩ := r
  dsimp only at hm ⊢
  have h1 : ({ m with
      tags := (landingTags u sets).foldl (fun t x => FMap.set 0 t x.1 x.2) m.tags
      poison := (wholeWords u.pa.block offs).foldl (fun p w => FMap.set 0 p w 0) m.poison } : Mem).wf = true := by
    rw [Mem.wf_iff] at hm ⊢
    exact ⟨hm.1, FMap.wf_foldl 0 _ (fun x : Nat × BitVec 4 => x.1) (fun x => x.2) m.tags hm.2.1, hm.2.2.1,
      FMap.wf_foldl 0 _ id (fun _ => 0) m.poison hm.2.2.2⟩
  split
  · dsimp only
    split
    · rw [State.wakeWords_wf]; exact h1
    · exact State.raceLog_wf _ _ _ (by rw [State.wakeWords_wf]; exact h1)
  · rw [State.wakeWords_wf]; exact h1

/-! ## Stores of the front end, the save path, the tables and the debug agent -/

theorem State.storeAt_wf {s : State} (p : PAddr) (bs : List Byte) (h : s.mem.wf = true) : (s.storeAt p bs).mem.wf = true := by
  unfold State.storeAt
  dsimp only
  rw [State.wakeWords_wf]
  exact Mem.wf_putWords _ _ h

theorem State.putHbm_wf {s : State} (a n x : Nat) (h : s.mem.wf = true) : (s.putHbm a n x).mem.wf = true :=
  Mem.wf_putWords _ _ h

theorem saveVectors_wf {m : Mem} (t : Strand) (a : Nat) (h : m.wf = true) : (saveVectors t a m).wf = true := by
  unfold saveVectors
  refine Mem.wf_foldl _ (fun m r hm => ?_) _ _ h
  split
  · exact Mem.wf_putWords _ _ hm
  · exact hm

theorem saveBanks_wf {m : Mem} (e : Eng) (core : Nat) (mask : BitVec 8) (a : Nat) (h : m.wf = true) :
    (saveBanks e core mask a m).wf = true := by
  unfold saveBanks
  refine Mem.wf_foldl _ (fun m r hm => ?_) _ _ h
  split
  · exact Mem.wf_putWords _ _ hm
  · exact hm

theorem Mem.wf_scrubRange {m : Mem} (k n : Nat) (h : m.wf = true) : (m.scrubRange k n).wf = true := by
  rw [Mem.wf_iff] at h ⊢
  exact ⟨FMap.wf_clear _ _ _ _ h.1, FMap.wf_clear _ _ _ _ h.2.1, FMap.wf_clear _ _ _ _ h.2.2.1, FMap.wf_clear _ _ _ _ h.2.2.2⟩

theorem Mem.wf_scrubTagged {m : Mem} (sp : Space) (n : Nat) (h : m.wf = true) : (m.scrubTagged sp n).wf = true :=
  Mem.wf_scrubRange _ _ h

theorem State.scrub_wf {s : State} (p : Nat) (h : s.mem.wf = true) : (s.scrub p).mem.wf = true := by
  unfold State.scrub
  refine Mem.wf_foldl _ (fun m r hm => Mem.wf_scrubRange _ _ hm) _ _ ?_
  refine Mem.wf_foldl _ (fun m y hm => Mem.wf_scrubTagged _ _ hm) _ _ ?_
  exact Mem.wf_foldl _ (fun m c hm => Mem.wf_scrubTagged _ _ hm) _ _ h

theorem loadTables_wf {m : Mem} (h : m.wf = true) : (loadTables m).wf = true := by
  have table (m : Mem) (k e : Nat) (h : m.wf = true) : (m.putBytes (hbmKey k) (toLE 8 e)).wf = true := Mem.wf_putBytes _ _ h
  unfold loadTables
  exact table _ _ _ (table _ _ _ (table _ _ _ (table _ _ _ (table _ _ _ h))))

/-- The memory in which a placed word stands. -/
theorem State.placed_mem (s : State) (w : Nat) :
    (s.placed w).mem = { (loadTables s.mem).putBytes (hbmKey (21 * 4096)) (toLE 4 w) with
      icache := [{ core := 0, ctx := 1, va := loadVa, word := BitVec.ofNat 32 w }], tlb := [] } := by
  unfold State.placed
  rfl

theorem Mem.wf_caches {m : Mem} (x : List CachedWord) (y : List TlbEntry) (h : m.wf = true) :
    ({ m with icache := x, tlb := y } : Mem).wf = true := h

theorem State.placed_wf {s : State} (w : Nat) (h : s.mem.wf = true) : (s.placed w).mem.wf = true := by
  rw [State.placed_mem]
  exact Mem.wf_caches _ _ (Mem.wf_putBytes _ _ (loadTables_wf h))

theorem State.putSample_wf {s : State} (die : Nat) (b : List Byte) (h : s.mem.wf = true) : (s.putSample die b).mem.wf = true := by
  unfold State.putSample
  dsimp only
  repeat' split
  all_goals first | exact h | exact Mem.wf_putWords _ _ h | exact Mem.wf_putWords _ _ (Mem.wf_putWords _ _ h)

theorem writeDescs_wf (ctx k va : Nat) (xs : List Word) {s : State} (h : s.mem.wf = true) :
    (writeDescs ctx k va xs s).mem.wf = true := by
  induction xs generalizing k s with
  | nil => exact h
  | cons x t ih =>
    unfold writeDescs
    dsimp only
    split
    · exact ih (k + 1) (Mem.wf_setDesc _ _ h)
    · exact ih (k + 1) h

/-- A word that its code cannot correct is poisoned, and nothing else of memory changes. -/
theorem Mem.wf_spoil {m : Mem} (w : Nat) (c : BitVec 2) (h : m.wf = true) : (m.spoil w c).wf = true := Mem.wf_setPoison _ _ h

/-- A soft error keeps the canonical form, wherever it strikes (R390). -/
theorem softError_wf {s t : State} (site : ErrorSite) (c : Bool) (h : s.mem.wf = true) (e : execSoftError site c s = .next t) :
    t.mem.wf = true := by
  have struck (w : Nat) (code : BitVec 2) :
      (if c = true then s.mem.countError w (!c) else (s.mem.countError w (!c)).spoil w code).wf = true := by
    split
    · exact h
    · exact Mem.wf_spoil w code h
  unfold execSoftError at e
  cases site with
  | word w => injection e with e; rw [← e]; exact struck w 1
  | tag w =>
    simp only [Host.Outcome.next.injEq] at e
    rw [← e]
    generalize (spaceOfWord w).any Space.tagged = b
    cases b
    · exact h
    · exact struck w 2
  | stack core slot k => injection e with e; rw [← e]; split <;> exact h
  | lane core slot k => injection e with e; rw [← e]; split <;> exact h
  | bank core b k => injection e with e; rw [← e]; split <;> exact h

end Sys2Proof.Machine
end

