-- ==== Sys2Proof/Laws/Operands.lean ====
section
/-!
SUPPORT. What the operand forms and the issue of a word do when the operands are at hand: one lemma for each shared operation.
-/

namespace Sys2Proof.Machine

/-! ## The instruction monad -/

@[simp] theorem act_pure {α : Type} (x : α) (s : State) : (pure x : Act α) s = .ok x s := rfl

@[simp] theorem act_get (s : State) : (get : Act State) s = .ok s s := rfl

@[simp] theorem act_set (s t : State) : (set t : Act PUnit) s = .ok ⟨⟩ t := rfl

@[simp] theorem act_modify (f : State → State) (s : State) : (modify f : Act PUnit) s = .ok ⟨⟩ (f s) := rfl

@[simp] theorem act_throw {α : Type} (e : Exn) (s : State) : (throw e : Act α) s = .error e s := rfl

/-- A sequence whose first part succeeds. -/
theorem act_bind_ok {α β : Type} {a : Act α} {f : α → Act β} {s s' : State} {x : α} (h : a s = .ok x s') :
    (a >>= f) s = f x s' := by
  show EStateM.bind a f s = f x s'
  simp [EStateM.bind, h]

/-- A sequence whose first part stops. -/
theorem act_bind_error {α β : Type} {a : Act α} {f : α → Act β} {s s' : State} {e : Exn} (h : a s = .error e s') :
    (a >>= f) s = .error e s' := by
  show EStateM.bind a f s = _
  simp [EStateM.bind, h]

@[simp] theorem act_get_bind {β : Type} (f : State → Act β) (s : State) : ((get : Act State) >>= f) s = f s s := rfl

@[simp] theorem act_pure_bind {α β : Type} (x : α) (f : α → Act β) (s : State) : ((pure x : Act α) >>= f) s = f x s := rfl

theorem modMe_ok (f : Strand → Strand) (s : State) : modMe f s = .ok () { s with me := f s.me } := rfl

theorem drawBit_ok (s : State) : drawBit s = .ok (Config.freeBit s.free) { s with free := s.free + 1 } := rfl

theorem trapWith_error {α : Type} (c : Cause) (x y : Word) (s : State) :
    (trapWith c x y : Act α) s = .error (.trap { cause := c, tinfo := x, taddr := y }) s := rfl

/-! ## Registers -/

/-- What can be read can be written. -/
theorem canWrite_of_canRead {t : Strand} {r : Reg} (h : t.canRead r = true) : t.canWrite r = true := by
  simp only [Strand.canRead, Bool.and_eq_true] at h
  simp [Strand.canWrite, h.1.1, h.1.2]

/-- A register at hand reads as its stack entry, where the word has settled no other value of it (R173). -/
theorem readReg_ok {s : State} {r : Reg} (hf : s.me.replay.gs = []) (h : s.me.canRead r = true) : readReg r s = .ok (s.me.g r) s := by
  simp only [Strand.canRead, Bool.and_eq_true, Option.isNone_iff_eq_none, Bool.not_eq_true'] at h
  obtain ⟨⟨h1, h2⟩, h3⟩ := h
  have hp : parityCheck (entryOf s.me.cwp r) 5 (entryOf s.me.cwp r) s = .ok () s := by
    simp only [parityCheck, act_get_bind, h3, Bool.and_false, Bool.false_eq_true, if_false]; rfl
  simp only [readReg, act_get_bind, h1, readEntry, act_bind_ok hp, h2, hf, List.find?_nil, act_pure, Strand.g]

/-- Strict mode lets registers pass that have no outstanding result (R175). -/
theorem strictG_ok {s : State} (k : Nat) {rs : List Reg} (h : ∀ r ∈ rs, s.me.canWrite r = true) :
    strictG k rs s = .ok () s := by
  induction rs with
  | nil => rfl
  | cons r rs ih =>
    have h1 := h r (by simp)
    simp only [Strand.canWrite, Bool.and_eq_true, Option.isNone_iff_eq_none] at h1
    simp only [strictG, act_get_bind, h1.2]
    simpa using ih fun r hr => h r (by simp [hr])

/-- Vector registers without an outstanding result pass too. -/
theorem strictV_ok {s : State} (k : Nat) {rs : List Reg} (h : ∀ r ∈ rs, lastV r.toNat s.me.outstanding = none) :
    strictV k rs s = .ok () s := by
  induction rs with
  | nil => rfl
  | cons r rs ih =>
    have h1 := h r (by simp)
    simp only [strictV, act_get_bind, h1]
    simpa using ih fun r hr => h r (by simp [hr])

/-- Unbound registers may be destinations (R138). -/
theorem streamDest_ok {s : State} {rs : List Reg} (h : ∀ r ∈ rs, s.me.canWrite r = true) : streamDest rs s = .ok () s := by
  induction rs with
  | nil => rfl
  | cons r rs ih =>
    have h1 := h r (by simp)
    simp only [Strand.canWrite, Bool.and_eq_true, Option.isNone_iff_eq_none] at h1
    simp only [streamDest, act_get_bind, h1.1]
    exact ih fun r hr => h r (by simp [hr])

/-- Registers that no stream is bound to pop nothing (R238). -/
theorem streamReads_ok {s : State} {rs : List Reg} (ps : List Nat) (h : ∀ r ∈ rs, s.me.canWrite r = true) :
    streamReads rs ps s = .ok () s := by
  induction rs with
  | nil => rfl
  | cons r rs ih =>
    have h1 := h r (by simp)
    simp only [Strand.canWrite, Bool.and_eq_true, Option.isNone_iff_eq_none] at h1
    simp only [streamReads, act_get_bind, h1.1]
    exact ih fun r hr => h r (by simp [hr])

/-- The ninth long result waits (R174); an earlier one does not. -/
theorem waitNinth_ok {s : State} (h : s.me.outstanding.length < 8) : waitNinth s = .ok () s := by
  simp only [waitNinth, act_get_bind]
  rw [if_neg (by omega)]
  rfl

/-- The checks of a word whose registers are at hand. -/
theorem prologue_ok {s : State} {long : Bool} {gr gw vr vw : List Reg} (hr : ∀ r ∈ gr, s.me.canRead r = true)
    (hw : ∀ r ∈ gw, s.me.canWrite r = true) (hl : long = true → s.me.outstanding.length < 8)
    (hvr : ∀ r ∈ vr, lastV r.toNat s.me.outstanding = none) (hvw : ∀ r ∈ vw, lastV r.toNat s.me.outstanding = none) :
    prologue long gr gw vr vw s = .ok () s := by
  have a := strictG_ok 1 fun r h => canWrite_of_canRead (hr r h)
  have b := strictG_ok 2 hw
  have c := streamDest_ok hw
  have d := strictV_ok 1 hvr
  have e := strictV_ok 2 hvw
  have f := streamReads_ok [] fun r h => canWrite_of_canRead (hr r h)
  cases long with
  | false => simp [prologue, act_bind_ok a, act_bind_ok b, act_bind_ok c, act_bind_ok d, act_bind_ok e, f]
  | true =>
    simp [prologue, act_bind_ok (waitNinth_ok (hl rfl)), act_bind_ok a, act_bind_ok b, act_bind_ok c, act_bind_ok d, act_bind_ok e, f]

/-- A register without an outstanding result takes its value (R137). -/
theorem writeReg_ok {s : State} {r : Reg} (x : Word) (h : s.me.canWrite r = true) :
    writeReg r x s = .ok () { s with me := s.me.put r x } := by
  simp only [Strand.canWrite, Bool.and_eq_true, Option.isNone_iff_eq_none] at h
  simp only [writeReg, act_get_bind, writeEntry, h.2]
  rfl

/-- A long result is on its way to its register (R170). -/
theorem longReg_ok (s : State) (r : Reg) (x : Word) : longReg r x s = .ok () (s.sends [(r, x)]) := rfl

/-- Sticky flags gather (R161). -/
theorem setFlags_ok (f : Flags) (s : State) :
    setFlags f s = .ok () { s with me := { s.me with sflags := s.me.sflags ||| f } } := rfl

/-- A guard whose register is at hand (R116). -/
theorem guardOn_ok {s : State} {g : Guard} (hf : s.me.replay.gs = []) (h : ∀ r ∈ guardReads g, s.me.canRead r = true) :
    guardOn g s = .ok (guardOpen g s.me) s := by
  by_cases hg : g = noGuard
  · subst hg; rfl
  · have hr : s.me.canRead g.reg = true := h g.reg (by simp [guardReads, hg])
    have hs := strictG_ok (s := s) 1 (rs := [g.reg]) (by simpa using canWrite_of_canRead hr)
    have hp := streamReads_ok (s := s) [] (rs := [g.reg]) (by simpa using canWrite_of_canRead hr)
    have hb : s.me.boundGen g.reg = none := by
      simp only [Strand.canRead, Bool.and_eq_true, Option.isNone_iff_eq_none] at hr
      exact hr.1.1
    unfold guardOn
    rw [if_neg hg]
    simp only [act_bind_ok hs, act_bind_ok hp, act_get_bind, act_bind_ok (readReg_ok hf hr), hb, Option.isSome_none, Bool.false_eq_true,
      and_false, if_false, act_pure, guardOpen, hg, decide_false, Bool.false_or]

/-- The widened immediate of the word (R131). -/
theorem immOf_ok (signed : Bool) (w i : Nat) (s : State) : immOf signed w i s = .ok (s.me.imm signed w i) s := rfl

/-! ## Issue -/

/-- A word whose effect completes. -/
theorem issue_ok {i : Instr} {sw : Bool} {k : Takes} {body : Act Flow} {s s' : State} {f : Flow}
    (h : k.follows s.me = true) (hb : body s = .ok f s') : issue i sw k body s = .next (completeWord sw k f s s') := by
  simp only [Takes.follows, Bool.and_eq_true, Bool.not_eq_true'] at h
  simp [issue, h.1, hb]

/-- A word that traps. -/
theorem issue_trap {i : Instr} {sw : Bool} {k : Takes} {body : Act Flow} {s s' : State} {t : TrapInfo}
    (h : k.follows s.me = true) (hb : body s = .error (.trap t) s') : issue i sw k body s = .next (trapWord t s s') := by
  simp only [Takes.follows, Bool.and_eq_true, Bool.not_eq_true'] at h
  simp [issue, h.1, hb]

/-- A word that waits. -/
theorem issue_wait {i : Instr} {sw : Bool} {k : Takes} {body : Act Flow} {s s' : State} {w : Wait}
    (h : k.follows s.me = true) (hb : body s = .error (.wait w) s') : issue i sw k body s = .next (waitWord w s s') := by
  simp only [Takes.follows, Bool.and_eq_true, Bool.not_eq_true'] at h
  simp [issue, h.1, hb]

/-- A word that breaks its prefix group (R129). -/
theorem issue_breach {i : Instr} {sw : Bool} {k : Takes} {body : Act Flow} {s : State} (h : k.breaks s.me.pfx = true) :
    issue i sw k body s = .next (trapWord (breachOf i s.me.pfx) s s) := by
  simp [issue, h]

end Sys2Proof.Machine
end

