-- ==== Sys2Proof/Laws/State.lean ====
section
/-!
SUPPORT. The small lemmas of State: what each update leaves alone, field by field, and what it leaves in the part that it changes.
-/

namespace Sys2Proof.Machine

/-! ## Cores -/

@[simp] theorem State.setCore_agenda (s : State) (c : Nat) (f : Core → Core) : (s.setCore c f).agenda = s.agenda := rfl
@[simp] theorem State.setCore_free (s : State) (c : Nat) (f : Core → Core) : (s.setCore c f).free = s.free := rfl
@[simp] theorem State.setCore_ages (s : State) (c : Nat) (f : Core → Core) : (s.setCore c f).ages = s.ages := rfl
@[simp] theorem State.setCore_time (s : State) (c : Nat) (f : Core → Core) : (s.setCore c f).time = s.time := rfl
@[simp] theorem State.setCore_idles (s : State) (c : Nat) (f : Core → Core) : (s.setCore c f).idles = s.idles := rfl
@[simp] theorem State.setCore_me (s : State) (c : Nat) (f : Core → Core) : (s.setCore c f).me = s.me := rfl
@[simp] theorem State.setCore_strands (s : State) (c : Nat) (f : Core → Core) : (s.setCore c f).strands = s.strands := rfl
@[simp] theorem State.setCore_mem (s : State) (c : Nat) (f : Core → Core) : (s.setCore c f).mem = s.mem := rfl
@[simp] theorem State.setCore_eng (s : State) (c : Nat) (f : Core → Core) : (s.setCore c f).eng = s.eng := rfl
@[simp] theorem State.setCore_hub (s : State) (c : Nat) (f : Core → Core) : (s.setCore c f).hub = s.hub := rfl
@[simp] theorem State.setCore_pkg (s : State) (c : Nat) (f : Core → Core) : (s.setCore c f).pkg = s.pkg := rfl

@[simp] theorem State.coreOf_setCore (s : State) (c k : Nat) (f : Core → Core) :
    (s.setCore c f).coreOf k = if k = c then f (s.coreOf c) else s.coreOf k := by
  simp [State.coreOf, State.setCore]

/-! ## The hub -/

@[simp] theorem State.setHub_agenda (s : State) (f : Hub → Hub) : (s.setHub f).agenda = s.agenda := rfl
@[simp] theorem State.setHub_free (s : State) (f : Hub → Hub) : (s.setHub f).free = s.free := rfl
@[simp] theorem State.setHub_ages (s : State) (f : Hub → Hub) : (s.setHub f).ages = s.ages := rfl
@[simp] theorem State.setHub_time (s : State) (f : Hub → Hub) : (s.setHub f).time = s.time := rfl
@[simp] theorem State.setHub_idles (s : State) (f : Hub → Hub) : (s.setHub f).idles = s.idles := rfl
@[simp] theorem State.setHub_me (s : State) (f : Hub → Hub) : (s.setHub f).me = s.me := rfl
@[simp] theorem State.setHub_strands (s : State) (f : Hub → Hub) : (s.setHub f).strands = s.strands := rfl
@[simp] theorem State.setHub_mem (s : State) (f : Hub → Hub) : (s.setHub f).mem = s.mem := rfl
@[simp] theorem State.setHub_cores (s : State) (f : Hub → Hub) : (s.setHub f).cores = s.cores := rfl
@[simp] theorem State.setHub_eng (s : State) (f : Hub → Hub) : (s.setHub f).eng = s.eng := rfl
@[simp] theorem State.setHub_pkg (s : State) (f : Hub → Hub) : (s.setHub f).pkg = s.pkg := rfl

@[simp] theorem State.setHub_hub (s : State) (f : Hub → Hub) : (s.setHub f).hub = f s.hub := rfl

/-! ## Contexts -/

@[simp] theorem State.setCtx_agenda (s : State) (c : Nat) (f : Ctx → Ctx) : (s.setCtx c f).agenda = s.agenda := rfl
@[simp] theorem State.setCtx_free (s : State) (c : Nat) (f : Ctx → Ctx) : (s.setCtx c f).free = s.free := rfl
@[simp] theorem State.setCtx_ages (s : State) (c : Nat) (f : Ctx → Ctx) : (s.setCtx c f).ages = s.ages := rfl
@[simp] theorem State.setCtx_time (s : State) (c : Nat) (f : Ctx → Ctx) : (s.setCtx c f).time = s.time := rfl
@[simp] theorem State.setCtx_idles (s : State) (c : Nat) (f : Ctx → Ctx) : (s.setCtx c f).idles = s.idles := rfl
@[simp] theorem State.setCtx_me (s : State) (c : Nat) (f : Ctx → Ctx) : (s.setCtx c f).me = s.me := rfl
@[simp] theorem State.setCtx_strands (s : State) (c : Nat) (f : Ctx → Ctx) : (s.setCtx c f).strands = s.strands := rfl
@[simp] theorem State.setCtx_mem (s : State) (c : Nat) (f : Ctx → Ctx) : (s.setCtx c f).mem = s.mem := rfl
@[simp] theorem State.setCtx_cores (s : State) (c : Nat) (f : Ctx → Ctx) : (s.setCtx c f).cores = s.cores := rfl
@[simp] theorem State.setCtx_eng (s : State) (c : Nat) (f : Ctx → Ctx) : (s.setCtx c f).eng = s.eng := rfl
@[simp] theorem State.setCtx_pkg (s : State) (c : Nat) (f : Ctx → Ctx) : (s.setCtx c f).pkg = s.pkg := rfl
@[simp] theorem State.setCtx_hub_chip (s : State) (c : Nat) (f : Ctx → Ctx) : (s.setCtx c f).hub.chip = s.hub.chip := rfl
@[simp] theorem State.setCtx_hub_serial (s : State) (c : Nat) (f : Ctx → Ctx) : (s.setCtx c f).hub.serial = s.hub.serial := rfl
@[simp] theorem State.setCtx_hub_issueCounter (s : State) (c : Nat) (f : Ctx → Ctx) : (s.setCtx c f).hub.issueCounter = s.hub.issueCounter := rfl
@[simp] theorem State.setCtx_hub_watermark (s : State) (c : Nat) (f : Ctx → Ctx) : (s.setCtx c f).hub.watermark = s.hub.watermark := rfl
@[simp] theorem State.setCtx_hub_names (s : State) (c : Nat) (f : Ctx → Ctx) : (s.setCtx c f).hub.names = s.hub.names := rfl
@[simp] theorem State.setCtx_hub_snaps (s : State) (c : Nat) (f : Ctx → Ctx) : (s.setCtx c f).hub.snaps = s.hub.snaps := rfl
@[simp] theorem State.setCtx_hub_queues (s : State) (c : Nat) (f : Ctx → Ctx) : (s.setCtx c f).hub.queues = s.hub.queues := rfl
@[simp] theorem State.setCtx_hub_launches (s : State) (c : Nat) (f : Ctx → Ctx) : (s.setCtx c f).hub.launches = s.hub.launches := rfl
@[simp] theorem State.setCtx_hub_binds (s : State) (c : Nat) (f : Ctx → Ctx) : (s.setCtx c f).hub.binds = s.hub.binds := rfl
@[simp] theorem State.setCtx_hub_parts (s : State) (c : Nat) (f : Ctx → Ctx) : (s.setCtx c f).hub.parts = s.hub.parts := rfl

@[simp] theorem State.ctxOf_setCtx (s : State) (c k : Nat) (f : Ctx → Ctx) :
    (s.setCtx c f).ctxOf k = if k = c then f (s.ctxOf c) else s.ctxOf k := by
  simp [State.ctxOf, State.setCtx, State.setHub]

/-! ## Partitions -/

@[simp] theorem State.setPart_agenda (s : State) (c : Nat) (f : Part → Part) : (s.setPart c f).agenda = s.agenda := rfl
@[simp] theorem State.setPart_free (s : State) (c : Nat) (f : Part → Part) : (s.setPart c f).free = s.free := rfl
@[simp] theorem State.setPart_ages (s : State) (c : Nat) (f : Part → Part) : (s.setPart c f).ages = s.ages := rfl
@[simp] theorem State.setPart_time (s : State) (c : Nat) (f : Part → Part) : (s.setPart c f).time = s.time := rfl
@[simp] theorem State.setPart_idles (s : State) (c : Nat) (f : Part → Part) : (s.setPart c f).idles = s.idles := rfl
@[simp] theorem State.setPart_me (s : State) (c : Nat) (f : Part → Part) : (s.setPart c f).me = s.me := rfl
@[simp] theorem State.setPart_strands (s : State) (c : Nat) (f : Part → Part) : (s.setPart c f).strands = s.strands := rfl
@[simp] theorem State.setPart_mem (s : State) (c : Nat) (f : Part → Part) : (s.setPart c f).mem = s.mem := rfl
@[simp] theorem State.setPart_cores (s : State) (c : Nat) (f : Part → Part) : (s.setPart c f).cores = s.cores := rfl
@[simp] theorem State.setPart_eng (s : State) (c : Nat) (f : Part → Part) : (s.setPart c f).eng = s.eng := rfl
@[simp] theorem State.setPart_pkg (s : State) (c : Nat) (f : Part → Part) : (s.setPart c f).pkg = s.pkg := rfl
@[simp] theorem State.setPart_hub_chip (s : State) (c : Nat) (f : Part → Part) : (s.setPart c f).hub.chip = s.hub.chip := rfl
@[simp] theorem State.setPart_hub_serial (s : State) (c : Nat) (f : Part → Part) : (s.setPart c f).hub.serial = s.hub.serial := rfl
@[simp] theorem State.setPart_hub_issueCounter (s : State) (c : Nat) (f : Part → Part) : (s.setPart c f).hub.issueCounter = s.hub.issueCounter := rfl
@[simp] theorem State.setPart_hub_watermark (s : State) (c : Nat) (f : Part → Part) : (s.setPart c f).hub.watermark = s.hub.watermark := rfl
@[simp] theorem State.setPart_hub_names (s : State) (c : Nat) (f : Part → Part) : (s.setPart c f).hub.names = s.hub.names := rfl
@[simp] theorem State.setPart_hub_snaps (s : State) (c : Nat) (f : Part → Part) : (s.setPart c f).hub.snaps = s.hub.snaps := rfl
@[simp] theorem State.setPart_hub_queues (s : State) (c : Nat) (f : Part → Part) : (s.setPart c f).hub.queues = s.hub.queues := rfl
@[simp] theorem State.setPart_hub_launches (s : State) (c : Nat) (f : Part → Part) : (s.setPart c f).hub.launches = s.hub.launches := rfl
@[simp] theorem State.setPart_hub_binds (s : State) (c : Nat) (f : Part → Part) : (s.setPart c f).hub.binds = s.hub.binds := rfl
@[simp] theorem State.setPart_hub_ctxs (s : State) (c : Nat) (f : Part → Part) : (s.setPart c f).hub.ctxs = s.hub.ctxs := rfl

@[simp] theorem State.partOf_setPart (s : State) (c k : Nat) (f : Part → Part) :
    (s.setPart c f).partOf k = if k = c then f (s.partOf c) else s.partOf k := by
  simp [State.partOf, State.setPart, State.setHub]

/-! ## Launches -/

@[simp] theorem State.setLaunch_agenda (s : State) (c : Nat) (f : Launch → Launch) : (s.setLaunch c f).agenda = s.agenda := rfl
@[simp] theorem State.setLaunch_free (s : State) (c : Nat) (f : Launch → Launch) : (s.setLaunch c f).free = s.free := rfl
@[simp] theorem State.setLaunch_ages (s : State) (c : Nat) (f : Launch → Launch) : (s.setLaunch c f).ages = s.ages := rfl
@[simp] theorem State.setLaunch_time (s : State) (c : Nat) (f : Launch → Launch) : (s.setLaunch c f).time = s.time := rfl
@[simp] theorem State.setLaunch_idles (s : State) (c : Nat) (f : Launch → Launch) : (s.setLaunch c f).idles = s.idles := rfl
@[simp] theorem State.setLaunch_me (s : State) (c : Nat) (f : Launch → Launch) : (s.setLaunch c f).me = s.me := rfl
@[simp] theorem State.setLaunch_strands (s : State) (c : Nat) (f : Launch → Launch) : (s.setLaunch c f).strands = s.strands := rfl
@[simp] theorem State.setLaunch_mem (s : State) (c : Nat) (f : Launch → Launch) : (s.setLaunch c f).mem = s.mem := rfl
@[simp] theorem State.setLaunch_cores (s : State) (c : Nat) (f : Launch → Launch) : (s.setLaunch c f).cores = s.cores := rfl
@[simp] theorem State.setLaunch_eng (s : State) (c : Nat) (f : Launch → Launch) : (s.setLaunch c f).eng = s.eng := rfl
@[simp] theorem State.setLaunch_pkg (s : State) (c : Nat) (f : Launch → Launch) : (s.setLaunch c f).pkg = s.pkg := rfl
@[simp] theorem State.setLaunch_hub_chip (s : State) (c : Nat) (f : Launch → Launch) : (s.setLaunch c f).hub.chip = s.hub.chip := rfl
@[simp] theorem State.setLaunch_hub_serial (s : State) (c : Nat) (f : Launch → Launch) : (s.setLaunch c f).hub.serial = s.hub.serial := rfl
@[simp] theorem State.setLaunch_hub_issueCounter (s : State) (c : Nat) (f : Launch → Launch) : (s.setLaunch c f).hub.issueCounter = s.hub.issueCounter := rfl
@[simp] theorem State.setLaunch_hub_watermark (s : State) (c : Nat) (f : Launch → Launch) : (s.setLaunch c f).hub.watermark = s.hub.watermark := rfl
@[simp] theorem State.setLaunch_hub_names (s : State) (c : Nat) (f : Launch → Launch) : (s.setLaunch c f).hub.names = s.hub.names := rfl
@[simp] theorem State.setLaunch_hub_snaps (s : State) (c : Nat) (f : Launch → Launch) : (s.setLaunch c f).hub.snaps = s.hub.snaps := rfl
@[simp] theorem State.setLaunch_hub_queues (s : State) (c : Nat) (f : Launch → Launch) : (s.setLaunch c f).hub.queues = s.hub.queues := rfl
@[simp] theorem State.setLaunch_hub_binds (s : State) (c : Nat) (f : Launch → Launch) : (s.setLaunch c f).hub.binds = s.hub.binds := rfl
@[simp] theorem State.setLaunch_hub_ctxs (s : State) (c : Nat) (f : Launch → Launch) : (s.setLaunch c f).hub.ctxs = s.hub.ctxs := rfl
@[simp] theorem State.setLaunch_hub_parts (s : State) (c : Nat) (f : Launch → Launch) : (s.setLaunch c f).hub.parts = s.hub.parts := rfl

@[simp] theorem State.launchOf_setLaunch (s : State) (c k : Nat) (f : Launch → Launch) :
    (s.setLaunch c f).launchOf k = if k = c then f (s.launchOf c) else s.launchOf k := by
  simp [State.launchOf, State.setLaunch, State.setHub]

/-! ## Name-table entries -/

@[simp] theorem State.setName_agenda (s : State) (c : Nat) (f : NameEntry → NameEntry) : (s.setName c f).agenda = s.agenda := rfl
@[simp] theorem State.setName_free (s : State) (c : Nat) (f : NameEntry → NameEntry) : (s.setName c f).free = s.free := rfl
@[simp] theorem State.setName_ages (s : State) (c : Nat) (f : NameEntry → NameEntry) : (s.setName c f).ages = s.ages := rfl
@[simp] theorem State.setName_time (s : State) (c : Nat) (f : NameEntry → NameEntry) : (s.setName c f).time = s.time := rfl
@[simp] theorem State.setName_idles (s : State) (c : Nat) (f : NameEntry → NameEntry) : (s.setName c f).idles = s.idles := rfl
@[simp] theorem State.setName_me (s : State) (c : Nat) (f : NameEntry → NameEntry) : (s.setName c f).me = s.me := rfl
@[simp] theorem State.setName_strands (s : State) (c : Nat) (f : NameEntry → NameEntry) : (s.setName c f).strands = s.strands := rfl
@[simp] theorem State.setName_mem (s : State) (c : Nat) (f : NameEntry → NameEntry) : (s.setName c f).mem = s.mem := rfl
@[simp] theorem State.setName_cores (s : State) (c : Nat) (f : NameEntry → NameEntry) : (s.setName c f).cores = s.cores := rfl
@[simp] theorem State.setName_eng (s : State) (c : Nat) (f : NameEntry → NameEntry) : (s.setName c f).eng = s.eng := rfl
@[simp] theorem State.setName_pkg (s : State) (c : Nat) (f : NameEntry → NameEntry) : (s.setName c f).pkg = s.pkg := rfl
@[simp] theorem State.setName_hub_chip (s : State) (c : Nat) (f : NameEntry → NameEntry) : (s.setName c f).hub.chip = s.hub.chip := rfl
@[simp] theorem State.setName_hub_serial (s : State) (c : Nat) (f : NameEntry → NameEntry) : (s.setName c f).hub.serial = s.hub.serial := rfl
@[simp] theorem State.setName_hub_issueCounter (s : State) (c : Nat) (f : NameEntry → NameEntry) : (s.setName c f).hub.issueCounter = s.hub.issueCounter := rfl
@[simp] theorem State.setName_hub_watermark (s : State) (c : Nat) (f : NameEntry → NameEntry) : (s.setName c f).hub.watermark = s.hub.watermark := rfl
@[simp] theorem State.setName_hub_snaps (s : State) (c : Nat) (f : NameEntry → NameEntry) : (s.setName c f).hub.snaps = s.hub.snaps := rfl
@[simp] theorem State.setName_hub_queues (s : State) (c : Nat) (f : NameEntry → NameEntry) : (s.setName c f).hub.queues = s.hub.queues := rfl
@[simp] theorem State.setName_hub_launches (s : State) (c : Nat) (f : NameEntry → NameEntry) : (s.setName c f).hub.launches = s.hub.launches := rfl
@[simp] theorem State.setName_hub_binds (s : State) (c : Nat) (f : NameEntry → NameEntry) : (s.setName c f).hub.binds = s.hub.binds := rfl
@[simp] theorem State.setName_hub_ctxs (s : State) (c : Nat) (f : NameEntry → NameEntry) : (s.setName c f).hub.ctxs = s.hub.ctxs := rfl
@[simp] theorem State.setName_hub_parts (s : State) (c : Nat) (f : NameEntry → NameEntry) : (s.setName c f).hub.parts = s.hub.parts := rfl

@[simp] theorem State.nameEntry_setName (s : State) (c k : Nat) (f : NameEntry → NameEntry) :
    (s.setName c f).nameEntry k = if k = c then f (s.nameEntry c) else s.nameEntry k := by
  simp [State.nameEntry, State.setName, State.setHub]

/-! ## Queues -/

@[simp] theorem State.setQueue_agenda (s : State) (c : Nat) (f : Queue → Queue) : (s.setQueue c f).agenda = s.agenda := rfl
@[simp] theorem State.setQueue_free (s : State) (c : Nat) (f : Queue → Queue) : (s.setQueue c f).free = s.free := rfl
@[simp] theorem State.setQueue_ages (s : State) (c : Nat) (f : Queue → Queue) : (s.setQueue c f).ages = s.ages := rfl
@[simp] theorem State.setQueue_time (s : State) (c : Nat) (f : Queue → Queue) : (s.setQueue c f).time = s.time := rfl
@[simp] theorem State.setQueue_idles (s : State) (c : Nat) (f : Queue → Queue) : (s.setQueue c f).idles = s.idles := rfl
@[simp] theorem State.setQueue_me (s : State) (c : Nat) (f : Queue → Queue) : (s.setQueue c f).me = s.me := rfl
@[simp] theorem State.setQueue_strands (s : State) (c : Nat) (f : Queue → Queue) : (s.setQueue c f).strands = s.strands := rfl
@[simp] theorem State.setQueue_mem (s : State) (c : Nat) (f : Queue → Queue) : (s.setQueue c f).mem = s.mem := rfl
@[simp] theorem State.setQueue_cores (s : State) (c : Nat) (f : Queue → Queue) : (s.setQueue c f).cores = s.cores := rfl
@[simp] theorem State.setQueue_eng (s : State) (c : Nat) (f : Queue → Queue) : (s.setQueue c f).eng = s.eng := rfl
@[simp] theorem State.setQueue_pkg (s : State) (c : Nat) (f : Queue → Queue) : (s.setQueue c f).pkg = s.pkg := rfl
@[simp] theorem State.setQueue_hub_chip (s : State) (c : Nat) (f : Queue → Queue) : (s.setQueue c f).hub.chip = s.hub.chip := rfl
@[simp] theorem State.setQueue_hub_serial (s : State) (c : Nat) (f : Queue → Queue) : (s.setQueue c f).hub.serial = s.hub.serial := rfl
@[simp] theorem State.setQueue_hub_issueCounter (s : State) (c : Nat) (f : Queue → Queue) : (s.setQueue c f).hub.issueCounter = s.hub.issueCounter := rfl
@[simp] theorem State.setQueue_hub_watermark (s : State) (c : Nat) (f : Queue → Queue) : (s.setQueue c f).hub.watermark = s.hub.watermark := rfl
@[simp] theorem State.setQueue_hub_names (s : State) (c : Nat) (f : Queue → Queue) : (s.setQueue c f).hub.names = s.hub.names := rfl
@[simp] theorem State.setQueue_hub_snaps (s : State) (c : Nat) (f : Queue → Queue) : (s.setQueue c f).hub.snaps = s.hub.snaps := rfl
@[simp] theorem State.setQueue_hub_launches (s : State) (c : Nat) (f : Queue → Queue) : (s.setQueue c f).hub.launches = s.hub.launches := rfl
@[simp] theorem State.setQueue_hub_binds (s : State) (c : Nat) (f : Queue → Queue) : (s.setQueue c f).hub.binds = s.hub.binds := rfl
@[simp] theorem State.setQueue_hub_ctxs (s : State) (c : Nat) (f : Queue → Queue) : (s.setQueue c f).hub.ctxs = s.hub.ctxs := rfl
@[simp] theorem State.setQueue_hub_parts (s : State) (c : Nat) (f : Queue → Queue) : (s.setQueue c f).hub.parts = s.hub.parts := rfl

@[simp] theorem State.queueOf_setQueue (s : State) (c k : Nat) (f : Queue → Queue) :
    (s.setQueue c f).queueOf k = if k = c then f (s.queueOf c) else s.queueOf k := by
  simp [State.queueOf, State.setQueue, State.setHub]

/-! ## Engine ops -/

@[simp] theorem State.setOp_agenda (s : State) (n : Nat) (f : Op → Op) : (s.setOp n f).agenda = s.agenda := rfl
@[simp] theorem State.setOp_free (s : State) (n : Nat) (f : Op → Op) : (s.setOp n f).free = s.free := rfl
@[simp] theorem State.setOp_ages (s : State) (n : Nat) (f : Op → Op) : (s.setOp n f).ages = s.ages := rfl
@[simp] theorem State.setOp_time (s : State) (n : Nat) (f : Op → Op) : (s.setOp n f).time = s.time := rfl
@[simp] theorem State.setOp_idles (s : State) (n : Nat) (f : Op → Op) : (s.setOp n f).idles = s.idles := rfl
@[simp] theorem State.setOp_me (s : State) (n : Nat) (f : Op → Op) : (s.setOp n f).me = s.me := rfl
@[simp] theorem State.setOp_strands (s : State) (n : Nat) (f : Op → Op) : (s.setOp n f).strands = s.strands := rfl
@[simp] theorem State.setOp_mem (s : State) (n : Nat) (f : Op → Op) : (s.setOp n f).mem = s.mem := rfl
@[simp] theorem State.setOp_cores (s : State) (n : Nat) (f : Op → Op) : (s.setOp n f).cores = s.cores := rfl
@[simp] theorem State.setOp_hub (s : State) (n : Nat) (f : Op → Op) : (s.setOp n f).hub = s.hub := rfl
@[simp] theorem State.setOp_pkg (s : State) (n : Nat) (f : Op → Op) : (s.setOp n f).pkg = s.pkg := rfl
@[simp] theorem State.setOp_eng_nextOp (s : State) (n : Nat) (f : Op → Op) : (s.setOp n f).eng.nextOp = s.eng.nextOp := rfl
@[simp] theorem State.setOp_eng_acc (s : State) (n : Nat) (f : Op → Op) : (s.setOp n f).eng.acc = s.eng.acc := rfl
@[simp] theorem State.setOp_eng_badAcc (s : State) (n : Nat) (f : Op → Op) : (s.setOp n f).eng.badAcc = s.eng.badAcc := rfl
@[simp] theorem State.setOp_eng_banks (s : State) (n : Nat) (f : Op → Op) : (s.setOp n f).eng.banks = s.eng.banks := rfl
@[simp] theorem State.setOp_eng_entries (s : State) (n : Nat) (f : Op → Op) : (s.setOp n f).eng.entries = s.eng.entries := rfl
@[simp] theorem State.setOp_eng_teams (s : State) (n : Nat) (f : Op → Op) : (s.setOp n f).eng.teams = s.eng.teams := rfl
@[simp] theorem State.setOp_eng_colls (s : State) (n : Nat) (f : Op → Op) : (s.setOp n f).eng.colls = s.eng.colls := rfl
@[simp] theorem State.setOp_eng_collSeq (s : State) (n : Nat) (f : Op → Op) : (s.setOp n f).eng.collSeq = s.eng.collSeq := rfl
@[simp] theorem State.setOp_eng_messages (s : State) (n : Nat) (f : Op → Op) : (s.setOp n f).eng.messages = s.eng.messages := rfl

@[simp] theorem State.opOf_setOp (s : State) (n k : Nat) (f : Op → Op) :
    (s.setOp n f).opOf k = if k = n then f (s.opOf n) else s.opOf k := by
  simp [State.opOf, State.setOp]

/-! ## Banks -/

@[simp] theorem State.setBank_agenda (s : State) (core b : Nat) (f : Bank → Bank) : (s.setBank core b f).agenda = s.agenda := rfl
@[simp] theorem State.setBank_free (s : State) (core b : Nat) (f : Bank → Bank) : (s.setBank core b f).free = s.free := rfl
@[simp] theorem State.setBank_ages (s : State) (core b : Nat) (f : Bank → Bank) : (s.setBank core b f).ages = s.ages := rfl
@[simp] theorem State.setBank_time (s : State) (core b : Nat) (f : Bank → Bank) : (s.setBank core b f).time = s.time := rfl
@[simp] theorem State.setBank_idles (s : State) (core b : Nat) (f : Bank → Bank) : (s.setBank core b f).idles = s.idles := rfl
@[simp] theorem State.setBank_me (s : State) (core b : Nat) (f : Bank → Bank) : (s.setBank core b f).me = s.me := rfl
@[simp] theorem State.setBank_strands (s : State) (core b : Nat) (f : Bank → Bank) : (s.setBank core b f).strands = s.strands := rfl
@[simp] theorem State.setBank_mem (s : State) (core b : Nat) (f : Bank → Bank) : (s.setBank core b f).mem = s.mem := rfl
@[simp] theorem State.setBank_cores (s : State) (core b : Nat) (f : Bank → Bank) : (s.setBank core b f).cores = s.cores := rfl
@[simp] theorem State.setBank_hub (s : State) (core b : Nat) (f : Bank → Bank) : (s.setBank core b f).hub = s.hub := rfl
@[simp] theorem State.setBank_pkg (s : State) (core b : Nat) (f : Bank → Bank) : (s.setBank core b f).pkg = s.pkg := rfl
@[simp] theorem State.setBank_eng_ops (s : State) (core b : Nat) (f : Bank → Bank) : (s.setBank core b f).eng.ops = s.eng.ops := rfl
@[simp] theorem State.setBank_eng_nextOp (s : State) (core b : Nat) (f : Bank → Bank) : (s.setBank core b f).eng.nextOp = s.eng.nextOp := rfl
@[simp] theorem State.setBank_eng_acc (s : State) (core b : Nat) (f : Bank → Bank) : (s.setBank core b f).eng.acc = s.eng.acc := rfl
@[simp] theorem State.setBank_eng_badAcc (s : State) (core b : Nat) (f : Bank → Bank) : (s.setBank core b f).eng.badAcc = s.eng.badAcc := rfl
@[simp] theorem State.setBank_eng_entries (s : State) (core b : Nat) (f : Bank → Bank) : (s.setBank core b f).eng.entries = s.eng.entries := rfl
@[simp] theorem State.setBank_eng_teams (s : State) (core b : Nat) (f : Bank → Bank) : (s.setBank core b f).eng.teams = s.eng.teams := rfl
@[simp] theorem State.setBank_eng_colls (s : State) (core b : Nat) (f : Bank → Bank) : (s.setBank core b f).eng.colls = s.eng.colls := rfl
@[simp] theorem State.setBank_eng_collSeq (s : State) (core b : Nat) (f : Bank → Bank) : (s.setBank core b f).eng.collSeq = s.eng.collSeq := rfl
@[simp] theorem State.setBank_eng_messages (s : State) (core b : Nat) (f : Bank → Bank) : (s.setBank core b f).eng.messages = s.eng.messages := rfl

theorem State.bankOf_setBank (s : State) (core b core' b' : Nat) (f : Bank → Bank) :
    (s.setBank core b f).bankOf core' b' = if 4 * core' + b' = 4 * core + b then f (s.bankOf core b) else s.bankOf core' b' := by
  simp [State.bankOf, State.setBank]

/-- Banks of the numbers 0 to 3 have records of their own. -/
theorem State.bankOf_setBank_other (s : State) (core b core' b' : Nat) (f : Bank → Bank) (hb : b < 4) (hb' : b' < 4)
    (h : core' ≠ core ∨ b' ≠ b) : (s.setBank core b f).bankOf core' b' = s.bankOf core' b' := by
  rw [State.bankOf_setBank, if_neg (by omega)]

/-! ## Collectives -/

@[simp] theorem State.setColl_agenda (s : State) (team seq : Nat) (f : Collective → Collective) : (s.setColl team seq f).agenda = s.agenda := rfl
@[simp] theorem State.setColl_free (s : State) (team seq : Nat) (f : Collective → Collective) : (s.setColl team seq f).free = s.free := rfl
@[simp] theorem State.setColl_ages (s : State) (team seq : Nat) (f : Collective → Collective) : (s.setColl team seq f).ages = s.ages := rfl
@[simp] theorem State.setColl_time (s : State) (team seq : Nat) (f : Collective → Collective) : (s.setColl team seq f).time = s.time := rfl
@[simp] theorem State.setColl_idles (s : State) (team seq : Nat) (f : Collective → Collective) : (s.setColl team seq f).idles = s.idles := rfl
@[simp] theorem State.setColl_me (s : State) (team seq : Nat) (f : Collective → Collective) : (s.setColl team seq f).me = s.me := rfl
@[simp] theorem State.setColl_strands (s : State) (team seq : Nat) (f : Collective → Collective) : (s.setColl team seq f).strands = s.strands := rfl
@[simp] theorem State.setColl_mem (s : State) (team seq : Nat) (f : Collective → Collective) : (s.setColl team seq f).mem = s.mem := rfl
@[simp] theorem State.setColl_cores (s : State) (team seq : Nat) (f : Collective → Collective) : (s.setColl team seq f).cores = s.cores := rfl
@[simp] theorem State.setColl_hub (s : State) (team seq : Nat) (f : Collective → Collective) : (s.setColl team seq f).hub = s.hub := rfl
@[simp] theorem State.setColl_pkg (s : State) (team seq : Nat) (f : Collective → Collective) : (s.setColl team seq f).pkg = s.pkg := rfl
@[simp] theorem State.setColl_eng_ops (s : State) (team seq : Nat) (f : Collective → Collective) : (s.setColl team seq f).eng.ops = s.eng.ops := rfl
@[simp] theorem State.setColl_eng_nextOp (s : State) (team seq : Nat) (f : Collective → Collective) : (s.setColl team seq f).eng.nextOp = s.eng.nextOp := rfl
@[simp] theorem State.setColl_eng_acc (s : State) (team seq : Nat) (f : Collective → Collective) : (s.setColl team seq f).eng.acc = s.eng.acc := rfl
@[simp] theorem State.setColl_eng_badAcc (s : State) (team seq : Nat) (f : Collective → Collective) : (s.setColl team seq f).eng.badAcc = s.eng.badAcc := rfl
@[simp] theorem State.setColl_eng_banks (s : State) (team seq : Nat) (f : Collective → Collective) : (s.setColl team seq f).eng.banks = s.eng.banks := rfl
@[simp] theorem State.setColl_eng_entries (s : State) (team seq : Nat) (f : Collective → Collective) : (s.setColl team seq f).eng.entries = s.eng.entries := rfl
@[simp] theorem State.setColl_eng_teams (s : State) (team seq : Nat) (f : Collective → Collective) : (s.setColl team seq f).eng.teams = s.eng.teams := rfl
@[simp] theorem State.setColl_eng_collSeq (s : State) (team seq : Nat) (f : Collective → Collective) : (s.setColl team seq f).eng.collSeq = s.eng.collSeq := rfl
@[simp] theorem State.setColl_eng_messages (s : State) (team seq : Nat) (f : Collective → Collective) : (s.setColl team seq f).eng.messages = s.eng.messages := rfl

/-! ## Fumarole -/

@[simp] theorem State.setPkg_agenda (s : State) (f : Pkg → Pkg) : (s.setPkg f).agenda = s.agenda := rfl
@[simp] theorem State.setPkg_free (s : State) (f : Pkg → Pkg) : (s.setPkg f).free = s.free := rfl
@[simp] theorem State.setPkg_ages (s : State) (f : Pkg → Pkg) : (s.setPkg f).ages = s.ages := rfl
@[simp] theorem State.setPkg_time (s : State) (f : Pkg → Pkg) : (s.setPkg f).time = s.time := rfl
@[simp] theorem State.setPkg_idles (s : State) (f : Pkg → Pkg) : (s.setPkg f).idles = s.idles := rfl
@[simp] theorem State.setPkg_me (s : State) (f : Pkg → Pkg) : (s.setPkg f).me = s.me := rfl
@[simp] theorem State.setPkg_strands (s : State) (f : Pkg → Pkg) : (s.setPkg f).strands = s.strands := rfl
@[simp] theorem State.setPkg_mem (s : State) (f : Pkg → Pkg) : (s.setPkg f).mem = s.mem := rfl
@[simp] theorem State.setPkg_cores (s : State) (f : Pkg → Pkg) : (s.setPkg f).cores = s.cores := rfl
@[simp] theorem State.setPkg_eng (s : State) (f : Pkg → Pkg) : (s.setPkg f).eng = s.eng := rfl
@[simp] theorem State.setPkg_hub (s : State) (f : Pkg → Pkg) : (s.setPkg f).hub = s.hub := rfl

@[simp] theorem State.setPkg_pkg (s : State) (f : Pkg → Pkg) : (s.setPkg f).pkg = f s.pkg := rfl

/-! ## Retention -/

@[simp] theorem State.setPark_agenda (s : State) (i : Nat) (x : ParkState) : (s.setPark i x).agenda = s.agenda := rfl
@[simp] theorem State.setPark_free (s : State) (i : Nat) (x : ParkState) : (s.setPark i x).free = s.free := rfl
@[simp] theorem State.setPark_ages (s : State) (i : Nat) (x : ParkState) : (s.setPark i x).ages = s.ages := rfl
@[simp] theorem State.setPark_time (s : State) (i : Nat) (x : ParkState) : (s.setPark i x).time = s.time := rfl
@[simp] theorem State.setPark_idles (s : State) (i : Nat) (x : ParkState) : (s.setPark i x).idles = s.idles := rfl
@[simp] theorem State.setPark_me (s : State) (i : Nat) (x : ParkState) : (s.setPark i x).me = s.me := rfl
@[simp] theorem State.setPark_strands (s : State) (i : Nat) (x : ParkState) : (s.setPark i x).strands = s.strands := rfl
@[simp] theorem State.setPark_mem (s : State) (i : Nat) (x : ParkState) : (s.setPark i x).mem = s.mem := rfl
@[simp] theorem State.setPark_cores (s : State) (i : Nat) (x : ParkState) : (s.setPark i x).cores = s.cores := rfl
@[simp] theorem State.setPark_eng (s : State) (i : Nat) (x : ParkState) : (s.setPark i x).eng = s.eng := rfl
@[simp] theorem State.setPark_hub (s : State) (i : Nat) (x : ParkState) : (s.setPark i x).hub = s.hub := rfl
@[simp] theorem State.setPark_pkg_bootStep (s : State) (i : Nat) (x : ParkState) : (s.setPark i x).pkg.bootStep = s.pkg.bootStep := rfl
@[simp] theorem State.setPark_pkg_image (s : State) (i : Nat) (x : ParkState) : (s.setPark i x).pkg.image = s.pkg.image := rfl
@[simp] theorem State.setPark_pkg_capSeq (s : State) (i : Nat) (x : ParkState) : (s.setPark i x).pkg.capSeq = s.pkg.capSeq := rfl
@[simp] theorem State.setPark_pkg_frame (s : State) (i : Nat) (x : ParkState) : (s.setPark i x).pkg.frame = s.pkg.frame := rfl
@[simp] theorem State.setPark_pkg_capcause (s : State) (i : Nat) (x : ParkState) : (s.setPark i x).pkg.capcause = s.pkg.capcause := rfl
@[simp] theorem State.setPark_pkg_sessions (s : State) (i : Nat) (x : ParkState) : (s.setPark i x).pkg.sessions = s.pkg.sessions := rfl
@[simp] theorem State.setPark_pkg_qpairs (s : State) (i : Nat) (x : ParkState) : (s.setPark i x).pkg.qpairs = s.pkg.qpairs := rfl
@[simp] theorem State.setPark_pkg_twine (s : State) (i : Nat) (x : ParkState) : (s.setPark i x).pkg.twine = s.pkg.twine := rfl
@[simp] theorem State.setPark_pkg_hostAnswers (s : State) (i : Nat) (x : ParkState) : (s.setPark i x).pkg.hostAnswers = s.pkg.hostAnswers := rfl
@[simp] theorem State.setPark_pkg_storage (s : State) (i : Nat) (x : ParkState) : (s.setPark i x).pkg.storage = s.pkg.storage := rfl

@[simp] theorem State.parkOf_setPark (s : State) (i k : Nat) (x : ParkState) :
    (s.setPark i x).parkOf k = if k = i then x else s.parkOf k := by
  simp [State.parkOf, State.setPark, State.setPkg]

/-! ## Queue pairs -/

@[simp] theorem State.setQp_agenda (s : State) (n : Nat) (f : QPair → QPair) : (s.setQp n f).agenda = s.agenda := rfl
@[simp] theorem State.setQp_free (s : State) (n : Nat) (f : QPair → QPair) : (s.setQp n f).free = s.free := rfl
@[simp] theorem State.setQp_ages (s : State) (n : Nat) (f : QPair → QPair) : (s.setQp n f).ages = s.ages := rfl
@[simp] theorem State.setQp_time (s : State) (n : Nat) (f : QPair → QPair) : (s.setQp n f).time = s.time := rfl
@[simp] theorem State.setQp_idles (s : State) (n : Nat) (f : QPair → QPair) : (s.setQp n f).idles = s.idles := rfl
@[simp] theorem State.setQp_me (s : State) (n : Nat) (f : QPair → QPair) : (s.setQp n f).me = s.me := rfl
@[simp] theorem State.setQp_strands (s : State) (n : Nat) (f : QPair → QPair) : (s.setQp n f).strands = s.strands := rfl
@[simp] theorem State.setQp_mem (s : State) (n : Nat) (f : QPair → QPair) : (s.setQp n f).mem = s.mem := rfl
@[simp] theorem State.setQp_cores (s : State) (n : Nat) (f : QPair → QPair) : (s.setQp n f).cores = s.cores := rfl
@[simp] theorem State.setQp_eng (s : State) (n : Nat) (f : QPair → QPair) : (s.setQp n f).eng = s.eng := rfl
@[simp] theorem State.setQp_hub (s : State) (n : Nat) (f : QPair → QPair) : (s.setQp n f).hub = s.hub := rfl
@[simp] theorem State.setQp_pkg_bootStep (s : State) (n : Nat) (f : QPair → QPair) : (s.setQp n f).pkg.bootStep = s.pkg.bootStep := rfl
@[simp] theorem State.setQp_pkg_image (s : State) (n : Nat) (f : QPair → QPair) : (s.setQp n f).pkg.image = s.pkg.image := rfl
@[simp] theorem State.setQp_pkg_capSeq (s : State) (n : Nat) (f : QPair → QPair) : (s.setQp n f).pkg.capSeq = s.pkg.capSeq := rfl
@[simp] theorem State.setQp_pkg_frame (s : State) (n : Nat) (f : QPair → QPair) : (s.setQp n f).pkg.frame = s.pkg.frame := rfl
@[simp] theorem State.setQp_pkg_capcause (s : State) (n : Nat) (f : QPair → QPair) : (s.setQp n f).pkg.capcause = s.pkg.capcause := rfl
@[simp] theorem State.setQp_pkg_parkState (s : State) (n : Nat) (f : QPair → QPair) : (s.setQp n f).pkg.parkState = s.pkg.parkState := rfl
@[simp] theorem State.setQp_pkg_sessions (s : State) (n : Nat) (f : QPair → QPair) : (s.setQp n f).pkg.sessions = s.pkg.sessions := rfl
@[simp] theorem State.setQp_pkg_twine (s : State) (n : Nat) (f : QPair → QPair) : (s.setQp n f).pkg.twine = s.pkg.twine := rfl
@[simp] theorem State.setQp_pkg_hostAnswers (s : State) (n : Nat) (f : QPair → QPair) : (s.setQp n f).pkg.hostAnswers = s.pkg.hostAnswers := rfl
@[simp] theorem State.setQp_pkg_storage (s : State) (n : Nat) (f : QPair → QPair) : (s.setQp n f).pkg.storage = s.pkg.storage := rfl

@[simp] theorem State.qpOf_setQp (s : State) (n k : Nat) (f : QPair → QPair) :
    (s.setQp n f).qpOf k = if k = n then f (s.qpOf n) else s.qpOf k := by
  simp [State.qpOf, State.setQp]

/-! ## Twine ports -/

@[simp] theorem State.setPort_agenda (s : State) (n : Nat) (f : TwinePort → TwinePort) : (s.setPort n f).agenda = s.agenda := rfl
@[simp] theorem State.setPort_free (s : State) (n : Nat) (f : TwinePort → TwinePort) : (s.setPort n f).free = s.free := rfl
@[simp] theorem State.setPort_ages (s : State) (n : Nat) (f : TwinePort → TwinePort) : (s.setPort n f).ages = s.ages := rfl
@[simp] theorem State.setPort_time (s : State) (n : Nat) (f : TwinePort → TwinePort) : (s.setPort n f).time = s.time := rfl
@[simp] theorem State.setPort_idles (s : State) (n : Nat) (f : TwinePort → TwinePort) : (s.setPort n f).idles = s.idles := rfl
@[simp] theorem State.setPort_me (s : State) (n : Nat) (f : TwinePort → TwinePort) : (s.setPort n f).me = s.me := rfl
@[simp] theorem State.setPort_strands (s : State) (n : Nat) (f : TwinePort → TwinePort) : (s.setPort n f).strands = s.strands := rfl
@[simp] theorem State.setPort_mem (s : State) (n : Nat) (f : TwinePort → TwinePort) : (s.setPort n f).mem = s.mem := rfl
@[simp] theorem State.setPort_cores (s : State) (n : Nat) (f : TwinePort → TwinePort) : (s.setPort n f).cores = s.cores := rfl
@[simp] theorem State.setPort_eng (s : State) (n : Nat) (f : TwinePort → TwinePort) : (s.setPort n f).eng = s.eng := rfl
@[simp] theorem State.setPort_hub (s : State) (n : Nat) (f : TwinePort → TwinePort) : (s.setPort n f).hub = s.hub := rfl
@[simp] theorem State.setPort_pkg_bootStep (s : State) (n : Nat) (f : TwinePort → TwinePort) : (s.setPort n f).pkg.bootStep = s.pkg.bootStep := rfl
@[simp] theorem State.setPort_pkg_image (s : State) (n : Nat) (f : TwinePort → TwinePort) : (s.setPort n f).pkg.image = s.pkg.image := rfl
@[simp] theorem State.setPort_pkg_capSeq (s : State) (n : Nat) (f : TwinePort → TwinePort) : (s.setPort n f).pkg.capSeq = s.pkg.capSeq := rfl
@[simp] theorem State.setPort_pkg_frame (s : State) (n : Nat) (f : TwinePort → TwinePort) : (s.setPort n f).pkg.frame = s.pkg.frame := rfl
@[simp] theorem State.setPort_pkg_capcause (s : State) (n : Nat) (f : TwinePort → TwinePort) : (s.setPort n f).pkg.capcause = s.pkg.capcause := rfl
@[simp] theorem State.setPort_pkg_parkState (s : State) (n : Nat) (f : TwinePort → TwinePort) : (s.setPort n f).pkg.parkState = s.pkg.parkState := rfl
@[simp] theorem State.setPort_pkg_sessions (s : State) (n : Nat) (f : TwinePort → TwinePort) : (s.setPort n f).pkg.sessions = s.pkg.sessions := rfl
@[simp] theorem State.setPort_pkg_qpairs (s : State) (n : Nat) (f : TwinePort → TwinePort) : (s.setPort n f).pkg.qpairs = s.pkg.qpairs := rfl
@[simp] theorem State.setPort_pkg_hostAnswers (s : State) (n : Nat) (f : TwinePort → TwinePort) : (s.setPort n f).pkg.hostAnswers = s.pkg.hostAnswers := rfl
@[simp] theorem State.setPort_pkg_storage (s : State) (n : Nat) (f : TwinePort → TwinePort) : (s.setPort n f).pkg.storage = s.pkg.storage := rfl

@[simp] theorem State.portOf_setPort (s : State) (n k : Nat) (f : TwinePort → TwinePort) :
    (s.setPort n f).portOf k = if k = n then f (s.portOf n) else s.portOf k := by
  simp [State.portOf, State.setPort]

/-! ## Memory by physical address -/

@[simp] theorem State.putHbm_agenda (s : State) (a n x : Nat) : (s.putHbm a n x).agenda = s.agenda := rfl
@[simp] theorem State.putHbm_free (s : State) (a n x : Nat) : (s.putHbm a n x).free = s.free := rfl
@[simp] theorem State.putHbm_ages (s : State) (a n x : Nat) : (s.putHbm a n x).ages = s.ages := rfl
@[simp] theorem State.putHbm_time (s : State) (a n x : Nat) : (s.putHbm a n x).time = s.time := rfl
@[simp] theorem State.putHbm_idles (s : State) (a n x : Nat) : (s.putHbm a n x).idles = s.idles := rfl
@[simp] theorem State.putHbm_me (s : State) (a n x : Nat) : (s.putHbm a n x).me = s.me := rfl
@[simp] theorem State.putHbm_strands (s : State) (a n x : Nat) : (s.putHbm a n x).strands = s.strands := rfl
@[simp] theorem State.putHbm_cores (s : State) (a n x : Nat) : (s.putHbm a n x).cores = s.cores := rfl
@[simp] theorem State.putHbm_eng (s : State) (a n x : Nat) : (s.putHbm a n x).eng = s.eng := rfl
@[simp] theorem State.putHbm_hub (s : State) (a n x : Nat) : (s.putHbm a n x).hub = s.hub := rfl
@[simp] theorem State.putHbm_pkg (s : State) (a n x : Nat) : (s.putHbm a n x).pkg = s.pkg := rfl

/-! ## Strands -/

@[simp] theorem State.mapAll_agenda (s : State) (f : Strand → Strand) : (s.mapAll f).agenda = s.agenda := rfl
@[simp] theorem State.mapAll_free (s : State) (f : Strand → Strand) : (s.mapAll f).free = s.free := rfl
@[simp] theorem State.mapAll_ages (s : State) (f : Strand → Strand) : (s.mapAll f).ages = s.ages := rfl
@[simp] theorem State.mapAll_time (s : State) (f : Strand → Strand) : (s.mapAll f).time = s.time := rfl
@[simp] theorem State.mapAll_idles (s : State) (f : Strand → Strand) : (s.mapAll f).idles = s.idles := rfl
@[simp] theorem State.mapAll_mem (s : State) (f : Strand → Strand) : (s.mapAll f).mem = s.mem := rfl
@[simp] theorem State.mapAll_cores (s : State) (f : Strand → Strand) : (s.mapAll f).cores = s.cores := rfl
@[simp] theorem State.mapAll_eng (s : State) (f : Strand → Strand) : (s.mapAll f).eng = s.eng := rfl
@[simp] theorem State.mapAll_hub (s : State) (f : Strand → Strand) : (s.mapAll f).hub = s.hub := rfl
@[simp] theorem State.mapAll_pkg (s : State) (f : Strand → Strand) : (s.mapAll f).pkg = s.pkg := rfl

@[simp] theorem State.mapAll_me (s : State) (f : Strand → Strand) : (s.mapAll f).me = f s.me := rfl
@[simp] theorem State.mapAll_strands (s : State) (f : Strand → Strand) : (s.mapAll f).strands = s.strands.map f := rfl
@[simp] theorem State.mapAll_all (s : State) (f : Strand → Strand) : (s.mapAll f).all = s.all.map f := rfl

/-! ## One strand -/

@[simp] theorem State.addStrand_agenda (s : State) (t : Strand) : (s.addStrand t).agenda = s.agenda := rfl
@[simp] theorem State.addStrand_free (s : State) (t : Strand) : (s.addStrand t).free = s.free := rfl
@[simp] theorem State.addStrand_ages (s : State) (t : Strand) : (s.addStrand t).ages = s.ages := rfl
@[simp] theorem State.addStrand_time (s : State) (t : Strand) : (s.addStrand t).time = s.time := rfl
@[simp] theorem State.addStrand_idles (s : State) (t : Strand) : (s.addStrand t).idles = s.idles := rfl
@[simp] theorem State.addStrand_me (s : State) (t : Strand) : (s.addStrand t).me = s.me := rfl
@[simp] theorem State.addStrand_mem (s : State) (t : Strand) : (s.addStrand t).mem = s.mem := rfl
@[simp] theorem State.addStrand_cores (s : State) (t : Strand) : (s.addStrand t).cores = s.cores := rfl
@[simp] theorem State.addStrand_eng (s : State) (t : Strand) : (s.addStrand t).eng = s.eng := rfl
@[simp] theorem State.addStrand_hub (s : State) (t : Strand) : (s.addStrand t).hub = s.hub := rfl
@[simp] theorem State.addStrand_pkg (s : State) (t : Strand) : (s.addStrand t).pkg = s.pkg := rfl

/-! ## A long result on its way -/

@[simp] theorem State.sends_agenda (s : State) (d : List (Reg × Word)) : (s.sends d).agenda = s.agenda := rfl
@[simp] theorem State.sends_free (s : State) (d : List (Reg × Word)) : (s.sends d).free = s.free := rfl
@[simp] theorem State.sends_time (s : State) (d : List (Reg × Word)) : (s.sends d).time = s.time := rfl
@[simp] theorem State.sends_idles (s : State) (d : List (Reg × Word)) : (s.sends d).idles = s.idles := rfl
@[simp] theorem State.sends_strands (s : State) (d : List (Reg × Word)) : (s.sends d).strands = s.strands := rfl
@[simp] theorem State.sends_mem (s : State) (d : List (Reg × Word)) : (s.sends d).mem = s.mem := rfl
@[simp] theorem State.sends_cores (s : State) (d : List (Reg × Word)) : (s.sends d).cores = s.cores := rfl
@[simp] theorem State.sends_eng (s : State) (d : List (Reg × Word)) : (s.sends d).eng = s.eng := rfl
@[simp] theorem State.sends_hub (s : State) (d : List (Reg × Word)) : (s.sends d).hub = s.hub := rfl
@[simp] theorem State.sends_pkg (s : State) (d : List (Reg × Word)) : (s.sends d).pkg = s.pkg := rfl

/-! ## A register of a strand -/

@[simp] theorem Strand.put_cwp (t : Strand) (r : Reg) (x : Word) : (t.put r x).cwp = t.cwp := rfl
@[simp] theorem Strand.put_pc (t : Strand) (r : Reg) (x : Word) : (t.put r x).pc = t.pc := rfl
@[simp] theorem Strand.put_outstanding (t : Strand) (r : Reg) (x : Word) : (t.put r x).outstanding = t.outstanding := rfl
@[simp] theorem Strand.put_sflags (t : Strand) (r : Reg) (x : Word) : (t.put r x).sflags = t.sflags := rfl
@[simp] theorem Strand.put_vregs (t : Strand) (r : Reg) (x : Word) : (t.put r x).vregs = t.vregs := rfl
@[simp] theorem Strand.put_streams (t : Strand) (r : Reg) (x : Word) : (t.put r x).streams = t.streams := rfl
@[simp] theorem Strand.setG_cwp (t : Strand) (r : Reg) (x : Word) : (t.setG r x).cwp = t.cwp := rfl
@[simp] theorem Strand.setG_pc (t : Strand) (r : Reg) (x : Word) : (t.setG r x).pc = t.pc := rfl

/-- The entries that the sixteen register numbers name are sixteen (R149). -/
theorem entryOf_inj (cwp : BitVec 3) (r q : Reg) (h : entryOf cwp r = entryOf cwp q) : r = q := by
  unfold entryOf at h
  have hr := r.isLt
  have hq := q.isLt
  have hc := cwp.isLt
  apply BitVec.eq_of_toNat_eq
  omega

/-- A register written is read back; every other is as it was. -/
theorem Strand.put_g (t : Strand) (r q : Reg) (x : Word) : (t.put r x).g q = if q = r then x else t.g q := by
  unfold Strand.g Strand.put
  simp only [FMap.get_set]
  by_cases h : q = r
  · simp [h]
  · have : ¬ entryOf t.cwp q = entryOf t.cwp r := fun e => h (entryOf_inj _ _ _ e)
    simp [h, this]

end Sys2Proof.Machine
end

