-- ==== Sys2Proof/Tests/Slice0.lean ====
section
/-!
SUPPORT. The modeller's own tests: ill-formed terms that the check of WellFormed.lean refuses, words written out
from the encodings of 06_instruction_words.md, the witnesses of the statements' hypotheses, and single steps.
-/

namespace Sys2Proof.Tests
open Sys2Proof Sys2Proof.Machine

set_option maxRecDepth 8000
set_option Elab.async false

/-! ## Well-formedness and decoding -/

/-- Every term of a list is ill-formed. -/
def refuses (l : List Instr) : Bool := l.all fun i => !i.wellFormed

/-- R134 subcode 1: reserved values of scalar, memory and system fields. -/
theorem test_illformed_field_values : refuses [
    .ldx false 1 2 3 0 3 true, .amo false 1 2 3 5 0 0, .amo false 1 2 3 0 6 0, .amo false 1 2 3 0 0 10,
    .amo false 1 2 3 0 0 25, .cas false 1 2 3 5 0 true, .cas false 1 2 3 0 7 true, .cas2 false 2 4 6 5 0,
    .cas2 false 2 4 6 0 6, .ldAcq false 1 2 6 0, .stRel false 1 2 7 0, .fence false 6 1, .fence false 0 0, .acq false 1 6,
    .rel false 1 7, .barArr false 2 0, .barArr false 0 16, .barWait false 3 0, .barWait false 0 31,
    .sbind false 0 4 0 0 0 false 2, .sbind false 0 4 0 0 0 true 1, .sstat false 0 0 5, .mst false 0 0 0 0 0,
    .mcap false 0 0 0 0, .ncas false 0 0 2 4 5 0, .ncas false 0 0 2 4 0 6, .tabld false 0 0 0 0] = true := by decide +kernel

/-- R117, R134: types and option codes that a vector word does not have. -/
theorem test_illformed_vector_fields : refuses [
    .vmulHi false 1 2 3 false .f ⟨0, false⟩, .vshl false 1 2 3 false .f ⟨0, false⟩, .vshr false 1 2 3 false .f ⟨0, false⟩,
    .vsar false 1 2 3 false .f ⟨0, false⟩, .vpackH false 1 2 3 false .f ⟨0, false⟩, .vabs false 1 2 .n ⟨0, false⟩,
    .vneg false 1 2 .n ⟨0, false⟩, .vcvt false 1 2 .i ⟨0, false⟩ 0, .vcvt false 1 2 .n ⟨0, false⟩ 1,
    .vcvt false 1 2 .f ⟨0, false⟩ 2, .vunpackH false 1 2 false .f ⟨0, false⟩, .vld false 1 2 3 2 ⟨0, false⟩,
    .vst false 1 2 3 2 ⟨0, false⟩, .vldD false 1 2 3 2 ⟨0, false⟩, .vldDHi false 1 2 3 2 ⟨0, false⟩,
    .vldDInt false 1 2 3 2 ⟨0, false⟩, .vstQ false 2 3 4 0, .vstQ false 2 3 4 8, .vlds false 1 2 3 5 ⟨0, false⟩,
    .vldx false 1 2 3 5 ⟨0, false⟩, .vstx false 1 2 3 2 ⟨0, false⟩, .vstx false 1 2 3 4 ⟨0, false⟩] = true := by decide +kernel

/-- R118: mask register 0 with sense 1, in every word with a mask. -/
theorem test_illformed_masks : refuses [
    .vadd false 1 2 3 false .i ⟨0, true⟩, .vsub false 1 2 3 false .i ⟨0, true⟩, .vmul false 1 2 3 false .i ⟨0, true⟩,
    .vmin false 1 2 3 false .i ⟨0, true⟩, .vmax false 1 2 3 false .i ⟨0, true⟩, .vand false 1 2 3 false .i ⟨0, true⟩,
    .vor false 1 2 3 false .i ⟨0, true⟩, .vxor false 1 2 3 false .i ⟨0, true⟩, .vandn false 1 2 3 false .i ⟨0, true⟩,
    .vceq false 1 2 3 false .i ⟨0, true⟩, .vcne false 1 2 3 false .i ⟨0, true⟩, .vclt false 1 2 3 false .i ⟨0, true⟩,
    .vcle false 1 2 3 false .i ⟨0, true⟩, .vsel false 1 2 3 false .i ⟨0, true⟩, .vredsum false 1 2 3 false .i ⟨0, true⟩,
    .vredmax false 1 2 3 false .i ⟨0, true⟩, .vredmin false 1 2 3 false .i ⟨0, true⟩, .vperm false 1 2 3 false .i ⟨0, true⟩,
    .vfma false 1 2 3 false ⟨0, true⟩, .vfms false 1 2 3 false ⟨0, true⟩, .vfnma false 1 2 3 false ⟨0, true⟩,
    .vpackBf false 1 2 3 false ⟨0, true⟩, .vmulHi false 1 2 3 false .n ⟨0, true⟩, .vshl false 1 2 3 false .n ⟨0, true⟩,
    .vshr false 1 2 3 false .n ⟨0, true⟩, .vsar false 1 2 3 false .n ⟨0, true⟩, .vpackH false 1 2 3 false .n ⟨0, true⟩,
    .vabs false 1 2 .i ⟨0, true⟩, .vneg false 1 2 .i ⟨0, true⟩, .vmov false 1 2 false .i ⟨0, true⟩,
    .vcvt false 1 2 .i ⟨0, true⟩ 2, .vrcp false 1 2 ⟨0, true⟩, .vrsq false 1 2 ⟨0, true⟩, .vexp2 false 1 2 ⟨0, true⟩,
    .vlog2 false 1 2 ⟨0, true⟩, .vtanh false 1 2 ⟨0, true⟩, .vsig false 1 2 ⟨0, true⟩, .vclass false 1 2 ⟨0, true⟩,
    .vlnormAcc false 1 2 3 ⟨0, true⟩ false, .vlnormFin false 1 2 3 ⟨0, true⟩ false, .vscan false 1 2 3 false .i ⟨0, true⟩ 0,
    .vslideDn false 1 2 3 .i ⟨0, true⟩, .vslideUp false 1 2 3 .i ⟨0, true⟩, .vslideRot false 1 2 3 .i ⟨0, true⟩,
    .vunpackBf false 1 2 false ⟨0, true⟩, .vunpackH false 1 2 false .i ⟨0, true⟩,
    .vsmaxSeg false 1 2 3 ⟨0, true⟩ false false, .vld false 1 2 3 0 ⟨0, true⟩, .vst false 1 2 3 0 ⟨0, true⟩,
    .vldD false 1 2 3 0 ⟨0, true⟩, .vldDHi false 1 2 3 0 ⟨0, true⟩, .vldDInt false 1 2 3 0 ⟨0, true⟩,
    .vlds false 1 2 3 0 ⟨0, true⟩, .vldx false 1 2 3 0 ⟨0, true⟩, .vstx false 1 2 3 0 ⟨0, true⟩,
    .vldSeg false 1 2 3 4 ⟨0, true⟩ false, .vsegsum false 1 2 3 ⟨0, true⟩ false, .vsegmax false 1 2 3 ⟨0, true⟩ false,
    .vldb false 1 2 3 ⟨0, true⟩] = true := by decide +kernel

/-- R134 subcode 2: register groups that start where none may. -/
theorem test_illformed_groups : refuses [
    .ldp false 1 2 0, .stp false 3 2 0, .cas2 false 1 4 6 0 0, .cas2 false 2 4 7 0 0, .spawn false 0 1, .spawn false 0 14,
    .amsg false 0 1 14, .amsgUrg false 0 1 3, .ebind false 1 2 3, .ebind false 0 3 3, .shbind false 1 2 false,
    .shpub false 3 2, .vstQ false 1 2 3 6, .sbind false 1 4 0 0 0 false 0, .ocancelN false 1 0, .odetach false 0 1 0,
    .oadopt false 0 3 0, .ostatN false 1 0 0 0, .nnew false 1 0 0 0, .nres false 0 1 0, .nresV false 0 3 0, .nkill false 1 0,
    .nref false 3 0, .nrel false 5 0, .nstat false 0 1 0, .ncas false 0 0 1 4 0 0, .ncas false 0 0 2 5 0 0] = true := by decide +kernel

/-- The decoder reads each word as the instruction beside it. -/
def decodesTo (l : List (Lane × Instr)) : Bool := l.all fun x => decide (decodeWord x.1 = .ok x.2)

/-- Class SR: words that the spec works out. -/
theorem test_decode_sr_worked : decodesTo [
    (0x00000000, .add false 0 0 0 ⟨0, 0, false⟩),
    (0x8022B18F, .add true 4 5 6 ⟨3, 7, true⟩),
    (0x81322800, .mul true 6 4 5 ⟨0, 0, false⟩),
    (0x81334000, .mul true 6 6 8 ⟨0, 0, false⟩),
    (0x0575DE80, .or false 14 11 11 ⟨13, 0, false⟩),
    (0x0F4C2000, .ceq false 9 8 4 0),
    (0x0F54A000, .ceq false 10 9 4 0),
    (0x0F2B3912, .clt false 5 6 7 9),
    (0x0F891B00, .adds false 1 2 3 3),
    (0x0FB32300, .adds false 6 6 4 3)] = true := by decide +kernel

/-- Class SR: words written out from the encoding table. -/
theorem test_decode_sr_table_1 : decodesTo [
    (0x80D1E4CD, .sub true 10 3 12 ⟨9, 38, true⟩),
    (0x81E4B0AB, .mulh true 12 9 6 ⟨1, 21, true⟩),
    (0x024B0AD5, .mulhu false 9 6 1 ⟨5, 42, true⟩),
    (0x82B0AD67, .div true 6 1 5 ⟨10, 51, true⟩),
    (0x030AD199, .divu false 1 5 10 ⟨3, 12, true⟩),
    (0x83AD1E33, .rem true 5 10 3 ⟨12, 25, true⟩),
    (0x0451E4CD, .remu false 10 3 12 ⟨9, 38, true⟩),
    (0x849E4B23, .and true 3 12 9 ⟨6, 17, true⟩),
    (0x85CB0AD5, .xor true 9 6 1 ⟨5, 42, true⟩),
    (0x0630AD67, .andn false 6 1 5 ⟨10, 51, true⟩),
    (0x868AD199, .orn true 1 5 10 ⟨3, 12, true⟩),
    (0x072D1E33, .shl false 5 10 3 ⟨12, 25, true⟩),
    (0x87D1E4CD, .shr true 10 3 12 ⟨9, 38, true⟩),
    (0x081E4B23, .sar false 3 12 9 ⟨6, 17, true⟩),
    (0x88E4B0AB, .rol true 12 9 6 ⟨1, 21, true⟩),
    (0x094B0AD5, .ror false 9 6 1 ⟨5, 42, true⟩),
    (0x89B0AD67, .min true 6 1 5 ⟨10, 51, true⟩),
    (0x0A0AD199, .max false 1 5 10 ⟨3, 12, true⟩),
    (0x8AAD1E33, .minu true 5 10 3 ⟨12, 25, true⟩),
    (0x0B51E4CD, .maxu false 10 3 12 ⟨9, 38, true⟩),
    (0x8B9E4B23, .sel true 3 12 9 ⟨6, 17, true⟩),
    (0x0C648323, .clz false 12 9 ⟨6, 17, true⟩),
    (0x8CCB00AB, .ctz true 9 6 ⟨1, 21, true⟩),
    (0x0D3082D5, .pop false 6 1 ⟨5, 42, true⟩),
    (0x8D8AD199, .bext true 1 5 10 ⟨3, 12, true⟩),
    (0x0E2D1E33, .bins false 5 10 3 ⟨12, 25, true⟩),
    (0x8ED18633, .sextB true 10 3 ⟨12, 25, true⟩),
    (0x0E9E0CCD, .sextH false 3 12 ⟨9, 38, true⟩),
    (0x8EE49323, .sextW true 12 9 ⟨6, 17, true⟩),
    (0x0ECB20AB, .zextB false 9 6 ⟨1, 21, true⟩)] = true := by decide +kernel

/-- Class SR: words written out from the encoding table. -/
theorem test_decode_sr_table_2 : decodesTo [
    (0x8EB0AAD5, .zextH true 6 1 ⟨5, 42, true⟩),
    (0x0E8AB567, .zextW false 1 5 ⟨10, 51, true⟩),
    (0x0F51E0B2, .cne false 10 3 12 0x19),
    (0x0F64B1A2, .cltu false 12 9 6 0x11),
    (0x8F4B0A2A, .cle true 9 6 1 0x15),
    (0x0F30AAD4, .cleu false 6 1 5 0x2A)] = true := by decide +kernel

/-- Class SI: words that the spec works out. -/
theorem test_decode_si_worked : decodesTo [
    (0x1019A345, .addi false 3 3 0x2345),
    (0x104CFF00, .addi false 9 9 0x7F00),
    (0x15100000, .ceqi false 2 0 0 0),
    (0x156E0003, .ceqi false 13 12 0 3)] = true := by decide +kernel

/-- Class SI: words written out from the encoding table. -/
theorem test_decode_si_table : decodesTo [
    (0x90D1CCCC, .andi true 10 3 0x4CCC),
    (0x111E1999, .ori false 3 12 0x1999),
    (0x91E4E666, .xori true 12 9 0x6666),
    (0x124B0011, .shli false 9 6 0x11),
    (0x92B08015, .shri true 6 1 0x15),
    (0x130A802A, .sari false 1 5 0x2A),
    (0x93AD3333, .muli true 5 10 0x3333),
    (0x14533333, .ldi false 10 0x33333),
    (0x15649991, .cnei false 12 9 0x26 0x11),
    (0x954B2455, .clti true 9 6 0x11 0x15),
    (0x1530B56A, .cltui false 6 1 0x15 0x2A),
    (0x950ACAB3, .clei true 1 5 0x2A 0x33),
    (0x152D5CCC, .cleui false 5 10 0x33 12),
    (0x95D1800C, .bseti true 10 3 12),
    (0x161E0019, .bclri false 3 12 0x19),
    (0x96E48026, .binvi true 12 9 0x26),
    (0x174E6666, .adr false 9 0x66666)] = true := by decide +kernel

/-- Class SM: words that the spec works out. -/
theorem test_decode_sm_worked : decodesTo [
    (0xA0200000, .ldB true 4 0 0),
    (0xA2398000, .ldW true 7 3 0),
    (0x23290002, .ldD false 5 2 2),
    (0x23210000, .ldD false 4 2 0),
    (0xA3F40002, .ldp true 14 8 2),
    (0x26540000, .stp false 10 8 0),
    (0x269A2AA0, .ldx false 3 4 5 2 2 true),
    (0x28212B40, .amo false 4 2 5 3 2 0),
    (0x281A2A76, .amo false 3 4 5 2 3 0x16),
    (0x2931B980, .cas false 6 3 7 1 4 false),
    (0x29A134A0, .cas2 false 4 2 6 4 5),
    (0xAA109000, .ldAcq true 2 1 1 0),
    (0x2A10C002, .ldAcq false 2 1 4 2),
    (0x2AB09008, .stRel false 6 1 1 8),
    (0x2AC5A000, .stRel false 8 11 2 0)] = true := by decide +kernel

/-- Class SM: words written out from the encoding table. -/
theorem test_decode_sm_table : decodesTo [
    (0x208AAAAA, .ldBs false 1 5 0x2AAA),
    (0xA12D3333, .ldH true 5 10 0x3333),
    (0x21D1CCCC, .ldHs false 10 3 0x4CCC),
    (0x22E4E666, .ldWs false 12 9 0x6666),
    (0xA40AAAAA, .stB true 1 5 0x2AAA),
    (0x24AD3333, .stH false 5 10 0x3333),
    (0xA551CCCC, .stW true 10 3 0x4CCC),
    (0x259E1999, .stD false 3 12 0x1999),
    (0xA730AAC0, .stx true 6 1 5 2 3)] = true := by decide +kernel

/-- Class SC: words that the spec works out. -/
theorem test_decode_sc_worked : decodesTo [
    (0x30FFFFFB, .br false 0xFFFFFB),
    (0x31900004, .bb false 9 0 false 4),
    (0x35000000, .ret false),
    (0x364FFFFD, .dbnz false 4 0xFFFFD),
    (0x361FFFF5, .dbnz false 1 0xFFFF5),
    (0x37000021, .sys false 0x21),
    (0x39000000, .tret false),
    (0x3A600000, .hop false 6),
    (0x3B380000, .spawn false 3 8),
    (0x3C458800, .amsgUrg false 4 5 8),
    (0x3D000000, .yield false),
    (0x3E000000, .done false),
    (0x3F040003, .mfs false 8 3),
    (0x3F008019, .mfs false 1 0x19),
    (0x3F0C8007, .mts false 9 7),
    (0x3F0D0048, .mts false 10 0x48),
    (0x3F104F00, .fence false 4 15),
    (0x3F192000, .acq false 2 2),
    (0x3F212000, .rel false 2 2),
    (0x3F2A1380, .ebind false 4 2 7),
    (0x3F320980, .wwait false 4 1 3),
    (0x3F355C00, .wwait false 10 11 8),
    (0x3F380300, .barArr false 0 3),
    (0x3F402500, .barWait false 1 5),
    (0x3F480000, .trig false),
    (0x3F511800, .tsync false 2 3),
    (0x3F5A3400, .shbind false 4 6 true),
    (0xBF5A3400, .shbind true 4 6 true)] = true := by decide +kernel

/-- Class SC: words written out from the encoding table. -/
theorem test_decode_sc_table : decodesTo [
    (0xB2111111, .call true 0x111111),
    (0x33500000, .callr false 5),
    (0xB4A00000, .jmp true 10),
    (0xB8006666, .brk true 0x6666),
    (0xBC3C4000, .amsg true 3 12 4),
    (0xBF600400, .shrel true true),
    (0x3F6B0800, .shpub false 6 1),
    (0xBF70D555, .istat true 1 0x5555)] = true := by decide +kernel

/-- Class VA: words that the spec works out. -/
theorem test_decode_va_worked : decodesTo [
    (0x400D1534, .vadd false 3 4 5 false .f ⟨6, true⟩),
    (0x40C81F00, .vfma false 2 0 7 true ⟨0, false⟩),
    (0xC4541200, .vceq true 5 0 4 true .i ⟨0, false⟩),
    (0x44644902, .vclt false 9 1 2 false .f ⟨0, false⟩),
    (0xC488CB28, .vsel true 2 3 2 true .f ⟨5, false⟩),
    (0xC7040200, .vredsum true 1 0 0 true .i ⟨0, false⟩),
    (0xC7C04A01, .vscan true 0 1 2 true .i ⟨0, false⟩ 1),
    (0xC8F48100, .vext true 13 2 0 .f 0),
    (0xC8E04000, .vext true 8 1 0 .i 0),
    (0xC9995B00, .vsmaxSeg true 6 5 6 ⟨0, false⟩ false false)] = true := by decide +kernel

/-- Class VA: words written out from the encoding table. -/
theorem test_decode_va_table_1 : decodesTo [
    (0xC068F14C, .vsub true 10 3 12 false .f ⟨9, true⟩),
    (0x408F2630, .vmul false 3 12 9 true .i ⟨6, false⟩),
    (0xC0B2588D, .vmulHi true 12 9 6 false .n ⟨1, true⟩),
    (0xC1185554, .vfms true 6 1 5 false ⟨10, true⟩),
    (0x41456B18, .vfnma false 1 5 10 true ⟨3, false⟩),
    (0xC1968D64, .vmin true 5 10 3 false .f ⟨12, true⟩),
    (0x41E8F248, .vmax false 10 3 12 true .i ⟨9, false⟩),
    (0xC20F004C, .vabs true 3 12 .i ⟨9, true⟩),
    (0x42724130, .vneg false 12 9 .f ⟨6, false⟩),
    (0xC2A5842C, .vand true 9 6 1 false .i ⟨5, true⟩),
    (0x42D856D0, .vor false 6 1 5 true .n ⟨10, false⟩),
    (0xC305691C, .vxor true 1 5 10 false .f ⟨3, true⟩),
    (0x43568E60, .vandn false 5 10 3 true .i ⟨12, false⟩),
    (0xC3A8F0CC, .vshl true 10 3 12 false .n ⟨9, true⟩),
    (0x43CF26B0, .vshr false 3 12 9 true .n ⟨6, false⟩),
    (0xC432580C, .vsar true 12 9 6 false .i ⟨1, true⟩),
    (0xC4585555, .vcne true 6 1 5 false .f ⟨10, true⟩),
    (0xC4568CE7, .vcle true 5 10 3 false .n ⟨12, true⟩),
    (0xC4CC304C, .vmov true 3 12 false .i ⟨9, true⟩),
    (0x45324131, .vcvt false 12 9 .f ⟨6, false⟩ 1),
    (0xC565810C, .vrcp true 9 6 ⟨1, true⟩),
    (0x45984128, .vrsq false 6 1 ⟨5, false⟩),
    (0xC5C54154, .vexp2 true 1 5 ⟨10, true⟩),
    (0x46168118, .vlog2 false 5 10 ⟨3, false⟩),
    (0xC668C164, .vtanh true 10 3 ⟨12, true⟩),
    (0x468F0148, .vsig false 3 12 ⟨9, false⟩),
    (0xC6F25B0D, .vlnormAcc true 12 9 6 ⟨1, true⟩ true),
    (0x46E5872B, .vlnormFin false 9 6 1 ⟨5, false⟩ true),
    (0x47456B18, .vredmax false 1 5 10 true .f ⟨3, false⟩),
    (0xC7968C64, .vredmin true 5 10 3 false .i ⟨12, true⟩)] = true := by decide +kernel

/-- Class VA: words written out from the encoding table. -/
theorem test_decode_va_table_2 : decodesTo [
    (0xC80F2734, .vslideDn true 3 12 9 .f ⟨6, true⟩),
    (0x48325A09, .vslideUp false 12 9 6 .i ⟨1, false⟩),
    (0xC82586AE, .vslideRot true 9 6 1 .n ⟨5, true⟩),
    (0x48585750, .vperm false 6 1 5 true .f ⟨10, false⟩),
    (0xC8856A03, .vins true 1 5 10 .i 3),
    (0xC928F14C, .vpackBf true 10 3 12 false ⟨9, true⟩),
    (0x490F2631, .vpackH false 3 12 9 true .i ⟨6, false⟩),
    (0xC9724534, .vunpackBf true 12 9 true ⟨6, true⟩),
    (0x49658009, .vunpackH false 9 6 false .i ⟨1, false⟩),
    (0x49C54150, .vclass false 1 5 ⟨10, false⟩)] = true := by decide +kernel

/-- Class VM: words that the spec works out. -/
theorem test_decode_vm_worked : decodesTo [
    (0xD029B000, .vld true 5 3 6 0 ⟨0, false⟩),
    (0xD0008000, .vld true 0 1 0 0 ⟨0, false⟩),
    (0x51090000, .vldD false 1 2 0 0 ⟨0, false⟩),
    (0x51A18300, .vstQ false 4 3 0 6),
    (0x51908100, .vstQ false 2 1 0 2),
    (0xD38AE200, .vldSeg true 1 5 12 4 ⟨0, false⟩ false),
    (0x55B40400, .sbind false 6 8 0 0 2 false 0),
    (0x55D42E01, .sbind false 10 8 1 1 3 false 1)] = true := by decide +kernel

/-- Class VM: words written out from the encoding table. -/
theorem test_decode_vm_table : decodesTo [
    (0x50D1E0B0, .vst false 10 3 12 1 ⟨6, false⟩),
    (0x5164B0A9, .vldDHi false 12 9 6 1 ⟨5, false⟩),
    (0xD14B08D6, .vldDInt true 9 6 1 1 ⟨10, true⟩),
    (0xD20AD1E4, .vlds true 1 5 10 3 ⟨12, true⟩),
    (0x52AD1948, .vldx false 5 10 3 2 ⟨9, false⟩),
    (0xD351E0B4, .vstx true 10 3 12 1 ⟨6, true⟩),
    (0xD464B00D, .vsegsum true 12 9 6 ⟨1, true⟩ true),
    (0x54CB0829, .vsegmax false 9 6 1 ⟨5, false⟩ true),
    (0xD530A854, .vldb true 6 1 5 ⟨10, true⟩),
    (0xD6002000, .sunbind true 1),
    (0x56856000, .sseek false 10 3),
    (0xD7180180, .sstat true 3 0 3)] = true := by decide +kernel

/-- Class EN: words that the spec works out. -/
theorem test_decode_en_worked_1 : decodesTo [
    (0x60050000, .mma false 1 4),
    (0xE0094001, .mmaZ true 2 5),
    (0x6004C001, .mmaZ false 1 3),
    (0x604D8001, .mmvZ false 3 6),
    (0x60800002, .mzero false 2),
    (0x60D08C01, .mld false 4 2 3 1),
    (0x61148C0D, .mst false 5 2 3 3 1),
    (0x61091804, .mst false 2 4 6 1 0),
    (0x61580000, .macq false 6),
    (0x61580007, .macqSpecific false 6 3),
    (0x61540004, .macqSpecific false 5 0),
    (0x61800003, .mrel false 3),
    (0x61DE2404, .mcap false 7 8 9 4),
    (0x62090000, .cpy false 2 4),
    (0x624D4000, .cpym false 3 5),
    (0x629A2400, .cpyfree false 6 8 9),
    (0x62C58000, .coll false 1 6),
    (0xE30C0140, .owait true 3 5),
    (0x634C0180, .otest false 3 6),
    (0x638C0000, .ocancel false 3),
    (0x638101C1, .ocancelN false 4 7),
    (0x63CD01C0, .odetach false 3 4 7),
    (0xE3C70380, .odetach true 1 12 14),
    (0x640901C0, .oadopt false 2 4 7),
    (0xE4090180, .oadopt true 2 4 6),
    (0x644041C0, .ofaultResume false 1 7),
    (0x644041C1, .ofaultFail false 1 7),
    (0x648C1803, .ostat false 3 6 3),
    (0x655881C0, .nres false 6 2 7),
    (0xE55881C0, .nres true 6 2 7)] = true := by decide +kernel

/-- Class EN: words that the spec works out. -/
theorem test_decode_en_worked_2 : decodesTo [
    (0x66CC8000, .tld false 3 2),
    (0xE6F28000, .tld true 12 10),
    (0x67009400, .tst false 2 5),
    (0x67008011, .tstImm false 2 1),
    (0x6700C013, .tstImm false 3 3),
    (0x67409812, .tsetImm false 2 6 2),
    (0x6742BC11, .tsetImm false 10 15 1),
    (0x67809143, .tabld false 2 4 5 3),
    (0xE78049C3, .tabld true 1 2 7 3),
    (0xE7C08003, .tabsel true 2 3),
    (0xE7C04003, .tabsel true 1 3),
    (0xE8008000, .tabsync true 2),
    (0x685CA003, .tabrd false 7 2 8 3),
    (0x6880A401, .rdset false 2 9 1),
    (0x68805403, .rdset false 1 5 3)] = true := by decide +kernel

/-- Class EN: words written out from the encoding table. -/
theorem test_decode_en_table : decodesTo [
    (0x60584000, .mmv false 6 1),
    (0x6481168B, .ostatN false 4 5 10 3),
    (0xE51A8F00, .nnew true 6 10 3 12),
    (0xE54F0241, .nresV true 3 12 9),
    (0x65830240, .nkill false 12 9),
    (0xE5C20180, .nref true 8 6),
    (0x66018040, .nrel false 6 1),
    (0xE6458280, .nstat true 1 6 10),
    (0x6696918A, .ncas false 5 10 4 6 1 2),
    (0x67425840, .tset false 9 6 1),
    (0x68724008, .tabrdSel false 12 9)] = true := by decide +kernel

/-- Class HT: words that the spec works out. -/
theorem test_decode_ht_worked : decodesTo [
    (0x70000000, .nop false 0),
    (0x71000002, .xi false 2),
    (0x72000000, .pass false),
    (0xF2000000, .pass true),
    (0x73000035, .prio false 3 5),
    (0x74000009, .after false 9),
    (0x75000005, .mod false false true 1),
    (0x76000001, .dead false 1),
    (0xFFFFFFFF, .reservedHint true 7 0xFFFFFF)] = true := by decide +kernel

/-- Class HT: words written out from the encoding table. -/
theorem test_decode_ht_table : decodesTo [
    (0xF7000026, .msk true 0x26)] = true := by decide +kernel

/-! ## States for witnesses and single steps -/

/-- A page of the table of `loadTables`, `k` pages after the text (R180). -/
def page (k e : Nat) (s : State) : State :=
  { s with mem := s.mem.putBytes (hbmKey (entryAddr 20 0 (loadVa + 4096 * k))) (toLE 8 e) }

/-- A strand in a slot, with the text at 0x10000, page 0 of its local store at 0x11000 and HBM frame 22 at 0x12000. -/
def base : State :=
  (page 2 (0x18FF + 22 * 65536) (page 1 0x38FF (State.reset.placed 0))).setPart 1 fun p => { p with image := some 0 }

/-- The state with another current strand. -/
def onMe (f : Strand → Strand) (s : State) : State := { s with me := f s.me }

/-- The state with values in registers of the current strand. -/
def regs (l : List (Reg × Word)) (s : State) : State := onMe (fun t => l.foldl (fun t x => t.put x.1 x.2) t) s

/-- The state with bytes at a page of `base`: 1 the local store, 2 the HBM frame. -/
def bytes (p off : Nat) (l : List Byte) (s : State) : State :=
  { s with mem := s.mem.putBytes ((if p = 1 then PAddr.key { space := .ls 0, off := 0 } else hbmKey (22 * 4096)) + off) l }

/-- The strand with a long result on its way to a register. -/
def onItsWay (r : Reg) (x : Word) (t : Strand) : Strand :=
  { t with outstanding := t.outstanding ++
      [{ id := 100 + t.outstanding.length, gdests := [(entryOf t.cwp r, x)], vdests := [], wait := .none, name := none }] }

/-- The parts of `Open` as a Boolean, with a further condition. -/
def openB (s : State) (xk : XKind) (acc : Acc) (va n : Nat) (act : UnitAct) (p : Leaf → State → Bool) : Bool :=
  match translate { ctx := s.me.ctx, sysm := s.me.sysm, kind := xk, rd := decide (acc = .load ∨ acc = .atomic),
                    wr := decide (acc = .store ∨ acc = .atomic) } va s with
  | .ok (.ok l) s' =>
    decide (bitsOf l.entry 8 1 = 0 ∧ bitsOf l.entry 9 1 = 0 ∧ l.pa.space ≠ .mmio ∧ s'.me.unitLog[s'.me.unitPos]? = none
      ∧ (s'.wakeIsland l.pa.space).isNone = true ∧ (uncorrOf s' (s'.unitAt xk acc va n act l)).isNone = true
      ∧ lookupUnit s'.mem (s'.unitAt xk acc va n act l) = .pass []) && p l s'
  | _ => false

/-- The Boolean gives the premise that the statements use. -/
theorem openB_open {s : State} {xk : XKind} {acc : Acc} {va n : Nat} {act : UnitAct} {p : Leaf → State → Bool}
    (h : openB s xk acc va n act p = true) : ∃ l s', Open s xk acc va n act l s' ∧ p l s' = true := by
  unfold openB at h
  split at h
  · rename_i l s' e
    simp only [Bool.and_eq_true, decide_eq_true_eq] at h
    obtain ⟨⟨a, b, c, d, f, g, k⟩, q⟩ := h
    exact ⟨l, s', ⟨e, a, b, c, d, f, g, k⟩, q⟩
  · exact absurd h (by decide)

/-- Nothing more asked of the leaf and the state. -/
abbrev yes (_ : Leaf) (_ : State) : Bool := true

/-- What a computation answers meets a condition. -/
def gives {α : Type} (r : EStateM.Result Exn State α) (p : α → State → Bool) : Bool :=
  match r with
  | .ok a s => p a s
  | .error _ _ => false

/-- A translation finds a leaf that meets a condition. -/
def leafB (r : EStateM.Result Exn State XRes) (p : Leaf → State → Bool) : Bool :=
  gives r fun x s => match x with | .ok l => p l s | .fail _ _ _ => false

/-! ## Witnesses: scalar words -/

/-- An instruction's form in a table can act at once in a state. -/
def readyIn (tab : Instr → Option ScalarForm) (s : State) (i : Instr) : Bool :=
  match tab i with | some f => f.ready s.me | none => false

theorem witness_RegisterArithmetic : [Instr.add true 15 0 15 ⟨15, 63, true⟩, .sub false 0 0 0 noGuard, .mul false 1 2 3 noGuard,
    .mulh false 1 2 3 noGuard, .mulhu false 1 2 3 noGuard, .div false 1 2 3 ⟨4, 0, true⟩, .divu false 1 2 3 noGuard,
    .rem false 1 2 3 noGuard, .remu false 1 2 3 noGuard, .and false 1 2 3 noGuard, .or false 1 2 3 noGuard, .xor false 1 2 3 noGuard,
    .andn false 1 2 3 noGuard, .orn false 1 2 3 noGuard, .shl false 1 2 3 noGuard, .shr false 1 2 3 noGuard, .sar false 1 2 3 noGuard,
    .rol false 1 2 3 noGuard, .ror false 1 2 3 noGuard, .min false 1 2 3 noGuard, .max false 1 2 3 noGuard, .minu false 1 2 3 noGuard,
    .maxu false 1 2 3 noGuard, .sel false 1 2 3 noGuard, .clz false 1 2 noGuard, .ctz false 1 2 noGuard, .pop false 1 2 noGuard].all
      (readyIn srTable base) = true := by decide +kernel

theorem witness_FieldAndCompareWords : [Instr.bext true 15 0 15 ⟨15, 63, true⟩, .bins false 1 2 3 noGuard, .sextB false 1 2 noGuard,
    .sextH false 1 2 noGuard, .sextW false 1 2 noGuard, .zextB false 1 2 noGuard, .zextH false 1 2 noGuard, .zextW false 1 2 noGuard,
    .ceq false 1 2 3 63, .cne false 1 2 3 0, .clt false 1 2 3 0, .cltu false 1 2 3 0, .cle false 1 2 3 0, .cleu false 1 2 3 0,
    .adds false 1 2 3 7].all (readyIn fieldTable base) = true := by decide +kernel

theorem witness_ImmediateWords_forms : [Instr.addi true 15 0 0x7FFF, .andi false 1 2 0, .ori false 1 2 0, .xori false 1 2 0,
    .muli false 1 2 0, .ldi false 1 0x7FFFF, .adr false 1 0, .ceqi false 1 2 63 63, .cnei false 1 2 0 0, .clti false 1 2 0 0,
    .cltui false 1 2 0 0, .clei false 1 2 0 0, .cleui false 1 2 0 0].all (readyIn immTable base) = true := by decide +kernel

/-- A shift or bit word of count 63 can act; after an `xi` of payload 1 its count is 2^15 + 63. -/
theorem witness_ImmediateWords_counts :
    ([Instr.shli false 1 2 63, .shri false 1 2 63, .sari false 1 2 63, .bseti false 1 2 63, .bclri false 1 2 63, .binvi false 1 2 63].all
      fun i => match countTable i with
        | some (f, n) => decide ((widen 15 n base.me.pfx.xis).1 < 64) && f.ready base.me
        | none => false) = true
    ∧ (let s := onMe (fun t => { t with pfx := { t.pfx with count := 1, xis := [1] } }) base
       match countTable (.shli false 1 2 63) with
        | some (f, n) => f.takes.follows s.me && decide (64 ≤ (widen 15 n s.me.pfx.xis).1)
        | none => false) = true := by decide +kernel

/-- The widths 6 and 24, with payloads at their edges; a strand before any prefix, after one, and after two `xi`. -/
theorem witness_Prefixes :
    (0 < 2 ^ 6 ∧ 63 < 2 ^ 6 ∧ 6 + 48 ≤ 63 ∧ 2 ^ 24 - 1 < 2 ^ 24 ∧ 63 < 24 + 48)
    ∧ (base.me.pfx.xis.length < 2 ∧ base.me.pfx.xis = [] ∧ base.me.pfx.prio = none ∧ base.me.pfx.after = none ∧ base.me.pfx.mod = none)
    ∧ (let s := onMe (fun t => { t with pfx := { t.pfx with count := 2, xis := [0, 0xFFFFFF] } }) base
       s.me.pfx.count ≠ 0 ∧ s.me.pfx.xis.length = 2 ∧ s.me.pfx.xis ≠ [] ∧ wideCount (.xi false 0) s.me.pfx = false
        ∧ (breachOf (.xi false 0) s.me.pfx).cause = .illop) := by decide +kernel

theorem witness_Hints : base.me.pfx.count = 0 ∧ (0x8000#16).getLsbD (15#4).toNat = true ∧ (0x8000#16).getLsbD (0#4).toNat = false := by decide +kernel

theorem witness_BranchesAndCalls_forms : (let s := regs [(7, 0x10004), (2, 0x10008)] (onMe (fun t => { t with rdep := 1, cwp := 1 }) base)
    [Instr.br true 0xFFFFFF, .bb false 2 63 true 0x1FFF, .dbnz false 2 0xFFFFF, .jmp false 2, .call false 0, .callr false 2, .ret false].all
      fun i => match controlTable i with | some f => f.ready s.me | none => false) = true := by decide +kernel

/-- A register that holds no word's address; `ret` at depth 0; `call` at depth 5, and at depth 6 in handler mode. -/
theorem witness_BranchesAndCalls_traps :
    (Takes.plain.follows base.me = true ∧ base.me.canRead 2 = true ∧ aligned4 ((regs [(2, 0x10002)] base).me.g 2) = false)
    ∧ (base.me.canRead 7 = true ∧ aligned4 (base.me.g 7) = true ∧ base.me.rdep = 0 ∧ aligned4 ((regs [(7, 2)] base).me.g 7) = false)
    ∧ (let t := { base.me with rdep := 5 }
       t.rdep.toNat = (if t.hm then 6 else 5) ∧ t.canRead 2 = true ∧ aligned4 (t.g 2) = true)
    ∧ (let t := { base.me with rdep := 6, hm := true }
       t.rdep.toNat = (if t.hm then 6 else 5)) := by decide +kernel

/-- Every load, from the last bytes of the local-store page and of the HBM page. -/
theorem witness_Loads : ([0x11FF0#64, 0x12FF0#64].all fun a =>
    let s := regs [(2, a)] base
    [Instr.ldB true 15 2 15, .ldBs false 1 2 15, .ldH false 1 2 7, .ldHs false 1 2 7, .ldW false 1 2 3, .ldWs false 1 2 3, .ldD false 1 2 1,
      .ldp false 14 2 0, .ldx false 1 2 0 7 3 false, .ldAcq false 1 2 5 1].all fun i =>
        match loadTable i with
        | some (f, _) => f.ready s.me && openB s (.scalar f.size) .load (f.va s.me).toNat f.size .read yes
        | none => false) = true := by decide +kernel

theorem witness_StoresAndAtomics_stores : ([0x11FF0#64, 0x12FF0#64].all fun a =>
    let s := regs [(2, a), (4, 0x0123456789ABCDEF)] base
    [Instr.stB true 4 2 15, .stH false 4 2 7, .stW false 4 2 3, .stD false 4 2 1, .stp false 4 2 0, .stx false 4 2 0 7 3,
      .stRel false 4 2 5 1].all fun i =>
        match storeTable i with
        | some (f, x) => f.ready s.me && openB s (.scalar f.size) .store (f.va s.me).toNat f.size
            (.write (withOffsets ((f.va s.me).toNat % 64) (toLE f.size (x s.me)))) yes
        | none => false) = true := by decide +kernel

theorem witness_StoresAndAtomics_atomics : (let s := regs [(2, 0x11FF0), (4, 0x0123456789ABCDEF)] base
    ([0, 1, 2, 3, 4, 5, 6, 7, 8, 9, 16, 17, 18, 19, 20, 21, 22, 23, 24].map (Instr.amo false 4 2 4 4 5)
      ++ [Instr.cas false 4 2 6 0 0 true, .cas false 4 2 6 4 5 false, .cas2 true 4 2 6 4 5]).all fun i =>
        match atomicTable s.me i with
        | some f => f.mem.ready s.me && openB s .atomic .atomic (f.mem.va s.me).toNat f.mem.size f.act yes
        | none => false) = true := by decide +kernel

/-! ## Witnesses: traps and state registers -/

/-- A strand with a handler, an undelegated cause; and each of the four ways to the kernel. -/
theorem witness_Traps :
    (let t := { base.me with tvec := 0x10000, tdeleg := 0 }
     t.urg = false ∧ t.hm = false ∧ t.tdeleg.getLsbD Cause.sys.code = false ∧ t.tvec ≠ 0)
    ∧ base.me.tvec = 0 ∧ { base.me with urg := true }.urg = true ∧ { base.me with hm := true }.hm = true
    ∧ (0x400B4#20).getLsbD Cause.fill.code = false ∧ { base.me with tdeleg := 0xFFFFE }.tdeleg.getLsbD Cause.sys.code = true := by decide +kernel

theorem witness_SystemCalls : Takes.plain.follows base.me = true ∧ base.me.hm = false
    ∧ (let t := { base.me with hm := true, epc := 0x10002 }
       Takes.plain.follows t = true ∧ t.hm = true ∧ aligned4 t.epc = false)
    ∧ (let t := { base.me with hm := true, epc := 0x10004 }
       Takes.plain.follows t = true ∧ t.hm = true ∧ aligned4 t.epc = true) := by decide +kernel

theorem witness_StateRegisters_read : Takes.plain.follows base.me = true ∧ base.me.canWrite 1 = true ∧ base.me.sysm = false
    ∧ 0x100 ≤ (0x7FFF#15).toNat ∧ (0#15).toNat < 0x100 ∧ (0x014#15).toNat = 0x014 ∧ (0x102#15).toNat = 0x102
    ∧ { base.me with sysm := true }.sysm = true ∧ (base.all.filter fun t => decide (t.place = .pending base.me.core)).length ≤ 64 ∧ ((0x027#15).toNat, (1#64)) ∈ stateRegisters base
    ∧ (0xFF, (0#64)) ∉ stateRegisters base ∧ ((stateRegisters base).all fun x => x.1 != 0xFF) = true
    ∧ (let t := { base.me with hm := true, est := 0x10 }
       0x40 ≤ (0x4F#15).toNat ∧ lastG (frameEntry t 0x4F) t.outstanding = none ∧ t.parity.contains (frameEntry t 0x4F) = false) := by decide +kernel

theorem witness_StateRegisters_write : base.me.canRead 1 = true ∧ (9#15).toNat ∈ readOnlyState ∧ (0x102#15).toNat ∈ readOnlyState
    ∧ ((stateWrites 5).map (·.1)).contains 0x101 = true ∧ ((stateWrites 5).map (·.1)).contains 0 = true
    ∧ (0x30#15).toNat ∉ readOnlyState ∧ ((stateWrites 5).all fun x => x.1 != 0x30) = true := by decide +kernel

/-! ## Witnesses: names, order and shapes -/

/-- The state with the entry of the name of counter 5 and class 2, of partition 1. -/
def named (cls : BitVec 8) (st : NameState) (s : State) : State :=
  { s with hub := { s.hub with
      issueCounter := 6, watermark := 6, serial := 1
      names := [(5, { NameEntry.none with cls := cls, part := 1, addr := 0x12000, state := st, refcount := 1 })] } }

/-- A queue of context 1 with its descriptor at 0x12000 and its ring at 0x12100. -/
def queued (f : Queue → Queue) (s : State) : State :=
  { s with hub := { s.hub with queues := [(5, f { Queue.none with
      state := .mapped, ctx := 1, part := 1, desc := 0x12000, ring := 0x12100, lgslots := 4 })] } }

/-- The high half of that name (R22). -/
def nameHigh (cls : Nat) : Word := BitVec.ofNat 64 (cls * 2 ^ 56 + 1)

/-- `standing` as a Boolean. -/
def standsB (s : State) (n : Name) (st : NameState) : Bool :=
  decide (n ≠ 0 ∧ issuable (nameClass n) = true ∧ nameChip n ≤ 383 ∧ nameChip n = s.hub.chip ∧ nameSerial n = s.hub.serial.toNat)
    && decide ((s.nameEntry (nameCounter n)).state = st ∧ (s.nameEntry (nameCounter n)).cls = nameClass n
      ∧ (s.nameEntry (nameCounter n)).part = s.me.part)

/-- The Boolean gives the premise that the statements use. -/
theorem standsB_standing {s : State} {n : Name} {st : NameState} (h : standsB s n st = true) : s.standing n st := by
  simp only [standsB, Bool.and_eq_true, decide_eq_true_eq] at h
  exact ⟨h.1, h.2⟩

/-- A class that may not be made, an address that is not aligned, and a class and an address that may. -/
theorem witness_NamesMadeAndRead_new : base.me.atHand .plain [4, 5] [6, 7, 8] = true ∧ issuable 4 = true ∧ issuable 0xFF = false
    ∧ (0x12020#64).toNat % 64 ≠ 0 ∧ (0x01FFFFFFFFFFFFC0#64).toNat % 64 = 0 ∧ (0x01FFFFFFFFFFFFC0#64).toNat < 2 ^ 57
    ∧ base.hub.issueCounter ≠ 2 ^ 64 - 1 ∧ base.hub.issueCounter < 2 ^ 64
    ∧ (base.hub.names.filter fun x => homeDie x.1 == homeDie base.hub.issueCounter).length < 98304 := by decide +kernel

theorem witness_NamesMadeAndRead_read : base.me.atHand .plain [4, 5] [6, 7] = true
    ∧ (let s := regs [(4, 5), (5, nameHigh 4)] (named 4 .live base)
       standsB s (s.me.pair 4) .live = true ∧ (s.coreOf s.me.core).names.find? (fun x => x.1 == s.me.pair 4) = none)
    ∧ (let s := regs [(4, 5), (5, nameHigh 4)] (named 4 .dying base)
       standsB s (s.me.pair 4) .dying = true)
    ∧ base.me.pair 4 = 0
    ∧ (let n : Name := 0xFF000000000000010000000000000005#128
       n ≠ 0 ∧ issuable (nameClass n) = false)
    ∧ (let n : Name := 0x04017F00000000010000000000000005#128
       issuable (nameClass n) = true ∧ nameChip n ≤ 383 ∧ nameChip n ≠ base.hub.chip ∧ (base.partOf 1).reach.contains (nameChip n) = false)
    ∧ (let s := named 4 .free base
       (s.nameEntry 3).state = .free ∧ 3 < s.hub.watermark ∧ s.hub.watermark ≤ 6) := by decide +kernel

theorem witness_NamesChanged : base.me.atHand .plain [4, 5] [6] = true
    ∧ (let s := regs [(4, 5), (5, nameHigh 4)] (named 4 .live base)
       standsB s (s.me.pair 4) .live = true ∧ (s.nameEntry 5).refcount < 65535 ∧ (s.nameEntry 5).refcount ≠ 0
        ∧ (s.nameEntry 5).cls ≠ 1 ∧ (s.nameEntry 5).cls ≠ 6 ∧ (s.nameEntry 5).cls ≠ 2)
    ∧ (let s := regs [(4, 5), (5, nameHigh 6)] (named 6 .live base)
       standsB s (s.me.pair 4) .live = true ∧ (s.nameEntry 5).cls = 6)
    ∧ (let s := regs [(4, 5), (5, nameHigh 2)] (queued id (named 2 .live base))
       standsB s (s.me.pair 4) .live = true ∧ (s.nameEntry 5).cls = 2 ∧ (s.queueOf 5).state ≠ .none)
    ∧ ([(4, 5), (6, 5)].all fun (x : Nat × Nat) =>
        let s := regs [(4, 5), (5, nameHigh x.1)] (named (BitVec.ofNat 8 x.1) .dying base)
        standsB s (s.me.pair 4) .dying && decide ((s.nameEntry 5).refcount ≠ 0)) = true
    ∧ ([4, 5].all fun (c : Nat) =>
        let s := regs [(4, BitVec.ofNat 64 c), (5, nameHigh 4)] (named 4 .free base)
        let n := s.me.pair 4
        decide (n ≠ 0 ∧ issuable (nameClass n) = true ∧ nameChip n ≤ 383 ∧ nameChip n = s.hub.chip ∧ nameSerial n = s.hub.serial.toNat
          ∧ (s.nameEntry (nameCounter n)).state = .free ∧ nameCounter n < s.hub.watermark)) = true := by decide +kernel

theorem witness_NamesChanged_cas : (let s := regs [(2, 0x12FF0), (4, 7), (6, 5), (7, nameHigh 4)] (named 4 .live base)
    s.me.atHand .plain [2, 4, 5, 6, 7] [1] && decide ((s.me.g 2).toNat % 16 = 0)
      && openB s .atomic .atomic (s.me.g 2).toNat 16 (.cas ((s.me.g 2).toNat % 64) 16 (s.me.pair 4) (s.me.pair 6))
        fun l t => decide (l.pa.space = .hbm) && standsB t (s.me.pair 6) .live) = true := by decide +kernel

/-- A launch in launch context 3. -/
def launched (f : Launch → Launch) (s : State) : State :=
  { s with
    hub := { s.hub with launches := [(3, f { Launch.none with
      live := true, started := true, ctx := 1, part := 1, lrec := { LaunchRec.none with nbply := 2, nbdie := 1, ntok := 16, nbank := 2 } })] }
    me := { s.me with launch := some 3, counted := true } }

/-- A release and an acquire of an object, and of a default object (address 0) by a strand of no launch and of one. -/
theorem witness_OrderingWords : Takes.plain.follows base.me = true ∧ base.me.canRead 2 = true ∧ base.me.g 2 = 0 ∧ base.me.launch = none
    ∧ (launched id base).me.launch ≠ none ∧ (launched id base).me.g 2 = 0 ∧ base.me.atHand .plain [2, 3] [] = true
    ∧ (let s := regs [(2, 0x11FF8)] base
       (s.me.g 2).toNat % 8 = 0 ∧ s.me.g 2 ≠ 0
        ∧ openB s .atomic .atomic (s.me.g 2).toNat 8 (.amo ((s.me.g 2).toNat % 64) 0 1) yes = true
        ∧ openB s .atomic .atomic (s.me.g 2).toNat 8 .read (fun l t =>
            (uncorrOf t (t.unitAt .atomic .load (s.me.g 2).toNat 8 .read l)).isNone
            && decide (lookupUnit t.mem (t.unitAt .atomic .load (s.me.g 2).toNat 8 .read l) = .pass [])) = true) := by decide +kernel

theorem witness_WaitsAndBarriers_wwait :
    (let s := regs [(2, 0x11FF8), (3, 0)] base
     s.me.atHand .plain [2, 3] [1] && decide ((s.me.g 2).toNat % 8 = 0 ∧ s.me.urg = false)
      && openB s .vector .load (s.me.g 2).toNat 8 (.wwait ((s.me.g 2).toNat % 64) (s.me.g 3)) fun l t =>
        l.pa.space.tagged && decide (t.numberAt l (s.me.g 2).toNat 8 = (s.me.g 3).toNat
          ∧ (t.mem.waiters.filter fun w => w.pa.space = l.pa.space).length < 64)) = true
    ∧ (let s := regs [(2, 0x11FF8), (3, 1)] base
       openB s .vector .load (s.me.g 2).toNat 8 (.wwait ((s.me.g 2).toNat % 64) (s.me.g 3)) fun l t =>
        l.pa.space.tagged && decide (t.numberAt l (s.me.g 2).toNat 8 ≠ (s.me.g 3).toNat)) = true := by decide +kernel

/-- The last barrier slot of a ply and of a die, before and after the strand's arrival. -/
theorem witness_WaitsAndBarriers_barrier : (let s := launched id base
    Takes.plain.follows s.me = true ∧ s.me.launch = some 3 ∧ s.me.counted = true
    ∧ (1#5).toNat < (if (0#2).toNat = 0 then (s.launchOf 3).lrec.nbply else (s.launchOf 3).lrec.nbdie)
    ∧ (0#5).toNat < (if (1#2).toNat = 0 then (s.launchOf 3).lrec.nbply else (s.launchOf 3).lrec.nbdie)
    ∧ FMap.get 0 s.me.arrived 33 = 0
    ∧ (let t := onMe (fun t => { t with arrived := [(1, 1)] }) s
       let o := FMap.get 0 (t.launchOf 3).phases (phaseKey 0 (t.me.homeAt 0) 1)
       FMap.get 0 t.me.arrived 1 ≠ 0 ∧ o < FMap.get 0 t.me.arrived 1)) := by decide +kernel

theorem witness_RegionsAndShapes_ebind : (let s := regs [(2, 0x12000), (3, 0x1000), (4, 5), (5, nameHigh 4)] (named 4 .live (launched id base))
    s.me.atHand .plain [2, 3, 4, 5] [1] = true ∧ s.me.launch = some 3 ∧ standsB s (s.me.pair 4) .live = true ∧ nameClass (s.me.pair 4) = 4
    ∧ (s.me.g 2).toNat % 4096 = 0 ∧ s.me.g 3 ≠ 0 ∧ (s.me.g 3).toNat % 4096 = 0 ∧ (s.me.g 2).toNat + (s.me.g 3).toNat ≤ 2 ^ 57
    ∧ (s.launchOf 3).bindings.length < 256 ∧ (s.nameEntry 5).refcount < 65535
    ∧ ((s.launchOf 3).bindings.all fun b => !b.overlaps (s.me.g 2).toNat (s.me.g 3).toNat) = true
    ∧ (let t := launched (fun x => { x with bindings := [{ base := 0x12000, length := 0x1000, name := 1 }] }) s
       ((t.launchOf 3).bindings.all fun b => !b.overlaps (s.me.g 2).toNat (s.me.g 3).toNat) = false)) := by decide +kernel

/-- A shape of two segments, rows 0 and 1–2, in the snapshot slot 0 of context 1. -/
def shaped (strict : Bool) (s : State) : State :=
  { s with hub := { s.hub with snaps := [(2 ^ 32, { Snapshot.none with
      live := true, ctx := 1, name := nameHigh 3 ++ 5#64, version := 0, strict := strict, nseg := 2, rows := 3, start := [0, 1, 3] })] } }

theorem witness_RegionsAndShapes_shbind : (let s := regs [(4, 5), (5, nameHigh 3)] (shaped true (named 3 .live base))
    s.me.atHand .plain [4, 5] [6] = true ∧ standsB s (s.me.pair 4) .live = true ∧ nameClass (s.me.pair 4) = 3
    ∧ s.findSnap s.me.ctx (s.me.pair 4) (s.nameEntry 5).version = some (2 ^ 32)
    ∧ (s.nameEntry 5).addr.toNat % 64 = 0
    ∧ openB s (.scalar 8) .store ((s.nameEntry 5).addr.toNat + 0x20) 8
        (.write (withOffsets (((s.nameEntry 5).addr.toNat + 0x20) % 64) (toLE 8 ((s.nameEntry 5).version + 1).toNat)))
        (fun _ t => decide (t.hub = s.hub)) = true
    ∧ (let t := named 3 .dying s
       standsB t (t.me.pair 4) .dying = true)) := by decide +kernel

theorem witness_StrandEndsAndSiblings_ends : Takes.plain.follows base.me = true ∧ base.me.place = .slot 0 0 ∧ base.me.outstanding = []
    ∧ base.me.hm = false ∧ base.me.urg = false := by decide +kernel

/-- In handler mode; an entry that is no word's address; and room for one more slice. -/
theorem witness_StrandEndsAndSiblings_spawn : (let s := regs [(2, 0x10008)] base
    ([2, 12, 13, 14, 15] : List Reg).all s.me.canRead = true ∧ s.me.hm = false ∧ aligned4 (s.me.g 2) = true
    ∧ s.pendingRoom s.me.core 1 = true ∧ aligned4 ((regs [(2, 0x1000A)] base).me.g 2) = false
    ∧ { base.me with hm := true }.hm = true) := by decide +kernel

/-- A strand in handler mode, one with a bank, and one that may go to the core of the local-store page. -/
theorem witness_HopsAndMessages_hop :
    (let s := regs [(2, 0x11000)] base
     Takes.plain.follows s.me = true ∧ s.me.canRead 2 = true ∧ s.me.hm = false ∧ s.me.urg = false ∧ s.heldBanks s.me.core s.me.slot = 0
      ∧ gives (hopTarget (s.me.g 2) s) (fun dest t => decide (dest = 0 ∧ t.me.outstanding = [] ∧ t.me.parity = []) && gives (saveFrames t) fun _ _ => true) = true)
    ∧ (let s := base.setBank 0 3 fun k => { k with cond := .held 0 false }
       s.heldBanks s.me.core s.me.slot ≠ 0) := by decide +kernel

theorem witness_HopsAndMessages_message : (let s := regs [(2, 0x11000), (3, 0x10008)] base
    ([2, 3, 12, 13, 14, 15] : List Reg).all s.me.canRead = true ∧ aligned4 (s.me.g 3) = true
    ∧ leafB (translate { ctx := s.me.ctx, sysm := s.me.sysm, kind := .scalar 1, rd := true, wr := false } (s.me.g 2).toNat s)
        (fun l t => decide (t.msgOwner t.me.ctx (s.me.g 2).toNat l.pa = .core 0)) = true
    ∧ aligned4 ((regs [(3, 0x10001)] base).me.g 3) = false) := by decide +kernel

/-! ## Witnesses: vector words -/

/-- Every vector word whose result lies in a vector register, under a mask with its top lane. -/
theorem witness_VectorWords : (let s := regs [(3, 0x8000000000000001)] base
    let m : Mask := ⟨3, false⟩
    [Instr.vadd true 15 0 15 true .f m, .vsub false 1 2 3 false .n m, .vmul false 1 2 3 false .f m, .vmulHi false 1 2 3 false .i m,
      .vfma false 1 2 3 false m, .vfms false 1 2 3 false m, .vfnma false 1 2 3 false m, .vmin false 1 2 3 false .f m,
      .vmax false 1 2 3 false .f m, .vabs false 1 2 .i m, .vneg false 1 2 .f m, .vand false 1 2 3 false .i m, .vor false 1 2 3 false .i m,
      .vxor false 1 2 3 false .i m, .vandn false 1 2 3 false .i m, .vshl false 1 2 3 false .i m, .vshr false 1 2 3 false .n m,
      .vsar false 1 2 3 false .i m, .vsel false 1 2 3 false .i m, .vmov false 1 3 false .i m, .vcvt false 1 2 .f m 3,
      .vpackBf false 1 2 3 false m, .vpackH false 1 2 3 false .i m, .vunpackBf false 1 2 true m, .vunpackH false 1 2 true .i m,
      .vrcp false 1 2 m, .vrsq false 1 2 m, .vexp2 false 1 2 m, .vlog2 false 1 2 m, .vtanh false 1 2 m, .vsig false 1 2 m,
      .vredsum false 1 2 3 false .f m, .vredmax false 1 2 3 false .f m, .vredmin false 1 2 3 false .f m, .vscan false 1 2 3 false .i m 3,
      .vslideDn false 1 2 3 .i m, .vslideUp false 1 2 3 .i m, .vslideRot false 1 2 3 .i m, .vperm false 1 2 3 false .i m,
      .vins false 1 15 3 .i 3, .vclass false 1 2 m].all fun i =>
        match vectorTable i with | some f => i.wellFormed && f.ready s.me | none => false) = true := by decide +kernel

theorem witness_VectorToScalar_compares : (let m : Mask := ⟨0, false⟩
    [Instr.vceq true 15 0 15 true .f m, .vcne false 1 2 3 false .i m, .vclt false 1 2 3 false .n m, .vcle false 1 2 3 false .f m,
      .vext false 1 2 15 .i 3].all fun i =>
        match toScalarTable i with | some (f, vs) => i.wellFormed && f.ready base.me && vs.all base.me.canReadV | none => false) = true := by
  decide +kernel

/-- The strand with lanes in a vector register, from lane 0 up. -/
def lanes (r : Reg) (l : List Lane) (s : State) : State :=
  onMe (fun t => { t with
    vregs := (List.range l.length).foldl (fun f i => FMap.set 0 f (64 * r.toNat + i) ((l[i]?).getD 0)) t.vregs
    vlive := t.vlive ||| BitVec.ofNat 16 (2 ^ r.toNat) }) s

/-- No shape; a row of −∞ alone; a row with +∞; a row past the segments; and a row within them. -/
theorem witness_VectorToScalar_shapes :
    (Takes.plain.follows base.me = true ∧ ([3] ++ maskRegs ⟨0, false⟩).all base.me.canRead = true ∧ base.me.canReadV 2 = true
      ∧ base.me.outstanding.length < 8 ∧ base.me.shape false = none)
    ∧ (let s := onMe (fun t => { t with sh0 := some (2 ^ 32) }) (lanes 2 [0xFF800000, 0xFF800000, 0xFF800000] (shaped false base))
       let sh := s.snapOf (2 ^ 32)
       s.me.shape false = some (2 ^ 32)
        ∧ ((softmaxIn sh false 1 0 (s.me.enabled ⟨0, false⟩)).map fun i => laneVal (s.me.lane 2 i)).all (fun v => decide (v = .inf true)) = true)
    ∧ (let s := onMe (fun t => { t with sh0 := some (2 ^ 32) }) (lanes 2 [0, 0x7F800000] (shaped false base))
       let sh := s.snapOf (2 ^ 32)
       (((softmaxIn sh false 1 0 (s.me.enabled ⟨0, false⟩)).map fun i => laneVal (s.me.lane 2 i)).any
          fun v => v.isNaN || decide (v = .inf false)) = true
        ∧ (sh.segment 3).isNone = true ∧ (sh.segment 2).isSome = true)
    ∧ (let s := onMe (fun t => { t with sh0 := some (2 ^ 32) }) (lanes 2 [0, 0x3F800000] (shaped false base))
       let vals := (softmaxIn (s.snapOf (2 ^ 32)) false 1 0 (s.me.enabled ⟨0, false⟩)).map fun i => laneVal (s.me.lane 2 i)
       vals.all (fun v => decide (v = .inf true)) = false ∧ vals.any (fun v => v.isNaN || decide (v = .inf false)) = false
        ∧ (vals.any fun x => vals.all fun v => !valLess x v) = true) := by decide +kernel

/-- Count 2, sum 4, sum of squares 10, epsilon 0: variance 1. -/
theorem witness_VectorToScalar_lnorm : (let s := lanes 1 [2, 0x40800000, 0x41200000, 0] base
    let n := (s.me.lane 1 0).toNat
    n ≠ 0 ∧ (laneVal (s.me.lane 1 1)).isFin = true ∧ (laneVal (s.me.lane 1 2)).isFin = true ∧ (laneVal (s.me.lane 1 3)).isFin = true
    ∧ 0 < (varPlus n (laneVal (s.me.lane 1 1)) (laneVal (s.me.lane 1 2)) (laneVal (s.me.lane 1 3))).1
    ∧ (base.me.lane 1 0).toNat = 0) := by decide +kernel

/-- The plain loads and stores of the last lanes of a page. -/
theorem witness_VectorAccesses : (let s := regs [(2, 0x11F00), (3, 0xC000000000000001), (4, 4)] base
    let m : Mask := ⟨3, false⟩
    [Instr.vld true 15 2 0 1 m, .vst false 1 2 0 0 m, .vldb false 1 2 4 m, .vlds false 1 2 4 4 m, .vldx false 1 2 5 0 m,
      .vstx false 1 2 5 3 m].all fun i =>
        match elementTable i with
        | some f => i.wellFormed && f.ready s.me
          && gives (strandAccess .vector (if f.store then .store else .load) (if f.store then 3 else 0) (f.pieces s.me) s) fun _ _ => true
        | none => false) = true := by decide +kernel

/-- The pieces of a load translate to units in whose way nothing stands; no filter redirects and nothing is parked. -/
theorem witness_AccessUnits : (let s := regs [(2, 0x11F00)] base
    let ps : List Piece := [{ va := 0x11F00, offs := List.range 64, act := .read }, { va := 0x11FC0, offs := [60, 61, 62, 63], act := .read }]
    s.me.unitPos = s.me.unitLog.length ∧ s.mem.redirects = [] ∧ s.mem.parked = []
    ∧ gives (translatePieces .vector .load true false ps s) (fun ls t =>
        decide (t.me.unitPos = t.me.unitLog.length) && ls.all fun x =>
          decide (x.1.act = .read ∧ x.2.pa.space ≠ .mmio ∧ bitsOf x.2.entry 9 1 = 0)
            && (t.wakeIsland x.2.pa.space).isNone && (uncorrOf t (t.pieceAt .vector .load x)).isNone
            && decide (lookupUnit t.mem (t.pieceAt .vector .load x) = .pass [])) = true
    ∧ gives (translatePieces .vector .load true false ps s) (fun ls t => gives (performPieces .vector .load 0 ls t) fun _ _ => true) = true) := by decide +kernel

/-- Whether the units of a described load of some lanes from 0x11F00 are translated, watched and performed. -/
def describedB (lanes : List Nat) (s : State) : Bool :=
  gives (translatePieces .vector .load true false [blockPiece 0x11F00] s) fun ls s1 => match ls with
  | [(p, l)] =>
    let f := (FMap.get Mem.desc0 s1.mem.descs l.pa.block).toNat % 256
    let more := furtherBlocks 0 f lanes
    decide (p = blockPiece 0x11F00) && gives (translatePieces .vector .load true false (more.map fun k => blockPiece (0x11F00 + 64 * k)) s1)
      fun ls2 s2 => gives (watchPieces .load ((p, l) :: ls2) s2) fun _ s2' =>
        gives (performPieces .vector .load 0 [(p, l)] s2') fun rs s3 => match rs with
          | [r] => decide (r.desc.toNat % 256 = f) && gives (performPieces .vector .load 0 ls2 s3) fun _ _ => true
          | _ => false
  | _ => false

/-- Misaligned; no lane enabled; and described blocks of format 0 (FP32), of which lane 63 needs the last of four. -/
theorem witness_DescribedBlocks_loads :
    (let s := regs [(2, 0x11F00), (3, 0), (4, 0x8000000000000000)] base
     (describedTable (.vldD false 1 2 0 0 ⟨3, false⟩)).isSome = true ∧ (Instr.vldDInt false 1 2 0 1 ⟨3, true⟩).wellFormed = true
      ∧ ([2] ++ indexRegs 0 ++ maskRegs ⟨3, false⟩).all s.me.canRead = true ∧ s.me.canSendV 1 ⟨3, false⟩ = true
      ∧ (s.me.g 2 + s.me.index 0 6).toNat % 64 = 0 ∧ (List.range 64).filter (fun i => (s.me.enabled ⟨3, false⟩).getLsbD i) = []
      ∧ (List.range 64).filter (fun i => (s.me.enabled ⟨4, false⟩).getLsbD i) = [63])
    ∧ ((regs [(2, 0x11F20)] base).me.g 2).toNat % 64 ≠ 0 := by decide +kernel

theorem witness_DescribedBlocks_units :
    describedB [63] { base with mem := { base.mem with
      descs := [(PAddr.key { space := .ls 0, off := 0xF00 } / 64, 0x007F7F7F7F00)] } } = true := by decide +kernel

theorem witness_DescribedBlocks_store : (let s := regs [(2, 0x11F00)] base
    ([2] ++ indexRegs 0).all s.me.canRead = true ∧ s.me.canReadV 4 = true ∧ s.me.canReadV 5 = true
    ∧ [(1, 4), (7, 4), (6, 4)].all (fun x => (Instr.vstQ false (BitVec.ofNat 4 x.2) 2 0 (BitVec.ofNat 4 x.1)).wellFormed
        && (fmtOfCode x.1).isSome) = true
    ∧ (match fmtOfCode 7 with
       | none => false
       | some fmt =>
        let q := quantize 7 fmt s.me.control (64 / perBlock 7) ((s.me.v 4).map laneVal) s.me.srseed
        gives (strandAccess .vector .store 3 ((List.range q.1.length).map fun k =>
            { va := (0x11F00 + 64 * k) % 2 ^ 64, offs := List.range 64
              act := .writeBlock (q.1[k]?.getD ([], 0)).1 (q.1[k]?.getD ([], 0)).2 })
          { s with me := { s.me with srseed := q.2.2, sflags := s.me.sflags ||| q.2.1 } }) fun _ _ => true) = true) := by decide +kernel

/-- Without a shape; two rows of one segment; rows of two segments, with a strict shape and with one that is not; and a segment
without rows. -/
theorem witness_RaggedAndStreams_ragged : (let s := regs [(2, 0x11000), (3, 1), (4, 2), (5, 0), (6, 0x8000000000000000)] base
    let m : Mask := ⟨6, false⟩
    ([2, 3, 4] ++ maskRegs m).all s.me.canRead = true ∧ s.me.canSendV 1 m = true ∧ s.me.shape false = none
    ∧ (let t := onMe (fun t => { t with sh0 := some (2 ^ 32) }) (shaped true s)
       let sh := t.snapOf (2 ^ 32)
       let lanes := (List.range 64).filter fun i => (t.me.enabled m).getLsbD i
       let units (row : Nat) : List Piece := elementPieces (lanes.map fun i => 0x11000 + 256 * row + 4 * i) 4 fun _ => .read
       t.me.shape false = some (2 ^ 32) ∧ sh.strict = true
        ∧ sh.segment 1 ≠ none ∧ sh.segment 1 = sh.segment 2 ∧ sh.segment 0 ≠ sh.segment 2
        ∧ ((shaped false s).snapOf (2 ^ 32)).strict = false ∧ sh.nseg ≤ 2
        ∧ ((sh.start[2]?).getD 0 - (sh.start[1]?).getD 0) = 2
        ∧ gives (strandAccess .vector .load 0 (units 1) t) (fun _ _ => true) = true
        ∧ gives (strandAccess .vector .load 0 ([1, 2].flatMap units) t) (fun _ _ => true) = true)) := by decide +kernel

/-- A generator bound to g12 for reading, and one for writing. -/
def streamed (write : Bool) (p : Nat) (s : State) : State :=
  onMe (fun t => { t with streams := [(3, { Stream.reset with
    base := 0x11000, stride := 8, n := 512, p := BitVec.ofNat 32 p, bound := true, write := write, width := 3, reg := 0 })] }) s

theorem witness_RaggedAndStreams_streams : ([4, 5, 6] : List Reg).all base.me.canRead = true ∧ base.me.hm = false
    ∧ { base.me with hm := true }.hm = true ∧ base.me.canWrite 1 = true ∧ base.me.outstanding.length < 8
    ∧ (let s := streamed false 0 base
       (([0, 1, 2, 3].any fun k => decide (k ≠ (1#2).toNat) && (FMap.get Stream.reset s.me.streams k).bound
          && decide ((FMap.get Stream.reset s.me.streams k).reg = 0#2)) = true)
        ∧ (([0, 1, 2, 3].any fun k => decide (k ≠ (3#2).toNat) && (FMap.get Stream.reset s.me.streams k).bound
          && decide ((FMap.get Stream.reset s.me.streams k).reg = 0#2)) = false)) := by decide +kernel

/-- The last element of a generator that reads and of one that writes, and one past it. -/
theorem witness_StreamAccesses_words :
    (let s := streamed false 511 base
     s.me.boundGen 12 = some 3 ∧ s.me.pfx.xis = [] ∧ Takes.imm.follows s.me = true ∧ s.me.canWrite 1 = true
      ∧ openB s (.scalar 8) .load (0x11000 + 511 * 8) 8 .read yes = true
      ∧ (FMap.get Stream.reset (streamed false 512 base).me.streams 3).n.toNat ≤ 512)
    ∧ (let s := streamed true 511 base
       s.me.boundGen 12 = some 3 ∧ s.me.canReadV 15 = true ∧ s.me.outstanding.length < 8
        ∧ leafB (translate { ctx := s.me.ctx, sysm := s.me.sysm, kind := .scalar 8, rd := false, wr := true } (0x11000 + 511 * 8) s)
            (fun l _ => decide (bitsOf l.entry 8 1 = 0)) = true) := by decide +kernel

theorem witness_StreamAccesses_events :
    (let lf : Leaf := { pa := { space := .ls 0, off := 0xFF8 }, entry := 0x1F, level := 0 }
     let a : Append := { va := 0x11FF8, leaf := lf, width := 3, value := 7, sg := 3, id := 0, pc := 0x10000, pfx := Prefix.empty, streams := []
                         sflags := 0, replay := Replay.none }
     let s := onMe (fun t => { t with appends := some a }) (streamed true 511 base)
     s.strandAt 0 0 = some (s.switchTo 0 0).me ∧ (s.switchTo 0 0).me.appends = some a
      ∧ gives (storeAppend a (s.switchTo 0 0)) (fun _ _ => true) = true)
    ∧ (let s := (streamed false 511 base).switchTo 0 0
       let q := FMap.get Stream.reset s.me.streams 3
       s.me.hm = false ∧ s.me.halted = false ∧ s.me.haltReq = false ∧ s.me.ktrap = false ∧ s.me.wait ≠ .draining ∧ s.me.wait ≠ .restoring
        ∧ (s.ctxOf s.me.ctx).killing = false ∧ s.me.outstanding = []
        ∧ q.nextAhead = some 511 ∧ q.bound = true ∧ q.write = false
        ∧ leafB (translate { ctx := s.me.ctx, sysm := s.me.sysm, kind := .scalar 8, rd := true, wr := false } (0x11000 + 511 * 8) s) (fun l x =>
            let u : AccessUnit := { x.unitAt (.scalar 8) .load (0x11000 + 511 * 8) 8 .read l with who := .prefetch 0 0 3 511 q.binding, core := 0 }
            let u : AccessUnit := { u with kind := strandKind l.pa.space 0 .load }
            decide (bitsOf l.entry 8 1 = 0 ∧ l.pa.space ≠ .mmio) && (x.wakeIsland l.pa.space).isNone && (uncorrOf x u).isNone
              && decide (lookupUnit x.mem u = .pass [])) = true) := by decide +kernel

/-- The parts of `OpenTag` as a Boolean. -/
def openTagB (s : State) (xk : XKind) (write : Bool) (ga : Word) (p : Leaf → State → Bool) : Bool :=
  leafB (translate { ctx := s.me.ctx, sysm := s.me.sysm, kind := xk, rd := !write, wr := write } ga.toNat s) fun l s' =>
    decide (bitsOf l.entry 8 1 = 0 ∧ bitsOf l.entry 9 1 = 0 ∧ (s'.wakeIsland l.pa.space).isNone = true
      ∧ (match l.pa.space with | .peer _ _ => false | _ => true) = true ∧ FMap.get 0 s'.mem.poison l.pa.word = 0 ∧ s'.mem.parked = []
      ∧ (s'.all.all fun t => t.replay.looked.isNone) = true) && p l s'

theorem witness_TagWords_tags : (let s := regs [(2, 0x11FF8), (3, 5), (4, 6)] base
    ([2, 3, 4] : List Reg).all s.me.canRead = true ∧ s.me.canWrite 1 = true ∧ s.me.outstanding.length < 8 ∧ (s.me.g 2).toNat % 8 = 0
    ∧ openTagB s .tag false (s.me.g 2) yes = true ∧ openTagB s .tag true (s.me.g 2) yes = true
    ∧ ((regs [(2, 0x11FFC)] base).me.g 2).toNat % 8 ≠ 0) := by decide +kernel

/-- A table slot that the context owns and one that it does not. -/
theorem witness_TagWords_tables : (let s := regs [(2, 0x11000), (3, 0x12000), (4, 0x10004)] base
    let s : State := { s with mem := { s.mem with owners := FMap.set none s.mem.owners (slotKey (.ls 0) 7) (some 1) } }
    openTagB s .table false (s.me.g 2) yes = true
    ∧ openTagB s .table true (s.me.g 2) (fun l t =>
        decide (FMap.get none t.mem.owners (8 * l.pa.space.index + 7) = some s.me.ctx ∧ FMap.get none t.mem.owners (8 * l.pa.space.index + 1) ≠ some s.me.ctx
          ∧ (s.me.g 3).toNat % 4096 = 0)
        && gives (strandAccess (.scalar 64) .load 0 (splitUnits (fun _ _ => .read) 5 (s.me.g 3).toNat 0 256) t)
            fun _ u => decide (u.mem.parked = []) && u.all.all fun t => t.replay.looked.isNone) = true) := by decide +kernel

/-! ## Witnesses: engine words -/

/-- Banks 0 and 1 of core 0 held by the strand, in a launch with a group there. -/
def banked (s : State) : State :=
  ((launched (fun x => { x with groups := [(0, { Group.none with core := 0, reserved := 1, left := 1, banks := 2 })] }) s).setBank 0 0
    fun k => { k with cond := .held 0 false, launch := some 3 }).setBank 0 3 fun k => { k with cond := .releasing, launch := some 3 }

/-- The state with an op, and a token of the strand that holds it. -/
def withOp (n : Nat) (o : Op) (s : State) : State :=
  let s := s.setOp n fun _ => { o with ctx := 1, part := 1 }
  { s with eng := { s.eng with nextOp := n + 1 } }

theorem witness_MatrixOps_words : (let s := regs [(2, 0x11000), (3, 0x100)] (banked base)
    Takes.engine.follows s.me = true ∧ ([2, 3] : List Reg).all s.me.canRead = true
    ∧ s.me.tokenFree 15 = true ∧ (s.me.g 2).toNat % 64 = 0 ∧ (s.me.g 3).toNat % 64 = 0
    ∧ (s.bankOps s.me.core 0).length < 2 ∧ s.holdsBank 0 = true ∧ s.holdsBank 1 = false
    ∧ (s.me.setToken 15 (some 1)).tokenFree 15 = false
    ∧ (let o : Op := { Op.none with state := .queued, kind := .mld 0 0 0, engine := .matrix 0, accepted := true }
       let t := withOp 2 o (withOp 1 o s)
       2 ≤ (t.bankOps t.me.core 0).length)) := by decide +kernel

/-- A descriptor of 32 bytes at 0x11000: dense without a capability, ragged, and with a capability that names vcore 0. -/
theorem witness_MatrixOps_descriptors : ([([0, 0, 0, 0, 0, 0, 0, 0], 0), ([0, 0, 0, 8, 0, 0, 0, 0], 0), ([0, 0, 0, 0, 0, 0, 0, 0], 1)].all
    fun (x : List Byte × Byte) =>
      let s := regs [(2, 0x11000)] (bytes 1 0x18 [x.2] (bytes 1 0x10 x.1 (banked base)))
      s.me.tokenFree 15 && decide ((s.me.g 2).toNat % 32 = 0) && gives (readDescriptor (s.me.g 2).toNat 32 s) fun d t =>
        let c := bytesAt d 0x10 8
        let cap := bytesAt d 0x18 8
        decide (t.eng = s.eng ∧ t.cores = s.cores ∧ t.me = { s.me.acquired with unitLog := t.me.unitLog, unitPos := t.me.unitPos, replay := t.me.replay }
          ∧ (t.bankOps s.me.core (bitField c 30 2)).length < 2 ∧ (t.bankOps s.me.core (bitField c 23 2)).length < 2)
        && (if x.1 = [0, 0, 0, 8, 0, 0, 0, 0] then decide (bitField c 27 2 ≠ 0 ∧ t.me.shape (decide (bitField c 29 1 = 1)) = none)
            else decide (bitField c 27 2 = 0))
        && (if x.2 = 0 then decide (cap = 0) else decide (cap ≠ 0) && (t.capTarget t.me.ctx cap).isSome)) = true := by decide +kernel

/-- A copy's header (type 3, 0x10 in its fourth half-byte), lengths of one unit of 64 bytes, and a collective's of one element. -/
def copyDesc (op : Byte) : List Byte :=
  [op, 0, 1, 0, 0, 0, 0, 0] ++ toLE 8 0x11100 ++ toLE 8 0x11200 ++ toLE 4 1 ++ toLE 4 64 ++ toLE 8 0 ++ toLE 8 0 ++ toLE 8 0 ++ toLE 8 0

theorem witness_CopyWords : (let s := regs [(2, 0x11040)] (bytes 1 0x40 (copyDesc 3) base)
    Takes.engine.follows s.me = true ∧ s.me.canRead 2 = true ∧ s.me.tokenFree 0 = true
    ∧ (s.me.setToken 0 (some 1)).tokenFree 0 = false ∧ ((regs [(2, 0x11060)] s).me.g 2).toNat % 64 ≠ 0
    ∧ gives (readDescriptor (s.me.g 2).toNat 64 s) (fun d t =>
        decide (t.eng = s.eng ∧ t.me = { s.me.acquired with unitLog := t.me.unitLog, unitPos := t.me.unitPos, replay := t.me.replay })
        && copyHeader false d && copyRules false d && !copyHeader true d
        && decide (bytesAt d 0x30 8 = 0 ∧ t.mem.parked = [])
        && leafB (translate { ctx := t.me.ctx, sysm := t.me.sysm, kind := .tag, rd := false, wr := true, via := .ply (corePly s.me.core) } 0x11100 t)
            fun l _ => decide (bitsOf l.entry 9 1 = 0)) = true) := by decide +kernel

/-- A descriptor with ARM and a completion address; one of a collective; and one of a multicast to the cores of mask bit 1. -/
theorem witness_CopyWords_kinds :
    (let d := (copyDesc 3).take 0x30 ++ toLE 8 0x11100 ++ toLE 4 1 ++ toLE 4 0x3E00
     copyHeader false d && copyRules false d && decide (bitField (bytesAt d 0x3C 4) 9 1 = 1 ∧ bytesAt d 0x30 8 ≠ 0))
    = true
    ∧ (let d := [3, 0, 1, 0, 2, 0, 0, 0] ++ (copyDesc 3).drop 8
       copyHeader true d && copyRules true d) = true
    ∧ (let d : List Byte := List.replicate 16 0 ++ [0, 1, 0, 0, 0, 0, 0, 0] ++ toLE 8 1 ++ toLE 8 0x11100 ++ toLE 8 0x11200 ++ List.replicate 16 0
       d.length = 64 ∧ Op.collRules { Op.none with kind := .coll, desc := d } = true
        ∧ Op.collRules { Op.none with kind := .coll, desc := d.set 0x10 5 } = false) := by decide +kernel

theorem witness_CopyWords_free : (let s := regs [(2, 0x11100), (3, 5)] base
    let e : FreeEntry := { ply := 0, ctx := 1, mailbox := 0x11100, tile := 5, receivers := 3, freed := 2, compval := 9, op := 1 }
    ([2, 3] : List Reg).all s.me.canRead = true ∧ s.me.canWrite 1 = true ∧ s.me.outstanding.length < 8
    ∧ leafB (translate { ctx := s.me.ctx, sysm := s.me.sysm, kind := .scalar 8, rd := true, wr := false } (s.me.g 2).toNat s)
        (fun l t => decide ((t.wakeIsland l.pa.space).isNone = true ∧ t.me = s.me ∧ t.eng.entries = [])) = true
    ∧ (let mine (e : FreeEntry) : Bool := decide (e.ply = corePly s.me.core ∧ e.ctx = s.me.ctx ∧ e.mailbox = (s.me.g 2).toNat
        ∧ e.tile = (s.me.g 3).toNat % 65536)
       [e].find? mine = some e)
    ∧ e.receivers.getLsbD (s.me.core % 16) = true ∧ e.freed.getLsbD (s.me.core % 16) = false
    ∧ e.freed ||| BitVec.ofNat 16 (2 ^ (s.me.core % 16)) = e.receivers
    ∧ { e with freed := 0 }.freed ||| BitVec.ofNat 16 (2 ^ (s.me.core % 16)) ≠ e.receivers
    ∧ { e with receivers := 2 }.receivers.getLsbD (s.me.core % 16) = false ∧ { e with freed := 1 }.freed.getLsbD (s.me.core % 16) = true) := by
  decide +kernel

theorem witness_BankAndOpWords_banks : base.me.canWrite 1 = true ∧ base.allowance base.me.launch base.me.core = 0
    ∧ (let s := banked base
       s.allowance s.me.launch s.me.core = 2 ∧ s.launchHolds s.me.launch s.me.core = 1
        ∧ (s.bankOf 0 1).cond = .free ∧ (s.bankOf 0 0).cond ≠ .free ∧ s.holdsBank 0 = true ∧ s.holdsBank 1 = false
        ∧ s.bankOps 0 0 = []
        ∧ (let t := s.setBank 0 1 fun k => { k with cond := .held 4 false, launch := some 3 }
           ¬ t.launchHolds t.me.launch t.me.core < t.allowance t.me.launch t.me.core)
        ∧ (let u := regs [(2, 0), (3, 32767)] s
           ([2, 3] : List Reg).all u.me.canRead = true ∧ ((List.range 4).all fun x => !(1#4).getLsbD x || u.holdsBank x) = true
            ∧ (u.me.g 2).toNat < 4096 ∧ ((u.ctxOf u.me.ctx).coreAt (u.me.g 2).toNat).isSome = true
            ∧ 1 ≤ (u.me.g 3).toNat ∧ (u.me.g 3).toNat ≤ 32767
            ∧ ((List.range 4).all fun x => !(3#4).getLsbD x || u.holdsBank x) = false)) := by decide +kernel

/-- An empty token; a token of an op that runs, that waits at its engine, and that is done. -/
theorem witness_BankAndOpWords_ops : (let s := onMe (fun t => t.setToken 15 (some 1)) (named 1 .live base)
    ([2, 3] : List Reg).all s.me.canRead = true ∧ ([4, 5, 6] : List Reg).all s.me.canWrite = true ∧ s.me.outstanding.length < 8
    ∧ (15#4).toNat < s.me.ntok ∧ FMap.get none s.me.tokens 14 = none ∧ FMap.get none s.me.tokens 15 = some 1
    ∧ (let t := withOp 1 { Op.none with state := .pending } s
       (t.opOf 1).live = true ∧ (t.opOf 1).state = .pending ∧ (t.opOf 1).packet = none ∧ (t.nameOp 1 false).1.isSome = true
        ∧ (match (t.opOf 1).kind with | .foreign _ => false | _ => true) = true)
    ∧ (let t := withOp 1 { Op.none with state := .done } s
       (t.opOf 1).live = false)
    ∧ (let t := regs [(2, 5), (3, nameHigh 1)] s
       let t := { t with hub := { t.hub with names := t.hub.names.map fun x => (x.1, { x.2 with op := some 1 }) } }
       standsB t (t.me.pair 2) .live = true ∧ nameClass (t.me.pair 2) = 1 ∧ (t.nameEntry (nameCounter (t.me.pair 2))).op = some 1)) := by
  decide +kernel

/-- A handle of a paused op of this generation, and one of another. -/
theorem witness_BankAndOpWords_paused : (let h : Nat := 0x0007000000000001
    let s := withOp 1 { Op.none with state := .paused, gen := 7 } base
    h % 2 ^ 39 = 1 ∧ h / 2 ^ 39 % 2 ^ 9 = s.hub.chip ∧ (s.opOf 1).state = .paused ∧ (s.opOf 1).reaped = false ∧ (s.opOf 1).ctx = s.me.ctx
    ∧ (s.opOf 1).gen.toNat = h / 2 ^ 48 ∧ (s.opOf 1).gen.toNat ≠ (h + 2 ^ 48) / 2 ^ 48 ∧ (base.opOf 1).state = .free) := by decide +kernel

/-! ## Witnesses: steps of the cores -/

/-- A strand in slot 0 of core 0, with a result on its way. -/
theorem witness_StrandSteps_slot : base.strandAt 0 0 = some base.me
    ∧ { base.me with mskcnt := 1 }.mskcnt = 1
    ∧ (let s := onMe (onItsWay 5 9) base
       s.strandAt 0 0 = some s.me ∧ (s.me.outstanding.find? fun y => y.id == 100).isSome = true ∧ s.me.ktrap = false
        ∧ s.me.outstanding.all (fun y => decide (y.wait = .none)) = true)
    ∧ (let s := onMe (fun t => { t with wait := .line }) base
       leafB (translate s.me.fetchReq s.me.pc.toNat s) (fun l t => (t.wakeIsland l.pa.space).isNone) = true)
    ∧ (let s := onMe (fun t => { t with pc := 0x20000 }) base
       s.me.wait = .none ∧ s.me.reissue = false
        ∧ gives (translate s.me.fetchReq s.me.pc.toNat s) (fun x _ => decide (x = .fail faultNOMAP 0 false)) = true) := by decide +kernel

/-- A `shbind` that waits for a snapshot slot, of which one is free. -/
theorem witness_StrandSteps_snapshot : (let y : Snapshot := { Snapshot.none with live := true, ctx := 1, name := nameHigh 3 ++ 5#64 }
    let r : LongResult := { id := 7, gdests := [(0, 0)], vdests := [], wait := .snapshot true 0 y, name := none }
    let s := onMe (fun t => { t with outstanding := [r] }) (base.setCtx 1 fun c => { c with snapArea := (0x12000, 1) })
    s.strandAt 0 0 = some s.me ∧ s.me.outstanding.find? (fun z => z.id == 7) = some r ∧ y.live = true
    ∧ s.freeSnaps.findSnap s.me.ctx y.name y.version = none ∧ (s.freeSnaps.freeSnapSlot s.me.ctx).isSome = true) := by decide +kernel

theorem witness_StrandSteps_remote :
    (let r : LongResult := { id := 7, gdests := [(0, 0)], vdests := [], wait := .remote (.addr 1 2), name := none }
     let s := onMe (fun t => { t with outstanding := [r] }) base
     s.strandAt 0 0 = some s.me ∧ s.me.outstanding.find? (fun y => y.id == 7) = some r)
    ∧ base.me.outstanding.find? (fun y => y.id == 7) = none ∧ { base.me with wait := .remote }.wait = .remote
    ∧ (3#4).toNat ∈ [0, 1, 2, 3] ∧ { base with pkg := { base.pkg with twine := [(0, { TwinePort.reset with trained := true })] } }.noTwine = false
    ∧ base.noTwine = true := by decide +kernel

/-- The result of a `tsync` of one line of the text. -/
theorem witness_StrandSteps_text : (let r : LongResult := { id := 7, gdests := [(0, 0)], vdests := [], wait := .text 0x10000 0x10040, name := none }
    let s := onMe (fun t => { t with outstanding := [r] }) base
    s.strandAt 0 0 = some s.me ∧ s.me.outstanding.find? (fun y => y.id == r.id) = some r ∧ s.me.ktrap = false
    ∧ (s.partCores s.me.part).contains 0 = true) := by decide +kernel

theorem witness_BudgetsHaltsAndWakes_budget : (let s := onMe (fun t => { t with budget := 0 }) base
    s.strandAt 0 0 = some s.me ∧ s.me.budget = 0 ∧ s.me.urg = false ∧ s.me.halted = false ∧ s.me.budgetTaken = false
    ∧ s.me.hm = false ∧ s.me.wait = .none ∧ s.me.pfx.count = 0 ∧ s.me.reissue = false
    ∧ (let t := s.setCtx 1 fun c => { c with stops := [⟨none, 0x10000⟩] }
       ((t.ctxOf t.me.ctx).stops.any fun y => decide (y.pc = t.me.pc ∧ y.vcore = none)) = true)
    ∧ { s.me with haltReq := true }.haltReq = true ∧ s.me.wait ≠ .draining ∧ s.me.wait ≠ .restoring ∧ s.me.outstanding = [] ∧ s.me.appends = none
    ∧ s.me.continues = false ∧ (onMe (fun t => { t with area := some 0 }) s).me.area = some 0) := by decide +kernel

theorem witness_BudgetsHaltsAndWakes_wakes : (let s := launched id (onMe (fun t => { t with wait := .wwait, pdest := 63, wtmo := 1 }) base)
    s.strandAt 0 0 = some s.me ∧ s.me.wait = .wwait ∧ lastG s.me.pdest s.me.outstanding = none ∧ s.me.wtmo ≠ 0
    ∧ { s.me with wait := .woken 1 }.wait = .woken 1 ∧ { s.me with wait := .barrier 1 0 }.wait = .barrier 1 0 ∧ s.me.launch = some 3
    ∧ FMap.get 0 s.me.arrived 32 ≤ FMap.get 0 (s.launchOf 3).phases (phaseKey 1 (if (1 : Nat) = 0 then s.me.homePly else s.me.homeDie) 0)) := by
  decide +kernel

/-- A normal message for core 0. -/
def message : Message :=
  { dest := 0, urgent := false, pc := 0x10000, regs := [], ctx := 1, part := 1, launch := none, ntok := 16, deadline := 0, slicebud := 0
    high := false, sender := none, packet := none }

/-- A normal and an urgent message on their way to core 0, whose lists have room. -/
theorem witness_ArrivalsAndBinding_messages : (let m := message
    let s := { base with eng := { base.eng with messages := [m, { m with urgent := true }] } }
    s.eng.messages[0]? = some m ∧ m.sender = none ∧ m.urgent = false ∧ { m with urgent := true }.urgent = true
    ∧ (s.all.filter fun t => decide (t.place = .pending m.dest)).length + 1 ≤ 64 ∧ (s.all.all fun t => decide (t.place ≠ .held m.dest)) = true
    ∧ (let t := s.setCore 0 fun c => { c with urgent := [{ m with urgent := true }] }
       (t.coreOf 0).urgent = [{ m with urgent := true }] ∧ t.strandAt 0 8 = none
        ∧ (let u := onMe (fun x => { x with place := .slot 0 8 }) t
           (u.strandAt 0 8).isSome = true ∧ u.strandAt 0 9 = none))) := by decide +kernel

/-- A strand in transit to core 5; and 64 slices in that core's list. -/
theorem witness_ArrivalsAndBinding_hop : (let s := onMe (fun t => { t with place := .transit 5 }) base
    s.travelling[0]? = some s.me ∧ s.me.core = 5 ∧ s.me.place = .transit 5
    ∧ (s.all.filter fun t => decide (t.place = .pending 5)).length + 1 ≤ 64 ∧ (s.all.all fun t => decide (t.place ≠ .held 5)) = true
    ∧ (let t := { s with strands := List.replicate 64 { s.me with place := .pending 5 } }
       ¬ (t.all.filter fun t => decide (t.place = .pending 5)).length + 1 ≤ 64
        ∧ (t.all.filter fun u => match u.place with | .buffered c => corePly c == corePly 5 | _ => false).length < 16)) := by decide +kernel

/-- Slot 1 of core 0 is free, and the slice with the earlier deadline of two waits for it. -/
theorem witness_ArrivalsAndBinding_bind : (let x : Strand := { base.me with place := .pending 0, uid := 8, deadline := 5 }
    let s := { base with strands := [x, { x with uid := 9, deadline := 6 }] }
    s.strandAt 0 1 = none ∧ (s.strandAt 0 0).isSome = true ∧ s.all.contains x = true ∧ s.bindable 0 x = true
    ∧ (s.all.all fun y => !s.bindable 0 y || decide (y = x) || decide (x.deadline.toNat < y.deadline.toNat)) = true
    ∧ x.restore = false ∧ s.restoreBad x = false
    ∧ (let y := { x with restore := true, area := some 0, banks := 0 }
       let t := { s with strands := [y] }
       t.bindable 0 y = true ∧ t.restoreBad y = false ∧ y.area = some 0
        ∧ { t with mem := { t.mem with poison := [(hbmKey 0 / 8, 1)] } }.restoreBad y = true)) := by decide +kernel

/-- Local store is free for a launch that asks for none, whatever is left to programs. -/
theorem fitsRest_zero {s : State} {x : Launch} {core : Nat} (h : x.lrec.lsbytes = 0) :
    s.fitsRest x core = ((x.groups.any (fun g => corePly g.2.core == corePly core)
        || decide (s.barrierSlots (fun c => corePly c == corePly core) (·.nbply) + x.lrec.nbply ≤ 16))
      && (x.groups.any (fun g => !isAway g.2.core && coreDie g.2.core == coreDie core)
        || decide (s.barrierSlots (fun c => !isAway c && coreDie c == coreDie core) (·.nbdie) + x.lrec.nbdie ≤ 32))) := by
  simp [State.fitsRest, h]

/-- A started launch in context 1 whose groups have `n` strands each, with two groups to place on core 0. -/
def placeable (prio n : Nat) : Launch :=
  { Launch.none with
    live := true, started := true, ctx := 1, part := 1, name := nameHigh 6 ++ 5#64, table := [0, 0]
    lrec := { LaunchRec.none with priority := prio, nstr := n, levels := [⟨n, 0, 0⟩, ⟨2, 1, 1⟩], entry := 0x10000 } }

/-- Core 0 is reserved whole by a normal launch, whose one strand runs there; a high-priority launch waits. -/
def crowded : State :=
  let x := { placeable 0 8 with groups := [(0, { Group.none with core := 0, reserved := 8, left := 8 })], nextGroup := 2 }
  { base with
    hub := { base.hub with launches := [(3, x), (4, { placeable 1 1 with order := 1 })] }
    me := { base.me with launch := some 3, counted := true } }

theorem witness_PreemptionAndSaving_command : crowded.nextPlaced = some (4, { placeable 1 1 with order := 1 })
    ∧ crowded.strandAt 0 0 = some crowded.me ∧ (crowded.candidates { placeable 1 1 with order := 1 }) = [0]
    ∧ crowded.fits { placeable 1 1 with order := 1 } 0 = false ∧ crowded.preemptible 0 crowded.me = true
    ∧ (crowded.all.all fun z => !crowded.preemptible 0 z || decide (z.uid = crowded.me.uid)) = true
    ∧ (crowded.all.filter fun u => u.bound && u.core == 0 && decide (u.wait = .draining) && !u.fresh) = []
    ∧ crowded.fitsWithout { placeable 1 1 with order := 1 } 0 [] = false
    ∧ (crowded.all.all fun z => z.forGroup.isNone) = true
    ∧ crowded.me.pendingTrap = none ∧ crowded.me.appends = none ∧ crowded.me.budgetDue = false ∧ crowded.me.continues = false := by decide +kernel

/-- Two strands pre-empted together. -/
theorem witness_PreemptionAndSaving_together :
    (let s := onMe (fun t => { t with wait := .draining, forGroup := some (1, 0) }) base
     let x := { s.me with uid := 9, place := .slot 0 1 }
     let s : State := { s with strands := [x] }
     s.strandAt 0 1 = some x ∧ x.wait = .draining ∧ x.forGroup ≠ none ∧ s.me ∈ s.all ∧ s.me.bound = true ∧ s.me.core = 0 ∧ s.me.slot < 1
      ∧ s.me.wait = .draining ∧ s.me.forGroup = x.forGroup) := by decide +kernel

theorem witness_PreemptionAndSaving_room :
    crowded.fitsWithout { placeable 1 1 with order := 1 } 0 (crowded.all.filter (crowded.preemptible 0)) = true := by
  rw [State.fitsWithout, fitsRest_zero rfl]; decide +kernel

theorem witness_PreemptionAndSaving_save : (let s := onMe (fun t => { t with wait := .draining }) (base.setCtx 1 fun c => { c with savePool := (0, 2) })
    s.strandAt 0 0 = some s.me ∧ s.me.wait = .draining ∧ s.me.outstanding = [] ∧ s.me.ktrap = false ∧ s.me.area = none ∧ s.me.forGroup = none
    ∧ ((List.range 4).all fun b => match (s.bankOf 0 b).cond with | .held _ _ => false | _ => true) = true
    ∧ 1 < (s.ctxOf s.me.ctx).savePool.2 ∧ 0 ∉ (s.ctxOf s.me.ctx).areas
    ∧ (let t := onMe (fun t => { t with wait := .restoring, area := some 1 }) s
       t.strandAt 0 0 = some t.me ∧ t.me.wait = .restoring ∧ t.me.area = some 1 ∧ t.mem.poison = [])) := by decide +kernel

/-! ## Witnesses: launches, queues and engines -/

/-- A shoot-down that waits for core 2559, and one that waits for none. -/
theorem witness_LaunchesPlacedAndEnded_shootdown : (let s := named 4 .dying base
    let s : State := { s with hub := { s.hub with names := s.hub.names.map fun x => (x.1, { x.2 with acks := [2559] }) } }
    2559 ∈ (s.nameEntry 5).acks ∧ (s.all.all fun t => t.outstanding.isEmpty) = true
    ∧ (let t := named 4 .dying base
       (t.nameEntry 5).state = .dying ∧ (t.nameEntry 5).acks = [] ∧ (t.nameEntry 5).sdone = false)) := by decide +kernel

/-- Slot 0 of the slot table is taken, slot 1 is free, and core 0 fits the first group. Whether a chip of the reach has the context's
vcores and room for the group is free, so that no state shows a group that goes there. -/
theorem witness_LaunchesPlacedAndEnded_placement :
    (let s : State := { base with hub := { base.hub with
       launches := [(3, placeable 0 1)], binds := [(0, { BindRec.none with valid := true, lslot := 7 })] } }
     s.nextPlaced = some (3, s.launchOf 3) ∧ (0, { BindRec.none with valid := true, lslot := 7 }) ∈ s.hub.binds
      ∧ (s.hub.binds.all fun b => b.1 != 1) = true)
    ∧ (let s : State := { base with hub := { base.hub with launches := [(3, placeable 0 1)] } }
       (s.candidates (placeable 0 1)).find? (s.fits (placeable 0 1)) = some 0)
    ∧ (let s : State := { onMe (fun t => { t with forGroup := some (0, 0) }) base with hub := { base.hub with launches := [(3, placeable 0 1)] } }
       (s.candidates (placeable 0 1)).find? (s.fits (placeable 0 1)) = some 0) := by
  simp only [State.fits, fitsRest_zero (show (placeable 0 1).lrec.lsbytes = 0 from rfl)]
  decide +kernel

/-- A strand was pre-empted for the first group, and its core's list has room for that. -/
theorem witness_LaunchesPlacedAndEnded_takes :
    (let s : State := { onMe (fun t => { t with forGroup := some (0, 0) }) base with hub := { base.hub with launches := [(3, placeable 0 1)] } }
     s.nextPlaced = some (3, placeable 0 1) ∧ (s.all.any fun z => decide (z.core = 0 ∧ z.forGroup = some ((placeable 0 1).order, (placeable 0 1).nextGroup))) = true
      ∧ s.hub.binds = [] ∧ (s.all.filter fun t => decide (t.place = .pending 0)).length + (placeable 0 1).lrec.nstr ≤ 64
      ∧ (s.all.all fun t => decide (t.place ≠ .held 0)) = true) := by decide +kernel

theorem witness_LaunchesPlacedAndEnded_dispatch : (let b : BindRec := { BindRec.none with valid := true, lslot := 3, core := 0, nstr := 8, tbase := 8 }
    let s : State := { base with hub := { base.hub with launches := [(3, placeable 0 8)], binds := [(4095, b)] } }
    (FMap.get BindRec.none s.hub.binds 4095).valid = true
    ∧ (s.all.filter fun t => decide (t.place = .pending b.core)).length + b.nstr ≤ 64
    ∧ (s.all.all fun t => decide (t.place ≠ .held b.core)) = true) := by decide +kernel

/-- A launch whose strands have triggered, with a trigger word; and one that has ended, with a completion word. -/
theorem witness_LaunchesPlacedAndEnded_end :
    (let x := { placeable 0 1 with nextGroup := 2, lrec := { (placeable 0 1).lrec with trigaddr := 0x12FF8, compaddr := 0x12000 } }
     let s : State := { base with hub := { base.hub with launches := [(3, x)] } }
     (s.launchOf 3).live = true ∧ (s.ctxOf (s.launchOf 3).ctx).killing = false ∧ (s.launchOf 3).untriggered = 0
      ∧ (s.launchOf 3).triggerStored = false ∧ x.lrec.trigaddr ≠ 0 ∧ x.lrec.trigaddr.toNat % 64 ≤ 56
      ∧ ((s.setLaunch 3 fun x => { x with triggerStored := true }).vtranslate x.ctx x.lrec.trigaddr.toNat true).isSome = true
      ∧ (s.launchOf 3).started = true ∧ (s.launchOf 3).nextGroup = (s.launchOf 3).lrec.groupCount ∧ (s.launchOf 3).strands = 0
      ∧ s.hub.binds = [] ∧ s.eng.ops = []
      ∧ (let t := s.setLaunch 3 fun x => { x with triggerStored := true }
         (t.launchOf 3).lrec.acctaddr = 0 ∧ (t.launchOf 3).lrec.compaddr ≠ 0 ∧ (t.queueOf 0).packets = []
          ∧ ((t.dropLaunchRefs 3).vtranslate 1 0x12000 true).isSome = true)) := by decide +kernel

theorem witness_QueueStates :
    (let s := queued (fun k => { k with state := .idle, wakes := [1, 2] }) base
     (s.queueOf 5).state = .idle ∧ (s.queueOf 5).wakes.contains 2 = true ∧ (s.queueOf 5).packets = []
      ∧ (s.hub.queues.filter fun x => decide (x.2.state = .mapped ∨ x.2.state = .error)).length < 1024)
    ∧ (let s := queued (fun k => { k with state := .error, wakes := [1, 2] }) base
       (s.queueOf 5).state = .error ∧ (1#64).getLsbD 0 = true ∧ (2#64).getLsbD 0 = false)
    ∧ (let s := queued (fun k => { k with state := .paged, wakes := [1], wakePending := true }) base
       (s.queueOf 5).state = .paged ∧ (s.queueOf 5).wakes.contains 1 = true ∧ (s.queueOf 5).wakePending = true)
    ∧ (let s := queued (fun k => { k with state := .closed, wakes := [1] }) base
       (s.queueOf 5).state = .closed ∧ (s.queueOf 5).wakes.contains 1 = true ∧ (s.queueOf 5).wakes.contains 2 = false
        ∧ ((s.queueOf 5).desc.toNat + 0x38) % 64 ≤ 56 ∧ (s.queueOf 5).desc.toNat + 0x38 < 2 ^ 64
        ∧ (s.vtranslate 1 ((s.queueOf 5).desc.toNat + 0x38) true).isSome = true)
    ∧ (let s := queued (fun k => { k with teardown := true }) base
       (s.queueOf 5).state = .mapped ∧ (s.queueOf 5).teardown = true ∧ s.recordWaits 5 = false)
    ∧ (queued id base).hub.queues.any (fun x => x.2.opened 1) = true ∧ base.hub.queues.all (fun x => !x.2.opened 1) = true ∧ base.eng.ops = []
    ∧ (queued id base).queueOf 5 = { (queued id base).queueOf 5 with teardown := false } := by decide +kernel

/-- 1,024 queues in use. -/
theorem witness_QueueStates_full : ¬ (((List.range 1024).map fun k => (k, { Queue.none with state := .mapped })).filter
    fun x => decide (x.2.state = .mapped ∨ x.2.state = .error)).length < 1024 := by decide +kernel

/-- A ready packet of a type, ring index 0. -/
def ready (type : Byte) (rest : List Byte) : Packet :=
  { index := 0, sub := 0, parent := 0, bytes := [type] ++ rest ++ List.replicate (63 - rest.length) 0, state := .ready, tseen := 0, targets := []
    launch := none, op := none, name := none, acks := [] }

theorem witness_QueuePackets_consume : (let s := queued id (bytes 2 0x100 [5] base)
    let k := s.queueOf 5
    k.state = .mapped ∧ k.teardown = false ∧ k.skein = none ∧ k.awaiting = [] ∧ s.queueField 5 0x28 8 = 0
    ∧ (match s.vread k.ctx (k.ring.toNat + 64 * (0 % 2 ^ k.lgslots)) 64 with
       | some (b, _) => decide (ofLE (b.take 1) ≠ 0 ∧ ofLE (b.take 1) ≠ 6) | none => false) = true
    ∧ (ready 11 []).type = 11 ∧ (ready 0 []).type = 0
    ∧ (let t := queued (fun k => { k with awaiting := [ready 11 []], pageWait := some 0x12000 }) base
       (t.queueOf 5).pageWait = some 0x12000 ∧ t.vfault 1 0x12000 false ≠ faultNOTRES ∧ t.recordWaits 5 = false)) := by decide +kernel

/-- A copied NOP whose header and index are as the spec says, and a skein of one packet that passes every check. -/
theorem witness_QueuePackets_accept : (let p := { ready 10 [0, 1, 0, 0, 0, 0, 0] with state := .copied }
    let s := queued (fun k => { k with awaiting := [p] }) base
    let k := s.queueOf 5
    k.skein = none ∧ k.awaiting = [p] ∧ p.header = 0x1000A + 2 ^ 48 * (p.index % 2 ^ 16) ∧ k.state = .mapped ∧ k.teardown = false
    ∧ k.packets = [] ∧ k.pageWait = none
    ∧ (let t := queued (fun k => { k with awaiting := [p], pageWait := some 0x12000 }) base
       (t.queueOf 5).pageWait = some 0x12000 ∧ t.vfault 1 0x12000 false ≠ faultNOTRES)
    ∧ k.framed = some ([p], none, 0, 0)
    ∧ (match validateAll 5 [p] none 0 s.freeSnaps with | .ok ps _ => decide (ps.length = 1) | .error _ _ => false) = true) := by decide +kernel

/-- `canStart` as a Boolean. -/
def startsB (s : State) (p : Packet) : Bool :=
  decide ((s.queueOf 5).at? p.place = some p) && (s.queueOf 5).mayStart p

theorem witness_QueuePackets_start :
    ([({ ready 2 [] with targets := [(7, 0)] } : Packet), ready 3 [], ready 5 (List.replicate 7 0 ++ toLE 8 0x12FF8), ready 9 []].all fun p =>
      startsB (queued (fun k => { k with packets := [p] }) base) p) = true
    ∧ (ready 2 []).type = 2 ∧ (ready 3 []).type = 3 ∧ (ready 3 []).field 0x30 8 = 0
    ∧ (let p := ready 5 (List.replicate 7 0 ++ toLE 8 0x12FF8)
       p.type = 5 ∧ p.field 8 8 % 64 ≤ 56 ∧ p.field 0x18 1 = 0 ∧ (base.vtranslate 1 (p.field 8 8) true).isSome = true)
    ∧ (let p := ready 5 (List.replicate 7 0 ++ toLE 8 0x12FF8 ++ toLE 8 1 ++ [1])
       startsB (queued (fun k => { k with packets := [p] }) base) p = true ∧ p.field 8 8 % 64 ≤ 56 ∧ p.field 0x18 1 ≠ 0
        ∧ (base.vtranslate 1 (p.field 8 8) true).isSome = true ∧ (base.vtranslate 1 (p.field 8 8) false).isSome = true)
    ∧ (ready 9 []).type = 9 := by decide +kernel

/-- A barrier on one dead name, on one queue index, and on a word. -/
theorem witness_QueuePackets_barrier :
    (let s := queued (fun k => { k with packets := [{ ready 4 [] with state := .started }] }) (named 4 .free base)
     let name : Name := nameHigh 4 ++ 3#64
     (let p := ready 4 (List.replicate 7 0 ++ [0, 1] ++ List.replicate 6 0 ++ toLE 8 3 ++ toLE 8 (nameHigh 4).toNat)
      p.field 8 1 = 0 ∧ p.field 9 1 = 1 ∧ BitVec.ofNat 128 (p.field 0x10 16) = name ∧ s.resolve 1 name = .status 2)
      ∧ (let p := { ready 4 (List.replicate 7 0 ++ [1, 1]) with targets := [(5, 0)] }
         p.field 8 1 = 1 ∧ p.targets.length = p.field 9 1 ∧ (p.targets.all fun x => decide (x.2.toNat ≤ s.queueField x.1 0x30 8)) = true)
      ∧ (let p := ready 4 (List.replicate 7 0 ++ [2] ++ List.replicate 7 0 ++ toLE 8 0x12FF8 ++ toLE 8 0 ++ [1])
         p.field 8 1 = 2 ∧ (s.vreadNat 1 (p.field 0x10 8) 8).isSome = true ∧ p.field 0x20 1 = 1 ∧ p.field 0x18 8 = 0)
      ∧ (s.queueOf 5).at? 0 = some { ready 4 [] with state := .started }) := by decide +kernel

/-- An admitted copy, one whose `after` op is done, and matrix ops on a bank without another. -/
theorem witness_OpStates_admit :
    (let o : Op := { Op.none with state := .pending, kind := .cpy, engine := .reel 0, after := some 2 }
     let s := withOp 2 { Op.none with state := .done } (withOp 1 o base)
     (s.opOf 1).state = .pending ∧ (s.opOf 2).state = .done ∧ (s.opOf 1).compaddr = 0
      ∧ (s.eng.ops.filter fun x => x.2.onReel 0).length < 64
      ∧ (s.eng.ops.all fun x => !(decide (x.2.issue < (s.opOf 1).issue))) = true)
    ∧ (let o : Op := { Op.none with state := .pending, kind := .mld 3 0 0, engine := .matrix 5, accepted := true }
       let s := withOp 1 o base
       (s.opOf 1).engine = .matrix 5 ∧ (s.opOf 1).accepted = true)
    ∧ (let s := withOp 2 { Op.none with state := .cancelled } (withOp 1 { Op.none with state := .pending, after := some 2 } base)
       (s.opOf 1).after = some 2 ∧ (s.opOf 2).state = .cancelled) := by decide +kernel

theorem witness_OpStates_start :
    (let s := withOp 1 { Op.none with state := .queued, kind := .cpy, engine := .reel 0, desc := copyDesc 3 } base
     (s.opOf 1).state = .queued ∧ (s.opOf 1).haltReq = false ∧ s.reelHead 0 = some 1 ∧ s.unitReady 1 = true)
    ∧ (let s := withOp 1 { Op.none with state := .queued, kind := .mld 3 0 0, engine := .matrix 5, accepted := true } base
       (s.opOf 1).suspended = false ∧ ((s.bankOps 5 (s.opOf 1).bank).all fun x => decide ((s.opOf 1).reach ≤ x.2.reach)) = true)
    ∧ (let s := withOp 1 { Op.none with state := .running, cancelReq := true, kind := .mld 3 0 0, engine := .matrix 5 } base
       (s.opOf 1).cancelReq = true ∧ (s.opOf 1).under = false ∧ s.lastUnitDone 1 = false ∧ (s.opOf 1).parked = [])
    ∧ (let s := withOp 1 { Op.none with state := .running, cancelReq := true, kind := .cpy, engine := .reel 0, desc := copyDesc 3 } base
       (s.opOf 1).flight = [] ∧ ((s.opOf 1).unitAt (s.opOf 1).issuedUnits).isSome = true ∧ s.lastUnitDone 1 = false)
    ∧ (let d : List Byte := List.replicate 16 0 ++ [0, 1, 0, 0, 0, 0, 0, 0] ++ toLE 8 1 ++ toLE 8 0x11100 ++ toLE 8 0x11200 ++ List.replicate 16 0
       let o : Op := { Op.none with state := .running, kind := .coll, engine := .twister 0, desc := d, team := some (9, 0) }
       let c : Collective := { Collective.none with members := [(0, 1)], met := true }
       let s := withOp 1 o base
       let s : State := { s with eng := { s.eng with teams := [(9, some [0, 1])], colls := [(collKey 9 0, c)] } }
       (s.opOf 1).team = some (9, 0) ∧ s.roundReady 9 0 = true) := by decide +kernel

/-- A command whose capability is of another holder. -/
theorem witness_OpStates_remote : (let s := withOp 1 { Op.none with
      state := .pending, kind := .mma false, engine := .matrix 5, desc := List.replicate 32 1 } base
    (s.opOf 1).live = true ∧ (s.opOf 1).accepted = false ∧ (s.opOf 1).arrived = false ∧ (s.bankOps 5 (s.opOf 1).bank).length < 2
    ∧ s.capOk (s.opOf 1) 5 = false
    ∧ (let t := s.setOp 1 fun o => { o with arrived := true }
       (t.opOf 1).arrived = true ∧ (t.opOf 1).parked = [] ∧ t.capOk (t.opOf 1) 5 = false
        ∧ (t.eng.ops.all fun x => decide ((t.opOf 1).reach ≤ x.2.reach)) = true)
    ∧ (let o := s.opOf 1
       let t := withOp 2 { o with issue := 1 } s
       (t.eng.ops.any fun x => decide (x.2.strand = (t.opOf 2).strand ∧ x.2.packet = none ∧ (t.opOf 2).packet = none ∧ x.2.engine = (t.opOf 2).engine
          ∧ x.2.issue < (t.opOf 2).issue ∧ x.2.arrived = false ∧ x.2.accepted = false ∧ x.2.bank = (t.opOf 2).bank) && x.2.live) = true
        ∧ (s.eng.ops.all fun x => decide ((s.opOf 1).issue ≤ x.2.issue)) = true)) := by
  decide +kernel

/-- The one unit of 64 bytes of a copy is read, and written at its destination. -/
theorem witness_CopyUnits_units :
    (let s := withOp 1 { Op.none with state := .queued, kind := .cpy, engine := .reel 0, desc := copyDesc 3 } base
     s.reelHead 0 = some 1 ∧ (match (s.opOf 1).unitAt 0 with
      | some u => decide (u.src % 64 = 0 ∧ u.len = 64) && gives (opPieces 1 .load (fun _ => true)
          (((List.range 1).map (64 * 0 + ·)).zip (splitUnits (fun _ _ => .readBlock) 3 u.src 0 u.len))
          (s.setOp 1 fun o => { o with state := .running })) fun x t => decide (x.isSome = true ∧ (t.opOf 1).flight = [])
      | none => false) = true)
    ∧ (let f : Flight := { unit := 0, data := List.replicate 64 7, desc := some Mem.desc0, recv := 0, written := false, stopped := false }
       let s := withOp 1 { Op.none with state := .running, kind := .cpy, engine := .reel 0, desc := copyDesc 3, flight := [f], issuedUnits := 1 } base
       (s.opOf 1).pendingStop = none ∧ (s.opOf 1).parked = [] ∧ (s.opOf 1).applied = [] ∧ s.unitBlocked (s.opOf 1) f = false
        ∧ (match (s.opOf 1).unitAt 0 with
          | some u => gives (opPiece 1 f.key .store (fun sp => (s.opOf 1).reduceCode == 0 || sp.described) ((s.opOf 1).unitPiece f u) s) fun x t =>
              decide (x.isSome = true ∧ t.opOf 1 = { s.opOf 1 with unitLog := (t.opOf 1).unitLog })
          | none => false) = true) := by decide +kernel

/-- The last unit is acknowledged; and a completion word is written. -/
theorem witness_CopyUnits_end :
    (let f : Flight := { unit := 0, data := [], desc := none, recv := 0, written := true, stopped := false }
     let s := withOp 1 { Op.none with state := .running, kind := .cpy, engine := .reel 0, desc := copyDesc 3, flight := [f], issuedUnits := 1 } base
     f ∈ (s.opOf 1).flight ∧ 16 * f.unit + f.recv = 0 ∧ ((s.opOf 1).unitAt 1).isNone = true ∧ (s.opOf 1).compaddr = 0)
    ∧ (let d := (copyDesc 3).take 0x30 ++ toLE 8 0x113FC ++ toLE 8 9
       let s := withOp 1 { Op.none with state := .running, kind := .cpy, engine := .reel 0, desc := d, issuedUnits := 1 } base
       let o := s.opOf 1
       (o.unitAt o.issuedUnits).isNone = true ∧ o.haltReq = false ∧ o.compaddr ≠ 0 ∧ o.compaddr % 64 ≤ 60 ∧ o.flight = [] ∧ o.parked = []
        ∧ o.packet = none ∧ o.unitLog = [] ∧ bitsOf o.land 8 1 = 0
        ∧ leafB (translate { ctx := o.ctx, sysm := o.sysm, kind := .engine, rd := false, wr := true, via := o.engine.via } o.compaddr s) (fun l t =>
            let u := opUnit 1 o 3 .store o.completionPiece l.pa
            (t.wakeIsland l.pa.space).isNone && (uncorrOf t u).isNone && decide (lookupUnit t.mem u = .pass [])) = true) := by decide +kernel

/-- A running matrix op of core 0 of a kind, with its descriptor. -/
def running (k : OpKind) (d : List Byte) (s : State) : State :=
  withOp 1 { Op.none with state := .running, kind := k, engine := .matrix 0, accepted := true, desc := d } s

/-- Whether a running op's operands are read as the statement says, up to the op's answers. -/
def operandsB (s : State) : Bool :=
  let o := s.opOf 1
  decide (o.state = .running ∧ o.haltReq = false ∧ o.suspended = false ∧ o.cancelReq = false ∧ o.parked = [] ∧ o.pendingStop = none
    ∧ o.engine = .matrix 0 ∧ o.flight = [] ∧ s.eng.badAcc = [] ∧ s.unitServes 1 0 = true)
  && gives (readOperands 1 0 o.units ({ s with free := s.free + 1 }.setOp 1 fun o => { o with under := true })) fun x t =>
      x && decide (t.eng.badAcc = [] ∧ t.eng.acc = s.eng.acc
        ∧ t.opOf 1 = { o with under := true, unitLog := (t.opOf 1).unitLog, fmts := (t.opOf 1).fmts })

/-- Two dense tiles of 64 rows of a 64-byte block each, and one output of one vector, its weights in HBM. The op has read their blocks
before it paused; which requests a read would serve besides is free (R303). -/
theorem witness_MatrixSteps_blocks :
    operandsB ((running (.mma true) (toLE 8 0x11000 ++ toLE 8 0x11000 ++ toLE 8 0 ++ toLE 8 0) base).setOp 1 fun o =>
      { o with fmts := List.replicate 128 7, unitLog := (List.range 128).map fun r => (rowKey r 0, { bytes := [], desc := 7, flags := 0 }) }) = true
    ∧ operandsB ((running (.mmv false) (toLE 8 0x12000 ++ toLE 8 0x11000 ++ toLE 8 0 ++ toLE 8 0) base).setOp 1 fun o =>
      { o with fmts := [7, 7], unitLog := [0, 1].map fun r => (rowKey r 0, { bytes := [], desc := 7, flags := 0 }) }) = true := by
  decide +kernel

/-- The last block of a row of a bank, loaded and stored after the others; and a bank that is released. -/
theorem witness_MatrixSteps_units :
    (let done (k : Nat) : List (Nat × UnitRes) := (List.range k).map fun i => (i, { bytes := [], desc := 0, flags := 0 })
     let goes (s : State) (k : Nat) (acc : Acc) (act : UnitAct) : Bool :=
       s.unitServes 1 0 && gives (opPiece 1 k acc (fun _ => true) { va := 0x11F00 + 64 * k, offs := List.range 64, act := act }
          (s.setOp 1 fun o => { o with under := true })) fun x t => match x with
        | some r => decide (t.opOf 1 = { s.opOf 1 with under := true, unitLog := done k ++ [(k, r)] } ∧ t.eng.acc = s.eng.acc)
        | none => false
     goes ((running (.mld 3 0x11000 0x40) [] base).setOp 1 fun o => { o with units := 60, unitLog := done 3 }) 3 .load .read = true
      ∧ (let s := (running (.mst 3 0x11000 0x40 7) [] base).setOp 1 fun o => { o with units := 60 }
         match fmtOfCode 7 with
         | none => false
         | some fmt =>
           let q := (quantize 7 fmt (controlOf 0) (64 / perBlock 7) ((List.range 64).map fun c => laneVal (s.eng.elem 0 3 60 c)) 0).1
           match q[q.length - 1]? with
           | none => false
           | some x => goes (s.setOp 1 fun o => { o with unitLog := done (q.length - 1) }) (q.length - 1) .store (.writeBlock x.1 x.2)) = true)
    ∧ (let s := base.setBank 0 3 fun k => { k with cond := .releasing }
       (s.bankOf 0 (3#2).toNat).cond = .releasing ∧ s.bankOps 0 3 = []) := by decide +kernel

/-- A team of vcores 0 and 1 of this chip, whose members' all-reduces of one FP32 element wait, and whose first round is due. -/
theorem witness_Collectives :
    (let d : List Byte := List.replicate 16 0 ++ [0, 1, 0, 0, 0, 0, 0, 0] ++ toLE 8 1 ++ toLE 8 0x11100 ++ toLE 8 0x11200 ++ List.replicate 16 0
     let o : Op := { Op.none with state := .queued, kind := .coll, engine := .twister 0, desc := d }
     let c : Collective := { Collective.none with members := [(0, 1), (1, 2)] }
     let s := withOp 2 { o with strand := 1 } (withOp 1 o base)
     let s : State := { s with eng := { s.eng with teams := [(9, some [0, 1])], colls := [(collKey 9 0, c)] } }
     FMap.get none s.eng.teams 9 = some [0, 1] ∧ ([0, 1] : List Nat).Nodup ∧ ([0, 1].all fun v => v / 4096 == s.hub.chip) = true
      ∧ s.collOf 9 0 = c ∧ (c.members.map (·.2)).Nodup ∧ c.met = false
      ∧ ([1, 2].all fun n => decide ((s.opOf n).state = .queued ∧ (s.opOf n).haltReq = false) && s.startable n) = true
      ∧ (s.opOf 1).cOp = (s.opOf 2).cOp ∧ (s.opOf 1).cCode = (s.opOf 2).cCode ∧ (s.opOf 1).cCount = (s.opOf 2).cCount
      ∧ (s.opOf 1).cRoot = (s.opOf 2).cRoot
      ∧ (let c := { c with met := true, vals := [(0, [0, 0, 0, 0]), (1, [0, 0, 0, 1])] }
         c.final = false ∧ c.vals ≠ [] ∧ ([0, 1] : List Nat).length = 2 ^ 1 ∧ c.round < 1 ∧ (s.opOf 1).cOp = 0
          ∧ (s.opOf 1).cCount * (s.opOf 1).cWidth ≤ 256
          ∧ { s with eng := { s.eng with colls := [(collKey 9 0, c)] } }.twisterServes 9 0 = true)) := by decide +kernel

/-! ## Witnesses: commands, power, debugging and ports -/

/-- Context 1 of partition 1, whose memory is HBM below 1 GiB, takes commands of ring 1. -/
theorem witness_ContextCommands : base.ringReady 1 = true ∧ (base.ctxOf 1).live = true ∧ (base.ctxOf 1).part = 1 ∧ base.ringReady 16 = true
    ∧ base.inHbm (some 1) (4096 * 0x3FFFF) 4096 = true ∧ base.inHbm (some 1) (4096 * 0x40000) 4096 = false
    ∧ base.inHbm (some 1) 0 (73728 * 2) = true ∧ (base.ctxOf 1).areas = [] ∧ base.mem.parked = [] ∧ base.usedLeaves = []
    ∧ ((onMe (fun t => { t with replay := { t.replay with leaves := [(0x11FC0, { pa := { space := .ls 0, off := 0 }, entry := 0, level := 0 })] } }) base).usedLeaves.any
        fun u => decide (u.1 = 1 ∧ 0x12000 ≤ u.2.1 + 63 ∧ u.2.1 < 0x13000)) = false
    ∧ ((onMe (fun t => { t with replay := { t.replay with leaves := [(0x12FFF, { pa := { space := .hbm, off := 0 }, entry := 0, level := 0 })] } }) base).usedLeaves.any
        fun u => decide (u.1 = 1 ∧ 0x12000 ≤ u.2.1 + 63 ∧ u.2.1 < 0x13000)) = true
    ∧ (match (base.running 1).placeOf 1 0x11000 with | some pa => decide (pa.space = .ls 0) | none => false) = true
    ∧ base.hub.chip ≤ 383
    ∧ (match (base.running 1).readVcores 1 0x12000 1 with
       | some vs => decide ((vs.filterMap ((base.running 1).namedCore 1)).length = vs.length) | none => false) = true
    ∧ (base.running 1).pinnedHbm 1 0x12000 4096 = true ∧ (base.running 1).pinnedHbm 1 0x11000 4096 = false
    ∧ (base.running 1).freeSnaps.hub.snaps = [] := by decide +kernel

/-- A handler image of one entry at 0x10040: its header, its text of 64 bytes. -/
theorem witness_ContextCommands_image :
    (let s := (bytes 2 0 (toLE 4 0x49484E44 ++ toLE 2 1 ++ toLE 2 1 ++ toLE 4 64 ++ List.replicate 52 0 ++ toLE 4 60) base).running 1
     match s.vread 1 0x12000 64 with
     | some (h, _) => decide (bytesAt h 6 2 = 1) && (match s.vread 1 0x12000 68 with
       | some (img, u) => decide (bytesAt img 0 4 = 0x49484E44 ∧ bytesAt img 4 2 = 1 ∧ bytesAt img 6 2 = 1 ∧ bytesAt img 8 4 = 64
           ∧ bytesAt img 64 4 = 60) && ((img.drop 12).take 52).all (fun x => decide (x = 0)) && u.pinnedFor .fetch 1 0x12080 64
       | none => false)
     | none => false) = true := by decide +kernel

/-- A named queue of this partition; a descriptor of a queue to attach; and one already attached. -/
theorem witness_QueueAndStateCommands_queues :
    (let s := queued (fun k => { k with name := nameHigh 2 ++ 5#64 }) (named 2 .live base)
     s.queueNamed (nameHigh 2 ++ 5#64) = some 5 ∧ (s.queueOf 5).part = 1 ∧ s.queueNamed 7 = none ∧ (s.queueOf 5).state = .mapped)
    ∧ (let s := bytes 2 0 (toLE 8 5 ++ toLE 8 (nameHigh 2).toNat ++ toLE 8 0x13000 ++ [4, 0, 0, 0, 0, 0, 0, 0] ++ List.replicate 96 0)
        (page 3 (0x18FF + 23 * 65536) (named 2 .live base))
       match (s.running 1).vread 1 0x12000 128 with
       | some (b, s1) => decide (bytesAt b 0x10 8 % 4096 = 0 ∧ bytesAt b 0x18 1 = 4 ∧ bytesAt b 0x40 8 % 64 = 0 ∧ bytesAt b 0x1A 6 = 0)
          && decide ((s1.hub.queues.filter fun x => x.2.part == 1 && decide (x.2.state ≠ .none ∧ x.2.state ≠ .closed)).length
              < ((s1.setPart 1 fun q => { q with queueQuota := 1 }).partOf 1).queueQuota)
          && (b.drop 0x48).all (fun x => decide (x = 0)) && s1.rangeInHbm 1 0x12000 128 && s1.rangeInHbm 1 0x13000 1024
          && decide (s1.resolve 1 (BitVec.ofNat 128 (bytesAt b 0 16)) = .found 0 5 ∧ (s1.nameEntry 5).addr = 0x12000
            ∧ nameClass (BitVec.ofNat 128 (bytesAt b 0 16)) = classQUEUE ∧ (s.queueOf 5).state = .none ∧ (s.queueOf 5).packets = [])
       | none => false) = true := by decide +kernel

/-- Readback of 8 tags of class 6, and no object of class 255. -/
theorem witness_QueueAndStateCommands_state :
    base.inHbm (some 1) (22 * 4096) 8 = true ∧ base.inHbm (some 1) 0x40000000 8 = false ∧ base.mem.parked = []
    ∧ (match (base.running 1).objectForm (some 1) 1 6 0x11000 0 8 with | .ok b => decide (b.length = 8) | .error _ => false) = true
    ∧ ((base.running 1).placeOf 1 0x11000).isSome = true
    ∧ (match (base.running 1).objectForm (some 1) 1 255 0 0 8 with | .ok _ => false | .error _ => true) = true := by decide +kernel

/-- The error counters of every memory (class 10). -/
theorem witness_QueueAndStateCommands_errors : ∃ b, (base.running 16).objectForm none 1 10 0 0 8 = .ok b ∧ 8 ≤ b.length := by
  have h : 8 ≤ ([Space.hbm].map (base.running 16).mem.errorBytes).flatten.length := by decide +kernel
  refine ⟨_, rfl, ?_⟩
  rw [allMemories, List.map_append, List.flatten_append, List.length_append]
  exact h.trans (Nat.le_add_left ..)

/-- The error counters of one local store, all of them within 8 bytes; and a buffer of zeros. -/
theorem witness_QueueAndStateCommands_counters : (let s := base.running 1
    (match s.objectForm (some 1) 1 10 0x11000 0 16 with | .ok b => decide (16 ≤ b.length) | .error _ => false) = true
    ∧ (match s.placeOf 1 0x11000 with | some pa => decide (pa.space = .ls 0) | none => false) = true ∧ base.mem.errors = []
    ∧ ((List.range 16).all fun i => decide (FMap.get Mem.byte0 base.mem.bytes (hbmKey (22 * 4096) + i) = 0)) = true
    ∧ base.inHbm (some 1) (22 * 4096) 16 = true) := by decide +kernel

theorem witness_SettleCommands :
    (let s := onMe (fun t => { t with ktrap := true, wait := .kernel }) base
     s.namedCore 1 0 = some 0 ∧ s.strandAt 0 0 = some s.me ∧ s.me.ctx = 1 ∧ s.me.pfx.count = 0 ∧ s.me.ktrap = true ∧ s.me.area = none
      ∧ s.me.wait = .kernel
      ∧ (let t := onMe (fun t => { t with area := some 0 }) s
         t.me.area = some 0 ∧ t.mem.poison = [] ∧ t.me.urg = false
          ∧ { t.me with urg := true }.urg = true))
    ∧ (let s := onMe (fun t => { t with wait := .fetch, pc := 0x20000 }) base
       s.me.ktrap = false ∧ s.me.wait = .fetch ∧ s.me.pfx.count = 0
        ∧ gives (translate s.me.fetchReq s.me.pc.toNat (s.running 1)) (fun x _ => decide (x = .fail faultNOMAP 0 false)) = true) := by decide +kernel

/-- A slice whose restore met an error: slot 1 is empty. -/
theorem witness_SettleCommands_restore : (let z := { base.me with place := .pending 0, uid := 9, restore := true, area := some 0, restErr := true, kslot := 1 }
    let s := { base with strands := [z] }
    s.namedCore 1 0 = some 0 ∧ s.strandAt 0 1 = none ∧ z.ktrap = false ∧ z.urg = false
    ∧ s.all.find? (fun t => t.isLive && !t.bound && t.ctx == 1 && t.core == 0 && (t.ktrap || t.restErr) && t.kslot == 1) = some z) := by
  decide +kernel

theorem witness_OpsAndKills :
    (let s := withOp 1 { Op.none with state := .paused, gen := 7 } base
     s.handleAway 1 0x0007000000000001 = false ∧ (s.opOf 1).parked = []
      ∧ (s.setPart 1 fun q => { q with reach := [383] }).handleAway 1 (BitVec.ofNat 64 (383 * 2 ^ 39)) = true
      ∧ s.opOfHandle 0x0007000000000001 = some 1 ∧ (s.opOf 1).ctx = 1 ∧ (s.opOf 1).state = .paused
      ∧ (s.opOf 1).gen.toNat = (0x0007000000000001#64).toNat / 281474976710656
      ∧ s.opOfHandle 2 = none ∧ (s.opOf 1).gen.toNat ≠ (0x0006000000000001#64).toNat / 281474976710656)
    ∧ (base.ctxOf 1).killing = false
    ∧ (let s := base.setCtx 1 fun c => { c with killing := true, killRing := some 1 }
       (s.ctxOf 1).killing = true ∧ (s.ctxOf 1).killRing = some 1 ∧ s.eng.ops = []) := by decide +kernel

/-- Partition 2 does not stand and its islands are free; partition 1 is busy, and then idle without contexts. -/
theorem witness_PartitionLife : FMap.wf Machine.Part.none base.hub.parts = true ∧ base.ringReady 1 = true ∧ base.ringReady 16 = true
    ∧ base.partBusy 1 = true ∧ base.partBusy 2 = false ∧ (base.partOf 2).scrubbing = false
    ∧ base.resourceTaken 2 0xFFFFFFFE 0x8000 [(895, 1), (1, 894)] 3 = false ∧ base.ctxOutside 2 0xFFFFFFFE = false
    ∧ [(895, 1), (1, 894)].Pairwise (fun a b => rangesMeet a b = false)
    ∧ (0#64).toNat + (base.sharedQuotas 2).1 ≤ 16384 * (2 - portCount ((base.sharedQuotas 2).2 ||| 3)) ∧ (0x8000#16).getLsbD (15#4).toNat = true
    ∧ (base.partOf 1).live = true ∧ (0#64).toNat + 64 ≤ 4096 * Config.hbmFrames
    ∧ (base.ctxOf 65534).live = false ∧ (4 : Nat) < Config.plies ∧ (base.partOf 1).islands.getLsbD (4 / 5) = true
    ∧ (let s := { (base.setCtx 1 fun _ => Ctx.none) with me := Strand.empty }
       s.partBusy 1 = false ∧ (s.hub.ctxs.all fun c => !c.2.live) = true
        ∧ ((s.setPart 1 fun q => { q with scrubbing := true }).partOf 1).scrubbing = true) := by decide +kernel

theorem witness_CapsAndRetention_caps :
    (let payload (key : Byte) : List Byte := toLE 4 0x43415046 ++ [1, 0, key, 0] ++ toLE 8 1 ++ toLE 4 1 ++ List.replicate 1324 0
     let f : CapFrame := { udpPort := 7218, payload := payload 1, sigOk := true }
     let s : State := { base with pkg := { base.pkg with hallKeys := [(1, some 4)] } }
     let field (f : CapFrame) (o n : Nat) : Nat := bytesAt f.payload o n
     f.payload.length = 1344 ∧ field f 0 4 = 0x43415046 ∧ field f 4 2 = 1 ∧ field f 7 1 = 0 ∧ field f 0x14 12 = 0 ∧ field f 6 1 = 1
      ∧ (FMap.get none s.pkg.hallKeys (field f 6 1)).isSome = true ∧ s.pkg.capSeq.toNat < field f 8 8 ∧ s.pkg.frameNext = none ∧ s.pkg.frame = none
      ∧ (let g : CapFrame := { f with payload := payload 2 }
         g.udpPort = 7218 ∧ ¬ field g 6 1 ≤ 1) ∧ { f with udpPort := 0 }.udpPort ≠ 7218
      ∧ (let x : FrameInForce := { seq := 1, levels := [], life := 0, received := 0 }
         let t : State := { s with pkg := { s.pkg with frameNext := some x } }
         t.pkg.frameNext = some x ∧ t.pkg.framesWaiting = [] ∧ x.received + 10000000 * x.life.toNat ≤ t.time ∧ t.pkg.frame = none
          ∧ t.pkg.framesWaiting.length < 4 ∧ 4 ≤ (List.replicate 4 (f, 0)).length
          ∧ { t.pkg with framesWaiting := [(f, 0)] }.framesWaiting = (f, 0) :: [])
      ∧ (let x : FrameInForce := { seq := 1, levels := [], life := 0, received := 0 }
         { s.pkg with frame := some x }.frame = some x ∧ { s.pkg with frame := some x }.frameNext = none))
    ∧ (let t : State := { base with time := 10000000, pkg := { base.pkg with currBound := [(31, 800)] } }
       FMap.get 0 t.pkg.currBound 31 ≠ 0 ∧ FMap.get 0 t.pkg.currAt 31 + 10000000 ≤ t.time)
    ∧ (let u : State := { base with pkg := { base.pkg with currBound := FMap.set 0 base.pkg.currBound 0 800 } }
       (base.hub.parts.find? fun x => x.2.live && x.2.islands.getLsbD 0).isSome = true
        ∧ (FMap.get capcause0 base.pkg.capcause 0).toNat / 65536 % 4096 ≠ (u.capWord 0).toNat / 65536 % 4096) := by decide +kernel

/-- Island 0 has a strand; island 31 is idle, running, then entering, parked and on its way out. -/
theorem witness_CapsAndRetention_park : (base.all.any fun t => t.bound && decide (t.core / 80 = 0)) = true
    ∧ (base.all.all fun t => !t.bound || decide (t.core / 80 ≠ 31)) = true ∧ base.eng.ops = []
    ∧ FMap.get ParkState.running base.pkg.parkState 31 = .running
    ∧ ([ParkState.entering, .parked, .exiting].all fun x => decide (FMap.get ParkState.running [(31, x)] 31 = x)) = true
    ∧ base.hub.hvPark ≠ some 31 ∧ { base.hub with hvPark := some 31 }.hvPark = some 31 := by decide +kernel

/-- A requester that offers another SPDM version is refused, and then asks for 1.3. -/
theorem witness_BootAndIdentity_refused : { State.reset.pkg.spdmHost with refused := true, version := false }.refused = true
    ∧ { State.reset.pkg.spdmHost with refused := true, version := false }.version = false ∧ State.reset.pkg.spdmHost.refused = false
    ∧ 0x13 ∈ [0x12, 0x13] ∧ 0x13 ∉ [0x12] := by decide +kernel

/-- Whether each boot step succeeds is free, so that no state shows a boot that does; an image that is not signed is refused, and only
a recovery image is taken then. -/
theorem witness_BootAndIdentity : (let i : FirmwareImage := { digest := 1, sigOk := true, rollback := Config.rollbackFuse, recovery := false }
    i.sigOk = true ∧ Config.rollbackFuse ≤ i.rollback) ∧ (State.reset.hub.serial.toNat + 1 < 1099511627776)
    ∧ State.reset.pkg.recovery = false ∧ { State.reset.pkg with recovery := true }.recovery = true := by
  exact ⟨⟨rfl, Nat.le_refl _⟩, by decide, by decide, by decide⟩

theorem witness_DebugCommands : State.reset.pkg.sessions.length < 4
    ∧ (let s : State := { launched id base with pkg := { base.pkg with sessions := [{ right := .partition 1, status := 0, awaits := [] }, { right := .package, status := 0, awaits := [] }, { right := .partition 2, status := 0, awaits := [] }] } }
       s.pkg.sessions[0]? = some { right := .partition 1, status := 0, awaits := [] } ∧ s.pkg.sessions[1]? = some { right := .package, status := 0, awaits := [] }
        ∧ (s.ctxOf 1).live = true ∧ (s.ctxOf 1).part = 1 ∧ (2 : Nat) ≠ (s.ctxOf 1).part ∧ (s.launchOf 3).live = true ∧ (s.launchOf 3).part = 1
        ∧ ((withOp 1 { Op.none with state := .running } s).opOf 1).live = true
        ∧ (s.ctxOf 1).stops.length < 64 ∧ 64 ≤ (List.replicate 64 (⟨none, 0⟩ : Stop)).length
        ∧ s.coreOfVcore 1 (0#32).toNat = some 0 ∧ s.strandAt 0 0 = some s.me ∧ s.me.part = 1 ∧ s.coreOfVcore 1 (4095#32).toNat = none) := by decide +kernel

/-- A strand halted by the target alone, and one on which the halt of its launch stands too; a session waits for each. -/
theorem witness_DebugCommands_resume : (let x := { base.me with haltReq := true, haltBy := [.context 1] }
    let y := { x with uid := 9, place := .slot 0 1, haltBy := [.context 1, .launch 3] }
    let s : State := { base with me := x, strands := [y], pkg := { base.pkg with sessions :=
      [{ right := .partition 1, status := 0, awaits := [] }, { right := .package, status := 0, awaits := [x.uid, 9] }] } }
    s.all = [x, y] ∧ (s.all.all fun z => z.isLive && z.ctx == 1 && z.area.isNone && z.bound && !z.halted) = true
    ∧ (x.haltBy.all fun h => decide (h = .context 1)) = true ∧ (y.haltBy.any fun h => decide (h ≠ .context 1)) = true
    ∧ { x with haltReq := false, halted := true }.haltReq = false ∧ (s.pkg.sessions[1]?.map (·.awaits)) = some [x.uid, 9]) := by decide +kernel

theorem witness_DebugStateAndSamples_state : (let s : State := { onMe (fun t => { t with halted := true }) base with
      pkg := { base.pkg with sessions := [{ right := .partition 1, status := 0, awaits := [] }] } }
    s.pkg.sessions[0]? = some { right := .partition 1, status := 0, awaits := [] } ∧ s.strandAt 0 0 = some s.me ∧ s.me.part = 1 ∧ s.me.halted = true
    ∧ s.coreOfVcore 1 (0#32).toNat = some 0 ∧ s.me.area = none ∧ deviceState 0x10 = true
    ∧ (onMe (fun t => { t with area := some 0 }) s).me.area = some 0
    ∧ base.me.halted = false ∧ { base.me with wait := .passed }.wait = .passed ∧ { base.me with wait := .passedMarker }.wait = .passedMarker
    ∧ s.inHbm (reachOfRight (.partition 1)) (22 * 4096) 8 = true
    ∧ (match (s.asked 0).objectForm (reachOfRight (.partition 1)) 1 6 0x11000 0 8 with | .ok b => decide (b.length = 8) | .error _ => false) = true) := by
  decide +kernel

/-- A sample ring of one record in the service memory of die 0, empty and full. -/
theorem witness_DebugStateAndSamples_samples :
    (let hdr := PAddr.key { space := .dsm 0, off := 0 }
     let s := base.setCtx 1 fun c => { c with sampleInterval := 256 }
     let ring (tail : Nat) : State := { s with mem := s.mem.putBytes hdr (toLE 8 64 ++ toLE 4 1 ++ toLE 4 1 ++ toLE 8 tail ++ toLE 8 0) }
     s.strandAt 0 0 = some s.me ∧ s.me.ctx < 65536 ∧ (s.coreOf 0).sampleNext = 0 ∧ (s.ctxOf 1).sampleInterval ≠ 0
      ∧ (let t := ring 0
         t.numAt (hdr + 0x0C) 4 % 2 = 1 ∧ t.numAt (hdr + 8) 4 = 1 ∧ t.numAt (hdr + 0x10) 8 = 0 ∧ t.numAt (hdr + 0x18) 8 = 0)
      ∧ (let t := ring 1
         t.numAt (hdr + 0x10) 8 - t.numAt (hdr + 0x18) 8 = t.numAt (hdr + 8) 4)
      ∧ (base.ctxOf 1).sampleInterval = 0) := by decide +kernel

/-- The last word of the last local store, in a partition's island. -/
theorem witness_ErrorsAndRegisters : 79 < Config.cores ∧ 0xFFFF8 < Config.lsBytes ∧ 0xFFFF8 % 8 = 0 ∧ 159 < Config.plies ∧ (11#4).toNat < 12
    ∧ (base.hub.parts.find? fun x => x.2.live && x.2.islands.getLsbD (79 / 80)).map (·.1) = some 1
    ∧ base.strandAt 0 0 = some base.me ∧ 2559 < Config.cores := by decide +kernel

/-- A write that removes the mapping of its own second half, page 0x13000 being the table itself. -/
theorem witness_NetworkStorageAndHost_torn : (let t := page 3 (0x18FF + 20 * 65536) base
    t.packetFault 1 (.write 0x13080 (List.replicate 128 0)) = none ∧ (match t.deliver 3 1 (.write 0x13080 (List.replicate 128 0)) with | .error _ => true | .ok _ => false) = true) := by
  decide +kernel

theorem witness_NetworkStorageAndHost :
    (let q : QPair := { QPair.none with live := true, ctx := 1, part := 1 }
     let s : State := { base with pkg := { base.pkg with qpairs := [(3, q)] } }
     s.qpOf 3 = q ∧ q.errored = false ∧ q.paused = false ∧ (0x12FC0#64).toNat % 64 + 64 ≤ 64
      ∧ (s.vtranslate q.ctx 0x12FC0 true).isSome = true ∧ (s.vtranslate q.ctx 0x12FC0 false).isSome = true
      ∧ (s.packetFault 1 (.write 0x20000 [1])).map (·.1) = some 2
      ∧ (let t := page 3 (0x18BF + 23 * 65536) s
         (t.packetFault 1 (.write 0x13000 [1])).map (·.1) = some 7)
      ∧ (let u : State := { s with pkg := { s.pkg with qpairs := [(3, { q with paused := true, buffer := [.write 0x12FC0 [1]] })] } }
         (u.qpOf 3).paused = true ∧ (u.qpOf 3).buffer = [.write 0x12FC0 [1]])
      ∧ (let u : State := { page 3 (0x18BF + 23 * 65536) s with pkg := { s.pkg with qpairs := [(3, { q with
            paused := true, naking := true, pausedAt := 0x12000, buffer := [.write 0x13000 [1]] })] } }
         (u.qpOf 3).naking = true ∧ u.packetFault 1 (.write 0x13000 [1]) = some (7, 0x13000) ∧ 0x13000 / 4096 ≠ (u.qpOf 3).pausedAt.toNat / 4096)
      ∧ (let u := s.setPart 1 fun p => { p with netPorts := 2 }
         (u.partOf 1).live = true ∧ (u.ctxOf 1).part = 1 ∧ (u.qpOf 4).live = false ∧ (u.partOf 1).qpairs < (u.partOf 1).qpLimit))
    ∧ base.vtranslate 1 0x20000 true = none ∧ base.vtranslate 1 0x20000 false = none ∧ base.mem.poison = [] ∧ base.usedLeaves = []
    ∧ (0x12FF8#64).toNat % 64 ≤ 56 ∧ (0x12FF8#64).toNat % 8 = 0 ∧ (0x12FFC#64).toNat % 8 ≠ 0 := by decide +kernel

/-- The host's requests: a write of a whole block and one too long, a wake word of the one queue of partition 1, and a leaf of host memory that a
word has found, in the last bytes before its block ends and past it. -/
theorem witness_NetworkStorageAndHost_host :
    (match base.vtranslate 1 0x12FC0 true, base.vtranslate 1 0x12FC0 false with
      | some (_, t), some _ => decide (t.mem.poison = []) | _, _ => false) = true
    ∧ (base.vwrite 1 0x20000 [1]).isNone = true ∧ 512 < (List.replicate 513 (0 : Byte)).length
    ∧ (0x12FC0#64).toNat % 64 + (List.replicate 64 (0 : Byte)).length ≤ 64 ∧ (0x12FF8#64).toNat % 4 = 0
    ∧ (queued id base).windowQueue (1#4).toNat (0#64).toNat = some 5 ∧ (toLE 8 1).length = 8
    ∧ (let found (a : Nat) : List (Nat × Nat × PAddr) := (onMe (fun t => { t with replay := { t.replay with
            leaves := [(0x11000, { pa := { space := .host 1, off := a }, entry := 0, level := 0 })] } }) base).usedLeaves
       ((found 0xFC0).any fun u => decide (u.2.2.space = .host 1 ∧ u.2.2.off < 0xFFF + 1 ∧ 0xFFF < u.2.2.off + 64)) = true
        ∧ ((found 0x1000).any fun u => decide (u.2.2.space = .host 1 ∧ u.2.2.off < 0xFFF + 1 ∧ 0xFFF < u.2.2.off + 64)) = false) := by decide +kernel

theorem witness_Links :
    (let x : TwinePort := { TwinePort.reset with trained := true, version := 2, expected := [(7, 4)], resends := [(7, 4, 8), (6, 4, 7)] }
     let s : State := { base with pkg := { base.pkg with twine := [(23, x)] } }
     s.portOf 23 = x ∧ (s.portOf 22).trained = false ∧ FMap.get 0 x.expected 7 = 4
      ∧ x.resends.find? (fun y => y.1 == (7#3).toNat && y.2.1 == 4) = some ((7#3).toNat, 4, 8)
      ∧ x.resends.find? (fun y => y.1 == (6#3).toNat && y.2.1 == 4) = some ((6#3).toNat, 4, 7)
      ∧ x.resends.find? (fun y => y.1 == (5#3).toNat && y.2.1 == 4) = none
      ∧ x.paused.getLsbD 7 = false ∧ (x.resends.filter fun z => z.1 == (7#3).toNat && !(z.1 == (7#3).toNat && z.2.1 == 4)).length < 256
      ∧ { x with paused := 0x80 }.paused.getLsbD 7 = true
      ∧ 256 ≤ (((List.range 256).map fun k : Nat => ((7 : Nat), 5 + k, (1 : Nat))).filter fun z => z.1 == (7#3).toNat && !(z.1 == (7#3).toNat && z.2.1 == 4)).length
      ∧ ((List.range 23).all fun n => !(s.portOf n).trained) = true ∧ ((List.range 24).all fun n => !(base.portOf n).trained) = true) := by
  decide +kernel

/-! ## Witnesses: the machine as a whole -/

theorem witness_DecodeAndEncode : (Instr.add true 4 5 6 ⟨3, 7, true⟩).wellFormed = true
    ∧ encode (.add true 4 5 6 ⟨3, 7, true⟩) = some 0x8022B18F ∧ decodeWord 0x8022B18F#32 = .ok (.add true 4 5 6 ⟨3, 7, true⟩) := by decide +kernel

/-- A canonical memory, from which the first step is a word's. -/
theorem witness_MemoryStaysCanonical : base.mem.wf = true ∧ (match step base with | .next _ => true | _ => false) = true := by decide +kernel

/-- An event at hand; the one strand that may move, at an encoding and at a reserved word. -/
theorem witness_StepRunsDecodedWord : (let s := State.reset.placed 0x00000000
    s.agenda = [] ∧ s.due = [] ∧ s.readyCores = [0] ∧ s.idleCores = [] ∧ s.pickSlot 0 = some 0
    ∧ (let u := s.switchTo 0 0
       u.beforeWord = .word ∧ u.me.reissue = false ∧ leafB (translate u.me.fetchReq u.me.pc.toNat u) (fun l t =>
        decide (t.mem.cached u.me.core u.me.ctx u.me.pc.toNat = some 0 ∧ FMap.get 0 t.mem.poison l.pa.word = 0
          ∧ ofLE (t.mem.bytesAt l.pa.key 4) = 0)) = true)
    ∧ (let u := (onMe (fun t => { t with reissue := true, replay := { t.replay with word := some 0x14800000 } }) s).switchTo 0 0
       u.beforeWord = .word ∧ u.me.reissue = true ∧ u.me.replay.word = some 0x14800000)
    ∧ decodeWord 0x14800000#32 = .error .reservedOp ∧ { s with agenda := [.boot] }.agenda = [.boot]) := by decide +kernel

/-- One eligible normal strand; and an urgent one beside it. -/
theorem witness_IssueOrder : base.all.contains base.me = true ∧ base.eligible base.me = true ∧ base.me.core = 0 ∧ base.me.slot < 10
    ∧ base.pickSlot 0 = some 0
    ∧ (let s := { base with strands := [{ base.me with place := .slot 0 9, urg := true, uid := 7 }] }
       s.pickSlot 0 = some 9)
    ∧ (let y := { base.me with place := .slot 0 1, uid := 7, age := 9, pendingTrap := some { cause := .budget, tinfo := 0, taddr := 0 } }
       { base with strands := [y] }.pickSlot 0 = some 1)
    ∧ (let y := { base.me with place := .slot 0 1, uid := 7, age := 9 }
       let s := { base with strands := [y] }.setCore 0 fun c => { c with greedy := some 1 }
       s.roundRobin 0 = false ∧ (s.coreOf 0).greedy = some 1 ∧ s.eligible y = true ∧ s.pickSlot 0 = some 1
        ∧ (s.all.all fun z => z.pendingTrap.isNone && !z.continues && decide (z.slot < 8)) = true
        ∧ (let z := { y with reissue := true }
           z.continues = true ∧ { base with strands := [z] }.eligible z = true ∧ { base with strands := [z] }.pickSlot 0 = some 1)) := by decide +kernel

theorem witness_WordFrame : base.me.reissue = false ∧ base.me.mskcnt = 0 ∧ { base.me with mskcnt := 1 }.mskcnt ≠ 0 := by decide +kernel

/-- A source and a destination outstanding in strict-run mode and in the loose mode; and eight results outstanding. -/
theorem witness_RunHazards :
    (let s := onMe (fun t => onItsWay 5 9 { t with strict := true }) base
     (match srTable (.sub false 4 5 6 noGuard) with
      | some f => f.takes.follows s.me && (guardReads f.guard).all s.me.canRead && guardOpen f.guard s.me && f.reads.contains 5 && !f.long
      | none => false) = true
      ∧ s.me.boundGen 5 = none ∧ lastG (entryOf s.me.cwp 5) s.me.outstanding = some 9 ∧ lastG (entryOf s.me.cwp 6) s.me.outstanding = none
      ∧ lastG (entryOf s.me.cwp 4) s.me.outstanding = none)
    ∧ (let s := onMe (onItsWay 5 9) base
       s.me.strict = false ∧ s.me.parity = [] ∧ s.me.canWrite 4 = true
        ∧ (match srTable (.clz false 4 5 noGuard) with | some f => decide (f.reads = [5]) && !f.long | none => false) = true)
    ∧ 8 ≤ ((List.range 8).foldl (fun t _ => onItsWay 5 9 t) base.me).outstanding.length := by decide +kernel

/-! ## Single steps -/

/-- An instruction answers a next state that meets a condition. -/
def runs (i : Instr) (s : State) (p : State → Bool) : Bool :=
  match exec i s with | .next t => p t | _ => false

/-- The value on its way to a general register. -/
def sent (t : State) (r : Reg) : Option Word := lastG (entryOf t.me.cwp r) t.me.outstanding

/-- Lane `i` of what is on its way to a vector register. -/
def sentLane (t : State) (r : Reg) (i : Nat) : Option Lane := (lastV r.toNat t.me.outstanding).bind fun l => l[i]?

/-- R139: addition is modulo 2^64, and the strand goes on at the next word. -/
theorem test_add_wraps : runs (.add false 1 2 3 noGuard) (regs [(2, 0xFFFFFFFFFFFFFFFF), (3, 2)] base)
    (fun t => t.me.g 1 == 1 && t.me.pc == 0x10004) = true := by decide +kernel

/-- R116: a guard with sense 1 on a set bit nullifies the word. -/
theorem test_add_guarded : runs (.add false 1 2 3 ⟨2, 63, true⟩) (regs [(1, 9), (2, 0x8000000000000000), (3, 2)] base)
    (fun t => t.me.g 1 == 9 && t.me.pc == 0x10004) = true := by decide +kernel

/-- R139: the high half of (−1) × 2 is −1 signed and 1 unsigned. -/
theorem test_mulh_signs : runs (.mulh false 1 2 3 noGuard) (regs [(2, 0xFFFFFFFFFFFFFFFF), (3, 2)] base)
      (fun t => sent t 1 == some 0xFFFFFFFFFFFFFFFF)
    ∧ runs (.mulhu false 1 2 3 noGuard) (regs [(2, 0xFFFFFFFFFFFFFFFF), (3, 2)] base) (fun t => sent t 1 == some 1) := by decide +kernel

/-- R140: division by zero gives −1 and DZ; the most negative number by −1 gives itself. -/
theorem test_div_corners : runs (.div false 1 2 3 noGuard) (regs [(2, 7)] base) (fun t => sent t 1 == some 0xFFFFFFFFFFFFFFFF && t.me.sflags == 8)
    ∧ runs (.div false 1 2 3 noGuard) (regs [(2, 0x8000000000000000), (3, 0xFFFFFFFFFFFFFFFF)] base)
      (fun t => sent t 1 == some 0x8000000000000000 && t.me.sflags == 0) := by decide +kernel

/-- R140: −7 rem 2 is −1, and a remainder by zero is the dividend. -/
theorem test_rem_signs : runs (.rem false 1 2 3 noGuard) (regs [(2, 0xFFFFFFFFFFFFFFF9), (3, 2)] base) (fun t => sent t 1 == some 0xFFFFFFFFFFFFFFFF)
    ∧ runs (.remu false 1 2 3 noGuard) (regs [(2, 7)] base) (fun t => sent t 1 == some 7) := by decide +kernel

/-- R139: shifts use bits 5:0 of their count. -/
theorem test_shift_counts : runs (.shl false 1 2 3 noGuard) (regs [(2, 1), (3, 0x41)] base) (fun t => t.me.g 1 == 2)
    ∧ runs (.sar false 1 2 3 noGuard) (regs [(2, 0x8000000000000000), (3, 63)] base) (fun t => t.me.g 1 == 0xFFFFFFFFFFFFFFFF) := by decide +kernel

theorem test_ror_by_one : runs (.ror false 1 2 3 noGuard) (regs [(2, 1), (3, 1)] base) (fun t => t.me.g 1 == 0x8000000000000000) := by decide +kernel

/-- R139: no bit set. -/
theorem test_clz_zero : runs (.clz false 1 2 noGuard) base (fun t => t.me.g 1 == 64) ∧ runs (.ctz false 1 2 noGuard) base (fun t => t.me.g 1 == 64) := by
  decide +kernel

/-- R141: 8 bits from bit 4. -/
theorem test_bext_field : runs (.bext false 1 2 3 noGuard) (regs [(2, 0xABCD), (3, 0x0804)] base) (fun t => t.me.g 1 == 0xBC) := by decide +kernel

theorem test_bins_field : runs (.bins false 1 2 3 noGuard) (regs [(1, 0xFFFF), (2, 0x12), (3, 0x0804)] base) (fun t => t.me.g 1 == 0xF12F) := by
  decide +kernel

/-- R141: only bit 63 of the destination changes. -/
theorem test_clt_one_bit : runs (.clt false 1 2 3 63) (regs [(1, 5), (2, 0xFFFFFFFFFFFFFFFF), (3, 0)] base)
    (fun t => t.me.g 1 == 0x8000000000000005) := by decide +kernel

/-- R142, R131: an immediate of −1, and one of 15 bits that an `xi` widens to 39. -/
theorem test_addi_immediates : runs (.addi false 1 2 0x7FFF) (regs [(2, 0)] base) (fun t => t.me.g 1 == 0xFFFFFFFFFFFFFFFF)
    ∧ runs (.addi false 1 2 1) (onMe (fun t => { t with pfx := { t.pfx with count := 1, xis := [3] } }) base)
      (fun t => t.me.g 1 == 0x18001 && t.me.pfx.count == 0) := by decide +kernel

/-- R142: an address counts words from the current one. -/
theorem test_adr_back : runs (.adr false 1 0x7FFFF) base (fun t => t.me.g 1 == 0xFFFC) := by decide +kernel

/-- R148: the counter reaches zero, and the strand goes on. -/
theorem test_dbnz_ends : runs (.dbnz false 2 0xFFFFF) (regs [(2, 1)] base) (fun t => t.me.g 2 == 0 && t.me.pc == 0x10004)
    ∧ runs (.dbnz false 2 0xFFFFF) (regs [(2, 2)] base) (fun t => t.me.g 2 == 1 && t.me.pc == 0xFFFC) := by decide +kernel

/-- R150: the callee's g7 is the link, and its g0 the caller's g8. -/
theorem test_call_window : runs (.call false 2) (regs [(8, 5)] base)
    (fun t => t.me.pc == 0x10008 && t.me.g 7 == 0x10004 && t.me.cwp == 1 && t.me.rdep == 1) = true := by decide +kernel

/-- R150, R382: a sixth call traps SPILL, here to the kernel. -/
theorem test_call_spills : runs (.call false 2) (onMe (fun t => { t with rdep := 5 }) base)
    (fun t => t.me.ktrap && t.me.tcause == BitVec.ofNat 6 Cause.spill.code && t.me.pc == 0x10000) = true := by decide +kernel

/-- R153, R384: `sys` to the strand's own handler; R152: `tret` goes back. -/
theorem test_sys_and_tret : runs (.sys false 0x21) (onMe (fun t => { t with tvec := 0x10100, tdeleg := 0 }) base)
      (fun t => t.me.pc == 0x10100 && t.me.epc == 0x10000 && t.me.tinfo == 0x21 && t.me.hm && t.me.cwp == 1)
    ∧ runs (.tret false) (onMe (fun t => { t with hm := true, epc := 0x10004, cwp := 1, rdep := 1 }) base)
      (fun t => t.me.pc == 0x10004 && !t.me.hm && t.me.cwp == 0 && t.me.rdep == 0) := by decide +kernel

/-- R159: a register of system mode is PRIV from user mode. -/
theorem test_mfs_privileged : runs (.mfs false 1 0x103) base (fun t => t.me.tcause == BitVec.ofNat 6 Cause.priv.code && t.me.tinfo == 0x1030001) := by
  decide +kernel

/-- R158: `tvec` drops bits 1:0. -/
theorem test_mts_tvec : runs (.mts false 1 2) (regs [(1, 0x10103)] base) (fun t => t.me.tvec == 0x10100) := by decide +kernel

/-- R127: a dead register reads 0. -/
theorem test_dead_register : runs (.dead false 2) (lanes 1 [7] base) (fun t => t.me.lane 1 0 == 0) := by decide +kernel

/-- R145: a byte with its sign, from the last byte of the page. -/
theorem test_ld_b_sign : runs (.ldBs false 1 2 0) (regs [(2, 0x11FFF)] (bytes 1 0xFFF [0x80] base)) (fun t => sent t 1 == some 0xFFFFFFFFFFFFFF80) := by
  decide +kernel

/-- R145, R2: 16 bytes into a pair, the low doubleword first. -/
theorem test_ldp_order : runs (.ldp false 4 2 0) (regs [(2, 0x12000)] (bytes 2 0 [1, 0, 0, 0, 0, 0, 0, 0, 2] base))
    (fun t => sent t 4 == some 1 && sent t 5 == some 2) := by decide +kernel

/-- R145: ALIGN, with nothing stored. -/
theorem test_st_d_align : runs (.stD false 1 2 0) (regs [(1, 1), (2, 0x11004)] base)
    (fun t => t.me.tcause == BitVec.ofNat 6 Cause.align.code && t.me.taddr == 0x11004) := by decide +kernel

/-- R145: a half-word, little-endian. -/
theorem test_st_h_bytes : runs (.stH false 1 2 1) (regs [(1, 0xABCDEF), (2, 0x12000)] base)
    (fun t => t.mem.bytesAt (hbmKey (22 * 4096)) 6 == [0, 0, 0xEF, 0xCD, 0, 0]) := by decide +kernel

/-- R106, R183: no page at 0x20000: PROT with NOMAP (2) at level 0, a store. -/
theorem test_st_b_prot : runs (.stB false 1 2 0) (regs [(2, 0x20000)] base)
    (fun t => t.me.tcause == BitVec.ofNat 6 Cause.prot.code && t.me.taddr == 0x20000 && t.me.tinfo == 0x202) := by decide +kernel

/-- R345: the signed minimum of 32 bits keeps −1, and the old value returns. -/
theorem test_amo_min : runs (.amo false 1 2 3 0 0 20) (regs [(2, 0x11000), (3, 5)] (bytes 1 0 [0xFF, 0xFF, 0xFF, 0xFF] base))
    (fun t => sent t 1 == some 0xFFFFFFFF && t.mem.bytesAt (PAddr.key { space := .ls 0, off := 0 }) 4 == [0xFF, 0xFF, 0xFF, 0xFF]) := by decide +kernel

/-- R346: a swap that hits. -/
theorem test_cas_hits : runs (.cas false 1 2 3 0 0 false) (regs [(1, 9), (2, 0x11000), (3, 4)] (bytes 1 0 [9] base))
    (fun t => sent t 1 == some 9 && t.mem.bytesAt (PAddr.key { space := .ls 0, off := 0 }) 2 == [4, 0]) := by decide +kernel

/-- R175: a source that is on its way, in strict-run mode: kind 1, register g5, entry 5. -/
theorem test_runhaz_source : runs (.sub false 1 5 2 noGuard) (onMe (fun t => onItsWay 5 9 { t with strict := true }) base)
    (fun t => t.me.tcause == BitVec.ofNat 6 Cause.runhaz.code && t.me.tinfo == 0x50501) := by decide +kernel

/-- R216: 1.0 + 2.0 is 3.0 in lane 0; an overflow of a signed lane saturates with SAT. -/
theorem test_vadd_kinds : runs (.vadd false 3 1 2 false .f ⟨0, false⟩) (lanes 2 [0x40000000] (lanes 1 [0x3F800000] base))
      (fun t => sentLane t 3 0 == some 0x40400000)
    ∧ runs (.vadd false 3 1 2 false .i ⟨0, false⟩) (onMe (fun t => { t with rmode := 4 }) (lanes 2 [1] (lanes 1 [0x7FFFFFFF] base)))
      (fun t => sentLane t 3 0 == some 0x7FFFFFFF && t.me.sflags == 0x100) := by decide +kernel

/-- R118: a masked-off lane keeps what it held. -/
theorem test_vmov_masked : runs (.vmov false 3 2 true .i ⟨4, false⟩) (regs [(2, 7), (4, 2)] (lanes 3 [5, 6] base))
    (fun t => sentLane t 3 0 == some 5 && sentLane t 3 1 == some 7) := by decide +kernel

/-- R218: lane 1 alone compares below. -/
theorem test_vclt_mask : runs (.vclt false 5 1 2 false .i ⟨0, false⟩) (lanes 1 [0, 0xFFFFFFFF] base) (fun t => sent t 5 == some 2) := by decide +kernel

/-- R223: 1 + 2 + 3 over the enabled lanes, with an initial 4. -/
theorem test_vredsum_lane0 : runs (.vredsum false 3 1 2 true .i ⟨0, false⟩) (regs [(2, 4)] (lanes 1 [1, 2, 3] base))
    (fun t => sentLane t 3 0 == some 10 && sentLane t 3 1 == some 0) := by decide +kernel

/-- R224: lanes move down by 1. -/
theorem test_vslide_down : runs (.vslideDn false 3 1 2 .i ⟨0, false⟩) (regs [(2, 1)] (lanes 1 [5, 6, 7] base))
    (fun t => sentLane t 3 0 == some 6 && sentLane t 3 1 == some 7) := by decide +kernel

/-- R220: 2.5 to an integer rounds to the even 2. -/
theorem test_vcvt_rounds : runs (.vcvt false 3 1 .i ⟨0, false⟩ 2) (lanes 1 [0x40200000] base) (fun t => sentLane t 3 0 == some 2) := by decide +kernel

/-- R227: lane 1 from bytes 4–7. -/
theorem test_vld_lane : runs (.vld false 3 2 0 1 ⟨0, false⟩) (regs [(2, 0x11000)] (bytes 1 4 [0x78, 0x56, 0x34, 0x12] base))
    (fun t => sentLane t 3 1 == some 0x12345678 && sentLane t 3 0 == some 0) := by decide +kernel

/-- R259, R261: `tst.imm` writes the tag that `tld` reads. -/
theorem test_tag_written : runs (.tstImm false 2 3) (regs [(2, 0x11008)] base)
    (fun t => FMap.get 0 t.mem.tags (PAddr.key { space := .ls 0, off := 8 } / 8) == 3) := by decide +kernel

/-- R293: the lowest free bank of a launch's allowance. -/
theorem test_macq_bank : runs (.macq false 1) (banked base)
    (fun t => t.me.g 1 == 1 && decide ((t.bankOf 0 1).cond = .held 0 false)) := by decide +kernel

/-- R317, R323: a copy with a good header becomes a pending op. -/
theorem test_cpy_made : runs (.cpy false 0 2) (regs [(2, 0x11040)] (bytes 1 0x40 (copyDesc 3) base))
    (fun t => FMap.get none t.me.tokens 0 == some base.eng.nextOp && decide ((t.opOf base.eng.nextOp).state = .pending)) := by decide +kernel

/-- R275: an empty token is status 6. -/
theorem test_owait_empty : runs (.owait false 3 5) base (fun t => sent t 5 == some 6) := by decide +kernel

/-- R236: a bound register pops the next element. -/
theorem test_stream_pop : runs (.addi false 1 12 1) (streamed false 0 (bytes 1 0 [41] base))
    (fun t => t.me.g 1 == 42 && (FMap.get Stream.reset t.me.streams 3).p == 1) := by decide +kernel

/-- R353: the doubleword differs from what it is compared with: 0 returns. -/
theorem test_wwait_differs : runs (.wwait false 1 2 3) (regs [(2, 0x11000), (3, 1)] base) (fun t => sent t 1 == some 0) := by decide +kernel

/-- R155: the sibling starts at its entry with its arguments. -/
theorem test_spawn_sibling : runs (.spawn false 2 12) (regs [(2, 0x10008), (13, 7)] base)
    (fun t => t.strands.any fun u => u.pc == 0x10008 && FMap.get 0 u.stack 1 == 7) = true := by decide +kernel

/-- R157: the strand is gone. -/
theorem test_done_ends : runs (.done false) base (fun t => t.all.all fun u => !u.isLive) = true := by decide +kernel

/-- R170, R165: a long result returns and ends the wait at its marker. -/
theorem test_result_returns : runs (.longResultReturn 0 0 100) (onMe (fun t => onItsWay 5 9 { t with wait := .marker }) base)
    (fun t => (t.switchTo 0 0).me.g 5 == 9 && decide ((t.switchTo 0 0).me.wait = .none)) = true := by decide +kernel

/-- R128: the hold-off count ends and sets MSKX. -/
theorem test_msk_expires : runs (.mskCountExpiry 0 0) (onMe (fun t => { t with mskcnt := 1 }) base)
    (fun t => (t.switchTo 0 0).me.mskcnt == 0 && (t.switchTo 0 0).me.sflags == 1) = true := by decide +kernel

/-- R419: a ceiling of 800 MHz after a current alert (R425, R427). -/
theorem test_regulator_alert : runs (.regulatorAlert 0 800) base (fun t => FMap.get 0 t.pkg.currBound 0 == 800
    && (FMap.get capcause0 t.pkg.capcause 0).toNat / 65536 % 4096 == 800) = true := by decide +kernel

/-- R414, R416: a rank above 15 is BADARG. -/
theorem test_rank_badarg : runs (.rank 16 1 16) base (fun t => FMap.get 0 t.hub.hvStatus 0 == 2 && t.hub.hvCmds == 1) = true := by decide +kernel

/-- R134: a reserved word traps ILLOP subcode 0 with the word. -/
theorem test_step_illop : (match step (State.reset.placed 0x14800000) with
    | .next t => t.me.tcause == BitVec.ofNat 6 Cause.illop.code && t.me.tinfo == 0x1480000000000000 | _ => false) = true := by decide +kernel

/-- R106: the first step of a placed word runs it: `ldi g1, −1`. -/
theorem test_step_runs : (match (encode (.ldi false 1 0x7FFFF)) with
    | some w => (match step (State.reset.withFetchWord 32 w.toNat) with | .next t => t.me.g 1 == 0xFFFFFFFFFFFFFFFF | _ => false)
    | none => false) = true := by decide +kernel

end Sys2Proof.Tests
end

/-!
PROOFS. The statements of the overview's family: the Twine ports and the version register (O52); ranks, ceilings, cap frames, control
loops, the cap event and retention (O46).
-/

namespace Sys2Proof.Machine

/-! ## Twine ports (R431–R434) -/

/-- An event turns a port into another, and leaves the other ports and the rest of the machine alone. -/
def State.portBecomes (s : State) (port : Nat) (e : Instr) (y : TwinePort) : Prop :=
  ∃ t : State, exec e s = .next t ∧ t.portOf port = y ∧ (∀ n, n ≠ port → t.portOf n = s.portOf n)
    ∧ t.mem = s.mem ∧ t.me = s.me ∧ t.hub = s.hub ∧ t.eng = s.eng

/-- An event that changes one port has no other effect. -/
theorem State.portBecomes_of_setPort {s : State} {port : Nat} {e : Instr} {f : TwinePort → TwinePort}
    (h : exec e s = .next (s.setPort port f)) : s.portBecomes port e (f (s.portOf port)) :=
  ⟨_, h, by simp, fun n hn => by simp [hn], rfl, rfl, rfl, rfl⟩

/-! ### The version register -/

/-- The protocol version that the version register shows: that of the first trained port, 0 where there is none (R434). -/
def State.shownVersion (s : State) : Nat :=
  (((List.range twinePorts).find? fun n => (s.portOf n).trained).map fun n => (s.portOf n).version).getD 0

theorem State.hostVersion_toNat (s : State) : s.hostVersion.toNat = 0x01070103 + 4294967296 * (s.shownVersion % 256) := by
  unfold State.hostVersion State.shownVersion
  cases (List.range twinePorts).find? fun n => (s.portOf n).trained with
  | none => rfl
  | some n =>
    simp only [Option.map_some, Option.getD_some, BitVec.toNat_ofNat]
    omega

theorem State.shownVersion_of_untrained {s : State} (h : ∀ n, n < twinePorts → (s.portOf n).trained = false) : s.shownVersion = 0 := by
  have none : ((List.range twinePorts).find? fun n => (s.portOf n).trained) = none := by
    simpa [List.find?_eq_none] using h
  simp [State.shownVersion, none]

theorem State.shownVersion_of_first {s : State} {port : Nat} (hp : port < twinePorts) (ht : (s.portOf port).trained = true)
    (h : ∀ n, n < port → (s.portOf n).trained = false) : s.shownVersion = (s.portOf port).version := by
  have first : ((List.range twinePorts).find? fun n => (s.portOf n).trained) = some port := by
    rw [List.find?_range_eq_some]
    exact ⟨ht, List.mem_range.mpr hp, by simpa using h⟩
  simp [State.shownVersion, first]

/-! ### Training and loss -/

theorem commonVersion_eq (offered : List Nat) :
    commonVersion offered = if 2 ∈ offered then 2 else if 1 ∈ offered then 1 else 0 := by
  simp [commonVersion]

theorem commonVersion_ne_zero (offered : List Nat) : commonVersion offered ≠ 0 ↔ 1 ∈ offered ∨ 2 ∈ offered := by
  rw [commonVersion_eq]
  split
  · simp [*]
  · split <;> simp [*]

theorem commonVersion_of_common {offered : List Nat} (h : 1 ∈ offered ∨ 2 ∈ offered) :
    commonVersion offered = if 2 ∈ offered then 2 else 1 := by
  rw [commonVersion_eq]
  split
  · rfl
  · exact if_pos (h.resolve_right ‹_›)

/-- Whether the attempt to train a port succeeds: its lanes lock and a version is common (R431, R433). -/
def TwinePort.trains (p : TwinePort) (port : Nat) (offered : List Nat) : Bool :=
  Config.linkLocks port p.attempts && decide (commonVersion offered ≠ 0)

theorem TwinePort.trains_iff {p : TwinePort} {port : Nat} {offered : List Nat} :
    p.trains port offered = true ↔ Config.linkLocks port p.attempts = true ∧ (1 ∈ offered ∨ 2 ∈ offered) := by
  rw [TwinePort.trains, Bool.and_eq_true, decide_eq_true_iff, commonVersion_ne_zero]

theorem exec_linkTraining {s : State} {port : Nat} (offered : List Nat) (hp : port < twinePorts) (h : (s.portOf port).trained = false) :
    exec (.linkTraining port offered) s = .next (s.setPort port fun p =>
      { TwinePort.reset with attempts := p.attempts + 1, trained := (s.portOf port).trains port offered
                             version := if (s.portOf port).trains port offered then commonVersion offered else 0 }) := by
  show execLinkTraining port offered s = _
  simp [execLinkTraining, hp, State.trainPort, h, TwinePort.trains]

theorem exec_linkLoss {s : State} {port : Nat} (h : (s.portOf port).trained = true) :
    exec (.linkLoss port) s = .next (s.setPort port TwinePort.lost) := by
  show execLinkLoss port s = _
  simp [execLinkLoss, h]

/-! ### Flits -/

section
variable {s : State} {port : Nat} (lane : BitVec 3) (h : (s.portOf port).trained = true)
include h

theorem exec_flitReceive_data (seq : Nat) (bytes : BitVec 2048) :
    exec (.flitReceive port lane (.data seq bytes)) s = .next (s.setPort port fun p =>
      let e := FMap.get 0 p.expected lane.toNat
      if e < seq then p
      else if seq < e then { p with duplicates := p.duplicates + 1 }
      else { p with expected := FMap.set 0 p.expected lane.toNat (e + 1), delivered := p.delivered + 1, flit := bytes }) := by
  show execFlitReceive port lane (.data seq bytes) s = _
  simp [execFlitReceive, h]

theorem exec_flitReceive_ack (seq : Nat) :
    exec (.flitReceive port lane (.ack seq)) s = .next (s.setPort port fun p =>
      { p with resends := p.resends.filter fun x => x.1 != lane.toNat || decide (seq < x.2.1) }) := by
  show execFlitReceive port lane (.ack seq) s = _
  simp [execFlitReceive, h]

theorem exec_flitReceive_pause (on : Bool) :
    exec (.flitReceive port lane (.pause on)) s = .next (s.setPort port fun p =>
      { p with paused := if on then p.paused ||| BitVec.ofNat 8 (2 ^ lane.toNat) else p.paused &&& ~~~BitVec.ofNat 8 (2 ^ lane.toNat) }) := by
  show execFlitReceive port lane (.pause on) s = _
  simp [execFlitReceive, h]

/-- The flit that is next in its lane is delivered (R432). -/
theorem portBecomes_data_next (bytes : BitVec 2048) :
    let x := s.portOf port
    let e := FMap.get 0 x.expected lane.toNat
    s.portBecomes port (.flitReceive port lane (.data e bytes))
      { x with expected := FMap.set 0 x.expected lane.toNat (e + 1), delivered := x.delivered + 1, flit := bytes } := by
  intro x e
  simpa [x, e] using State.portBecomes_of_setPort (exec_flitReceive_data lane h e bytes)

/-- An earlier flit is a duplicate (R432). -/
theorem portBecomes_data_duplicate {seq : Nat} (bytes : BitVec 2048) (hlt : seq < FMap.get 0 (s.portOf port).expected lane.toNat) :
    s.portBecomes port (.flitReceive port lane (.data seq bytes))
      { s.portOf port with duplicates := (s.portOf port).duplicates + 1 } := by
  simpa [hlt, Nat.lt_asymm hlt] using State.portBecomes_of_setPort (exec_flitReceive_data lane h seq bytes)

/-- A flit that leaves a gap changes nothing (R432). -/
theorem portBecomes_data_gap {seq : Nat} (bytes : BitVec 2048) (hlt : FMap.get 0 (s.portOf port).expected lane.toNat < seq) :
    s.portBecomes port (.flitReceive port lane (.data seq bytes)) (s.portOf port) := by
  simpa [hlt] using State.portBecomes_of_setPort (exec_flitReceive_data lane h seq bytes)

end

/-- Bit `k` of a mask of lanes after the bit of one lane is set or cleared. -/
theorem getLsbD_setLane (m : BitVec 8) (lane : BitVec 3) (on : Bool) {k : Nat} (hk : k < 8) :
    (if on then m ||| BitVec.ofNat 8 (2 ^ lane.toNat) else m &&& ~~~BitVec.ofNat 8 (2 ^ lane.toNat)).getLsbD k
      = if k = lane.toNat then on else m.getLsbD k := by
  have bit : (BitVec.ofNat 8 (2 ^ lane.toNat)).getLsbD k = decide (k = lane.toNat) := by
    rw [BitVec.getLsbD_ofNat, Nat.testBit_two_pow]
    simp [hk, eq_comm]
  cases on
  · simp only [Bool.false_eq_true, if_false, BitVec.getLsbD_and, BitVec.getLsbD_not, bit, hk]
    split <;> simp [*]
  · simp only [if_true, BitVec.getLsbD_or, bit]
    split <;> simp [*]

/-! ### Resends -/

/-- Whether an entry of a port's retry buffers is that of a flit. -/
def isFlit (lane : BitVec 3) (seq : Nat) (z : Nat × Nat × Nat) : Bool := z.1 == lane.toNat && z.2.1 == seq

/-- The other flits that a lane's retry buffer holds. -/
def TwinePort.otherFlits (p : TwinePort) (lane : BitVec 3) (seq : Nat) : Nat :=
  (p.resends.filter fun z => z.1 == lane.toNat && !isFlit lane seq z).length

/-- How often a flit has been resent. -/
def TwinePort.resendCount (p : TwinePort) (lane : BitVec 3) (seq : Nat) : Nat :=
  ((p.resends.find? (isFlit lane seq)).map fun z => z.2.2).getD 0

/-- A port whose flit has been resent once more, `n` times in all. -/
def TwinePort.resent (lane : BitVec 3) (seq n : Nat) (p : TwinePort) : TwinePort :=
  { p with resends := p.resends.filter (fun z => !isFlit lane seq z) ++ [(lane.toNat, seq, n)] }

section
variable {s : State} {port : Nat} {lane : BitVec 3} {seq : Nat}

/-- A paused lane, or one whose retry buffer is full, resends nothing (log 122). -/
theorem exec_flitRetryTimeout_held
    (h : (s.portOf port).paused.getLsbD lane.toNat = true ∨ retryFlits ≤ (s.portOf port).otherFlits lane seq) :
    exec (.flitRetryTimeout port lane seq) s = .next s := by
  show execFlitRetryTimeout port lane seq s = _
  unfold execFlitRetryTimeout
  rw [if_pos]
  exact .inr (h.imp_right decide_eq_true)

/-- Else the flit is resent, until its eighth resend loses the link (R432). -/
theorem exec_flitRetryTimeout (ht : (s.portOf port).trained = true) (hp : (s.portOf port).paused.getLsbD lane.toNat = false)
    (ho : (s.portOf port).otherFlits lane seq < retryFlits) :
    let n := (s.portOf port).resendCount lane seq
    exec (.flitRetryTimeout port lane seq) s
      = .next (s.setPort port (if 8 ≤ n then TwinePort.lost else TwinePort.resent lane seq (n + 1))) := by
  intro n
  have goes : ¬ ((!(s.portOf port).trained) = true ∨ (s.portOf port).paused.getLsbD lane.toNat = true
      ∨ decide (retryFlits ≤ (s.portOf port).otherFlits lane seq) = true) := by
    simp [ht, hp, Nat.not_le.mpr ho]
  have count : n = match (s.portOf port).resends.find? (isFlit lane seq) with | some x => x.2.2 | none => 0 := by
    show (Option.map _ _).getD 0 = _
    cases (s.portOf port).resends.find? (isFlit lane seq) <;> rfl
  show execFlitRetryTimeout port lane seq s = _
  calc execFlitRetryTimeout port lane seq s
      = if 8 ≤ n then .next (s.setPort port TwinePort.lost) else .next (s.setPort port (TwinePort.resent lane seq (n + 1))) := by
        rw [count]
        exact if_neg goes
    _ = _ := by split <;> rfl

theorem resendCount_of_find? {p : TwinePort} {n : Nat} (h : p.resends.find? (isFlit lane seq) = some (lane.toNat, seq, n)) :
    p.resendCount lane seq = n := by
  simp [TwinePort.resendCount, h]

theorem resendCount_of_find?_none {p : TwinePort} (h : p.resends.find? (isFlit lane seq) = none) : p.resendCount lane seq = 0 := by
  simp [TwinePort.resendCount, h]

/-- A flit that was resent has one entry. -/
theorem eq_of_mem_resent {p : TwinePort} {n : Nat} {z : Nat × Nat × Nat} (hz : z ∈ (p.resent lane seq n).resends)
    (h1 : z.1 = lane.toNat) (h2 : z.2.1 = seq) : z = (lane.toNat, seq, n) := by
  simpa [TwinePort.resent, isFlit, h1, h2] using hz

/-- The first resend of a flit adds its entry to the others. -/
theorem resent_of_find?_none {p : TwinePort} (n : Nat) (h : p.resends.find? (isFlit lane seq) = none) :
    p.resent lane seq n = { p with resends := p.resends ++ [(lane.toNat, seq, n)] } := by
  have keep : p.resends.filter (fun z => !isFlit lane seq z) = p.resends :=
    List.filter_eq_self.mpr fun z hz => by simpa using List.find?_eq_none.mp h z hz
  simp [TwinePort.resent, keep]

end

/-- Settles O52: the fields of the version register; then, event by event, the port that the event leaves. -/
theorem links : Obligations.Links := by
  unfold Obligations.Links
  intro port seq offered lane flit s
  refine ⟨⟨?minor, ?high, ?untrained, ?first⟩, ?training, fun ht => ⟨?loss, ⟨?taken, ?duplicate, ?gap, ?ack, ?pause⟩, ?held,
    fun hp ho => ⟨fun n hn => ⟨fun h8 => ?last, fun h8 => ?again⟩, fun hn => ?once⟩⟩⟩
  case minor => rw [State.hostVersion_toNat]; omega
  case high => rw [State.hostVersion_toNat]; omega
  case untrained =>
    intro h
    rw [State.hostVersion_toNat, State.shownVersion_of_untrained h]
  case first =>
    intro hp ht h
    rw [State.hostVersion_toNat, State.shownVersion_of_first hp ht h]
    omega
  case training =>
    intro hp ht
    refine ⟨_, State.portBecomes_of_setPort (exec_linkTraining offered hp ht), rfl, rfl, rfl, rfl, fun up => ?_, fun down => ?_, ?_⟩
    · exact (if_pos up).trans (commonVersion_of_common (TwinePort.trains_iff.mp up).2)
    · exact if_neg (by simpa using down)
    · exact TwinePort.trains_iff
  case loss => exact State.portBecomes_of_setPort (exec_linkLoss ht)
  case taken =>
    rintro rfl
    exact portBecomes_data_next lane ht flit
  case duplicate => exact portBecomes_data_duplicate lane ht flit
  case gap => exact portBecomes_data_gap lane ht flit
  case ack =>
    refine ⟨_, State.portBecomes_of_setPort (exec_flitReceive_ack lane ht seq), fun z => ?_, ht, rfl, rfl⟩
    simp [imp_iff_not_or]
  case pause =>
    intro on
    exact ⟨_, State.portBecomes_of_setPort (exec_flitReceive_pause lane ht on), rfl, ht, fun k hk => getLsbD_setLane _ lane on hk⟩
  case held => exact exec_flitRetryTimeout_held
  case last =>
    have := State.portBecomes_of_setPort (exec_flitRetryTimeout ht hp ho)
    rwa [resendCount_of_find? hn, if_pos h8] at this
  case again =>
    have := State.portBecomes_of_setPort (exec_flitRetryTimeout ht hp ho)
    rw [resendCount_of_find? hn, if_neg (Nat.not_le.mpr h8)] at this
    exact ⟨_, this, by simp [TwinePort.resent], ht, fun z hz => eq_of_mem_resent hz⟩
  case once =>
    have := State.portBecomes_of_setPort (exec_flitRetryTimeout ht hp ho)
    rwa [resendCount_of_find?_none hn, if_neg (by decide), resent_of_find?_none _ hn] at this

/-! ## Entries of a canonical map -/

section
variable {α β : Type}

theorem FMap.erase_of_lt {m : FMap α} {i : Nat} (h : ∀ e ∈ m, i < e.1) : FMap.erase m i = m := by
  induction m with
  | nil => rfl
  | cons e m ih =>
    have he : i ≠ e.1 := Nat.ne_of_lt (h e List.mem_cons_self)
    simp [FMap.erase, he, ih fun e he => h e (List.mem_cons_of_mem _ he)]

theorem FMap.insert_of_lt {m : FMap α} {i : Nat} (x : α) (h : ∀ e ∈ m, i < e.1) : FMap.insert m i x = (i, x) :: m := by
  cases m with
  | nil => rfl
  | cons e m => simp [FMap.insert, h e List.mem_cons_self]

theorem FMap.get_of_lt {d : α} {m : FMap α} {i : Nat} (h : ∀ e ∈ m, i < e.1) : FMap.get d m i = d := by
  induction m with
  | nil => rfl
  | cons e m ih =>
    have he : i ≠ e.1 := Nat.ne_of_lt (h e List.mem_cons_self)
    simp [FMap.get, he, ih fun e he => h e (List.mem_cons_of_mem _ he)]

/-- A read commutes with a function of the values. -/
theorem FMap.get_map (g : α → β) (d : α) (m : FMap α) (i : Nat) :
    FMap.get (g d) (m.map (Prod.map id g)) i = g (FMap.get d m i) := by
  induction m with
  | nil => rfl
  | cons e m ih =>
    simp only [List.map_cons, Prod.map, FMap.get, id, ih]
    split <;> rfl

variable [DecidableEq α]

/-- The keys of a canonical map rise from its bound. -/
theorem FMap.wfFrom_lt {d : α} {l : Nat} {m : FMap α} (h : FMap.wfFrom d (some l) m = true) : ∀ e ∈ m, l < e.1 := by
  induction m generalizing l with
  | nil => simp
  | cons e m ih =>
    obtain ⟨k, v⟩ := e
    simp only [FMap.wfFrom, Bool.and_eq_true, decide_eq_true_eq] at h
    obtain ⟨⟨hlt, -⟩, hm⟩ := h
    intro e he
    rcases List.mem_cons.mp he with rfl | he
    · exact hlt
    · exact hlt.trans (ih hm e he)

/-- A canonical map reads as its entries. -/
theorem FMap.get_of_mem {d : α} {lo : Option Nat} {m : FMap α} (h : FMap.wfFrom d lo m = true) {k : Nat} {v : α} (hm : (k, v) ∈ m) :
    FMap.get d m k = v := by
  induction m generalizing lo with
  | nil => simp at hm
  | cons e m ih =>
    obtain ⟨k', v'⟩ := e
    simp only [FMap.wfFrom, Bool.and_eq_true] at h
    obtain ⟨-, ht⟩ := h
    rcases List.mem_cons.mp hm with e | hm
    · cases e
      simp [FMap.get]
    · have : k ≠ k' := Nat.ne_of_gt (FMap.wfFrom_lt ht _ hm)
      simp [FMap.get, this, ih ht hm]

/-- A listed value that is replaced by one with the same image under a function leaves the image of the whole map as it was: no entry
comes, goes or moves. -/
theorem FMap.map_set {d : α} (g : α → β) {lo : Option Nat} {m : FMap α} {i : Nat} {x : α} (h : FMap.wfFrom d lo m = true)
    (hi : FMap.get d m i ≠ d) (hx : x ≠ d) (hg : g x = g (FMap.get d m i)) :
    (FMap.set d m i x).map (Prod.map id g) = m.map (Prod.map id g) := by
  rw [FMap.set, if_neg hx]
  induction m generalizing lo with
  | nil => exact absurd rfl hi
  | cons e m ih =>
    obtain ⟨k, v⟩ := e
    simp only [FMap.wfFrom, Bool.and_eq_true] at h
    obtain ⟨-, ht⟩ := h
    by_cases hk : i = k
    · subst hk
      have above := FMap.wfFrom_lt ht
      simp only [FMap.get, if_true] at hg
      simp [FMap.erase, FMap.erase_of_lt above, FMap.insert_of_lt x above, Prod.map, hg]
    · simp only [FMap.get, hk, if_false] at hi hg
      have above : ¬ i < k := fun hlt => hi (FMap.get_of_lt fun e he => hlt.trans (FMap.wfFrom_lt ht e he))
      simp [FMap.erase, FMap.insert, hk, above, ih ht hi hg]

end

/-! ## The ceiling that some bounds give (R425) -/

theorem roundMhz_mono : Monotone roundMhz := fun a b h => by
  unfold roundMhz
  omega

theorem foldl_min_le (xs : List Nat) (a : Nat) : xs.foldl min a ≤ a := by
  induction xs generalizing a with
  | nil => exact le_rfl
  | cons x xs ih => exact (ih _).trans (Nat.min_le_left a x)

/-- The least of the rounded bounds is the rounded least bound. -/
theorem foldl_round_eq (bs : List Nat) (a : Nat) :
    bs.foldl (fun a b => if b = 0 then a else min a (roundMhz b)) (roundMhz a) = rounded50 ((bs.filter (· ≠ 0)).foldl min a) := by
  induction bs generalizing a with
  | nil => rfl
  | cons b bs ih =>
    by_cases hb : b = 0
    · simpa [hb] using ih a
    · simpa [hb, roundMhz_mono.map_min] using ih (min a b)

theorem effective_eq (bs : List Nat) : effective bs = rounded50 ((bs.filter (· ≠ 0)).foldl min 2500) :=
  foldl_round_eq bs 2500

theorem effective_le (bs : List Nat) : effective bs ≤ 2500 := by
  rw [effective_eq]
  exact roundMhz_mono (foldl_min_le _ 2500)

/-- Adding up some of the values of a list. -/
theorem foldl_add_ite {α : Type} (P : α → Prop) [DecidablePred P] (f : α → Nat) (l : List α) (a : Nat) :
    l.foldl (fun a x => if P x then a + f x else a) a = a + (l.map fun x => if P x then f x else 0).sum := by
  induction l generalizing a with
  | nil => rfl
  | cons x l ih =>
    rw [List.foldl_cons, ih, List.map_cons, List.sum_cons]
    split <;> omega

/-- The cause bits of the five bounds: below 2,500 MHz, the bit of each bound that equals the ceiling. -/
theorem causeBits_eq {bs : List Nat} (h : bs.length = 5) :
    causeBits bs = ((List.range 5).map fun k => if (bs[k]?).getD 0 = effective bs ∧ effective bs < 2500 then 2 ^ k else 0).sum := by
  have hle := effective_le bs
  generalize hc : effective bs = ceil at hle
  by_cases h25 : ceil = 2500
  · simp [causeBits, hc, h25]
  · have hlt : ceil < 2500 := by omega
    simp only [causeBits, hc, if_neg h25, hlt, and_true, foldl_add_ite (fun x : Nat × Nat => x.2 = ceil), Nat.zero_add]
    match bs, h with
    | [_, _, _, _, _], _ => rfl

/-- The bounds that an island's ceiling is computed from are those that the statement gives. -/
theorem State.bounds_eq (s : State) (i : Nat) : s.bounds i = s.boundsOf i := by
  unfold State.bounds State.boundsOf State.islandPart Pkg.hallBound
  cases s.hub.parts.find? fun p => p.2.live && p.2.islands.getLsbD i with
  | none => rfl
  | some q =>
    cases s.pkg.frame with
    | none => rfl
    | some f =>
      have noBound (x : BitVec 16) : (if x.toNat = 0xFFFF then 0 else x.toNat) = if x ≠ 0xFFFF#16 then x.toNat else 0 := by
        by_cases h : x = 0xFFFF#16
        · simp [h]
        · have : x.toNat ≠ 0xFFFF := fun e => h (BitVec.eq_of_toNat_eq e)
          simp [h, this]
      simp [noBound]

theorem State.capcauseNow_eq (s : State) (i : Nat) : s.capcauseNow i = s.capWord i := by
  simp only [State.capcauseNow, State.capWord, s.bounds_eq i, causeBits_eq (bs := s.boundsOf i) rfl, effective_eq, State.islandPart]
  cases s.hub.parts.find? fun p => p.2.live && p.2.islands.getLsbD i <;> rfl

/-! ## What a ceiling depends on -/

/-- A partition without what its ceiling does not depend on. -/
def Part.capFields (q : Part) : Part :=
  { Part.none with live := q.live, islands := q.islands, rank := q.rank, ceiling := q.ceiling }

/-- The partitions without what the ceilings do not depend on. -/
def State.capParts (s : State) : FMap Part := s.hub.parts.map (Prod.map id Part.capFields)

/-- Fumarole's state without what the ceilings do not depend on. -/
def Pkg.capInputs (k : Pkg) : Pkg :=
  { Pkg.reset with frame := k.frame, appliedSeq := k.appliedSeq, pkgBound := k.pkgBound, thermBound := k.thermBound, currBound := k.currBound }

theorem State.capParts_find (s : State) (i : Nat) :
    (s.capParts.find? fun p => p.2.live && p.2.islands.getLsbD i) = (s.islandPart i).map (Prod.map id Part.capFields) := by
  rw [State.capParts, List.find?_map]
  rfl

theorem State.capParts_get (s : State) (p : Nat) : FMap.get Part.none s.capParts p = (s.partOf p).capFields :=
  FMap.get_map Part.capFields Part.none s.hub.parts p

/-- The `capcause` of an island depends on these fields alone. -/
theorem State.capcauseNow_congr {s t : State} (hp : t.capParts = s.capParts) (hk : t.pkg.capInputs = s.pkg.capInputs) (i : Nat) :
    t.capcauseNow i = s.capcauseNow i := by
  have hi : (t.islandPart i).map (Prod.map id Part.capFields) = (s.islandPart i).map (Prod.map id Part.capFields) := by
    rw [← State.capParts_find, ← State.capParts_find, hp]
  simp only [Pkg.capInputs, Pkg.mk.injEq, true_and, and_true] at hk
  obtain ⟨hf, hs, hpkg, htherm, hcurr⟩ := hk
  unfold State.capcauseNow State.bounds Pkg.hallBound
  rw [hf, hs, hpkg, htherm, hcurr]
  cases ht : t.islandPart i with
  | none =>
    rw [ht] at hi
    rw [Option.map_eq_none_iff.mp hi.symm]
  | some x =>
    rw [ht] at hi
    obtain ⟨y, hy, hxy⟩ := Option.map_eq_some_iff.mp hi.symm
    have fields : y.2.capFields = x.2.capFields := congrArg Prod.snd hxy
    simp only [Part.capFields, Part.mk.injEq] at fields
    obtain ⟨-, -, -, -, -, hrank, hceiling, -⟩ := fields
    simp only [hy, Option.map_some, hrank, hceiling]

/-! ## The bounds are applied (R425, R427) -/

/-- From one state to another bounds have been applied: the causes of islands and the event rings of partitions may differ, and
nothing that a ceiling depends on. -/
structure State.CapsApplied (s t : State) : Prop where
  rest : t = { s with pkg := { s.pkg with capcause := t.pkg.capcause }, hub := { s.hub with parts := t.hub.parts } }
  wf : t.partsWf
  parts : t.capParts = s.capParts

namespace State.CapsApplied
variable {s t u : State}

theorem refl (h : s.partsWf) : s.CapsApplied s := ⟨rfl, h, rfl⟩

theorem trans (h : s.CapsApplied t) (h' : t.CapsApplied u) : s.CapsApplied u where
  rest := by rw [h'.rest, h.rest]
  wf := h'.wf
  parts := h'.parts.trans h.parts

theorem pkg (h : s.CapsApplied t) : t.pkg = { s.pkg with capcause := t.pkg.capcause } := congrArg State.pkg h.rest

theorem hub (h : s.CapsApplied t) : t.hub = { s.hub with parts := t.hub.parts } := congrArg State.hub h.rest

theorem capcauseNow (h : s.CapsApplied t) (i : Nat) : t.capcauseNow i = s.capcauseNow i :=
  State.capcauseNow_congr h.parts (by rw [h.pkg]; rfl) i

theorem capFields (h : s.CapsApplied t) (p : Nat) : (t.partOf p).capFields = (s.partOf p).capFields := by
  rw [← State.capParts_get, ← State.capParts_get, h.parts]

end State.CapsApplied

/-- The partition that owns an island stands, under its number. -/
theorem State.islandPart_some {s : State} {i p : Nat} {q : Part} (hwf : s.partsWf) (h : s.islandPart i = some (p, q)) :
    s.partOf p = q ∧ q.live = true := by
  have live := List.find?_some h
  simp only [Bool.and_eq_true] at live
  exact ⟨FMap.get_of_mem hwf (List.mem_of_find?_eq_some h), live.1⟩

theorem Part.ne_none_of_live {q : Part} (h : q.live = true) : q ≠ Part.none := fun e => by simp [e, Part.none] at h

/-- A standing partition gets an event: no ceiling depends on it. -/
theorem State.postEvent_applied {s : State} {p : Nat} (hwf : s.partsWf) (h : (s.partOf p).live = true) (type : BitVec 8) (ctx : Nat)
    (body : List Word) : s.CapsApplied (s.postEvent p type ctx body) where
  rest := rfl
  wf := FMap.wf_set _ _ _ _ hwf
  parts := FMap.map_set Part.capFields hwf (Part.ne_none_of_live h) (Part.ne_none_of_live h) rfl

theorem State.postEvent_notified (s : State) (p type ctx : Nat) (body : List Word) :
    s.notified (s.postEvent p (BitVec.ofNat 8 type) ctx body) p type ctx body := by
  unfold State.notified State.postEvent
  rw [State.partOf_setPart, if_pos rfl]
  exact ⟨_, rfl, rfl, rfl, rfl, rfl, rfl⟩

/-- The state in which an island's cause is that of its bounds, before any event. -/
def State.setCause (s : State) (i : Nat) : State :=
  { s with pkg := { s.pkg with capcause := FMap.set capcause0 s.pkg.capcause i (s.capcauseNow i) } }

/-- The ceiling in a `capcause`. -/
def capCeiling (w : Word) : Nat := w.toNat / 65536 % 4096

/-- A ceiling that changes tells the partition that owns the island (R419). -/
theorem State.updateCap_event {s : State} {i p : Nat} {q : Part} (h : s.islandPart i = some (p, q))
    (hne : capCeiling (FMap.get capcause0 s.pkg.capcause i) ≠ capCeiling (s.capcauseNow i)) :
    s.updateCap i = (s.setCause i).postEvent p 4 0xFFFF [BitVec.ofNat 64 i, s.capcauseNow i, 0, 0] := by
  have part : (s.setCause i).islandPart i = some (p, q) := h
  have differ : ¬ bitsOf (FMap.get capcause0 s.pkg.capcause i).toNat 16 12 = bitsOf (s.capcauseNow i).toNat 16 12 := hne
  unfold State.updateCap
  dsimp only
  rw [if_neg differ]
  unfold State.setCause at *
  simp only [part]

/-- Applying the bounds to an island sets its cause, and may tell a standing partition. -/
theorem State.updateCap_cases {s : State} (i : Nat) (hwf : s.partsWf) :
    s.updateCap i = s.setCause i
      ∨ ∃ p, (s.partOf p).live = true ∧ s.updateCap i = (s.setCause i).postEvent p 4 0xFFFF [BitVec.ofNat 64 i, s.capcauseNow i, 0, 0] := by
  by_cases hne : capCeiling (FMap.get capcause0 s.pkg.capcause i) = capCeiling (s.capcauseNow i)
  · exact .inl (if_pos hne)
  · cases h : s.islandPart i with
    | some x =>
      obtain ⟨hq, hl⟩ := State.islandPart_some hwf h
      exact .inr ⟨x.1, hq ▸ hl, State.updateCap_event h hne⟩
    | none =>
      refine .inl ((if_neg hne).trans ?_)
      have part : (s.setCause i).islandPart i = none := h
      unfold State.setCause at *
      simp only [part]

theorem State.updateCap_applied {s : State} (i : Nat) (hwf : s.partsWf) : s.CapsApplied (s.updateCap i) := by
  have cause : s.CapsApplied (s.setCause i) := ⟨rfl, hwf, rfl⟩
  rcases State.updateCap_cases i hwf with h | ⟨p, hl, h⟩ <;> rw [h]
  · exact cause
  · exact cause.trans (State.postEvent_applied (s := s.setCause i) hwf hl _ _ _)

theorem State.updateCap_capcause {s : State} (i : Nat) (hwf : s.partsWf) (k : Nat) :
    FMap.get capcause0 (s.updateCap i).pkg.capcause k = if k = i then s.capcauseNow i else FMap.get capcause0 s.pkg.capcause k := by
  rcases State.updateCap_cases i hwf with h | ⟨p, -, h⟩ <;> rw [h] <;> exact FMap.get_set ..

theorem State.foldl_updateCap {s : State} (is : List Nat) (hwf : s.partsWf) :
    s.CapsApplied (is.foldl State.updateCap s) ∧ ∀ k, FMap.get capcause0 (is.foldl State.updateCap s).pkg.capcause k
      = if k ∈ is then s.capcauseNow k else FMap.get capcause0 s.pkg.capcause k := by
  induction is generalizing s with
  | nil => exact ⟨.refl hwf, fun k => by simp⟩
  | cons i is ih =>
    have first := State.updateCap_applied i hwf
    obtain ⟨later, causes⟩ := ih first.wf
    refine ⟨first.trans later, fun k => ?_⟩
    rw [List.foldl_cons, causes k, first.capcauseNow, State.updateCap_capcause i hwf]
    by_cases hk : k = i <;> simp [hk]

theorem State.updateCaps_applied {s : State} (hwf : s.partsWf) : s.CapsApplied s.updateCaps := (State.foldl_updateCap _ hwf).1

/-- A state whose causes are those of its bounds stays so where neither changes. -/
theorem State.capped_congr {s t : State} (hp : t.capParts = s.capParts) (hk : t.pkg.capInputs = s.pkg.capInputs)
    (hc : t.pkg.capcause = s.pkg.capcause) (h : s.capped s) : t.capped t := fun i hi => by
  rw [hc, h i hi, ← State.capcauseNow_eq, ← State.capcauseNow_eq, State.capcauseNow_congr hp hk]

/-- After the bounds are applied the cause of every island is what they give. -/
theorem State.updateCaps_capped {s : State} (hwf : s.partsWf) : s.updateCaps.capped s.updateCaps := fun i hi => by
  obtain ⟨applied, causes⟩ := State.foldl_updateCap (List.range 32) hwf
  rw [← State.capcauseNow_eq]
  exact ((causes i).trans (if_pos (List.mem_range.mpr hi))).trans (applied.capcauseNow i).symm

/-! ## Commands of the hypervisor's ring (R416) -/

theorem State.hvCommand_ready {s : State} (i : RingEntry) (f : State → Nat × State) (h : s.ringReady 16 = true) :
    s.hvCommand i 16 f = .next ((f (s.running 16)).2.putStatus 16 s.hub.hvCmds (f (s.running 16)).1) := by
  simp only [State.hvCommand, State.command, h, if_true]
  rfl

/-- A command that leaves everything as it was only takes its entry and writes its status. -/
theorem State.hvCommand_answered {s : State} (i : RingEntry) {f : State → Nat × State} {st : Nat} (h : s.ringReady 16 = true)
    (hf : f (s.running 16) = (st, s.running 16)) : s.hvCommand i 16 f = .next (s.answered 16 st id) := by
  rw [State.hvCommand_ready i f h, hf]
  rfl

/-- A command on a partition that stands runs on it. -/
theorem State.partCommand_ready {s : State} (i : RingEntry) {part : Word} (f : State → Nat → Nat × State) (h : s.ringReady 16 = true)
    (hp : part.toNat ≤ 15) (hl : (s.partOf part.toNat).live = true) :
    s.partCommand i 16 part f = s.hvCommand i 16 fun s => f s part.toNat := by
  have stands : ¬ (15 < part.toNat ∨ (!((s.running 16).partOf part.toNat).live) = true) := by
    rintro (hgt | hdead)
    · omega
    · simp [show ((s.running 16).partOf part.toNat).live = true from hl] at hdead
  rw [State.partCommand, State.hvCommand_ready i _ h, State.hvCommand_ready i _ h, if_neg stands]

theorem State.reports_putStatus {s u : State} (st : Nat) (h : u.hub.hvCmds = s.hub.hvCmds + 1) :
    s.reports (u.putStatus 16 s.hub.hvCmds st) 16 st := by
  simp [State.reports, State.putStatus, h]

/-- A standing partition's rank or ceiling changes, and the bounds are applied with it (R425). -/
theorem State.partChange_applied {s : State} {p : Nat} {g : Part → Part} (hwf : s.partsWf) :
    let t := ((s.running 16).setPart p g).updateCaps.putStatus 16 s.hub.hvCmds 0
    t.capped t ∧ s.reports t 16 0 ∧ (t.partOf p).capFields = (g (s.partOf p)).capFields ∧ t.pkg.frame = s.pkg.frame := by
  have wf : ((s.running 16).setPart p g).partsWf := FMap.wf_set _ _ _ _ hwf
  have applied := State.updateCaps_applied wf
  refine ⟨State.capped_congr rfl rfl rfl (State.updateCaps_capped wf), State.reports_putStatus 0 ?_, ?_, ?_⟩
  · rw [applied.hub]
    rfl
  · show (((s.running 16).setPart p g).updateCaps.partOf p).capFields = _
    rw [applied.capFields, State.partOf_setPart, if_pos rfl]
    rfl
  · show ((s.running 16).setPart p g).updateCaps.pkg.frame = _
    rw [applied.pkg]
    rfl

section
variable {s : State} {part w : Word} (hr : s.ringReady 16 = true) (hp : part.toNat ≤ 15) (hl : (s.partOf part.toNat).live = true)
include hr hp hl

theorem exec_rank (hw : w.toNat ≤ 15) :
    exec (.rank 16 part w) s = .next (((s.running 16).setPart part.toNat fun q =>
      { q with rank := w.setWidth 4 }).updateCaps.putStatus 16 s.hub.hvCmds 0) := by
  show execRank 16 part w s = _
  rw [execRank, State.partCommand_ready _ _ hr hp hl, State.hvCommand_ready _ _ hr, if_neg (Nat.not_lt.mpr hw)]

theorem exec_rank_badarg (hw : 15 < w.toNat) : exec (.rank 16 part w) s = .next (s.answered 16 2 id) := by
  show execRank 16 part w s = _
  rw [execRank, State.partCommand_ready _ _ hr hp hl]
  exact State.hvCommand_answered _ hr (if_pos hw)

theorem exec_partceil (hw : w = 0 ∨ (800 ≤ w.toNat ∧ w.toNat ≤ 2500)) :
    exec (.partceil 16 part w) s = .next (((s.running 16).setPart part.toNat fun q =>
      { q with ceiling := w.toNat }).updateCaps.putStatus 16 s.hub.hvCmds 0) := by
  have good : ¬ (w ≠ 0 ∧ (w.toNat < 800 ∨ 2500 < w.toNat)) := by
    rintro ⟨h0, h⟩
    have := hw.resolve_left h0
    omega
  show execPartceil 16 part w s = _
  rw [execPartceil, State.partCommand_ready _ _ hr hp hl, State.hvCommand_ready _ _ hr, if_neg good]

theorem exec_partceil_badarg (hw : w ≠ 0 ∧ (w.toNat < 800 ∨ 2500 < w.toNat)) :
    exec (.partceil 16 part w) s = .next (s.answered 16 2 id) := by
  show execPartceil 16 part w s = _
  rw [execPartceil, State.partCommand_ready _ _ hr hp hl]
  exact State.hvCommand_answered _ hr (if_pos hw)

end

theorem exec_pkglimit {s : State} {w : Word} (hr : s.ringReady 16 = true) (hw : 1500 ≤ w.toNat ∧ w.toNat ≤ 8000) :
    exec (.pkglimit 16 w) s = .next (((s.running 16).setPkg fun k => { k with pkgLimit := w.toNat }).putStatus 16 s.hub.hvCmds 0) := by
  show execPkglimit 16 w s = _
  rw [execPkglimit, State.hvCommand_ready _ _ hr, if_neg (by omega)]

theorem exec_pkglimit_badarg {s : State} {w : Word} (hr : s.ringReady 16 = true) (hw : ¬ (1500 ≤ w.toNat ∧ w.toNat ≤ 8000)) :
    exec (.pkglimit 16 w) s = .next (s.answered 16 2 id) := by
  show execPkglimit 16 w s = _
  exact State.hvCommand_answered _ hr (if_pos (by omega))

/-! ## Cap frames (R424, R426) -/

/-- The checks of R426: the layout, the key's slot and that it holds a key, the sequence and the signature. -/
theorem Pkg.accepts_iff (k : Pkg) (f : CapFrame) : k.accepts f = true ↔
    f.payload.length = 1344 ∧ bytesAt f.payload 0 4 = 0x43415046 ∧ bytesAt f.payload 4 2 = 1 ∧ bytesAt f.payload 7 1 = 0
      ∧ bytesAt f.payload 0x14 12 = 0 ∧ bytesAt f.payload 6 1 ≤ 1 ∧ (FMap.get none k.hallKeys (bytesAt f.payload 6 1)).isSome = true
      ∧ k.capSeq.toNat < bytesAt f.payload 8 8 ∧ f.sigOk = true := by
  simp only [Pkg.accepts, frameSound, Bool.and_eq_true, beq_iff_eq, decide_eq_true_eq, and_assoc]
  rfl

section
variable {s : State} {f : CapFrame}

theorem exec_capFrame_elsewhere (h : f.udpPort ≠ 7218) : exec (.capFrame f) s = .next s := if_pos h

theorem exec_capFrame (h : f.udpPort = 7218) : exec (.capFrame f) s = .next (s.setPkg fun k =>
    if k.frameNext.isNone then k.checkFrame f s.time
    else if k.framesWaiting.length < 4 then { k with framesWaiting := k.framesWaiting ++ [(f, s.time)] }
    else { k with framesDropped := k.framesDropped + 1 }) := if_neg (not_not.mpr h)

section
variable (h : f.udpPort = 7218)
include h

theorem exec_capFrame_accepted (hn : s.pkg.frameNext = none) (hg : s.pkg.accepts f = true) :
    exec (.capFrame f) s = .next { s with pkg := { s.pkg with
      capSeq := BitVec.ofNat 64 (frameSeq f), frameNext := some (frameHeld f s.time) } } := by
  rw [exec_capFrame h, State.setPkg, hn, Pkg.checkFrame, hg]
  rfl

theorem exec_capFrame_refused (hn : s.pkg.frameNext = none) (hg : ¬ s.pkg.accepts f = true) :
    exec (.capFrame f) s = .next { s with pkg := { s.pkg with framesDropped := s.pkg.framesDropped + 1 } } := by
  rw [exec_capFrame h, State.setPkg, hn, Pkg.checkFrame, if_neg hg]
  rfl

theorem exec_capFrame_waits (hn : s.pkg.frameNext ≠ none) (hlen : s.pkg.framesWaiting.length < 4) :
    exec (.capFrame f) s = .next { s with pkg := { s.pkg with framesWaiting := s.pkg.framesWaiting ++ [(f, s.time)] } } := by
  rw [exec_capFrame h, State.setPkg, if_neg (by simpa using hn), if_pos hlen]

theorem exec_capFrame_dropped (hn : s.pkg.frameNext ≠ none) (hlen : 4 ≤ s.pkg.framesWaiting.length) :
    exec (.capFrame f) s = .next { s with pkg := { s.pkg with framesDropped := s.pkg.framesDropped + 1 } } := by
  rw [exec_capFrame h, State.setPkg, if_neg (by simpa using hn), if_neg (Nat.not_lt.mpr hlen)]

end
end

theorem Pkg.checkWaiting_of_next {k : Pkg} (n : Nat) (h : k.frameNext.isSome = true) : k.checkWaiting n = k := by
  cases n with
  | zero => rfl
  | succ n => exact if_pos h

/-- The first frame that waits is accepted, and the others wait on. -/
theorem Pkg.checkWaiting_accepted {k : Pkg} {f : CapFrame} {time : Nat} {rest : List (CapFrame × Nat)} (hn : k.frameNext = none)
    (hw : k.framesWaiting = (f, time) :: rest) (hg : k.accepts f = true) :
    k.checkWaiting k.framesWaiting.length = { k with
      capSeq := BitVec.ofNat 64 (frameSeq f), frameNext := some (frameHeld f time), framesWaiting := rest } := by
  have accepted : { k with framesWaiting := rest }.accepts f = true := hg
  have checked : { k with framesWaiting := rest }.checkFrame f time = { k with
      capSeq := BitVec.ofNat 64 (frameSeq f), frameNext := some (frameHeld f time), framesWaiting := rest } := if_pos accepted
  rw [hw, List.length_cons, Pkg.checkWaiting, if_neg (by simp [hn]), hw]
  dsimp only
  rw [checked]
  exact Pkg.checkWaiting_of_next _ rfl

/-- The state in which the frame that was accepted is in force. -/
def State.withFrame (s : State) (x : FrameInForce) : State :=
  s.setPkg fun k => { k with frame := some x, frameNext := none, appliedSeq := x.seq }

/-- The accepted frame comes into force, and those that wait behind it are checked. -/
theorem exec_capFrameApply {s : State} {x : FrameInForce} (h : s.pkg.frameNext = some x) :
    exec .capFrameApply s = .next ((s.withFrame x).updateCaps.setPkg fun k => k.checkWaiting k.framesWaiting.length) := by
  show execCapFrameApply s = _
  simp only [execCapFrameApply, h]
  rfl

theorem exec_capFrameApply_alone {s : State} {x : FrameInForce} (hwf : s.partsWf) (h : s.pkg.frameNext = some x)
    (hw : s.pkg.framesWaiting = []) : exec .capFrameApply s = .next (s.withFrame x).updateCaps := by
  have waiting : (s.withFrame x).updateCaps.pkg.framesWaiting = [] := by
    rw [(State.updateCaps_applied (s := s.withFrame x) hwf).pkg]
    exact hw
  rw [exec_capFrameApply h, State.setPkg, waiting]
  rfl

/-- A frame that waits behind the one applied is accepted then. -/
theorem exec_capFrameApply_behind {s : State} {x : FrameInForce} {f : CapFrame} {time : Nat} {rest : List (CapFrame × Nat)} (hwf : s.partsWf)
    (h : s.pkg.frameNext = some x) (hw : s.pkg.framesWaiting = (f, time) :: rest) (hg : s.pkg.accepts f = true) :
    exec .capFrameApply s = .next ((s.withFrame x).updateCaps.setPkg fun k => { k with
      capSeq := BitVec.ofNat 64 (frameSeq f), frameNext := some (frameHeld f time), framesWaiting := rest }) := by
  have applied := (State.updateCaps_applied (s := s.withFrame x) hwf).pkg
  have noNext : (s.withFrame x).updateCaps.pkg.frameNext = none := by
    rw [applied]
    rfl
  have waiting : (s.withFrame x).updateCaps.pkg.framesWaiting = (f, time) :: rest := by
    rw [applied]
    exact hw
  have accepted : (s.withFrame x).updateCaps.pkg.accepts f = true := by
    rw [applied]
    exact hg
  rw [exec_capFrameApply h, State.setPkg, Pkg.checkWaiting_accepted noNext waiting accepted]
  rfl

/-- A frame's life has passed (R426). -/
def FrameInForce.lapsed (x : FrameInForce) (time : Nat) : Prop := x.received + 10000000 * x.life.toNat ≤ time

theorem any_over_iff {o : Option FrameInForce} {time : Nat} :
    o.any (·.over time) = true ↔ ∃ y, o = some y ∧ y.lapsed time := by
  simp [Option.any_eq_true, FrameInForce.over, FrameInForce.lapsed]

/-- An accepted frame that lapses before it is applied makes room for the first that waits. -/
theorem exec_capFrameLapse_next {s : State} {x : FrameInForce} {f : CapFrame} {time : Nat} {rest : List (CapFrame × Nat)}
    (hf : ∀ y, s.pkg.frame = some y → ¬ y.lapsed s.time) (hn : s.pkg.frameNext = some x) (hx : x.lapsed s.time)
    (hw : s.pkg.framesWaiting = (f, time) :: rest) (hg : s.pkg.accepts f = true) :
    exec .capFrameLapse s = .next { s with pkg := { s.pkg with
      capSeq := BitVec.ofNat 64 (frameSeq f), frameNext := some (frameHeld f time), framesWaiting := rest } } := by
  have force : ¬ s.pkg.frame.any (·.over s.time) = true := fun h => by
    obtain ⟨y, hy, hle⟩ := any_over_iff.mp h
    exact hf y hy hle
  have next := Pkg.checkWaiting_accepted (k := { s.pkg with frameNext := none }) rfl hw hg
  show execCapFrameLapse s = _
  unfold execCapFrameLapse
  rw [if_neg force]
  dsimp only
  rw [if_pos (any_over_iff.mpr ⟨x, hn, hx⟩)]
  exact congrArg (fun k => Host.Outcome.next { s with pkg := k }) next

/-- The state in which no frame is in force any more. -/
def State.withoutFrame (s : State) : State := s.setPkg fun k => { k with frame := none }

/-- The frame in force lapses, and the bounds are applied without it. -/
theorem exec_capFrameLapse_force {s : State} {x : FrameInForce} (hwf : s.partsWf) (hf : s.pkg.frame = some x)
    (hx : x.lapsed s.time) (hn : ∀ y, s.pkg.frameNext = some y → ¬ y.lapsed s.time) :
    exec .capFrameLapse s = .next s.withoutFrame.updateCaps := by
  have next : ¬ s.withoutFrame.updateCaps.pkg.frameNext.any (·.over s.withoutFrame.updateCaps.time) = true := fun h => by
    rw [(State.updateCaps_applied (s := s.withoutFrame) hwf).rest] at h
    obtain ⟨y, hy, hle⟩ := any_over_iff.mp h
    exact hn y hy hle
  show execCapFrameLapse s = _
  unfold execCapFrameLapse
  rw [if_pos (any_over_iff.mpr ⟨x, hf, hx⟩)]
  exact if_neg next

/-! ## Control loops (R425) -/

/-- Writing a map at the keys of a list that a test lets through leaves the others. -/
theorem FMap.get_foldl_unless {α : Type} [DecidableEq α] (d : α) (skip : Nat → Prop) [DecidablePred skip] (f : Nat → α) (ks : List Nat)
    (m : FMap α) {k : Nat} (h : skip k) :
    FMap.get d (ks.foldl (fun m i => if skip i then m else FMap.set d m i (f i)) m) k = FMap.get d m k := by
  induction ks generalizing m with
  | nil => rfl
  | cons i ks ih =>
    rw [List.foldl_cons, ih]
    split
    · rfl
    · next hi =>
      have hne : k ≠ i := by
        rintro rfl
        exact hi h
      rw [FMap.get_set, if_neg hne]

/-- The PKG loop sets bounds, and applies them; a parked island keeps its own. -/
theorem exec_pkgControlTick (s : State) : ∃ u : State, exec .pkgControlTick s = .next u.updateCaps ∧ u.hub = s.hub
    ∧ ∀ i, FMap.get ParkState.running s.pkg.parkState i = .parked → FMap.get 0 u.pkg.pkgBound i = FMap.get 0 s.pkg.pkgBound i :=
  ⟨_, rfl, rfl, fun _ hi => FMap.get_foldl_unless 0 (fun i => FMap.get ParkState.running s.pkg.parkState i = .parked) _ _ _ hi⟩

/-- The THERM loop sets bounds of its own, and applies them. -/
theorem exec_thermControlTick (s : State) : ∃ u : State, exec .thermControlTick s = .next u.updateCaps ∧ u.hub = s.hub
    ∧ u.pkg.pkgBound = s.pkg.pkgBound := ⟨_, rfl, rfl, rfl⟩

/-- The state in which an island's CURR bound has been set at a time. -/
def State.withCurr (s : State) (island mhz time : Nat) : State :=
  s.setPkg fun k => { k with currBound := FMap.set 0 k.currBound island mhz, currAt := FMap.set 0 k.currAt island time }

theorem exec_regulatorAlert {s : State} {island : Nat} (mhz : Nat) (h : island < 32) :
    exec (.regulatorAlert island mhz) s = .next ((s.withCurr island mhz s.time).updateCap island) := if_neg (Nat.not_le.mpr h)

theorem exec_currHoldExpiry {s : State} {island : Nat} (hb : FMap.get 0 s.pkg.currBound island ≠ 0)
    (ht : FMap.get 0 s.pkg.currAt island + 10000000 ≤ s.time) :
    exec (.currHoldExpiry island) s = .next ((s.withCurr island 0 0).updateCap island) := if_pos ⟨hb, ht⟩

/-- After a CURR bound is set, the island's cause is that of its bounds. -/
theorem State.withCurr_updateCap {s : State} (island mhz time : Nat) (hwf : s.partsWf) :
    let t := (s.withCurr island mhz time).updateCap island
    FMap.get 0 t.pkg.currBound island = mhz ∧ FMap.get capcause0 t.pkg.capcause island = t.capWord island := by
  have applied := State.updateCap_applied (s := s.withCurr island mhz time) island hwf
  refine ⟨?_, ?_⟩
  · rw [applied.pkg]
    simp [State.withCurr]
  · rw [State.updateCap_capcause (s := s.withCurr island mhz time) island hwf, if_pos rfl, ← State.capcauseNow_eq, applied.capcauseNow]

/-- A current limit that changes a ceiling tells the partition that owns the island, and no other (R419). -/
theorem exec_regulatorAlert_notified {s : State} {island mhz p : Nat} {q : Part} (h : island < 32) (hi : s.islandPart island = some (p, q)) :
    let u : State := { s with pkg := { s.pkg with currBound := FMap.set 0 s.pkg.currBound island mhz } }
    capCeiling (FMap.get capcause0 s.pkg.capcause island) ≠ capCeiling (u.capWord island) →
      ∃ t : State, exec (.regulatorAlert island mhz) s = .next t
        ∧ s.notified t p 4 0xFFFF [BitVec.ofNat 64 island, u.capWord island, 0, 0]
        ∧ (∀ n, n ≠ p → t.partOf n = s.partOf n) ∧ t.mem = s.mem ∧ t.me = s.me := by
  intro u hne
  have word : (s.withCurr island mhz s.time).capcauseNow island = u.capWord island := u.capcauseNow_eq island
  rw [← word] at hne ⊢
  refine ⟨_, (exec_regulatorAlert mhz h).trans (congrArg _ (State.updateCap_event (s := s.withCurr island mhz s.time) hi hne)), ?_, ?_, rfl, rfl⟩
  · exact State.postEvent_notified ((s.withCurr island mhz s.time).setCause island) p 4 0xFFFF _
  · intro n hn
    rw [State.postEvent, State.partOf_setPart, if_neg hn]
    rfl

/-! ## Retention (R428) -/

theorem State.islandIdle_iff (s : State) (island : Nat) : s.islandIdle island = true ↔
    (∀ t ∈ s.all, t.bound = true → t.core / 80 ≠ island) ∧ (∀ o ∈ s.eng.ops, o.2.live = true → o.2.core / 80 ≠ island) := by
  simp [State.islandIdle, coreIsland]

section
variable {s : State} {island : Nat} {w : Word} (hw : w.toNat = island) (hi : island < 32) (hr : s.ringReady 16 = true)
include hw hi hr

theorem exec_park (hidle : s.islandIdle island = true) (hx : s.parkOf island = .running) :
    exec (.park 16 w) s = s.startPark island .entering := by
  subst hw
  exact if_pos ⟨rfl, hr, hi, hidle, hx⟩

theorem exec_park_busy (h : ¬ s.islandIdle island = true ∨ ¬ s.parkOf island = .running) :
    exec (.park 16 w) s = .next (s.answered 16 3 id) := by
  subst hw
  have : ¬ (16 = hvRing ∧ s.ringReady 16 = true ∧ w.toNat < 32 ∧ s.islandIdle w.toNat = true ∧ s.parkOf w.toNat = .running) := by
    rintro ⟨-, -, -, hidle, hx⟩
    exact h.elim (· hidle) (· hx)
  refine (if_neg this).trans (State.hvCommand_answered _ hr ?_)
  rw [if_neg (Nat.not_le.mpr hi)]

theorem exec_unpark (hx : s.parkOf island = .parked) : exec (.unpark 16 w) s = s.startPark island .exiting := by
  subst hw
  have asleep : s.parkOf w.toNat ≠ .running := by
    rw [hx]
    decide
  have settled : s.parkOf w.toNat ≠ .entering := by
    rw [hx]
    decide
  exact (if_pos ⟨rfl, hr, hi, asleep⟩).trans (congrArg _ (if_neg settled))

theorem exec_unpark_running (hx : s.parkOf island = .running) : exec (.unpark 16 w) s = .next (s.answered 16 0 id) := by
  subst hw
  have : ¬ (16 = hvRing ∧ s.ringReady 16 = true ∧ w.toNat < 32 ∧ s.parkOf w.toNat ≠ .running) := by
    rintro ⟨-, -, -, hne⟩
    exact hne hx
  refine (if_neg this).trans (State.hvCommand_answered _ hr ?_)
  rw [if_neg (Nat.not_le.mpr hi)]

end

/-- A PARK or UNPARK that starts takes no entry yet: it is under way. -/
theorem State.startPark_started (s : State) (island : Nat) (x : ParkState) : ∃ t : State,
    s.startPark island x = .next t ∧ t.parkOf island = x ∧ t.hub.hvPark = some island ∧ t.hub.hvCmds = s.hub.hvCmds :=
  ⟨_, rfl, (State.parkOf_setPark s island island x).trans (if_pos rfl), rfl, rfl⟩

theorem exec_islandExit {s : State} {island : Nat} (h : s.parkOf island = .parked) :
    exec (.islandExit island) s = .next (s.setPark island .exiting) := if_pos h

/-- An event ends an island's retention entry or exit, and completes the command that waits for it. -/
def State.retentionEnds (s : State) (island : Nat) (e : Instr) (x : ParkState) : Prop :=
  ∃ t : State, exec e s = .next t ∧ t.parkOf island = x ∧ t.mem = s.mem
    ∧ (s.hub.hvPark = some island → s.reports t 16 0 ∧ t.hub.hvPark = none) ∧ (s.hub.hvPark ≠ some island → t.hub = s.hub)

theorem State.parkDone_waiting {s : State} {island : Nat} (h : s.hub.hvPark = some island) :
    s.parkDone island = (((s.setHub fun h => { h with hvPark := none }).running 16).putStatus 16 s.hub.hvCmds 0) := if_pos h

theorem State.parkDone_other {s : State} {island : Nat} (h : s.hub.hvPark ≠ some island) : s.parkDone island = s := if_neg h

theorem State.retentionEnds_of_parkDone {s : State} {island : Nat} {e : Instr} {x : ParkState}
    (h : exec e s = .next ((s.setPark island x).parkDone island)) : s.retentionEnds island e x := by
  have here : (s.setPark island x).parkOf island = x := by simp
  refine ⟨_, h, ?_⟩
  by_cases hp : s.hub.hvPark = some island
  · rw [State.parkDone_waiting (s := s.setPark island x) hp]
    exact ⟨here, rfl, fun _ => ⟨State.reports_putStatus 0 rfl, rfl⟩, fun hne => absurd hp hne⟩
  · rw [State.parkDone_other (s := s.setPark island x) hp]
    exact ⟨here, rfl, fun heq => absurd heq hp, fun _ => rfl⟩

/-- Where no unit is parked, a change of tags has nothing to look up again (R250). -/
theorem State.afterTagChange_of_unparked {s : State} (affected : AccessUnit → Bool) (h : s.mem.parked = []) :
    s.afterTagChange affected = s := by
  have one : reevaluate affected s = sweep 1 affected s := by
    simp only [reevaluate, act_get_bind, h, List.length_nil]
  have pass : sweep 1 affected s = .ok () s := by
    simp only [sweep, act_get_bind, h, sweepPass, act_pure_bind, List.any_nil]
    rfl
  rw [State.afterTagChange, one, pass]

theorem State.parkDone_mem (s : State) (island : Nat) : (s.parkDone island).mem = s.mem := by
  by_cases h : s.hub.hvPark = some island
  · rw [State.parkDone_waiting h]
    rfl
  · rw [State.parkDone_other h]

theorem State.exitDone_of_unparked {s : State} (island : Nat) (h : s.mem.parked = []) :
    s.exitDone island = (s.setPark island .running).parkDone island := by
  have unparked : ((s.setPark island .running).parkDone island).mem.parked = [] := by
    rw [State.parkDone_mem]
    exact h
  exact State.afterTagChange_of_unparked _ unparked

theorem exec_retentionComplete_entering {s : State} {island : Nat} (h : s.parkOf island = .entering) :
    exec (.retentionComplete island) s = .next ((s.setPark island .parked).parkDone island) := by
  show execRetentionComplete island s = _
  rw [execRetentionComplete, h]

theorem exec_retentionComplete_exiting {s : State} {island : Nat} (h : s.parkOf island = .exiting) :
    exec (.retentionComplete island) s = .next (s.exitDone island) := by
  show execRetentionComplete island s = _
  rw [execRetentionComplete, h]

/-! ## The statement on caps and retention -/

/-- Settles O46: the commands on ranks and ceilings, the frames, the control loops and the CURR bound; the event of a ceiling that
changes; the entry to retention and the exit. -/
theorem capsAndRetention : Obligations.CapsAndRetention := by
  unfold Obligations.CapsAndRetention
  refine ⟨?caps, ?event, ?retention⟩
  case caps =>
    intro p island mhz part w f s hwf
    refine ⟨?commands, ?limit, ⟨?elsewhere, ?accepted, ?refused, ?waits, ?dropped, ?apply, ?behind, ?lapse⟩, ?pkg, ?therm, ?curr⟩
    case commands =>
      rintro hr rfl hp hl
      have changed (g : Part → Part) := State.partChange_applied (p := part.toNat) (g := g) hwf
      refine ⟨fun hw => ?_, exec_rank_badarg hr hp hl, fun hw => ?_, exec_partceil_badarg hr hp hl⟩
      · obtain ⟨capped, reports, fields, frame⟩ := changed fun q => { q with rank := w.setWidth 4 }
        exact ⟨_, exec_rank hr hp hl hw, capped, reports, congrArg Part.rank fields, frame⟩
      · obtain ⟨capped, reports, fields, -⟩ := changed fun q => { q with ceiling := w.toNat }
        exact ⟨_, exec_partceil hr hp hl hw, capped, reports, congrArg Part.ceiling fields⟩
    case limit =>
      intro hr
      split
      · next hw => exact ⟨_, exec_pkglimit hr hw, State.reports_putStatus 0 rfl, rfl⟩
      · next hw => exact exec_pkglimit_badarg hr hw
    case elsewhere => exact exec_capFrame_elsewhere
    case accepted => exact fun h hn hg => exec_capFrame_accepted h hn ((Pkg.accepts_iff _ f).mpr hg)
    case refused => exact fun h hn hg => exec_capFrame_refused h hn (hg ∘ (Pkg.accepts_iff _ f).mp)
    case waits => exact exec_capFrame_waits
    case dropped => exact exec_capFrame_dropped
    case apply =>
      intro x hn hw
      refine ⟨_, exec_capFrameApply_alone hwf hn hw, State.updateCaps_capped hwf, ?_⟩
      dsimp only
      rw [(State.updateCaps_applied (s := s.withFrame x) hwf).pkg]
      exact ⟨rfl, rfl, rfl, rfl⟩
    case behind =>
      intro x rest time hn hw
      refine ⟨fun hg => ⟨_, exec_capFrameApply_behind hwf hn hw ((Pkg.accepts_iff _ f).mpr hg), ?_⟩,
        fun hg hx hf => exec_capFrameLapse_next hf hn hx hw ((Pkg.accepts_iff _ f).mpr hg)⟩
      rw [State.setPkg_pkg, (State.updateCaps_applied (s := s.withFrame x) hwf).pkg]
      exact ⟨rfl, rfl, rfl, rfl⟩
    case lapse =>
      intro x hf hx hn
      refine ⟨_, exec_capFrameLapse_force hwf hf hx hn, State.updateCaps_capped hwf, ?_⟩
      dsimp only
      rw [(State.updateCaps_applied (s := s.withoutFrame) hwf).pkg]
      exact ⟨rfl, rfl⟩
    case pkg =>
      obtain ⟨u, he, hub, kept⟩ := exec_pkgControlTick s
      have wf : u.partsWf := by rwa [State.partsWf, hub]
      refine ⟨_, he, State.updateCaps_capped wf, fun i _ hi => ?_⟩
      rw [(State.updateCaps_applied wf).pkg]
      exact kept i hi
    case therm =>
      obtain ⟨u, he, hub, kept⟩ := exec_thermControlTick s
      have wf : u.partsWf := by rwa [State.partsWf, hub]
      refine ⟨_, he, State.updateCaps_capped wf, ?_⟩
      dsimp only
      rw [(State.updateCaps_applied wf).pkg]
      exact kept
    case curr =>
      intro hi
      exact ⟨⟨_, exec_regulatorAlert mhz hi, State.withCurr_updateCap island mhz s.time hwf⟩,
        fun hb ht => ⟨_, exec_currHoldExpiry hb ht, State.withCurr_updateCap island 0 0 hwf⟩⟩
  case event =>
    intro island mhz p q s hi _ hq u hne
    exact exec_regulatorAlert_notified hi hq hne
  case retention =>
    intro island w s hw hi
    refine ⟨fun hr hidle hx => ?enter, fun hr h => ?busy, fun hr hx => ?leave, fun hr hx => ?awake, fun hx => ?exit, fun hx => ?entered,
      fun hx hq => ?left⟩
    case enter =>
      rw [exec_park hw hi hr ((s.islandIdle_iff island).mpr hidle) hx]
      exact s.startPark_started island .entering
    case busy => exact exec_park_busy hw hi hr (h.imp_left fun hn => hn ∘ (s.islandIdle_iff island).mp)
    case leave =>
      rw [exec_unpark hw hi hr hx]
      exact s.startPark_started island .exiting
    case awake => exact exec_unpark_running hw hi hr hx
    case exit => exact ⟨_, exec_islandExit hx, (State.parkOf_setPark s island island _).trans (if_pos rfl), rfl, rfl⟩
    case entered => exact State.retentionEnds_of_parkDone (exec_retentionComplete_entering hx)
    case left =>
      have complete := (exec_retentionComplete_exiting hx).trans (congrArg _ (State.exitDone_of_unparked island hq))
      exact State.retentionEnds_of_parkDone complete

end Sys2Proof.Machine

/-!
PROOFS. The statements of the family of permanent names: reset (O55), names made and read (O12).
-/

namespace Sys2Proof.Machine

/-- Settles O55: the fields of the reset state. -/
theorem resetState : Obligations.ResetState := by
  unfold Obligations.ResetState
  exact ⟨reset_mem_wf, rfl, rfl, rfl, fun _ => rfl, fun _ => rfl, rfl, fun _ => rfl, fun _ => rfl, fun _ => rfl⟩

/-! ## Words with a status as a long result -/

theorem issuable_iff (c : BitVec 8) : issuable c = true ↔ (1 ≤ c.toNat ∧ c.toNat ≤ 7) ∨ (0x40 ≤ c.toNat ∧ c.toNat ≤ 0x7F) := by
  simp [issuable]

/-- A strand at hand for a word: the word may follow, its registers can be read and written, and it has room for a long result. -/
theorem Strand.atHand_iff {t : Strand} {k : Takes} {rs ws : List Reg} : t.atHand k rs ws = true ↔
    k.follows t = true ∧ (∀ r ∈ rs, t.canRead r = true) ∧ (∀ r ∈ ws, t.canWrite r = true) ∧ t.outstanding.length < 8 := by
  simp [Strand.atHand, and_assoc]

/-- A word that may follow has settled nothing before. -/
theorem Takes.follows_replay {k : Takes} {t : Strand} (h : k.follows t = true) : t.replay = { Replay.none with word := t.replay.word } := by
  simp only [Takes.follows, Strand.untried, Bool.and_eq_true, decide_eq_true_eq] at h
  exact h.2.1

theorem Takes.follows_gs {k : Takes} {t : Strand} (h : k.follows t = true) : t.replay.gs = [] := by
  rw [Takes.follows_replay h]
  rfl

/-- The checks before a word with a long result whose registers are at hand. -/
theorem prologue_atHand {s : State} {k : Takes} {rs ws : List Reg} (h : s.me.atHand k rs ws = true) :
    prologue true rs ws [] [] s = .ok () s := by
  obtain ⟨-, hr, hw, hl⟩ := Strand.atHand_iff.mp h
  exact prologue_ok hr hw (fun _ => hl) (by simp) (by simp)

theorem readReg_atHand {s : State} {k : Takes} {rs ws : List Reg} (h : s.me.atHand k rs ws = true) {r : Reg} (hr : r ∈ rs) :
    readReg r s = .ok (s.me.g r) s := by
  obtain ⟨hf, hrs, -⟩ := Strand.atHand_iff.mp h
  exact readReg_ok (Takes.follows_gs hf) (hrs r hr)

theorem readPair_atHand {s : State} {k : Takes} {rs ws : List Reg} (h : s.me.atHand k rs ws = true) {r : Reg} (hr : r ∈ rs)
    (hr' : r + 1 ∈ rs) : readPair r s = .ok (s.me.pair r) s := by
  simp only [readPair, act_bind_ok (readReg_atHand h hr), act_bind_ok (readReg_atHand h hr')]
  rfl

theorem statusTo_ok (s : State) (c : Reg) (st : Nat) :
    statusTo c st s = .ok () (s.returns [(c, BitVec.ofNat 64 st)] .none none) := rfl

theorem statusFor_ok (s : State) (name : Option Nat) (c : Reg) (st : Nat) :
    statusFor name c st s = .ok () (s.returns [(c, BitVec.ofNat 64 st)] .none name) := rfl

theorem valueStatus_ok (s : State) (name : Option Nat) (d c : Reg) (x : Word) (st : Nat) :
    valueStatus name d c x st s = .ok () (s.returns [(d, x), (c, BitVec.ofNat 64 st)] .none name) := rfl

theorem pairStatus_ok (s : State) (d c : Reg) (n : Name) (st : Nat) :
    pairStatus d c n st s = .ok () (s.returns [(d, n.extractLsb' 0 64), (d + 1, n.extractLsb' 64 64), (c, BitVec.ofNat 64 st)] .none none) :=
  rfl

/-! ## Resolution (R31) -/

section
variable {s : State} {n : Name}

theorem resolve_null (p : Nat) : s.resolve p 0 = .status stNULL := rfl

theorem resolve_unissuable (p : Nat) (h0 : n ≠ 0) (hc : issuable (nameClass n) = false) : s.resolve p n = .status stNEVER := by
  rw [State.resolve, if_neg h0, hc]
  rfl

theorem resolve_unreachable {p : Nat} (h0 : n ≠ 0) (hc : issuable (nameClass n) = true) (hl : nameChip n ≤ 383)
    (hn : nameChip n ≠ s.hub.chip) (hr : (s.partOf p).reach.contains (nameChip n) = false) : s.resolve p n = .status stUNREACHABLE := by
  simp only [State.resolve, h0, hc, hn, hr, Nat.not_lt.mpr hl, if_true, if_false, Bool.not_true, Bool.false_eq_true, ne_eq, not_false_eq_true]

/-- A name of this chip and boot resolves at its entry. -/
theorem State.ownName.resolve (h : s.ownName n) (p : Nat) :
    s.resolve p n =
      let c := nameCounter n
      let e := s.nameEntry c
      if e.state ≠ .free ∧ e.cls = nameClass n ∧ e.part = p then .found (if e.state = .live then stLIVE else stDYING) c
      else if c < s.hub.watermark then .status stGONE
      else .status stNEVER := by
  obtain ⟨h0, hc, hl, hn, hs⟩ := h
  simp only [State.resolve, h0, hc, hn, hs, Nat.not_lt.mpr (hn ▸ hl), Nat.lt_irrefl, gt_iff_lt, if_false, Bool.not_true, Bool.false_eq_true,
    ne_eq, not_true_eq_false]

theorem State.standing.resolve {st : NameState} (h : s.standing n st) (hf : st ≠ .free) :
    s.resolve s.me.part n = .found (if st = .live then stLIVE else stDYING) (nameCounter n) := by
  obtain ⟨own, hst, hcls, hpart⟩ := h
  rw [own.resolve]
  dsimp only
  rw [if_pos ⟨by rwa [hst], hcls, hpart⟩, hst]

theorem State.standing.resolve_live (h : s.standing n .live) : s.resolve s.me.part n = .found stLIVE (nameCounter n) :=
  h.resolve (by decide)

theorem State.standing.resolve_dying (h : s.standing n .dying) : s.resolve s.me.part n = .found stDYING (nameCounter n) :=
  h.resolve (by decide)

theorem State.ownName.resolve_free (h : s.ownName n) (hf : (s.nameEntry (nameCounter n)).state = .free) (p : Nat) :
    s.resolve p n = .status (if nameCounter n < s.hub.watermark then stGONE else stNEVER) := by
  rw [h.resolve]
  simp only [hf, ne_eq, not_true_eq_false, false_and, if_false]
  split <;> rfl

end

/-! ## The lookups (R41, R42) -/

/-- A word whose registers are at hand reads the name in a pair of them and goes on from there. -/
theorem completes_of_pair {i : Instr} {sw : Bool} {a : Reg} {rs ws : List Reg} {f : Name → Act Flow} {s t : State}
    (h : s.me.atHand .plain rs ws = true) (ha : a ∈ rs) (ha' : a + 1 ∈ rs)
    (hi : exec i s = issue i sw .plain (do
      prologue true rs ws [] []
      let n ← readPair a
      f n) s)
    (hf : f (s.me.pair a) s = .ok .next t) : completes i sw .plain s t := by
  refine hi.trans (issue_ok (Strand.atHand_iff.mp h).1 ?_)
  rw [act_bind_ok (prologue_atHand h), act_bind_ok (readPair_atHand h ha ha'), hf]

section
variable {sw : Bool} {d a c : Reg} {s : State} (h : s.me.atHand .plain [a, a + 1] [d, c] = true)
include h

theorem nresV_status {st : Nat} (hr : s.resolve s.me.part (s.me.pair a) = .status st) :
    completes (.nresV sw d a c) sw .plain s (s.returns [(d, 0), (c, BitVec.ofNat 64 st)] .none none) := by
  refine completes_of_pair h (by simp) (by simp) rfl ?_
  simp only [act_get_bind, hr, act_bind_ok (valueStatus_ok ..), act_pure]

theorem nresV_found {st k : Nat} (hr : s.resolve s.me.part (s.me.pair a) = .found st k) :
    completes (.nresV sw d a c) sw .plain s (s.returns [(d, (s.nameEntry k).version), (c, BitVec.ofNat 64 st)] .none (some k)) := by
  refine completes_of_pair h (by simp) (by simp) rfl ?_
  simp only [act_get_bind, hr, act_bind_ok (valueStatus_ok ..), act_pure]

theorem nstat_status {st : Nat} (hr : s.resolve s.me.part (s.me.pair a) = .status st) :
    completes (.nstat sw d a c) sw .plain s (s.returns [(d, 0), (c, BitVec.ofNat 64 st)] .none none) := by
  refine completes_of_pair h (by simp) (by simp) rfl ?_
  simp only [act_get_bind, hr, act_bind_ok (valueStatus_ok ..), act_pure]

theorem nstat_found {st k : Nat} (hr : s.resolve s.me.part (s.me.pair a) = .found st k) :
    completes (.nstat sw d a c) sw .plain s (s.returns [(d, (s.nameEntry k).info), (c, BitVec.ofNat 64 st)] .none (some k)) := by
  refine completes_of_pair h (by simp) (by simp) rfl ?_
  simp only [act_get_bind, hr, act_bind_ok (valueStatus_ok ..), act_pure]

section
variable (hc : (s.coreOf s.me.core).names.find? (fun x => x.1 == s.me.pair a) = none)
include hc

theorem nres_status {st : Nat} (hr : s.resolve s.me.part (s.me.pair a) = .status st) :
    completes (.nres sw d a c) sw .plain s (s.returns [(d, 0), (c, BitVec.ofNat 64 st)] .none none) := by
  refine completes_of_pair h (by simp) (by simp) rfl ?_
  simp only [act_get_bind, hr, hc]
  rfl

theorem nres_dying {k : Nat} (hr : s.resolve s.me.part (s.me.pair a) = .found stDYING k) :
    completes (.nres sw d a c) sw .plain s (s.returns [(d, 0), (c, 1)] .none (some k)) := by
  refine completes_of_pair h (by simp) (by simp) rfl ?_
  simp only [act_get_bind, hr, hc]
  rfl

theorem nres_live {k : Nat} (hr : s.resolve s.me.part (s.me.pair a) = .found stLIVE k) :
    completes (.nres sw d a c) sw .plain s
      ((s.setCore s.me.core fun q => q.remember (s.me.pair a) (s.nameEntry k).addr).returns
        [(d, (s.nameEntry k).addr), (c, 0)] .none (some k)) := by
  refine completes_of_pair h (by simp) (by simp) rfl ?_
  simp only [act_get_bind, hr, hc]
  rfl

end
end

theorem Core.mem_remember (q : Core) (n : Name) (addr : Word) : (n, addr) ∈ (q.remember n addr).names := by
  simp [Core.remember]

/-- A core's cache of names holds 16 (R34). -/
theorem Core.length_remember (q : Core) (n : Name) (addr : Word) : (q.remember n addr).names.length ≤ max 16 q.names.length := by
  have kept : (q.names.filter fun x => x.1 != n).length ≤ q.names.length := List.length_filter_le _ _
  simp only [Core.remember, List.length_append, List.length_singleton]
  split
  · rw [List.length_drop]
    omega
  · omega

theorem NameEntry.info_eq (e : NameEntry) :
    e.info = BitVec.ofNat 64 (e.refcount % 2 ^ 16 + 2 ^ 16 * e.cls.toNat + 2 ^ 24 * (e.part % 16) + 2 ^ 28 * e.sdone.toNat) := by
  cases hd : e.sdone <;> simp [NameEntry.info, natOf, hd]

/-! ## Making a name (R40) -/

theorem creatable_iff (c : BitVec 8) : creatable c = true ↔ issuable c = true ∧ c ≠ 1 ∧ c ≠ 6 := by
  simp [creatable, and_assoc]

theorem Hub.nameOf_low (h : Hub) (cls : BitVec 8) (c : Nat) : (h.nameOf cls c).extractLsb' 0 64 = BitVec.ofNat 64 c := by
  unfold Hub.nameOf
  rw [BitVec.extractLsb'_append_eq_of_add_le (by decide)]
  simp

theorem toNat_append_add {m n : Nat} (x : BitVec m) (y : BitVec n) : (x ++ y).toNat = x.toNat * 2 ^ n + y.toNat := by
  rw [BitVec.toNat_append, ← Nat.shiftLeft_add_eq_or_of_lt y.isLt, Nat.shiftLeft_eq]

theorem Hub.nameOf_high (h : Hub) (cls : BitVec 8) (c : Nat) :
    (h.nameOf cls c).extractLsb' 64 64
      = BitVec.ofNat 64 (cls.toNat * 2 ^ 56 + h.chip % 2 ^ 16 * 2 ^ 40 + h.serial.toNat) := by
  apply BitVec.eq_of_toNat_eq
  have hc := cls.isLt
  have hs := h.serial.isLt
  have high : (cls ++ BitVec.ofNat 16 h.chip ++ h.serial).toNat = cls.toNat * 2 ^ 56 + h.chip % 2 ^ 16 * 2 ^ 40 + h.serial.toNat := by
    rw [toNat_append_add, toNat_append_add, BitVec.toNat_ofNat]
    omega
  rw [BitVec.extractLsb'_toNat, Hub.nameOf, toNat_append_add, Nat.shiftRight_eq_div_pow, BitVec.toNat_ofNat, BitVec.toNat_ofNat, high]
  omega

/-- The state in which a name has been issued, with its LIVE entry of one reference. -/
def State.issued (s : State) (cls : BitVec 8) (part : Nat) (addr : Word) : State :=
  (s.setHub fun h => { h with issueCounter := s.hub.issueCounter + 1, watermark := s.hub.issueCounter + 1 }).setName s.hub.issueCounter
    fun _ => { NameEntry.none with cls := cls, part := part, addr := addr, state := .live, refcount := 1 }

theorem State.issueName_ok {s : State} (cls : BitVec 8) (part : Nat) (addr : Word) (hc : s.hub.issueCounter ≠ 2 ^ 64 - 1)
    (hf : (s.hub.names.filter fun x => homeDie x.1 == homeDie s.hub.issueCounter).length < 98304) :
    s.issueName cls part addr none = (some (s.hub.nameOf cls s.hub.issueCounter), s.issued cls part addr) := by
  have room : ¬ (s.setHub fun h => { h with issueCounter := s.hub.issueCounter + 1, watermark := s.hub.issueCounter + 1 }).hub.shardFull
      s.hub.issueCounter = true := by
    simp only [Hub.shardFull, decide_eq_true_eq, Nat.not_le]
    exact hf
  simp only [State.issueName, State.takeCounter, if_neg hc, if_neg room]
  rfl

/-- A word whose registers are at hand reads two of them and goes on from there. -/
theorem completes_of_reads {i : Instr} {sw : Bool} {a b : Reg} {rs ws : List Reg} {f : Word → Word → Act Flow} {s t : State}
    (h : s.me.atHand .plain rs ws = true) (ha : a ∈ rs) (hb : b ∈ rs)
    (hi : exec i s = issue i sw .plain (do
      prologue true rs ws [] []
      let x ← readReg a
      let y ← readReg b
      f x y) s)
    (hf : f (s.me.g a) (s.me.g b) s = .ok .next t) : completes i sw .plain s t := by
  refine hi.trans (issue_ok (Strand.atHand_iff.mp h).1 ?_)
  rw [act_bind_ok (prologue_atHand h), act_bind_ok (readReg_atHand h ha), act_bind_ok (readReg_atHand h hb), hf]

section
variable {sw : Bool} {d a b c : Reg} {s : State} (h : s.me.atHand .plain [a, b] [d, d + 1, c] = true)
include h

theorem nnew_badClass (hc : ¬ ((s.me.g a).toNat < 256 ∧ creatable ((s.me.g a).setWidth 8) = true)) :
    completes (.nnew sw d a b c) sw .plain s (s.returns [(d, 0), (d + 1, 0), (c, 7)] .none none) := by
  have bad : (s.me.g a).toNat ≥ 256 ∨ (!creatable ((s.me.g a).setWidth 8)) = true := by
    rw [not_and_or, Nat.not_lt, Bool.not_eq_true] at hc
    simpa using hc
  refine completes_of_reads h (by simp) (by simp) rfl ?_
  rw [if_pos bad]
  rfl

section
variable (hc : (s.me.g a).toNat < 256) (hc' : creatable ((s.me.g a).setWidth 8) = true)
include hc hc'

theorem nnew_badAddr (hp : ¬ ((s.me.g b).toNat % 64 = 0 ∧ (s.me.g b).toNat < 2 ^ 57)) :
    completes (.nnew sw d a b c) sw .plain s (s.returns [(d, 0), (d + 1, 0), (c, 8)] .none none) := by
  refine completes_of_reads h (by simp) (by simp) rfl ?_
  rw [if_neg (by simp [hc', hc]), if_pos (by omega)]
  rfl

theorem nnew_issues (ha : (s.me.g b).toNat % 64 = 0) (hl : (s.me.g b).toNat < 2 ^ 57) (hi : s.hub.issueCounter ≠ 2 ^ 64 - 1)
    (hf : (s.hub.names.filter fun x => homeDie x.1 == homeDie s.hub.issueCounter).length < 98304) :
    completes (.nnew sw d a b c) sw .plain s
      ((s.issued ((s.me.g a).setWidth 8) s.me.part (s.me.g b)).returns
        [(d, BitVec.ofNat 64 s.hub.issueCounter),
          (d + 1, BitVec.ofNat 64 (((s.me.g a).setWidth 8).toNat * 2 ^ 56 + s.hub.chip % 2 ^ 16 * 2 ^ 40 + s.hub.serial.toNat)),
          (c, 0)] .none none) := by
  refine completes_of_reads h (by simp) (by simp) rfl ?_
  rw [if_neg (by simp [hc', hc]), if_neg (by omega), act_get_bind, State.issueName_ok _ _ _ hi hf, ← Hub.nameOf_low s.hub ((s.me.g a).setWidth 8),
    ← Hub.nameOf_high]
  rfl

end
end

/-! ## The statement on names made and read -/

/-- Settles O12: `nnew` case by case; then each lookup by what the name resolves to. -/
theorem namesMadeAndRead : Obligations.NamesMadeAndRead := by
  unfold Obligations.NamesMadeAndRead
  refine ⟨?made, ?read⟩
  case made =>
    intro sw d a b c s h cls good placed
    have goodIff : good ↔ (s.me.g a).toNat < 256 ∧ creatable cls = true := by rw [creatable_iff]
    refine ⟨fun hb => ?badClass, fun hg hp => ?badAddr, fun hg hp hi _ hf => ?issued⟩
    case badClass => exact nnew_badClass h (hb ∘ goodIff.mpr)
    case badAddr => exact nnew_badAddr h (goodIff.mp hg).1 (goodIff.mp hg).2 hp
    case issued =>
      refine ⟨_, nnew_issues h (goodIff.mp hg).1 (goodIff.mp hg).2 hp.1 hp.2 hi hf, rfl, rfl, ?entry, ?others, rfl, rfl⟩
      case entry => exact (State.nameEntry_setName ..).trans (if_pos rfl)
      case others => exact fun k hk => (State.nameEntry_setName ..).trans (if_neg hk)
  case read =>
    intro sw d a c s h n k e status info
    have same {st : Nat} (hr : s.resolve s.me.part n = .status st) : status (BitVec.ofNat 64 st) :=
      ⟨nresV_status h hr, nstat_status h hr, fun hc => nres_status h hc hr⟩
    have word : e.info = info := NameEntry.info_eq e
    refine ⟨fun hn => ⟨?version, ?stat, fun hc => ?address⟩, fun hn => ⟨?lastVersion, ?lastStat, fun hc => ?noAddress⟩, ?null, ?unissued, ?unreachable, ?gone⟩
    case version => exact nresV_found h hn.resolve_live
    case stat => exact word ▸ nstat_found h hn.resolve_live
    case address =>
      refine ⟨_, nres_live h hc hn.resolve_live, rfl, rfl, rfl, ?_⟩
      rw [State.coreOf_setCore, if_pos rfl]
      exact ⟨Core.mem_remember .., Core.length_remember ..⟩
    case lastVersion => exact nresV_found h hn.resolve_dying
    case lastStat => exact word ▸ nstat_found h hn.resolve_dying
    case noAddress => exact nres_dying h hc hn.resolve_dying
    case null =>
      intro hn
      refine same (st := stNULL) ?_
      rw [hn]
      exact resolve_null _
    case unissued => exact fun h0 hc => same (resolve_unissuable _ h0 hc)
    case unreachable => exact fun h0 hc hl hn hr => same (resolve_unreachable h0 hc hl hn hr)
    case gone =>
      intro own hf
      have hr := own.resolve_free hf s.me.part
      exact ⟨fun hk => same (hr.trans (by rw [if_pos hk])), fun hk => same (hr.trans (by rw [if_neg (Nat.not_lt.mpr hk)]))⟩

end Sys2Proof.Machine

/-!
PROOFS. What a translation and an access of the front end leave unchanged (R182–R187, R90).
-/

namespace Sys2Proof.Machine

/-! ## Translation changes memory's bytes, its caches and the free choices alone -/

/-- From one state to another only table walks were made: the bytes of memory with their poison, the TLBs and the counter of free values
may differ. -/
structure State.Walked (s t : State) : Prop where
  rest : t = { s with free := t.free, mem := { s.mem with bytes := t.mem.bytes, poison := t.mem.poison, tlb := t.mem.tlb } }

namespace State.Walked
variable {s t u : State}

theorem refl (s : State) : s.Walked s := ⟨rfl⟩

theorem trans (h : s.Walked t) (h' : t.Walked u) : s.Walked u := ⟨by rw [h'.rest, h.rest]⟩

theorem me (h : s.Walked t) : t.me = s.me := by rw [h.rest]
theorem strands (h : s.Walked t) : t.strands = s.strands := by rw [h.rest]
theorem hub (h : s.Walked t) : t.hub = s.hub := by rw [h.rest]
theorem eng (h : s.Walked t) : t.eng = s.eng := by rw [h.rest]
theorem pkg (h : s.Walked t) : t.pkg = s.pkg := by rw [h.rest]
theorem cores (h : s.Walked t) : t.cores = s.cores := by rw [h.rest]
theorem icache (h : s.Walked t) : t.mem.icache = s.mem.icache := by rw [h.rest]

end State.Walked

/-- The state that an action ends in, whether it succeeds or not. -/
def endState {α : Type} : EStateM.Result Exn State α → State
  | .ok _ t => t
  | .error _ t => t

/-- An action that makes table walks at most. -/
structure Walks {α : Type} (a : Act α) : Prop where
  walked (s : State) : s.Walked (endState (a s))

section
variable {α β : Type}

theorem walks_pure (x : α) : Walks (pure x : Act α) := ⟨fun s => .refl s⟩

theorem Walks.bind {a : Act α} {f : α → Act β} (ha : Walks a) (hf : ∀ x, Walks (f x)) : Walks (a >>= f) where
  walked s := by
    have first := ha.walked s
    cases h : a s with
    | ok x t =>
      rw [h] at first
      rw [act_bind_ok h]
      exact first.trans ((hf x).walked t)
    | error e t =>
      rw [h] at first
      rw [act_bind_error h]
      exact first

/-- What an action does next may depend on the state it finds. -/
theorem walks_get_bind {f : State → Act β} (hf : ∀ s, Walks (f s)) : Walks ((get : Act State) >>= f) := ⟨fun s => (hf s).walked s⟩

theorem walks_ite {p : Prop} [Decidable p] {a b : Act α} (ha : Walks a) (hb : Walks b) : Walks (if p then a else b) := by
  split
  · exact ha
  · exact hb

theorem Walks.forM {xs : List α} {f : α → Act PUnit} (h : ∀ x, Walks (f x)) : Walks (xs.forM f) := by
  induction xs with
  | nil => exact walks_pure _
  | cons x xs ih => exact (h x).bind fun _ => ih

theorem Walks.ok {a : Act α} {s t : State} {x : α} (ha : Walks a) (h : a s = .ok x t) : s.Walked t := by
  have := ha.walked s
  rwa [h] at this

end

theorem walks_drawBit : Walks drawBit := ⟨fun _ => ⟨rfl⟩⟩

theorem walks_cacheEntry (x : TlbEntry) : Walks (cacheEntry x) where
  walked s := by
    unfold cacheEntry
    rw [act_modify]
    dsimp only [endState]
    split
    · exact ⟨rfl⟩
    · split <;> exact ⟨rfl⟩

theorem walks_readPte (ctx va level : Nat) (ply : Option Nat) (fresh : Bool) (a : Nat) : Walks (readPte ctx va level ply fresh a) :=
  walks_get_bind fun s => by
    dsimp only
    split
    · exact walks_pure _
    · exact walks_drawBit.bind fun _ => walks_ite (walks_pure _) (walks_pure _)

theorem walks_notePointer (ctx va level : Nat) (ply : Option Nat) (a e : Nat) : Walks (notePointer ctx va level ply a e) :=
  walks_get_bind fun s => by
    cases ply with
    | none => exact walks_pure _
    | some p => exact walks_ite (walks_pure _) (walks_cacheEntry _)

theorem walks_walkFrom (ctx va : Nat) (ply : Option Nat) (fresh : Bool) (level tf : Nat) : Walks (walkFrom ctx va ply fresh level tf) := by
  have leaf (es : List Nat) (chip : Nat) (w : Walk) (l : Nat) :
      Walks (if groupOk chip es then pure w else pure (.bad faultFORMAT l) : Act Walk) := walks_ite (walks_pure _) (walks_pure _)
  induction level generalizing tf with
  | zero =>
    unfold walkFrom
    refine (walks_readPte ..).bind fun e => walks_get_bind fun s => ?_
    exact walks_ite (walks_pure _) (walks_ite (walks_pure _) (walks_ite (walks_pure _) (walks_ite (leaf ..) (walks_pure _))))
  | succ level ih =>
    unfold walkFrom
    refine (walks_readPte ..).bind fun e => walks_get_bind fun s => ?_
    refine walks_ite (walks_pure _) (walks_ite (walks_ite (walks_pure _) ?_) (walks_ite (walks_pure _) (walks_ite (leaf ..) (walks_pure _))))
    cases fresh
    · exact (walks_notePointer ..).bind fun _ => ih _
    · exact ih _

theorem walks_setAD (q : XReq) (va e level ad : Nat) : Walks (setAD q va e level ad) where
  walked s := by
    have caches (x : TlbId → TlbEntry) : Walks ((q.path s.me.core).1.forM fun c => cacheEntry (x c)) := Walks.forM fun c => walks_cacheEntry _
    have put (a n x : Nat) : s.Walked (s.putHbm a n x) := ⟨rfl⟩
    unfold setAD
    rw [act_get_bind]
    dsimp only
    generalize s.hbmNat ad 8 ||| 2048 ||| (if q.wr then 4096 else 0) = e'
    split
    · exact (put ..).trans ((caches _).walked _)
    · exact (caches _).walked _

theorem walks_tryWalk (q : XReq) (va : Nat) (fresh : Bool) : Walks (tryWalk q va fresh) := walks_get_bind fun s =>
  (walks_walkFrom ..).bind fun w => by
    cases w <;> exact walks_pure _

theorem walks_lookupLeaf (q : XReq) (va : Nat) : Walks (lookupLeaf q va) := walks_get_bind fun s => by
  have walked : Walks (do
      let (w, k) ← tryWalk q va false
      pure (w, k, false) : Act (Walk × Nat × Bool)) := (walks_tryWalk ..).bind fun _ => walks_pure _
  dsimp only
  split
  · exact walks_ite (walks_pure _) (walks_drawBit.bind fun _ => walks_ite (walks_pure _) walked)
  · exact walked

theorem walks_peerAnswer (q : XReq) (l : Leaf) (va : Nat) : Walks (peerAnswer q l va) where
  walked s := by
    unfold peerAnswer
    rw [act_get_bind]
    have drawn : s.Walked { s with free := s.free + 1 } := ⟨rfl⟩
    cases l.pa.space with
    | peer => exact drawn.trans ((walks_ite (walks_pure _) (walks_pure _)).walked _)
    | _ => exact (walks_pure _).walked s

/-- A translation makes table walks at most. -/
theorem walks_translate (q : XReq) (va : Nat) : Walks (translate q va) := by
  have answer (c : Bool) (k e level own ad : Nat) : Walks (
      if k ≠ 0 then pure (.fail k level false)
      else do
        let s ← get
        if c && s.hbmNat own 8 % 2 ^ 11 == e % 2 ^ 11 then setAD q va e level ad
        peerAnswer q { entry := e, level := level, pa := leafAddr s q.ctx va e level } va : Act XRes) := by
    refine walks_ite (walks_pure _) (walks_get_bind fun s => ?_)
    exact walks_ite ((walks_setAD ..).bind fun _ => walks_peerAnswer ..) (walks_peerAnswer ..)
  unfold translate
  refine walks_ite (walks_pure _) ((walks_lookupLeaf q va).bind fun ⟨w, k, cached⟩ => ?_)
  refine walks_ite ((walks_tryWalk ..).bind fun ⟨w, k⟩ => ?_) ((walks_pure _).bind fun ⟨w, k⟩ => ?_)
  all_goals
    cases w with
    | bad kind level => exact walks_pure _
    | leaf e level own ad => exact answer ..

/-! ## What the front end's stores leave unchanged -/

/-- From one state to another the front end has made accesses: memory, the free values, what waits on the words written, the queues' wakes and
the record of parked islands may differ. -/
structure State.FrontStep (s t : State) : Prop where
  rest : t = { s with
    free := t.free, me := t.me, strands := t.strands, mem := t.mem, hub := { s.hub with queues := t.hub.queues, asleep := t.hub.asleep } }
  me : t.me = { s.me with wait := t.me.wait, unitLog := t.me.unitLog }
  queues : ∀ k, t.queueOf k = { s.queueOf k with wakes := (t.queueOf k).wakes }

namespace State.FrontStep
variable {s t u : State}

theorem refl (s : State) : s.FrontStep s := ⟨rfl, rfl, fun _ => rfl⟩

theorem trans (h : s.FrontStep t) (h' : t.FrontStep u) : s.FrontStep u where
  rest := by rw [h'.rest, h.rest]
  me := by rw [h'.me, h.me]
  queues k := by rw [h'.queues, h.queues]

theorem nameEntry (h : s.FrontStep t) (k : Nat) : t.nameEntry k = s.nameEntry k := by
  rw [h.rest]
  rfl
theorem launchOf (h : s.FrontStep t) (k : Nat) : t.launchOf k = s.launchOf k := by
  rw [h.rest]
  rfl
theorem partOf (h : s.FrontStep t) (k : Nat) : t.partOf k = s.partOf k := by
  rw [h.rest]
  rfl
theorem ctxOf (h : s.FrontStep t) (k : Nat) : t.ctxOf k = s.ctxOf k := by
  rw [h.rest]
  rfl
theorem queue_state (h : s.FrontStep t) (k : Nat) : (t.queueOf k).state = (s.queueOf k).state := by rw [h.queues]
theorem queue_packets (h : s.FrontStep t) (k : Nat) : (t.queueOf k).packets = (s.queueOf k).packets := by rw [h.queues]
theorem stack (h : s.FrontStep t) : t.me.stack = s.me.stack := by rw [h.me]

theorem of_walked (h : s.Walked t) : s.FrontStep t := by
  rw [h.rest]
  exact ⟨rfl, rfl, fun _ => rfl⟩

end State.FrontStep

theorem State.meets_frontStep (s : State) (sp : Space) : s.FrontStep (s.meets sp) := by
  unfold State.meets
  split
  · split
    · exact .refl s
    · exact ⟨rfl, rfl, fun _ => rfl⟩
  · exact .refl s

/-- A step of the front end's address translation. -/
theorem State.vtranslate_frontStep {s s' : State} {ctx va : Nat} {write : Bool} {pa : PAddr} (h : s.vtranslate ctx va write = some (pa, s')) :
    s.FrontStep s' := by
  unfold State.vtranslate at h
  split at h
  · next l t ht =>
    obtain ⟨-, rfl⟩ := Prod.mk.inj (Option.some.inj h)
    exact (State.FrontStep.of_walked ((walks_translate _ _).ok ht)).trans (State.meets_frontStep t _)
  · cases h

/-- A queue that a store to its wake word reaches. -/
def Queue.noted (q : Queue) (words : List Nat) (v : Word) : Queue :=
  if decide (q.state ≠ .none ∧ q.state ≠ .closed) && words.contains q.wakeKey then { q with wakes := q.wakes ++ [v] } else q

theorem Queue.noted_eq (q : Queue) (words : List Nat) (v : Word) : q.noted words v = { q with wakes := (q.noted words v).wakes } := by
  unfold Queue.noted
  split <;> rfl

theorem State.noteWakes_frontStep (s : State) (ws : List Nat) : s.FrontStep (s.noteWakes ws) := by
  unfold State.noteWakes
  dsimp only
  split
  · refine ⟨rfl, rfl, fun k => ?_⟩
    let note (q : Queue) : Queue := q.noted ws (BitVec.ofNat 64 (ofLE (s.mem.bytesAt (8 * q.wakeKey) 8)))
    have read : FMap.get Queue.none (s.hub.queues.map (Prod.map id note)) k = note (s.queueOf k) := FMap.get_map note Queue.none s.hub.queues k
    have here : FMap.get Queue.none (s.hub.queues.map (Prod.map id note)) k
        = { s.queueOf k with wakes := (FMap.get Queue.none (s.hub.queues.map (Prod.map id note)) k).wakes } := by
      rw [read]
      exact Queue.noted_eq ..
    exact here
  · exact .refl s

theorem Strand.wake_eq (t : Strand) (reason : Nat) :
    t.wake reason = { t with wait := (t.wake reason).wait, unitLog := (t.wake reason).unitLog } := by
  unfold Strand.wake
  split <;> rfl

theorem State.setStrand_wake_frontStep (s : State) (core slot reason : Nat) :
    s.FrontStep (s.setStrand core slot fun t => t.wake reason) where
  rest := rfl
  me := by
    show (if s.me.inSlot core slot then s.me.wake reason else s.me) = { s.me with
      wait := (if s.me.inSlot core slot then s.me.wake reason else s.me).wait
      unitLog := (if s.me.inSlot core slot then s.me.wake reason else s.me).unitLog }
    split
    · exact Strand.wake_eq ..
    · rfl
  queues _ := rfl

theorem State.wakeWords_frontStep (s : State) (ws : List Nat) : s.FrontStep (s.wakeWords ws) := by
  have loop (hit : List Waiter) (t : State) : t.FrontStep (hit.foldl (fun (s : State) w =>
      s.setStrand w.core w.slot fun x => x.wake (natOf (decide (ofLE (s.mem.bytesAt (8 * w.pa.word) 8) = w.gb.toNat)))) t) := by
    induction hit generalizing t with
    | nil => exact .refl t
    | cons w hit ih => exact (State.setStrand_wake_frontStep ..).trans (ih _)
  refine (State.noteWakes_frontStep s ws).trans ?_
  unfold State.wakeWords
  dsimp only
  split
  · exact .refl _
  · exact State.FrontStep.trans (t := { s.noteWakes ws with mem := { (s.noteWakes ws).mem with
      waiters := (s.noteWakes ws).mem.waiters.filter fun w => !ws.contains w.pa.word } }) ⟨rfl, rfl, fun _ => rfl⟩ (loop _ _)

theorem State.storeAt_frontStep (s : State) (pa : PAddr) (bs : List Byte) : s.FrontStep (s.storeAt pa bs) := by
  have put : s.FrontStep { s with mem := s.mem.putWords pa.key bs } := ⟨rfl, rfl, fun _ => rfl⟩
  exact put.trans (State.wakeWords_frontStep _ _)

/-- A store of the front end over some pieces: each that translates is written. -/
theorem State.vwrite_frontStep {s t : State} {ctx va : Nat} {bs : List Byte} (h : s.vwrite ctx va bs = some t) : s.FrontStep t := by
  have loop (ps : List (Nat × Nat)) (acc : Option (List Byte × State)) (hacc : ∀ r u, acc = some (r, u) → s.FrontStep u) :
      ∀ r u, ps.foldl (fun acc p =>
        match acc with
        | none => none
        | some (rest, s) =>
          match s.vtranslate ctx p.1 true with
          | none => none
          | some (pa, s) => some (rest.drop p.2, s.storeAt pa (rest.take p.2))) acc = some (r, u) → s.FrontStep u := by
    induction ps generalizing acc with
    | nil => exact hacc
    | cons p ps ih =>
      refine ih _ fun r u hu => ?_
      cases acc with
      | none => cases hu
      | some x =>
        obtain ⟨rest, v⟩ := x
        dsimp only at hu
        split at hu
        · cases hu
        · next pa w hw =>
          obtain ⟨-, rfl⟩ := Prod.mk.inj (Option.some.inj hu)
          exact ((hacc rest v rfl).trans (State.vtranslate_frontStep hw)).trans (State.storeAt_frontStep ..)
  obtain ⟨⟨r, u⟩, hu, rfl⟩ := Option.map_eq_some_iff.mp h
  refine loop _ _ (fun r u hu => ?_) _ _ hu
  obtain ⟨-, rfl⟩ := Prod.mk.inj (Option.some.inj hu)
  exact .refl s

theorem State.vput_frontStep (s : State) (ctx va n x : Nat) : s.FrontStep (s.vput ctx va n x) := by
  unfold State.vput
  cases h : s.vwrite ctx va (toLE n x) with
  | none => exact .refl s
  | some t => exact State.vwrite_frontStep h

/-- A store within one block is one store at the place that its address translates to. -/
theorem State.vwrite_one {s s' : State} {ctx va : Nat} {bs : List Byte} {pa : PAddr} (hb : bs ≠ []) (hl : va % 64 + bs.length ≤ 64)
    (h : s.vtranslate ctx va true = some (pa, s')) : s.vwrite ctx va bs = some (s'.storeAt pa bs) := by
  have pos : bs.length ≠ 0 := by simpa using hb
  have len : min bs.length (64 - va % 64) = bs.length := by omega
  have pieces : pieces64 (bs.length / 64 + 2) va bs.length = [(va, bs.length)] := by
    simp [pieces64, pos, len]
  simp [State.vwrite, pieces, h]

theorem getD_toLE (d : Byte) {n k : Nat} (x : Nat) (h : k < n) : (toLE n x).getD k d = BitVec.ofNat 8 (x / 256 ^ k) := by
  induction n generalizing x k with
  | zero => omega
  | succ n ih =>
    cases k with
    | zero => simp [toLE]
    | succ k =>
      have := ih (x / 256) (k := k) (by omega)
      rw [toLE, List.getD_cons_succ, this, Nat.div_div_eq_div_mul, Nat.pow_succ, Nat.mul_comm]

/-- A number that was written little-endian, byte by byte. -/
theorem FMap.get_setList_toLE (m : FMap Byte) (i n x k : Nat) : FMap.get Mem.byte0 (FMap.setList Mem.byte0 m i (toLE n x)) k =
    if i ≤ k ∧ k < i + n then BitVec.ofNat 8 (x / 256 ^ (k - i)) else FMap.get Mem.byte0 m k := by
  rw [FMap.get_setList, length_toLE]
  exact ite_congr rfl (fun h => getD_toLE _ _ (by omega)) fun _ => rfl

/-- What a store of the front end leaves in memory. -/
theorem State.storeAt_wrote (s : State) (pa : PAddr) (n x : Nat) : s.wrote (s.storeAt pa (toLE n x)) pa.key n x := by
  intro k
  unfold State.storeAt
  dsimp only
  rw [State.wakeWords_bytes, Mem.putWords_bytes, Mem.putBytes, FMap.get_setList_toLE]

end Sys2Proof.Machine

/-!
PROOFS. The statement on `nkill`, `nref`, `nrel` and `ncas` (O13).
-/

namespace Sys2Proof.Machine

/-! ## Words that update an entry (R43) -/

section
variable {i : Instr} {sw : Bool} {a c : Reg} {s t : State} {codes : BitVec 8 → List Nat} {f : Nat → Nat → Act Unit}
  (h : s.me.atHand .plain [a, a + 1] [c] = true) (hi : exec i s = issue i sw .plain (updateName a c codes f) s)
include h hi

/-- A name with no entry gives its status. -/
theorem completes_update_status {st : Nat} (hr : s.resolve s.me.part (s.me.pair a) = .status st) :
    completes i sw .plain s (s.returns [(c, BitVec.ofNat 64 st)] .none none) := by
  refine completes_of_pair h (by simp) (by simp) hi ?_
  simp only [act_get_bind, hr, act_bind_ok (statusTo_ok ..), act_pure]

/-- A name that has one is updated there. -/
theorem completes_update_found {st k : Nat} (hr : s.resolve s.me.part (s.me.pair a) = .found st k) (hf : f st k s = .ok () t) :
    completes i sw .plain s t := by
  refine completes_of_pair h (by simp) (by simp) hi ?_
  simp only [act_get_bind, hr, act_bind_ok hf, act_pure]

end

/-! ## Ending names and dropping references -/

@[simp] theorem State.nameEntry_startShootdown (s : State) (c k : Nat) (drop : Bool) :
    (s.startShootdown c drop).nameEntry k =
      if k = c then { s.nameEntry c with state := .dying, sdone := false, acks := s.partCores (s.nameEntry c).part, dropRef := drop }
      else s.nameEntry k := State.nameEntry_setName ..

theorem State.removeDead_nameEntry (s : State) (c k : Nat) :
    (s.removeDead c).nameEntry k =
      if k = c ∧ (s.nameEntry c).state = .dying ∧ (s.nameEntry c).sdone = true ∧ (s.nameEntry c).refcount = 0 then NameEntry.none
      else s.nameEntry k := by
  unfold State.removeDead
  dsimp only
  split
  · next h => simp [h]
  · next h => rw [if_neg fun hk => h hk.2]

/-- A reference is dropped; the entry goes where it was the last of a name that is shot down (R37, R43). -/
theorem State.dropNameRef_nameEntry (s : State) (c k : Nat) :
    (s.dropNameRef c).nameEntry k =
      if k = c then
        if (s.nameEntry c).state = .dying ∧ (s.nameEntry c).sdone = true ∧ (s.nameEntry c).refcount - 1 = 0 then NameEntry.none
        else { s.nameEntry c with refcount := (s.nameEntry c).refcount - 1 }
      else s.nameEntry k := by
  rw [State.dropNameRef, State.removeDead_nameEntry, State.nameEntry_setName, State.nameEntry_setName, if_pos rfl]
  by_cases hk : k = c <;> simp [hk]

theorem State.removeDead_me (s : State) (c : Nat) : (s.removeDead c).me = s.me := by
  unfold State.removeDead
  dsimp only
  split <;> rfl

theorem State.removeDead_mem (s : State) (c : Nat) : (s.removeDead c).mem = s.mem := by
  unfold State.removeDead
  dsimp only
  split <;> rfl

/-! ## `nkill`, `nref` and `nrel` -/

section
variable {sw : Bool} {a c : Reg} {s : State} {st k : Nat} (h : s.me.atHand .plain [a, a + 1] [c] = true)
  (hr : s.resolve s.me.part (s.me.pair a) = .found st k)
include h hr

theorem nkill_badClass (hc : (s.nameEntry k).cls = 1 ∨ (s.nameEntry k).cls = 6) :
    completes (.nkill sw a c) sw .plain s (s.returns [(c, 7)] .none (some k)) := by
  refine completes_update_found h rfl hr ?_
  rw [act_get_bind, if_pos hc]
  rfl

theorem nref_saturated (hst : st ≠ stDYING) (hc : 65535 ≤ (s.nameEntry k).refcount) :
    completes (.nref sw a c) sw .plain s (s.returns [(c, 9)] .none (some k)) := by
  refine completes_update_found h rfl hr ?_
  rw [act_get_bind, if_neg hst, if_pos hc]
  rfl

theorem nref_counts (hst : st ≠ stDYING) (hc : (s.nameEntry k).refcount < 65535) :
    completes (.nref sw a c) sw .plain s
      ((s.setName k fun e => { e with refcount := e.refcount + 1 }).returns [(c, 0)] .none (some k)) := by
  refine completes_update_found h rfl hr ?_
  rw [act_get_bind, if_neg hst, if_neg (Nat.not_le.mpr hc)]
  rfl

theorem nrel_underflow (hc : (s.nameEntry k).refcount = 0) :
    completes (.nrel sw a c) sw .plain s (s.returns [(c, 10)] .none (some k)) := by
  refine completes_update_found h rfl hr ?_
  rw [act_get_bind, if_pos hc]
  rfl

theorem nrel_drops (hc : (s.nameEntry k).refcount ≠ 0) :
    completes (.nrel sw a c) sw .plain s ((s.dropNameRef k).returns [(c, BitVec.ofNat 64 st)] .none (some k)) := by
  refine completes_update_found h rfl hr ?_
  rw [act_get_bind, if_neg hc]
  rfl

end

section
variable {sw : Bool} {a c : Reg} {s : State} {k : Nat} (h : s.me.atHand .plain [a, a + 1] [c] = true)
include h

theorem nref_dying (hr : s.resolve s.me.part (s.me.pair a) = .found stDYING k) :
    completes (.nref sw a c) sw .plain s (s.returns [(c, 1)] .none (some k)) := by
  refine completes_update_found h rfl hr ?_
  rw [act_get_bind, if_pos rfl]
  rfl

theorem nkill_dying (hr : s.resolve s.me.part (s.me.pair a) = .found stDYING k) (hc : (s.nameEntry k).cls ≠ 1 ∧ (s.nameEntry k).cls ≠ 6) :
    completes (.nkill sw a c) sw .plain s (s.returns [(c, 1)] (.shootdown k) none) := by
  refine completes_update_found h rfl hr ?_
  rw [act_get_bind, if_neg (not_or.mpr hc), if_neg (by decide)]
  rfl

/-- Ending a LIVE name starts its shoot-down, for which the status waits; that of a queue closes it (R35, R43, R74). -/
theorem nkill_ends (hr : s.resolve s.me.part (s.me.pair a) = .found stLIVE k) (hc : (s.nameEntry k).cls ≠ 1 ∧ (s.nameEntry k).cls ≠ 6) :
    completes (.nkill sw a c) sw .plain s
      ((if (s.nameEntry k).cls = 2 then (s.startShootdown k false).closeQueue k else s.startShootdown k false).returns
        [(c, 0)] (.shootdown k) none) := by
  refine completes_update_found h rfl hr ?_
  rw [act_get_bind, if_neg (not_or.mpr hc), if_pos rfl]
  by_cases hq : (s.nameEntry k).cls = 2
  · simp only [hq, if_true]
    rfl
  · simp only [hq, if_false]
    rfl

end

/-! ## Discarding launches and closing a queue (R74) -/

/-- From one state to another names were ended and references dropped: the name table, the launches, the snapshots and the ops may differ,
and a name that is being shot down stays so. -/
structure State.NamesStep (s t : State) : Prop where
  rest : t = { s with eng := t.eng, hub := { s.hub with names := t.hub.names, launches := t.hub.launches, snaps := t.hub.snaps } }
  dying : ∀ k, (s.nameEntry k).state = .dying ∧ (s.nameEntry k).sdone = false →
    (t.nameEntry k).state = .dying ∧ (t.nameEntry k).sdone = false

namespace State.NamesStep
variable {s t u : State}

theorem refl (s : State) : s.NamesStep s := ⟨rfl, fun _ => id⟩

theorem trans (h : s.NamesStep t) (h' : t.NamesStep u) : s.NamesStep u where
  rest := by rw [h'.rest, h.rest]
  dying k hk := h'.dying k (h.dying k hk)

theorem me (h : s.NamesStep t) : t.me = s.me := by rw [h.rest]
theorem mem (h : s.NamesStep t) : t.mem = s.mem := by rw [h.rest]
theorem queueOf (h : s.NamesStep t) (k : Nat) : t.queueOf k = s.queueOf k := by
  rw [h.rest]
  rfl

/-- A loop of such steps is one. -/
theorem foldl {α : Type} (xs : List α) (f : State → α → State) (h : ∀ (s : State) x, s.NamesStep (f s x)) : s.NamesStep (xs.foldl f s) :=
  List.foldlRecOn xs f (motive := fun t => s.NamesStep t) (.refl s) fun t ht x _ => ht.trans (h t x)

end State.NamesStep

theorem State.startShootdown_namesStep (s : State) (c : Nat) (drop : Bool) : s.NamesStep (s.startShootdown c drop) where
  rest := rfl
  dying k hk := by
    rw [State.nameEntry_startShootdown]
    split
    · exact ⟨rfl, rfl⟩
    · exact hk

theorem State.removeDead_rest (s : State) (c : Nat) :
    s.removeDead c = { s with hub := { s.hub with names := (s.removeDead c).hub.names } } := by
  unfold State.removeDead
  dsimp only
  split <;> rfl

theorem State.dropNameRef_namesStep (s : State) (c : Nat) : s.NamesStep (s.dropNameRef c) where
  rest := by
    unfold State.dropNameRef
    rw [State.removeDead_rest]
    rfl
  dying k hk := by
    rw [State.dropNameRef_nameEntry]
    split
    · next h =>
      subst h
      rw [if_neg (by simp [hk.2])]
      exact hk
    · exact hk

theorem State.setLaunch_namesStep (s : State) (l : Nat) (f : Launch → Launch) : s.NamesStep (s.setLaunch l f) := ⟨rfl, fun _ => id⟩

theorem State.freeSnaps_namesStep (s : State) : s.NamesStep s.freeSnaps := ⟨rfl, fun _ => id⟩

theorem State.discardLaunches_namesStep (s : State) (q : Nat) : s.NamesStep (s.discardLaunches q) :=
  State.NamesStep.foldl _ _ fun _ _ =>
    ((((State.NamesStep.foldl _ _ fun s _ => State.dropNameRef_namesStep s _).trans (State.setLaunch_namesStep ..)).trans
      (State.startShootdown_namesStep ..)).trans (State.freeSnaps_namesStep _))

/-- What the closing of a queue leaves of the queue, of names that are being shot down, and of the strand's registers. -/
theorem State.closeQueue_closed (s : State) (c : Nat) (h : (s.nameEntry c).state = .dying ∧ (s.nameEntry c).sdone = false) :
    ((s.closeQueue c).nameEntry c).state = .dying
      ∧ ((s.queueOf c).state ≠ .none → ((s.closeQueue c).queueOf c).state = .closed) ∧ (s.closeQueue c).me.stack = s.me.stack := by
  unfold State.closeQueue
  split
  · next hq => exact ⟨h.1, fun hn => hq.resolve_left hn, rfl⟩
  · have put : (s.setQueue c Queue.close).FrontStep ((s.setQueue c Queue.close).putQueueField c 0x19 1 QState.closed.code) :=
      State.vput_frontStep ..
    have left := State.discardLaunches_namesStep ((s.setQueue c Queue.close).putQueueField c 0x19 1 QState.closed.code) c
    have names : ((s.setQueue c Queue.close).putQueueField c 0x19 1 QState.closed.code).nameEntry c = s.nameEntry c := put.nameEntry c
    rw [← names] at h
    refine ⟨(left.dying c h).1, fun _ => ?_, ?_⟩
    · rw [left.queueOf, put.queue_state, State.queueOf_setQueue, if_pos rfl]
      rfl
    · rw [left.me, put.stack]
      rfl

end Sys2Proof.Machine

/-!
PROOFS. One access of the current strand that nothing stands in the way of (R183, R192, R245), and the compare-and-swap of `ncas` (R45, R46).
-/

namespace Sys2Proof.Machine

/-! ## Bytes and the numbers that they hold -/

theorem FMap.getList_eq_map {α : Type} (d : α) (m : FMap α) (i n : Nat) :
    FMap.getList d m i n = (List.range n).map fun k => FMap.get d m (i + k) := by
  apply List.ext_getElem (by simp)
  intro k h1 h2
  have hk : k < n := by simpa using h1
  have := FMap.getD_getList d d m i n k hk
  simpa [List.getD_eq_getElem?_getD, List.getElem?_eq_getElem h1] using this

/-- A byte of the number that some bytes hold. -/
theorem ofNat_ofLE_div (bs : List Byte) (k : Nat) : BitVec.ofNat 8 (ofLE bs / 256 ^ k) = bs.getD k 0 := by
  induction bs generalizing k with
  | nil => simp [ofLE]
  | cons b bs ih =>
    have hb := b.isLt
    cases k with
    | zero =>
      apply BitVec.eq_of_toNat_eq
      simp [ofLE]
      omega
    | succ k =>
      have tail : ofLE (b :: bs) / 256 = ofLE bs := by
        rw [ofLE]
        omega
      rw [Nat.pow_succ, Nat.mul_comm, ← Nat.div_div_eq_div_mul, tail, ih, List.getD_cons_succ]

/-- Bytes with their offsets are written as a run. -/
theorem foldl_set_withOffsets (m : FMap Byte) (base off : Nat) (bs : List Byte) :
    (withOffsets off bs).foldl (fun b x => FMap.set Mem.byte0 b (base + x.1) x.2) m = FMap.setList Mem.byte0 m (base + off) bs := by
  induction bs generalizing m off with
  | nil => rfl
  | cons b bs ih => exact ih _ _

/-- Bytes are those of the number that they hold. -/
theorem FMap.get_eq_ofLE (m : FMap Byte) (i n k : Nat) : FMap.get Mem.byte0 m k =
    if i ≤ k ∧ k < i + n then BitVec.ofNat 8 (ofLE (FMap.getList Mem.byte0 m i n) / 256 ^ (k - i)) else FMap.get Mem.byte0 m k := by
  split
  · next h =>
    rw [ofNat_ofLE_div, FMap.getD_getList _ _ _ _ _ _ (by omega)]
    congr 1
    omega
  · rfl

theorem Mem.putAt_withOffsets (m : Mem) (block off : Nat) (bs : List Byte) :
    m.putAt block (withOffsets off bs) = m.putBytes (64 * block + off) bs := by
  rw [Mem.putAt, foldl_set_withOffsets]
  rfl

theorem State.numberAt_eq (s : State) (l : Leaf) (va n : Nat) : s.numberAt l va n = ofLE (s.mem.bytesAt (64 * l.pa.block + va % 64) n) := by
  rw [Mem.bytesAt, FMap.getList_eq_map]
  rfl

/-! ## The accesses of a strand, one unit -/

/-- The word's first access takes its leaf from a translation made now. -/
theorem translatePieces_one {s s' : State} {xk : XKind} {acc : Acc} {rd wr : Bool} {p : Piece} {l : Leaf}
    (hr : s.me.replay = { Replay.none with word := s.me.replay.word })
    (ht : translate { ctx := s.me.ctx, sysm := s.me.sysm, kind := xk, rd := rd, wr := wr } p.va s = .ok (.ok l) s') :
    translatePieces xk acc rd wr [p] s = .ok [(p, l)] { s' with me := { s'.me with
      replay := { s.me.replay with leaves := [(p.va, l)], leafPos := 1, watched := 0 } } } := by
  have first : s.me.replay.leafAt p.va = none := by
    rw [hr]
    rfl
  have leaf : settledLeaf { ctx := s.me.ctx, sysm := s.me.sysm, kind := xk, rd := rd, wr := wr } p.va s = .ok (.ok l) { s' with
      me := { s'.me with replay := { s.me.replay with leaves := [(p.va, l)], leafPos := 1, watched := 0 } } } := by
    rw [settledLeaf, act_get_bind]
    simp only [first, act_bind_ok ht]
    rw [hr]
    rfl
  rw [translatePieces, act_get_bind, act_bind_ok leaf]
  rfl

/-- A page that no filter watches passes. -/
theorem watchPieces_one {s : State} {acc : Acc} {p : Piece} {l : Leaf} (hw : bitsOf l.entry 8 1 = 0)
    (hr : ¬ s.me.replay.watchPos < s.me.replay.watched) :
    watchPieces acc [(p, l)] s = .ok () { s with me := { s.me with
      replay := { s.me.replay with watched := s.me.replay.watched + 1, watchPos := s.me.replay.watchPos + 1 } } } := by
  have hit : s.pieceHit acc p l = none := by
    rw [State.pieceHit, hw]
    rfl
  rw [watchPieces, act_get_bind]
  simp only [if_neg hr, hit]
  rfl

theorem wakeIsland_congr {s t : State} (h : t.pkg = s.pkg) (sp : Space) (hn : (s.wakeIsland sp).isNone = true) : t.wakeIsland sp = none := by
  unfold State.wakeIsland at hn ⊢
  rw [h]
  cases hi : sp.island with
  | none => rfl
  | some i =>
    rw [hi] at hn
    dsimp only at hn ⊢
    split at hn
    · rfl
    · cases hn
    · cases hn

/-- The lookup alone of a unit that its memory lets pass. -/
theorem runUnit_look {s : State} {u : AccessUnit} (hw : s.wakeIsland u.pa.space = none) (hu : uncorrOf s u = none)
    (hp : lookupUnit s.mem u = .pass []) (ha : u.act = .look) : runUnit u s = .ok (.looked u []) s := by
  have attempt : attemptUnit u s = .ok (.looked u []) s := by
    rw [attemptUnit, attemptWith, act_get_bind, hw]
    simp only [act_get_bind, hu, hp, ha, if_true]
    rfl
  rw [runUnit, act_bind_ok attempt]
  rfl

/-- A looked-up unit that writes no tags is performed. -/
theorem performLooked_ok {s : State} {u : AccessUnit} (hw : s.wakeIsland u.pa.space = none) (hu : uncorrOf s u = none)
    (hl : landingTags u [] = []) :
    performLooked u [] s = .ok (s.acquires.perform u []).2 (s.acquires.perform u []).1 := by
  have hw' : s.acquires.wakeIsland u.pa.space = none := wakeIsland_congr (s := s) (t := s.acquires) rfl _ (by rw [hw]; rfl)
  have hu' : uncorrOf s.acquires u = none := hu
  have acq : modMe Strand.acquired s = .ok () s.acquires := rfl
  rw [performLooked, act_bind_ok acq, act_get_bind, hw', hu']
  simp only [hl]
  rfl

/-! ## The results of acquires -/

/-- A strand with another record of what its word has settled. -/
def Strand.withReplay (t : Strand) (r : Replay) : Strand := { t with replay := r }

theorem Strand.deliver_withReplay (t : Strand) (r : Replay) (x : LongResult) : (t.withReplay r).deliver x = (t.deliver x).withReplay r := by
  unfold Strand.deliver
  dsimp only
  rw [List.foldl_hom (fun t : Strand => t.withReplay r) (g₁ := fun t x =>
      { t with stack := FMap.set 0 t.stack x.1 x.2, parity := t.parity.filter (· ≠ x.1) }) fun _ _ => rfl,
    List.foldl_hom (fun t : Strand => t.withReplay r) (g₁ := fun t x =>
      { t.setV (BitVec.ofNat 4 x.1) x.2 with parity := t.parity.filter (· ≠ 64 + x.1) }) fun _ _ => rfl]
  rfl

/-- What the results of acquires change does not depend on what the word has settled. -/
theorem Strand.acquired_withReplay (t : Strand) (r : Replay) : (t.withReplay r).acquired = t.acquired.withReplay r :=
  List.foldl_hom (fun t : Strand => t.withReplay r) fun t x => t.deliver_withReplay r x

theorem Strand.dropAhead_cwp (t : Strand) : t.dropAhead.cwp = t.cwp := by
  unfold Strand.dropAhead
  refine List.foldlRecOn (motive := fun u : Strand => u.cwp = t.cwp) _ _ rfl fun u hu i _ => ?_
  split
  · exact hu
  · exact hu

/-! ## What the compare-and-swap of a pair leaves -/

/-- A compare-and-swap answers what it found, and writes where that is what was expected. -/
theorem State.perform_cas (s : State) (u : AccessUnit) (off n : Nat) (e x : BitVec 128) (ha : u.act = .cas off n e x) (ht : u.trace = none) :
    let old := ofLE (s.mem.bytesAt (64 * u.pa.block + off) n)
    (s.perform u []).2.bytes = toLE n old
    ∧ ∃ (m : Mem) (ws : List Nat), (s.perform u []).1 = { s with mem := m }.wakeWords ws ∧ m.tags = s.mem.tags ∧ m.descs = s.mem.descs
      ∧ m.parked = s.mem.parked
      ∧ m.bytes = if old = e.toNat % 2 ^ (8 * n) then FMap.setList Mem.byte0 s.mem.bytes (64 * u.pa.block + off) (toLE n x.toNat)
        else s.mem.bytes := by
  intro old
  have hl : landingTags u [] = [] := by
    rw [landingTags, ha]
  unfold State.perform
  simp only [hl, ht]
  unfold applyAct
  simp only [ha]
  by_cases h : old = e.toNat % 2 ^ (8 * n)
  · simp only [old] at h
    rw [if_pos h]
    refine ⟨rfl, _, _, rfl, rfl, rfl, rfl, ?_⟩
    rw [if_pos h]
    exact congrArg Mem.bytes (Mem.putAt_withOffsets ..)
  · simp only [old] at h
    rw [if_neg h]
    refine ⟨rfl, _, _, rfl, rfl, rfl, rfl, ?_⟩
    rw [if_neg h]

/-- The state in which a word has settled something, and the one in which the results of the strand's acquires have then returned. -/
def State.settledAs (s : State) (r : Replay) : State := { s with me := s.me.withReplay r }
def State.acquiresAs (s : State) (r : Replay) : State := { s with me := s.me.acquired.withReplay r }

theorem State.settledAs_acquires (s : State) (r : Replay) : (s.settledAs r).acquires = s.acquiresAs r :=
  congrArg (fun t => { s with me := t }) (Strand.acquired_withReplay s.me r)

/-- What the compare-and-swap of a strand's pair leaves of a state in which nothing stands in its way (R45). -/
theorem State.perform_pair (s : State) {l : Leaf} {u : AccessUnit} {va : Nat} {e x : BitVec 128} (r : Replay) (hp : u.pa = l.pa)
    (ha : u.act = .cas (va % 64) 16 e x) (ht : u.trace = none) :
    let t := ((s.acquiresAs r).perform u []).1
    let old := s.numberAt l va 16
    ofLE ((s.acquiresAs r).perform u []).2.bytes = old ∧ onlyStored s t
      ∧ storedAt s t l va 16 (if old = e.toNat then x.toNat else old) := by
  intro t old
  obtain ⟨res, m, ws, hm, tags, descs, parked, bytes⟩ := State.perform_cas (s.acquiresAs r) u _ _ _ _ ha ht
  have here : s.mem.bytesAt (64 * u.pa.block + va % 64) 16 = FMap.getList Mem.byte0 s.mem.bytes (placeKey l va 0) 16 := by
    rw [hp]
    rfl
  have found : ofLE (s.mem.bytesAt (64 * u.pa.block + va % 64) 16) = old := by
    rw [hp, ← State.numberAt_eq]
  have small : old < 256 ^ 16 := by
    have := ofLE_lt (s.mem.bytesAt (64 * u.pa.block + va % 64) 16)
    rwa [found, Mem.bytesAt, FMap.length_getList] at this
  have whole : e.toNat % 2 ^ (8 * 16) = e.toNat := Nat.mod_eq_of_lt e.isLt
  have step : ({ s.acquiresAs r with mem := m } : State).FrontStep t := by
    rw [show t = _ from hm]
    exact State.wakeWords_frontStep _ _
  have mem : t.mem = { m with waiters := t.mem.waiters } := by
    rw [show t = _ from hm, State.wakeWords_mem]
  refine ⟨?answer, ⟨⟨_, _, _, _, step.me⟩, ?tags, ?descs, ?parked, ?cores, ?eng, ?pkg, ?agenda, ?time⟩, fun k => ?bytes⟩
  case answer =>
    rw [res, ofLE_toLE]
    exact (Nat.mod_eq_of_lt (found ▸ small)).trans found
  case tags => rw [mem]; exact tags
  case descs => rw [mem]; exact descs
  case parked => rw [mem]; exact parked
  case cores => rw [step.rest]; rfl
  case eng => rw [step.rest]; rfl
  case pkg => rw [step.rest]; rfl
  case agenda => rw [step.rest]; rfl
  case time => rw [step.rest]; rfl
  case bytes =>
    have stored : t.mem.bytes = if old = e.toNat then FMap.setList Mem.byte0 s.mem.bytes (placeKey l va 0) (toLE 16 x.toNat)
        else s.mem.bytes := by
      rw [mem]
      refine bytes.trans ?_
      rw [whole, hp]
      exact if_congr (by rw [← found, hp]; rfl) rfl rfl
    rw [stored]
    split
    · exact FMap.get_setList_toLE ..
    · rw [← found, here]
      exact FMap.get_eq_ofLE ..

/-! ## `ncas` (R45, R46) -/

theorem orderWait_eq_acquireOf (o p : Nat) : orderWait o p = acquireOf o p := by
  simp [orderWait, acquireOf]

/-- A result that waits as its access's order and scope have it (R343, R344). -/
theorem afterOrdered_startLookup (s : State) (w : ResultWait) (d : Reg) (x : Word) (name : Option Nat) :
    (do
      afterOrdered w
      startLookup [(← entryNow d, x)] w name
      pure .next : Act Flow) s = .ok .next (s.returns [(d, x)] w name) := by
  unfold afterOrdered State.returns
  by_cases hw : w = .acquire
  · subst hw
    rw [if_pos rfl, act_bind_ok (modMe_ok _ _)]
    show EStateM.Result.ok _ _ = _
    simp [Strand.dropAhead_cwp]
  · rw [if_neg hw]
    simp only [if_neg hw]
    rfl

/-- What a word asks for the first time is settled. -/
theorem settled_first {s : State} {f : Act (Nat × Nat × Word × Word)} {x : Nat × Nat × Word × Word} (ha : s.me.replay.answers = [])
    (hf : f s = .ok x s) :
    settled f s = .ok x (s.settledAs { s.me.replay with answers := [x], answerPos := s.me.replay.answerPos + 1 }) := by
  rw [settled, act_get_bind]
  simp only [ha, List.getElem?_nil, act_bind_ok hf]
  rfl

theorem State.wakeIsland_settledAs {s : State} {sp : Space} (r : Replay) (h : s.wakeIsland sp = none) : (s.settledAs r).wakeIsland sp = none :=
  wakeIsland_congr (s := s) (t := s.settledAs r) rfl sp (by rw [h]; rfl)

/-- A name that stands LIVE, looked up for the first time, gives its entry. -/
theorem resolveHome_live {s : State} {n : Name} (h : s.standing n .live) (ha : s.me.replay.answers = []) :
    ∃ (x : Resolved) (r : Replay), resolveHome n s = .ok x (s.settledAs r) ∧ x.st = stLIVE ∧ x.counter = some (nameCounter n) := by
  let k := nameCounter n
  let answer := (stLIVE, k + 1, (s.nameEntry k).addr, (s.nameEntry k).version)
  have whole : resolveHome n s = .ok { st := stLIVE, counter := some k, addr := (s.nameEntry k).addr, version := (s.nameEntry k).version }
      (s.settledAs { s.me.replay with answers := [answer], answerPos := s.me.replay.answerPos + 1 }) := by
    rw [resolveHome, act_bind_ok (settled_first (x := answer) ha ?found)]
    case found =>
      rw [act_get_bind, h.resolve_live]
      rfl
    rfl
  exact ⟨_, _, whole, rfl, rfl⟩

/-- The new name of an `ncas`, which is null or stands LIVE, as its word resolves it. -/
theorem resolveNew_live {s : State} {n : Name} (h : n = 0 ∨ s.standing n .live) (ha : s.me.replay.answers = []) :
    ∃ (x : Resolved) (r : Replay),
      (if n = 0 then pure { st := stLIVE, counter := none, addr := 0, version := 0 } else resolveHome n : Act Resolved) s
        = .ok x (s.settledAs r) ∧ x.st = stLIVE ∧ x.counter = if n = 0 then none else some (nameCounter n) := by
  by_cases hn : n = 0
  · simp only [if_pos hn]
    exact ⟨_, s.me.replay, rfl, rfl, rfl⟩
  · simp only [if_neg hn]
    exact resolveHome_live (h.resolve_left hn) ha

/-- The lookup of an `ncas` of whose unit nothing was looked up before, in a page without a trace. -/
theorem lookOnly_ok {s : State} {p : Piece} {l : Leaf} (hn : s.me.replay.looked = none) (ht : bitsOf l.entry 9 1 = 0) :
    let u := s.unitOf (.strand s.me.core s.me.slot) (strandKind l.pa.space s.me.core .atomic) .atomic .atomic none { p with act := .look } l
    s.wakeIsland l.pa.space = none → uncorrOf s u = none → lookupUnit s.mem u = .pass [] →
    lookOnly p l s = .ok (u, []) (s.settledAs { s.me.replay with looked := some (u, []) }) := by
  intro u hw hu hp
  rw [lookOnly, act_get_bind, hn]
  simp only [ht, show ¬ (0 : Nat) = 1 by decide, if_false]
  rw [act_bind_ok (runUnit_look (u := u) hw hu hp rfl)]
  rfl

/-- What nothing stands in the way of lets the compare-and-swap of `ncas` do: the pair is compared and written at once, and the status
is on its way (R45). -/
theorem ncas_live {sw : Bool} {d a b c : Reg} {o p : BitVec 3} {s s' : State} {l : Leaf}
    (h : s.me.atHand .plain [a, b, b + 1, c, c + 1] [d] = true) (align : (s.me.g a).toNat % 16 = 0)
    (free : Open s .atomic .atomic (s.me.g a).toNat 16 (.cas ((s.me.g a).toNat % 64) 16 (s.me.pair b) (s.me.pair c)) l s')
    (sound : uncorrOf s' (s'.unitAt .atomic .atomic (s.me.g a).toNat 16 .look l) = none) (described : l.pa.space.described = true)
    (name : s.me.pair c = 0 ∨ s'.standing (s.me.pair c) .live) :
    let va := (s.me.g a).toNat
    let u := s'.unitAt .atomic .atomic va 16 (.cas (va % 64) 16 (s.me.pair b) (s.me.pair c)) l
    ∃ r : Replay, completes (.ncas sw d a b c o p) sw .plain s
      (((s'.acquiresAs r).perform u []).1.returns
        [(d, BitVec.ofNat 64 (if ofLE ((s'.acquiresAs r).perform u []).2.bytes = (s.me.pair b).toNat then stLIVE else stMISMATCH))]
        (acquireOf o.toNat p.toNat) (if s.me.pair c = 0 then none else some (nameCounter (s.me.pair c)))) := by
  intro va u
  have fresh := Takes.follows_replay (Strand.atHand_iff.mp h).1
  let piece : Piece := { va := va, offs := blockOffs va 16, act := u.act }
  let r₁ : Replay := { s.me.replay with leaves := [(va, l)], leafPos := 1, watched := 0 }
  let r₂ : Replay := { r₁ with watched := r₁.watched + 1, watchPos := r₁.watchPos + 1 }
  let r₃ : Replay := { r₂ with looked := some ({ u with act := .look }, []) }
  have stands : s'.wakeIsland l.pa.space = none := by simpa using free.awake
  have translated : translatePieces .atomic .atomic true true [piece] s = .ok [(piece, l)] (s'.settledAs r₁) :=
    translatePieces_one fresh free.found
  have watched : watchPieces .atomic [(piece, l)] (s'.settledAs r₁) = .ok () (s'.settledAs r₂) := by
    refine watchPieces_one free.unwatched ?_
    show ¬ r₁.watchPos < 0
    omega
  have looked : lookOnly piece l (s'.settledAs r₂) = .ok ({ u with act := .look }, []) (s'.settledAs r₃) := by
    refine lookOnly_ok ?_ free.untraced (State.wakeIsland_settledAs _ stands) sound free.passes
    show s.me.replay.looked = none
    rw [fresh]
    rfl
  obtain ⟨x, r, resolved, live, counter⟩ := resolveNew_live (s := s'.settledAs r₃) name (by
    show s.me.replay.answers = []
    rw [fresh]
    rfl)
  have performed : performLooked u [] (s'.settledAs r) = .ok ((s'.acquiresAs r).perform u []).2 ((s'.acquiresAs r).perform u []).1 := by
    rw [← State.settledAs_acquires]
    refine performLooked_ok (State.wakeIsland_settledAs _ stands) ?_ rfl
    exact Option.isNone_iff_eq_none.mp free.sound
  refine ⟨r, issue_ok (Strand.atHand_iff.mp h).1 ?_⟩
  have aligned : checkAlign va 16 .atomic s = .ok () s := by
    rw [checkAlign, if_neg (not_not.mpr align)]
    rfl
  rw [act_bind_ok (prologue_atHand h), act_bind_ok (readReg_atHand h (by simp)), act_bind_ok (readPair_atHand h (by simp) (by simp)),
    act_bind_ok (readPair_atHand h (by simp) (by simp)), act_bind_ok aligned]
  refine (act_bind_ok translated).trans ?_
  simp only [described, Bool.not_true, Bool.false_eq_true, if_false, act_bind_ok watched]
  refine (act_bind_ok looked).trans ?_
  rw [← counter]
  have tail : (do
      let old := ofLE (← performLooked u []).bytes
      let w := orderWait o.toNat p.toNat
      afterOrdered w
      startLookup [(← entryNow d, BitVec.ofNat 64 (if old = (s.me.pair b).toNat then stLIVE else stMISMATCH))] w x.counter
      pure .next : Act Flow) (s'.settledAs r) = .ok .next (((s'.acquiresAs r).perform u []).1.returns
        [(d, BitVec.ofNat 64 (if ofLE ((s'.acquiresAs r).perform u []).2.bytes = (s.me.pair b).toNat then stLIVE else stMISMATCH))]
        (acquireOf o.toNat p.toNat) x.counter) := by
    rw [act_bind_ok performed, ← orderWait_eq_acquireOf]
    exact afterOrdered_startLookup ..
  by_cases hn : s.me.pair c = 0
  · rw [if_pos hn] at resolved ⊢
    refine (act_bind_ok resolved).trans ?_
    dsimp only
    rw [if_neg (not_not.mpr live)]
    exact tail
  · rw [if_neg hn] at resolved ⊢
    refine (act_bind_ok resolved).trans ?_
    dsimp only
    rw [if_neg (not_not.mpr live)]
    exact tail

/-- The bytes of a strand's own memories, pools and HBM carry descriptors. -/
theorem Space.described_of {sp : Space} (h : sp = .hbm ∨ (∃ k, sp = .ls k) ∨ ∃ k, sp = .pool k) : sp.described = true := by
  obtain rfl | ⟨k, rfl⟩ | ⟨k, rfl⟩ := h <;> rfl

/-- Settles O13: a LIVE name, a DYING one, and one whose entry is gone, word by word; then `ncas`, whose access nothing stands in the way
of. -/
theorem namesChanged : Obligations.NamesChanged := by
  unfold Obligations.NamesChanged
  refine ⟨?live, ?dying, ?gone, ?swap⟩
  case live =>
    intro sw a c s h hn k e changed
    have hr := hn.resolve_live
    have updates {f : NameEntry → NameEntry} : (s.setName k f).nameEntry k = f e ∧ ∀ j, j ≠ k → (s.setName k f).nameEntry j = s.nameEntry j :=
      ⟨(State.nameEntry_setName ..).trans (if_pos rfl), fun j hj => (State.nameEntry_setName ..).trans (if_neg hj)⟩
    have alive : e.state ≠ .dying := by
      rw [show e.state = .live from hn.2.1]
      decide
    refine ⟨fun h1 h6 h2 => ?kill, nkill_badClass h hr, fun hc => ?count, nref_saturated h hr (by decide), fun hc => ?drop,
      nrel_underflow h hr, fun h2 => ?queue⟩
    case kill =>
      have ends := nkill_ends (sw := sw) h hr ⟨h1, h6⟩
      rw [if_neg h2] at ends
      exact ⟨_, ends, updates.1, updates.2, rfl, rfl⟩
    case count => exact ⟨_, nref_counts h hr (by decide) hc, updates.1, updates.2, rfl, rfl⟩
    case drop =>
      refine ⟨_, nrel_drops h hr hc, ?_, fun j hj => ?_, (State.dropNameRef_namesStep ..).me, (State.dropNameRef_namesStep ..).mem⟩
      · rw [State.dropNameRef_nameEntry, if_pos rfl, if_neg fun hd => alive hd.1]
      · rw [State.dropNameRef_nameEntry, if_neg hj]
    case queue =>
      have ends := nkill_ends (sw := sw) h hr ⟨by rw [h2]; decide, by rw [h2]; decide⟩
      rw [if_pos h2] at ends
      have shot : ((s.startShootdown k false).nameEntry k).state = .dying ∧ ((s.startShootdown k false).nameEntry k).sdone = false := by
        rw [State.nameEntry_startShootdown, if_pos rfl]
        exact ⟨rfl, rfl⟩
      exact ⟨_, ends, State.closeQueue_closed _ _ shot⟩
  case dying =>
    intro sw a c s h hn k e
    have hr := hn.resolve_dying
    refine ⟨fun h1 h6 => nkill_dying h hr ⟨h1, h6⟩, nkill_badClass h hr, nref_dying h hr, nrel_underflow h hr, fun hc => ?release⟩
    case release =>
      refine ⟨_, nrel_drops h hr hc, ?_, fun j hj => ?_, (State.dropNameRef_namesStep ..).me, (State.dropNameRef_namesStep ..).mem⟩
      · have last : e.refcount - 1 = 0 ↔ e.refcount = 1 := by omega
        rw [State.dropNameRef_nameEntry, if_pos rfl]
        exact if_congr (by rw [show (s.nameEntry k).state = .dying from hn.2.1, last]; simp [and_comm, e]) rfl rfl
      · rw [State.dropNameRef_nameEntry, if_neg hj]
  case gone =>
    intro sw a c s h own hf st
    have hr := own.resolve_free hf s.me.part
    have code : BitVec.ofNat 64 (if nameCounter (s.me.pair a) < s.hub.watermark then stGONE else stNEVER) = st := by
      rw [apply_ite (BitVec.ofNat 64)]
      rfl
    rw [← code]
    exact ⟨completes_update_status h rfl hr, completes_update_status h rfl hr, completes_update_status h rfl hr⟩
  case swap =>
    intro sw d a b c o p s s' l h align free sound space name old hit
    obtain ⟨r, done⟩ := ncas_live (sw := sw) (o := o) (p := p) h align free sound (Space.described_of space) name
    obtain ⟨answer, stored, bytes⟩ := State.perform_pair s' (l := l) (e := s.me.pair b) (x := s.me.pair c)
      (u := s'.unitAt .atomic .atomic (s.me.g a).toNat 16 (.cas ((s.me.g a).toNat % 64) 16 (s.me.pair b) (s.me.pair c)) l) r rfl rfl rfl
    rw [answer] at done
    refine ⟨_, ?_, stored, ?_⟩
    · have code : BitVec.ofNat 64 (if old = (s.me.pair b).toNat then stLIVE else stMISMATCH) = if hit = true then 0 else 11 := by
        simp only [hit, decide_eq_true_eq]
        split <;> rfl
      rw [← code]
      exact done
    · simpa only [hit, decide_eq_true_eq] using bytes

end Sys2Proof.Machine

/-!
PROOFS. The statement on boots, firmware images and the SPDM requests (O47).
-/

namespace Sys2Proof.Machine

/-! ## Boot (R421, R422, R431) -/

/-- A step that succeeds leads to the next. -/
theorem State.bootFrom_ok {s : State} {n : Nat} {ns : List Nat} (h : s.bootStepOk n = true) : s.bootFrom (n :: ns) = (s.bootStep n).bootFrom ns :=
  if_pos h

/-- A step that fails stops the boot (R422). -/
theorem State.bootFrom_fails {s : State} {n : Nat} {ns : List Nat} (h : s.bootStepOk n = false) :
    s.bootFrom (n :: ns) = s.setPkg fun p => { p with bootFailed := some n, recovery := true } := by
  rw [State.bootFrom, h]
  rfl

/-- What a boot's training of a port leaves of the other ports. -/
theorem State.portOf_trainPort_ne {s : State} {n i : Nat} {offered : List Nat} (h : i ≠ n) : (s.trainPort n offered).portOf i = s.portOf i := by
  rw [State.trainPort]
  dsimp only
  split
  · rfl
  · rw [State.portOf_setPort, if_neg h]

/-- A port that is as after reset is trained where its lanes lock and a version is common (R431, R433). -/
theorem State.portOf_trainPort_reset {s : State} {n : Nat} {offered : List Nat} (h : s.portOf n = TwinePort.reset) :
    ((s.trainPort n offered).portOf n).trained = (Config.linkLocks n 0 && (offered.contains 1 || offered.contains 2)) := by
  have trains : TwinePort.reset.trains n offered = (Config.linkLocks n 0 && (offered.contains 1 || offered.contains 2)) := by
    rw [Bool.eq_iff_iff, TwinePort.trains_iff]
    simp [TwinePort.reset]
  rw [State.trainPort, h, if_neg (by decide), State.portOf_setPort, if_pos rfl]
  exact trains

/-- Training changes ports alone. -/
theorem State.trainPort_rest (s : State) (n : Nat) (offered : List Nat) :
    ∃ w, s.trainPort n offered = { s with pkg := { s.pkg with twine := w } } := by
  rw [State.trainPort]
  dsimp only
  split
  · exact ⟨s.pkg.twine, rfl⟩
  · exact ⟨_, rfl⟩

/-- The ports that a boot trains, in turn, with the versions that their partners offer (R431). -/
def State.trainPorts (s : State) (ns : List Nat) : State := ns.foldl (fun s n => s.trainPort n (Config.twinePartner n s.hub.serial.toNat)) s

theorem State.trainPorts_rest (s : State) (ns : List Nat) : ∃ w, s.trainPorts ns = { s with pkg := { s.pkg with twine := w } } := by
  induction ns generalizing s with
  | nil => exact ⟨s.pkg.twine, rfl⟩
  | cons n ns ih =>
    obtain ⟨w, hw⟩ := State.trainPort_rest s n (Config.twinePartner n s.hub.serial.toNat)
    obtain ⟨w', hw'⟩ := ih (s.trainPort n (Config.twinePartner n s.hub.serial.toNat))
    exact ⟨w', hw'.trans (by rw [hw])⟩

theorem State.trainPorts_hub (s : State) (ns : List Nat) : (s.trainPorts ns).hub = s.hub := by
  obtain ⟨w, hw⟩ := State.trainPorts_rest s ns
  rw [hw]

section
variable (s : State)

theorem State.bootStep_one : s.bootStep 1 = { s with pkg := { s.pkg with bootStep := 1, bootFailed := none } } := rfl

/-- The second step of a boot takes the image (R422). -/
theorem State.bootStep_two : s.bootStep 2 = { s with pkg := { s.pkg with
    image := s.pkg.bootImage, nextImage := none, recovery := false, bootStep := 2, bootFailed := none } } := rfl

/-- The third makes the boot serial (R25). -/
theorem State.bootStep_three : s.bootStep 3 = { s with
    hub := { s.hub with serial := s.hub.serial + 1 }
    pkg := { s.pkg with harvested := true, bootStep := 3, bootFailed := none } } := rfl

theorem State.bootStep_four : s.bootStep 4 = { s with pkg := { s.pkg with bootStep := 4, bootFailed := none } } := rfl

theorem State.bootStep_five : s.bootStep 5 = { s with pkg := { s.pkg with
    keySerial := s.hub.serial.toNat, bootStep := 5, bootFailed := none } } := rfl

end

/-- The sixth trains the ports (R431). -/
theorem State.bootStep_six (s : State) :
    s.bootStep 6 = (s.trainPorts (List.range twinePorts)).setPkg fun p => { p with bootStep := 6, bootFailed := none } := rfl

theorem State.trainPorts_portOf_of_not_mem {s : State} {ns : List Nat} {i : Nat} (h : i ∉ ns) : (s.trainPorts ns).portOf i = s.portOf i := by
  induction ns generalizing s with
  | nil => rfl
  | cons n ns ih =>
    obtain ⟨hn, hns⟩ := not_or.mp (List.mem_cons.not.mp h)
    exact (ih hns).trans (State.portOf_trainPort_ne hn)

theorem State.trainPorts_trained {s : State} {ns : List Nat} {i : Nat} (hi : i ∈ ns) (once : ns.Nodup) (h : s.portOf i = TwinePort.reset) :
    ((s.trainPorts ns).portOf i).trained =
      (Config.linkLocks i 0 && ((Config.twinePartner i s.hub.serial.toNat).contains 1 || (Config.twinePartner i s.hub.serial.toNat).contains 2)) := by
  induction ns generalizing s with
  | nil => cases hi
  | cons n ns ih =>
    obtain ⟨hn, rest⟩ := List.nodup_cons.mp once
    by_cases hin : i = n
    · subst hin
      have later := State.trainPorts_portOf_of_not_mem (s := s.trainPort i (Config.twinePartner i s.hub.serial.toNat)) hn
      rw [State.trainPorts, List.foldl_cons]
      exact (congrArg TwinePort.trained later).trans (State.portOf_trainPort_reset h)
    · refine (ih (List.mem_of_ne_of_mem hin hi) rest ((State.portOf_trainPort_ne hin).trans h)).trans ?_
      obtain ⟨w, hw⟩ := State.trainPort_rest s n (Config.twinePartner n s.hub.serial.toNat)
      rw [hw]

/-- The image of a boot passes (R422). -/
theorem Pkg.bootable_iff {k : Pkg} {i : FirmwareImage} :
    k.bootable i = true ↔ i.sigOk = true ∧ Config.rollbackFuse ≤ i.rollback ∧ (k.recovery = true → i.recovery = true) := by
  cases hr : k.recovery <;> simp [Pkg.bootable, hr, and_assoc]

/-- The package as the sixth step of a boot of an image finds it. -/
def State.untrained (s : State) (i : FirmwareImage) : State :=
  let b := s.beforeBoot
  { b with
    hub := { b.hub with serial := s.hub.serial + 1 }
    pkg := { b.pkg with image := some i, nextImage := none, recovery := false, harvested := true, keySerial := s.hub.serial.toNat + 1
                        bootStep := 5, bootFailed := none } }

theorem State.untrained_of_steps {s : State} {i : FirmwareImage} (hi : s.pkg.bootImage = some i)
    (serial : (s.hub.serial + 1).toNat = s.hub.serial.toNat + 1) :
    ((((s.beforeBoot.bootStep 1).bootStep 2).bootStep 3).bootStep 4).bootStep 5 = s.untrained i := by
  have taken : s.beforeBoot.pkg.bootImage = some i := hi
  rw [State.bootStep_five, State.bootStep_four, State.bootStep_three, State.bootStep_two, State.bootStep_one]
  rw [State.untrained, ← taken, ← serial]
  rfl

/-- A boot that succeeds leaves its ports trained (R421). -/
theorem execBoot_succeeds {s : State} {i : FirmwareImage} (hi : s.pkg.bootImage = some i) (good : s.pkg.bootable i = true)
    (hn : s.hub.serial.toNat + 1 < 2 ^ 40) (early : ∀ j, 1 ≤ j → j ≤ 3 → Config.bootStepOk s.hub.serial.toNat j = true)
    (late : ∀ j, 4 ≤ j → j ≤ 7 → Config.bootStepOk (s.hub.serial.toNat + 1) j = true) :
    execBoot s = .next (((s.untrained i).trainPorts (List.range twinePorts)).setPkg fun p => { p with bootStep := 7, bootFailed := none }) := by
  let b := s.beforeBoot
  let b₅ := ((((b.bootStep 1).bootStep 2).bootStep 3).bootStep 4).bootStep 5
  have serial : (s.hub.serial + 1).toNat = s.hub.serial.toNat + 1 := by
    rw [BitVec.toNat_add]
    exact Nat.mod_eq_of_lt hn
  have image : (b.bootStep 1).pkg.bootImage = some i := hi
  have ok {t : State} {n : Nat} (h : Config.bootStepOk t.hub.serial.toNat n = true) (h2 : n ≠ 2) (h3 : n ≠ 3) : t.bootStepOk n = true := by
    simp [State.bootStepOk, h]
  have first : b.bootStepOk 1 = true := ok (early 1 (by decide) (by decide)) (by decide) (by decide)
  have second : (b.bootStep 1).bootStepOk 2 = true := by
    rw [State.bootStepOk, image]
    exact Bool.and_eq_true_iff.mpr ⟨early 2 (by decide) (by decide), good⟩
  have third : ((b.bootStep 1).bootStep 2).bootStepOk 3 = true :=
    Bool.and_eq_true_iff.mpr ⟨early 3 (by decide) (by decide), decide_eq_true hn⟩
  have later {t : State} {j : Nat} (ht : t.hub.serial = s.hub.serial + 1) (h4 : 4 ≤ j) (h7 : j ≤ 7) : t.bootStepOk j = true := by
    refine ok ?_ (by omega) (by omega)
    rw [ht, serial]
    exact late j h4 h7
  have trained : (b₅.bootStep 6).hub.serial = s.hub.serial + 1 := by
    rw [State.bootStep_six, State.setPkg_hub, State.trainPorts_hub]
    rfl
  have before : b₅ = s.untrained i := State.untrained_of_steps hi serial
  have fourth : (((b.bootStep 1).bootStep 2).bootStep 3).bootStepOk 4 = true := later rfl (by decide) (by decide)
  have fifth : ((((b.bootStep 1).bootStep 2).bootStep 3).bootStep 4).bootStepOk 5 = true := later rfl (by decide) (by decide)
  have sixth : b₅.bootStepOk 6 = true := later rfl (by decide) (by decide)
  have last : (b₅.bootStep 6).bootStepOk 7 = true := later trained (by decide) (by decide)
  rw [execBoot, State.bootFrom_ok first, State.bootFrom_ok second, State.bootFrom_ok third, State.bootFrom_ok fourth, State.bootFrom_ok fifth,
    State.bootFrom_ok sixth, State.bootFrom_ok last, ← before, State.bootStep_six]
  generalize b₅.trainPorts (List.range twinePorts) = t
  rfl

/-- A boot whose image may not boot stops at its second step (R422). -/
theorem execBoot_stops {s : State} {i : FirmwareImage} (hi : s.pkg.bootImage = some i) (bad : s.pkg.bootable i = false)
    (first : Config.bootStepOk s.hub.serial.toNat 1 = true) :
    execBoot s = .next ((s.beforeBoot.bootStep 1).setPkg fun p => { p with bootFailed := some 2, recovery := true }) := by
  have image : (s.beforeBoot.bootStep 1).pkg.bootImage = some i := hi
  have one : s.beforeBoot.bootStepOk 1 = true := Bool.and_eq_true_iff.mpr ⟨first, rfl⟩
  have two : (s.beforeBoot.bootStep 1).bootStepOk 2 = false := by
    rw [State.bootStepOk, image]
    exact Bool.and_eq_false_iff.mpr (.inr bad)
  rw [execBoot, State.bootFrom_ok one, State.bootFrom_fails two]

/-! ## SPDM (R423, R433) -/

theorem Pkg.spdm_setSpdm (s : State) (port : SpdmPort) (f : Spdm → Spdm) : (s.setSpdm port f).pkg.spdm port = f (s.pkg.spdm port) := by
  cases port <;> rfl

/-- The other port of the two. -/
def otherPort : SpdmPort → SpdmPort
  | .host => .management
  | .management => .host

theorem Pkg.spdm_other_setSpdm (s : State) (port : SpdmPort) (f : Spdm → Spdm) :
    (s.setSpdm port f).pkg.spdm (otherPort port) = s.pkg.spdm (otherPort port) := by
  cases port <;> rfl

/-- An exchange changes nothing but its port's record. -/
theorem State.setSpdm_rest (s : State) (port : SpdmPort) (f : Spdm → Spdm) :
    (s.setSpdm port f).mem = s.mem ∧ (s.setSpdm port f).hub = s.hub ∧ (s.setSpdm port f).me = s.me
      ∧ (s.setSpdm port f).pkg.sessions = s.pkg.sessions := by
  cases port <;> exact ⟨rfl, rfl, rfl, rfl⟩

/-- A request leaves the exchange of its port so, and changes nothing else but what is free. -/
def State.exchanged (s : State) (port : SpdmPort) (e : Instr) (p : Spdm → Prop) : Prop :=
  ∃ t : State, exec e s = .next t ∧ p (t.pkg.spdm port) ∧ t.pkg.spdm (otherPort port) = s.pkg.spdm (otherPort port) ∧ t.mem = s.mem
    ∧ t.hub = s.hub ∧ t.me = s.me ∧ t.pkg.sessions = s.pkg.sessions

section
variable {s : State} {port : SpdmPort} {e : Instr} {f : Nat} {g : Spdm → Spdm} {p : Spdm → Prop}

theorem State.exchanged_of_setSpdm (he : exec e s = .next ({ s with free := f }.setSpdm port g)) (hp : p (g (s.pkg.spdm port))) :
    s.exchanged port e p := by
  refine ⟨_, he, ?_, Pkg.spdm_other_setSpdm .., State.setSpdm_rest ..⟩
  rw [Pkg.spdm_setSpdm]
  exact hp

/-- A requester that was refused at GET_VERSION gets no answer (R433). -/
theorem State.exchanged_refused (h : (s.pkg.spdm port).refused = true) (h' : (s.pkg.spdm port).version = false)
    (he : exec e s = .next ({ s with free := f }.spdmAnswer port g)) : s.exchanged port e fun y => y = s.pkg.spdm port :=
  State.exchanged_of_setSpdm he (if_pos (by rw [h, h']; rfl))

theorem State.exchanged_answered (h : (s.pkg.spdm port).refused = true → (s.pkg.spdm port).version = true)
    (he : exec e s = .next ({ s with free := f }.spdmAnswer port g)) (hp : p (g (s.pkg.spdm port))) : s.exchanged port e p := by
  refine State.exchanged_of_setSpdm he ?_
  rwa [if_neg (by simpa using h)]

end

/-- The image measured second is that of the package, and those from the fourth on are of the partitions (R423). -/
theorem State.measurements_spec (s : State) :
    s.measurements.length = 20 ∧ s.measurements[0]? = some (Config.measurement 1 0).toNat
      ∧ (∀ i, s.pkg.image = some i → s.measurements[1]? = some i.digest.toNat)
      ∧ ∀ p, p < 16 → s.measurements[p + 3]? = some (((s.partOf p).image).getD 0).toNat := by
  refine ⟨by simp [State.measurements], rfl, fun i hi => ?image, fun p hp => ?parts⟩
  case image =>
    have second : s.measurementOf 2 = i.digest := by
      rw [State.measurementOf, if_pos rfl, hi]
    rw [← second]
    rfl
  case parts =>
    have own : s.measurementOf (p + 3 + 1) = ((s.partOf p).image).getD 0 := by
      rw [State.measurementOf, if_neg (by omega), if_pos (by omega)]
      rfl
    rw [State.measurements, List.getElem?_map, List.getElem?_range (by omega), ← own]
    rfl

/-! ## The statement -/

/-- Settles O47: a boot by whether its image may boot; then each request by whether its requester was refused. -/
theorem bootAndIdentity : Obligations.BootAndIdentity := by
  unfold Obligations.BootAndIdentity
  refine ⟨?boot, ?spdm⟩
  case boot =>
    intro s image k n next good
    have taken : k.bootImage = next := by
      show k.nextImage.or k.image = match k.nextImage with | some i => some i | none => k.image
      cases k.nextImage <;> rfl
    have goodIff {i : FirmwareImage} (hi : next = some i) : good ↔ k.bootable i = true := by
      rw [Pkg.bootable_iff]
      exact ⟨fun ⟨j, hj, ok⟩ => Option.some.inj (hi.symm.trans hj) ▸ ok, fun ok => ⟨i, hi, ok⟩⟩
    refine ⟨fun hn hg early late => ?succeeds, fun ⟨i, hi⟩ hg first => ?stops, fun hr => ?written, fun hr hi => ?refused⟩
    case succeeds =>
      obtain ⟨i, hi, -⟩ := id hg
      have boots := execBoot_succeeds (taken.trans hi) ((goodIff hi).mp hg) hn early late
      have serial : (s.hub.serial + 1).toNat = n + 1 := by
        rw [BitVec.toNat_add]
        exact Nat.mod_eq_of_lt hn
      have ports (j : Nat) (hj : j < 24) := State.trainPorts_trained (s := s.untrained i) (List.mem_range.mpr hj) List.nodup_range rfl
      obtain ⟨w, hw⟩ := State.trainPorts_rest (s.untrained i) (List.range 24)
      refine ⟨_, boots, ?_⟩
      rw [hw] at ports ⊢
      exact ⟨rfl, rfl, rfl, hi.symm, rfl, rfl, rfl, rfl, rfl, rfl, rfl, rfl, rfl, rfl, rfl, rfl, rfl, rfl, rfl, fun j hj => serial ▸ ports j hj⟩
    case stops =>
      have bad : k.bootable i = false := Bool.eq_false_iff.mpr (mt (goodIff hi).mpr hg)
      exact ⟨_, execBoot_stops (taken.trans hi) bad first, rfl, rfl, rfl, rfl⟩
    case written =>
      refine if_neg fun ⟨awaits, other⟩ => hr.elim (fun no => Bool.false_ne_true (no.symm.trans awaits)) fun yes => ?_
      rw [yes] at other
      cases other
    case refused => exact if_pos ⟨hr, by rw [hi]; rfl⟩
  case spdm =>
    intro port nonce falcon shake versions s x other gives
    have hx : x s = s.pkg.spdm port := by cases port <;> rfl
    have same {e : Instr} {p : Spdm → Prop} : gives e p = s.exchanged port e p := by cases port <;> rfl
    simp only [hx, same]
    refine ⟨?version, fun h h' e he => ?refused, fun h => ⟨?capabilities, ?algorithms, ?certificate, ?challenge, ?measurements⟩⟩
    case version =>
      refine State.exchanged_of_setSpdm (f := s.free) (g := fun _ =>
        if versions.contains 0x13 then { Spdm.reset with version := true, answer := [0x13] } else { Spdm.reset with refused := true })
        rfl ⟨?_, fun hv => ?_, fun hv => ?_⟩
      · split <;> rfl
      · rw [if_pos (List.contains_iff_mem.mpr hv)]
        exact ⟨rfl, rfl, rfl⟩
      · rw [if_neg (mt List.contains_iff_mem.mp hv)]
        exact ⟨rfl, rfl, rfl⟩
    case refused =>
      simp only [List.mem_cons, List.not_mem_nil, or_false] at he
      obtain rfl | rfl | rfl | rfl | rfl := he
      all_goals exact State.exchanged_refused h h' rfl
    case capabilities => exact State.exchanged_answered h rfl rfl
    case algorithms =>
      refine State.exchanged_answered h rfl ?_
      cases falcon && shake <;> exact ⟨rfl, rfl, rfl⟩
    case certificate => exact State.exchanged_answered h rfl rfl
    case challenge => exact State.exchanged_answered h rfl rfl
    case measurements => exact State.exchanged_answered h rfl (State.measurements_spec s)

end Sys2Proof.Machine

/-!
PROOFS. A step that changes the strand in one slot, the return of long results, and the statement on the steps of strands (O30).
-/

namespace Sys2Proof.Machine

/-! ## The strand in a slot -/

section
variable {s : State} {core slot : Nat} {f : Strand → Strand} (hf : ∀ y, (f y).place = y.place)
include hf

theorem State.strandAt_setStrand (c n : Nat) :
    (s.setStrand core slot f).strandAt c n = (s.strandAt c n).map fun t => if t.inSlot core slot then f t else t := by
  have place (t : Strand) : (if t.inSlot core slot then f t else t).inSlot c n = t.inSlot c n := by
    unfold Strand.inSlot
    split
    · rw [hf]
    · rfl
  have all : (s.setStrand core slot f).all = s.all.map fun t => if t.inSlot core slot then f t else t := rfl
  rw [State.strandAt, all, List.find?_map]
  exact congrArg (fun p => (s.all.find? p).map _) (funext place)

theorem State.strandAt_setStrand_same {x : Strand} (h : s.strandAt core slot = some x) :
    (s.setStrand core slot f).strandAt core slot = some (f x) := by
  have here : x.inSlot core slot = true := List.find?_some (p := fun t : Strand => t.inSlot core slot) h
  rw [State.strandAt_setStrand hf, h, Option.map_some, if_pos here]

theorem State.strandAt_setStrand_ne {c n : Nat} (h : (c, n) ≠ (core, slot)) : (s.setStrand core slot f).strandAt c n = s.strandAt c n := by
  rw [State.strandAt_setStrand hf]
  cases hx : s.strandAt c n with
  | none => rfl
  | some x =>
    have there : x.place = .slot c n := of_decide_eq_true (List.find?_some (p := fun t : Strand => t.inSlot c n) hx)
    have away : x.inSlot core slot = false := by
      rw [Strand.inSlot, there]
      exact decide_eq_false fun he => h (by simpa using he)
    rw [Option.map_some, away]
    rfl

/-- Changing the strand in a slot changes nothing else. -/
theorem State.slotBecomes_setStrand {x : Strand} (h : s.strandAt core slot = some x) :
    s.slotBecomes (s.setStrand core slot f) core slot (f x) :=
  ⟨State.strandAt_setStrand_same hf h, fun _ _ hne => State.strandAt_setStrand_ne hf hne, rfl, rfl, rfl, rfl, rfl⟩

end

theorem Strand.core_of_strandAt {s : State} {core slot : Nat} {x : Strand} (h : s.strandAt core slot = some x) : x.core = core := by
  have there : x.place = .slot core slot := of_decide_eq_true (List.find?_some (p := fun t : Strand => t.inSlot core slot) h)
  rw [Strand.core, there]

theorem State.Walked.strandAt {s t : State} (h : s.Walked t) (core slot : Nat) : t.strandAt core slot = s.strandAt core slot := by
  rw [h.rest]
  rfl

/-- A strand that waits at no kernel trap is not saved. -/
theorem State.kernelSave_of_not_ktrap {s : State} {core slot : Nat} {x : Strand} (h : s.strandAt core slot = some x) (hk : x.ktrap = false) :
    s.kernelSave core slot = s := by
  rw [State.kernelSave, h]
  simp [hk]

/-! ## Vector registers (R127) -/

theorem Strand.vlive_setV (t : Strand) (r q : Reg) (x : List Lane) :
    (t.setV r x).vlive.getLsbD q.toNat = (t.vlive.getLsbD q.toNat || decide (r = q)) := by
  have hq := q.isLt
  have hr := r.isLt
  have bit : (BitVec.ofNat 16 (2 ^ r.toNat)).getLsbD q.toNat = decide (r = q) := by
    rw [BitVec.getLsbD_ofNat, Nat.testBit_two_pow, decide_eq_true (by omega : q.toNat < 16), Bool.true_and]
    exact decide_eq_decide.mpr BitVec.toNat_inj
  rw [Strand.setV, BitVec.getLsbD_or, bit]

theorem Strand.v_setV_same (t : Strand) (q : Reg) {x : List Lane} (hx : x.length = 64) : (t.setV q x).v q = x := by
  rw [Strand.v, Strand.vlive_setV, decide_eq_true rfl, Bool.or_true, if_pos rfl]
  have := FMap.getList_setList 0 t.vregs (64 * q.toNat) (x.take 64)
  rw [List.take_of_length_le (by omega), hx] at this
  rw [Strand.setV, List.take_of_length_le (by omega)]
  exact this

theorem Strand.v_setV_ne (t : Strand) {r q : Reg} (x : List Lane) (h : r ≠ q) : (t.setV r x).v q = t.v q := by
  have apart : r.toNat ≠ q.toNat := mt BitVec.eq_of_toNat_eq h
  have lanes : FMap.getList 0 (t.setV r x).vregs (64 * q.toNat) 64 = FMap.getList 0 t.vregs (64 * q.toNat) 64 := by
    rw [FMap.getList_eq_map, FMap.getList_eq_map]
    refine List.map_congr_left fun k hk => ?_
    have hk := List.mem_range.mp hk
    have len : (x.take 64).length ≤ 64 := List.length_take_le ..
    refine FMap.get_setList_other _ _ _ _ _ ?_
    omega
  rw [Strand.v, Strand.v, Strand.vlive_setV, decide_eq_false h, Bool.or_false, lanes]

/-! ## The return of a long result (R170) -/

/-- A result's value for a stack entry, and one for a vector register, written. -/
def Strand.putG (t : Strand) (x : Nat × Word) : Strand :=
  { t with stack := FMap.set 0 t.stack x.1 x.2, parity := t.parity.filter (· ≠ x.1) }
def Strand.putVector (t : Strand) (x : Nat × List Lane) : Strand :=
  { t.setV (BitVec.ofNat 4 x.1) x.2 with parity := t.parity.filter (· ≠ 64 + x.1) }

theorem Strand.deliver_eq (t : Strand) (r : LongResult) :
    t.deliver r = { r.vdests.foldl Strand.putVector (r.gdests.foldl Strand.putG t) with
      outstanding := (r.vdests.foldl Strand.putVector (r.gdests.foldl Strand.putG t)).outstanding.filter (·.id ≠ r.id) } := rfl

theorem Strand.foldl_putG_rest (t : Strand) (xs : List (Nat × Word)) :
    xs.foldl Strand.putG t = { t with stack := (xs.foldl Strand.putG t).stack, parity := (xs.foldl Strand.putG t).parity } := by
  refine List.foldlRecOn (motive := fun u : Strand => u = { t with stack := u.stack, parity := u.parity }) xs _ rfl fun u hu x _ => ?_
  rw [Strand.putG, hu]

theorem Strand.foldl_putVector_rest (t : Strand) (xs : List (Nat × List Lane)) :
    xs.foldl Strand.putVector t = { t with
      vregs := (xs.foldl Strand.putVector t).vregs, vlive := (xs.foldl Strand.putVector t).vlive
      parity := (xs.foldl Strand.putVector t).parity } := by
  refine List.foldlRecOn (motive := fun u : Strand => u = { t with vregs := u.vregs, vlive := u.vlive, parity := u.parity }) xs _ rfl
    fun u hu x _ => ?_
  rw [Strand.putVector, hu]
  rfl

/-- Delivering a result writes registers and takes it off those on their way. -/
theorem Strand.deliver_rest (t : Strand) (r : LongResult) :
    t.deliver r = { t with
      stack := (r.gdests.foldl Strand.putG t).stack, vregs := (t.deliver r).vregs, vlive := (t.deliver r).vlive
      parity := (t.deliver r).parity, outstanding := t.outstanding.filter (·.id ≠ r.id) } := by
  rw [Strand.deliver_eq, Strand.foldl_putVector_rest, Strand.foldl_putG_rest]

/-- The last value for an entry stands. -/
theorem Strand.stack_foldl_putG (t : Strand) (xs : List (Nat × Word)) (e : Nat) :
    FMap.get 0 (xs.foldl Strand.putG t).stack e = ((xs.reverse.find? fun y => y.1 == e).map (·.2)).getD (FMap.get 0 t.stack e) := by
  induction xs using List.reverseRecOn with
  | nil => rfl
  | append_singleton xs x ih =>
    rw [List.foldl_append, List.reverse_append]
    by_cases h : x.1 = e
    · simp [Strand.putG, h]
    · simpa [Strand.putG, h, Ne.symm h] using ih

theorem Strand.v_foldl_putVector (t : Strand) (xs : List (Nat × List Lane)) (q : Reg) (h : ∀ y ∈ xs, y.1 ≠ q.toNat ∧ y.1 < 16) :
    (xs.foldl Strand.putVector t).v q = t.v q := by
  refine List.foldlRecOn (motive := fun u : Strand => u.v q = t.v q) xs _ rfl fun u hu x hx => ?_
  have other : BitVec.ofNat 4 x.1 ≠ q := by
    intro hq
    have small := (h x hx).2
    refine (h x hx).1 ?_
    rw [← hq, BitVec.toNat_ofNat, Nat.mod_eq_of_lt small]
  exact (Strand.v_setV_ne u x.2 other).trans hu

theorem Strand.afterLast_rest (t : Strand) : t.afterLast = { t with wait := t.afterLast.wait } := by
  unfold Strand.afterLast
  split
  · rfl
  · split <;> rfl

/-- The strand goes on where its last result was the one that it waited for. -/
theorem Strand.wait_afterLast (t : Strand) : t.afterLast.wait = if t.outstanding ≠ [] then t.wait
    else if t.wait = .marker ∨ t.wait = .returns then .none else if t.wait = .passedMarker then .passed else t.wait := by
  unfold Strand.afterLast
  cases ho : t.outstanding with
  | cons r rs => simp
  | nil =>
    dsimp only [List.isEmpty_nil, Bool.not_true]
    rw [if_neg (by decide), if_neg (by simp)]
    split
    case h_4 h1 h2 h3 => rw [if_neg (not_or.mpr ⟨h1, h2⟩), if_neg h3]
    all_goals simp [*]

theorem Strand.place_afterLast_deliver (t : Strand) (r : LongResult) : (t.deliver r).afterLast.place = t.place := by
  rw [Strand.afterLast_rest, Strand.deliver_rest]

/-- What a result's return leaves of its strand. -/
theorem Strand.afterLast_deliver (x : Strand) (r : LongResult) :
    let u := (x.deliver r).afterLast
    let left := x.outstanding.filter (·.id ≠ r.id)
    u.stack = (r.gdests.foldl Strand.putG x).stack ∧ (∀ q, u.v q = (x.deliver r).v q) ∧ u.outstanding = left ∧ u.pc = x.pc ∧ u.ktrap = x.ktrap
      ∧ u.wait = if left ≠ [] then x.wait
          else if x.wait = .marker ∨ x.wait = .returns then .none else if x.wait = .passedMarker then .passed else x.wait := by
  intro u left
  have out : (x.deliver r).outstanding = left := by rw [Strand.deliver_rest]
  have wait : (x.deliver r).wait = x.wait := by rw [Strand.deliver_rest]
  have stack : (x.deliver r).stack = (r.gdests.foldl Strand.putG x).stack := by rw [Strand.deliver_rest]
  have pc : (x.deliver r).pc = x.pc := by rw [Strand.deliver_rest]
  have ktrap : (x.deliver r).ktrap = x.ktrap := by rw [Strand.deliver_rest]
  have rest : u = { x.deliver r with wait := u.wait } := Strand.afterLast_rest _
  refine ⟨?_, fun q => ?_, ?_, ?_, ?_, ?_⟩
  · rw [rest, stack]
  · rw [rest]
    rfl
  · rw [rest, out]
  · rw [rest, pc]
  · rw [rest, ktrap]
  · rw [Strand.wait_afterLast, out, wait]

/-- A vector register after a result's return: kept where the result names others alone, and the value of a result that names it alone. -/
theorem Strand.v_deliver_of_forall_ne (x : Strand) (r : LongResult) (q : Reg) (h : ∀ y ∈ r.vdests, y.1 ≠ q.toNat ∧ y.1 < 16) :
    (x.deliver r).v q = x.v q := by
  refine (Strand.v_foldl_putVector (r.gdests.foldl Strand.putG x) r.vdests q h).trans ?_
  rw [Strand.foldl_putG_rest]
  rfl

theorem Strand.v_deliver_of_vdests (x : Strand) {r : LongResult} {q : Reg} {v : List Lane} (h : r.vdests = [(q.toNat, v)]) (hv : v.length = 64) :
    (x.deliver r).v q = v := by
  rw [Strand.deliver_eq, h]
  show ((r.gdests.foldl Strand.putG x).setV (BitVec.ofNat 4 q.toNat) v).v q = v
  rw [BitVec.ofNat_toNat, BitVec.setWidth_eq]
  exact Strand.v_setV_same _ _ hv

section
variable {s : State} {core slot : Nat} {x : Strand} {r : LongResult} (hx : s.strandAt core slot = some x)
  (hr : x.outstanding.find? (fun y => y.id == r.id) = some r) (hk : x.ktrap = false)
include hx hr hk

/-- A result that is ready returns. -/
theorem exec_longResultReturn (ready : s.resultReady r = true) :
    exec (.longResultReturn core slot r.id) s =
      .next ((s.dropTsync x r).setStrand core slot fun t => (t.deliver r).afterLast) := by
  have same : (s.dropTsync x r).strandAt core slot = some x := by
    unfold State.dropTsync
    split <;> exact hx
  have after := State.strandAt_setStrand_same (f := fun t => (t.deliver r).afterLast) (fun t => Strand.place_afterLast_deliver t r) same
  have kernel : ((x.deliver r).afterLast).ktrap = false := by
    obtain ⟨-, -, -, -, ktrap, -⟩ := Strand.afterLast_deliver x r
    rw [ktrap, hk]
  show execLongResultReturn core slot r.id s = _
  rw [execLongResultReturn, hx]
  dsimp only
  rw [hr]
  dsimp only
  rw [if_pos ready, State.kernelSave_of_not_ktrap after kernel]

/-- That of any word but `tsync` changes its strand alone. -/
theorem slotStep_longResultReturn (ready : s.resultReady r = true) (hw : ∀ lo hi, r.wait ≠ .text lo hi) :
    s.slotStep (.longResultReturn core slot r.id) core slot (x.deliver r).afterLast := by
  have keeps : s.dropTsync x r = s := by
    unfold State.dropTsync
    split
    · next h => exact absurd h (hw _ _)
    · rfl
  refine ⟨_, exec_longResultReturn hx hr hk ready, ?_⟩
  rw [keeps]
  exact State.slotBecomes_setStrand (fun t => Strand.place_afterLast_deliver t r) hx

end

/-! ## Lines of text (R107) -/

/-- What memory holds of a word of a line. -/
def Mem.wordOfLine (m : Mem) (pa : PAddr) (k : Nat) : Lane := BitVec.ofNat 32 (ofLE (m.bytesAt (64 * pa.block + 4 * k) 4))

/-- The words of a line as memory holds them. -/
def Mem.lineOf (m : Mem) (core ctx va : Nat) (pa : PAddr) : List CachedWord :=
  (List.range 16).map fun k => { core := core, ctx := ctx, va := va - va % 64 + 4 * k, word := m.wordOfLine pa k }

/-- A filled line stands behind words of other lines, and all of those of other sets are kept. -/
theorem fillLine_icache (core ctx va : Nat) (pa : PAddr) (pick : Nat) (m : Mem) :
    ∃ kept : CachedWord → Bool, (∀ w, kept w = true → ¬ (w.core = core ∧ w.line = (ctx, va / 64)))
      ∧ (∀ w : CachedWord, w.va / 64 % 128 ≠ va / 64 % 128 → kept w = true)
      ∧ (fillLine core ctx va pa pick m).icache = m.icache.filter kept ++ m.lineOf core ctx va pa := by
  let other (w : CachedWord) : Bool := !(w.core == core && w.line == (ctx, va / 64))
  let lines := (((m.icache.filter other).filter fun w => w.inSet core va).map CachedWord.line).eraseDups
  have otherIff {w : CachedWord} : other w = true ↔ ¬ (w.core = core ∧ w.line = (ctx, va / 64)) := by simp [other, ← imp_iff_not_or]
  have others (w : CachedWord) (hw : w.va / 64 % 128 ≠ va / 64 % 128) : other w = true :=
    otherIff.mpr fun h => hw (by rw [(Prod.mk.inj h.2).2])
  have unfolded : (fillLine core ctx va pa pick m).icache = (if lines.length < 8 then m.icache.filter other else
      match lines[pick % lines.length]? with
      | some l => (m.icache.filter other).filter fun w => !(w.inSet core va && w.line == l)
      | none => m.icache.filter other) ++ m.lineOf core ctx va pa := rfl
  rw [unfolded]
  split
  · exact ⟨other, fun w => otherIff.mp, others, rfl⟩
  · split
    · next l _ =>
      rw [List.filter_filter]
      refine ⟨_, fun w hw => otherIff.mp (Bool.and_eq_true_iff.mp hw).2, fun w hw => ?_, rfl⟩
      have outside : w.inSet core va = false := by simp [CachedWord.inSet, hw]
      rw [outside, others w hw]
      rfl
    · exact ⟨other, fun w => otherIff.mp, others, rfl⟩

/-- A line that was filled holds its words. -/
theorem Mem.cached_fillLine (core ctx va : Nat) (pa : PAddr) (pick : Nat) (m : Mem) {k : Nat} (hk : k < 16) :
    (fillLine core ctx va pa pick m).cached core ctx (va / 64 * 64 + 4 * k) = some (m.wordOfLine pa k) := by
  obtain ⟨kept, lost, -, cache⟩ := fillLine_icache core ctx va pa pick m
  have before : (m.icache.filter kept).find? (fun w => w.core == core && w.ctx == ctx && w.va == va / 64 * 64 + 4 * k) = none := by
    refine List.find?_eq_none.mpr fun w hw => ?_
    have other := lost w (List.mem_filter.mp hw).2
    simp only [CachedWord.line, Prod.mk.injEq, Bool.and_eq_true, beq_iff_eq] at other ⊢
    rintro ⟨⟨hc, hx⟩, hv⟩
    exact other ⟨hc, hx, by omega⟩
  have here : (List.range 16).find? (fun j => va - va % 64 + 4 * j == va / 64 * 64 + 4 * k) = some k := by
    rw [List.find?_range_eq_some]
    refine ⟨by simp; omega, List.mem_range.mpr hk, fun j hj => ?_⟩
    simp
    omega
  rw [Mem.cached, cache, List.find?_append, before, Option.none_or, Mem.lineOf, List.find?_map]
  have at_ : ((fun w : CachedWord => w.core == core && w.ctx == ctx && w.va == va / 64 * 64 + 4 * k) ∘ fun j =>
      ({ core := core, ctx := ctx, va := va - va % 64 + 4 * j, word := m.wordOfLine pa j } : CachedWord))
      = fun j => va - va % 64 + 4 * j == va / 64 * 64 + 4 * k := by
    funext j
    simp
  rw [at_, here]
  rfl

/-- A line in another set stays as it is. -/
theorem Mem.cached_fillLine_other (core ctx va : Nat) (pa : PAddr) (pick : Nat) (m : Mem) {a : Nat} (ha : a / 64 % 128 ≠ va / 64 % 128) :
    (fillLine core ctx va pa pick m).cached core ctx a = m.cached core ctx a := by
  obtain ⟨kept, -, others, cache⟩ := fillLine_icache core ctx va pa pick m
  have before : (m.icache.filter kept).find? (fun w => w.core == core && w.ctx == ctx && w.va == a)
      = m.icache.find? (fun w => w.core == core && w.ctx == ctx && w.va == a) := by
    rw [List.find?_filter]
    congr 1
    funext w
    by_cases hw : w.va = a
    · simp only [others w (hw ▸ ha), true_and, Bool.decide_eq_true]
    · simp [hw]
  have behind : (m.lineOf core ctx va pa).find? (fun w => w.core == core && w.ctx == ctx && w.va == a) = none := by
    refine List.find?_eq_none.mpr fun w hw => ?_
    obtain ⟨j, hj, rfl⟩ := List.mem_map.mp hw
    have hj := List.mem_range.mp hj
    simp
    rintro rfl
    omega
  rw [Mem.cached, cache, List.find?_append, before, behind, Option.or_none]
  rfl

/-- The line of a strand's word is there once it has been taken, whether or not the next one came with it. -/
theorem State.cached_takeLine (s : State) (t : Strand) (l : Leaf) {k : Nat} (hk : k < 16) :
    (s.takeLine t l).mem.cached t.core t.ctx (t.pc.toNat / 64 * 64 + 4 * k) = some (s.mem.wordOfLine l.pa k) := by
  unfold State.takeLine
  dsimp only
  split
  · rw [Mem.cached_fillLine_other _ _ _ _ _ _ (by omega)]
    exact Mem.cached_fillLine _ _ _ _ _ _ hk
  · exact Mem.cached_fillLine _ _ _ _ _ _ hk

theorem State.bytes_takeLine (s : State) (t : Strand) (l : Leaf) : (s.takeLine t l).mem.bytes = s.mem.bytes := by
  unfold State.takeLine
  dsimp only
  split <;> rfl

/-- The line of a strand that waits for one arrives. -/
theorem exec_icacheLineFill {s s' : State} {core slot : Nat} {x : Strand} {l : Leaf} (hx : s.strandAt core slot = some x) (hw : x.wait = .line)
    (ht : translate x.fetchReq x.pc.toNat s = .ok (.ok l) s') (awake : s'.wakeIsland l.pa.space = none) :
    exec (.icacheLineFill core slot) s = .next ((s'.takeLine x l).setStrand core slot fun t => { t with wait := .none }) := by
  show execIcacheLineFill core slot s = _
  rw [execIcacheLineFill, hx]
  dsimp only
  rw [if_pos hw, ht]
  dsimp only
  rw [awake]

/-! ## FETCH (R109) -/

/-- A strand whose page has no translation parks, and the kernel receives FETCH. -/
theorem exec_fetch {s s' : State} {core slot kind level : Nat} {remote : Bool} {x : Strand} (hx : s.strandAt core slot = some x)
    (hw : x.wait = .none) (hi : x.reissue = false) (ht : translate x.fetchReq x.pc.toNat s = .ok (.fail kind level remote) s')
    (hk : kind = faultNOMAP ∨ kind = faultNOTRES) :
    exec (.fetch core slot) s = .next ((s'.setStrand core slot fun t => { t with wait := .fetch }).systemEvent x.part 0x14 x.ctx
      (s.vcoreWord x.ctx core) slot x.pc 0 0) := by
  have absent : fetchFor x s = .ok .absent s' := by
    rw [fetchFor, hi]
    dsimp only
    rw [fetchText, act_bind_ok ht]
    dsimp only
    rw [if_pos hk]
    rfl
  show execFetch core slot s = _
  rw [execFetch, hx]
  dsimp only
  rw [if_pos hw, absent]

/-! ## The end of a wait for a snapshot (R64) -/

theorem FMap.get_filter {α : Type} (d : α) (p : Nat → Bool) (m : FMap α) (i : Nat) :
    FMap.get d (m.filter fun x => p x.1) i = if p i then FMap.get d m i else d := by
  induction m with
  | nil => simp
  | cons x m ih =>
    obtain ⟨k, v⟩ := x
    rw [List.filter_cons]
    dsimp only
    split
    · next hk =>
      rw [FMap.get, FMap.get, ih]
      split
      · next h => rw [h, hk, if_pos rfl]
      · rfl
    · next hk =>
      rw [ih, FMap.get]
      split
      · split
        · next h => exact absurd (h ▸ ‹p i = true›) hk
        · rfl
      · rfl

/-- A snapshot that a live strand refers to is kept. -/
theorem State.snapOf_freeSnaps {s : State} {k : Nat} {x : Strand} (hx : x ∈ s.all) (hl : x.isLive = true) (hs : x.sh0 = some k ∨ x.sh1 = some k) :
    s.freeSnaps.snapOf k = s.snapOf k := by
  have used : s.snapUsed k = true := by
    have here : (s.all.any fun t => t.isLive && (t.sh0 == some k || t.sh1 == some k)) = true :=
      List.any_eq_true.mpr ⟨x, hx, by simpa [hl] using hs⟩
    rw [State.snapUsed, here]
    rfl
  exact (FMap.get_filter Snapshot.none s.snapUsed s.hub.snaps k).trans (if_pos used)

/-- A waiting `shbind` takes a free slot: its strand's shape slot refers to the snapshot there, and its result can return. -/
def Strand.boundTo (t : Strand) (n : Bool) (k id : Nat) : Strand :=
  { t.setShape n (some k) with outstanding := t.outstanding.map fun y => if y.id = id then { y with wait := .none } else y }

theorem exec_snapshotWaitEnd {s : State} {core slot i g : Nat} {n : Bool} {r : LongResult} {y : Snapshot} {x : Strand}
    (hx : s.strandAt core slot = some x) (hr : x.outstanding.find? (fun z => z.id == r.id) = some r) (hw : r.wait = .snapshot n g y)
    (hn : s.freeSnaps.findSnap x.ctx y.name y.version = none) (hi : s.freeSnaps.freeSnapSlot x.ctx = some i) :
    exec (.snapshotWaitEnd core slot r.id) s = .next (((s.freeSnaps.putSnap x.ctx i y).setStrand core slot
      fun t => t.boundTo n (x.ctx * 2 ^ 32 + i) r.id).freeSnaps) := by
  show execSnapshotWaitEnd core slot r.id s = _
  rw [execSnapshotWaitEnd, hx]
  dsimp only
  rw [hr]
  dsimp only
  rw [hw]
  dsimp only
  rw [hn, hi]
  rfl

theorem Strand.place_boundTo (t : Strand) (n : Bool) (k id : Nat) : (t.boundTo n k id).place = t.place := by
  cases n <;> rfl

/-! ## Remote answers (R32, R431) -/

/-- What an answer gives the registers, from its code as their word. -/
theorem RemoteUse.dests_eq (use : RemoteUse) {st : Nat} (h : st < 16) (a v : Word) :
    let c := BitVec.ofNat 64 st
    use.dests st a v = match use with
      | .addr d w => [(d, if c = 0 then a &&& 0x01FFFFFFFFFFFFC0#64 else 0), (w, c)]
      | .version d w => [(d, if c = 0 ∨ c = 1 then v else 0), (w, c)]
      | .info d w cls => [(d, if c = 0 then (a &&& 0x0F00FFFF#64) ||| (cls.setWidth 64 <<< 16)
          else if c = 1 then (a &&& 0x1F00FFFF#64) ||| (cls.setWidth 64 <<< 16) else 0), (w, c)]
      | .status w _ => [(w, c)] := by
  intro c
  have code (k : Nat) (hk : k < 16) : st = k ↔ c = BitVec.ofNat 64 k := by
    rw [← BitVec.toNat_inj, BitVec.toNat_ofNat, BitVec.toNat_ofNat, Nat.mod_eq_of_lt (by omega), Nat.mod_eq_of_lt (by omega)]
  have live : (st = stLIVE) = (c = 0) := propext (code 0 (by decide))
  have dying : (st = stDYING) = (c = 1) := propext (code 1 (by decide))
  cases use with
  | addr d w => simp only [RemoteUse.dests, live, addrBits, c]
  | version d w => simp only [RemoteUse.dests, live, dying, decide_eq_true_eq, c]
  | info d w cls =>
    simp only [RemoteUse.dests, live, dying, decide_eq_true_eq, infoOf]
    refine congrArg (fun x => [(d, x), (w, c)]) ?_
    by_cases h0 : c = 0
    · rw [if_pos (.inl h0), if_pos h0, if_pos h0]
    · rw [if_neg h0, if_neg h0]
      exact if_congr (or_iff_right h0) rfl rfl
  | status w codes => rfl

/-- An answer for a long result, and one for a word. -/
def Strand.resultAnswered (t : Strand) (r : LongResult) (id st : Nat) (use : RemoteUse) (addr version : Word) : Strand :=
  { t with outstanding := t.outstanding.map fun y =>
      if y.id = id then { r with gdests := lastWins (use.dests st addr version), wait := .none } else y }
def Strand.wordAnswered (t : Strand) (st : Nat) (addr version : Word) : Strand :=
  { t with wait := .none, replay := { t.replay with answers := t.replay.answers ++ [(st, 0, addr &&& addrBits, version)] } }

section
variable {s : State} {core slot id : Nat} {x : Strand} (hx : s.strandAt core slot = some x)
include hx

section
variable {r : LongResult} {use : RemoteUse} (hr : x.outstanding.find? (fun y => y.id == id) = some r) (hw : r.wait = .remote use)
include hr hw

theorem State.answerRemote_result (st : Nat) (addr version : Word) :
    s.answerRemote core slot id st addr version = s.setStrand core slot fun t => t.resultAnswered r id st use addr version := by
  rw [State.answerRemote, hx]
  dsimp only
  rw [hr]
  dsimp only
  rw [hw]
  rfl

theorem State.answerCodes_result : s.answerCodes core slot id = use.codes := by
  rw [State.answerCodes, hx]
  dsimp only
  rw [hr]
  dsimp only
  rw [hw]

end

section
variable (hr : x.outstanding.find? (fun y => y.id == id) = none) (hw : x.wait = .remote)
include hr hw

theorem State.answerRemote_word (st : Nat) (addr version : Word) :
    s.answerRemote core slot id st addr version = s.setStrand core slot fun t => t.wordAnswered st addr version := by
  rw [State.answerRemote, hx]
  dsimp only
  rw [hr]
  dsimp only
  rw [if_pos hw]
  rfl

theorem State.answerCodes_word : s.answerCodes core slot id = homeCodes := by
  rw [State.answerCodes, hx]
  dsimp only
  rw [hr]
  dsimp only
  rw [if_pos hw]

end
end

/-- The home chip answers over a link with a code that it can give. -/
theorem exec_remoteResolve {s : State} {core slot id : Nat} {st : BitVec 4} {addr version : Word}
    (hc : st.toNat ∈ s.answerCodes core slot id) (ht : s.noTwine = false) :
    exec (.remoteResolve core slot id st addr version) s = .next (s.answerRemote core slot id st.toNat addr version) :=
  if_pos ⟨List.contains_iff_mem.mpr hc, by rw [ht]; rfl⟩

/-! ## The statement -/

/-- Settles O30: each step as what it makes of the strand in the slot. -/
theorem strandSteps : Obligations.StrandSteps := by
  unfold Obligations.StrandSteps
  refine ⟨fun core slot x s hx => ⟨fun hc => ?count, fun hw => ?start, fun r hr hk ready => ?returned, fun r lo hi hr hw hk => ?text,
    fun l s' hw ht awake => ?line, fun kind level remote s' hw hi ht hk => ?fetch⟩, ?snapshot, ?remote⟩
  case count =>
    have becomes := State.slotBecomes_setStrand (s := s) (f := fun t => if t.mskcnt = 1 then t.holdOffEnds else t)
      (fun t => by split <;> rfl) hx
    rw [if_pos hc] at becomes
    exact ⟨_, rfl, becomes⟩
  case start =>
    have becomes := State.slotBecomes_setStrand (s := s) (f := fun t => if t.wait = .start then { t with wait := .none } else t)
      (fun t => by split <;> rfl) hx
    rw [if_pos hw] at becomes
    exact ⟨_, rfl, becomes⟩
  case returned =>
    obtain ⟨stack, vectors, out, pc, -, wait⟩ := Strand.afterLast_deliver x r
    have resultReady : s.resultReady r = true ∧ ∀ lo hi, r.wait ≠ .text lo hi := by
      rw [State.resultReady]
      obtain hw | hw | ⟨c, hw, hc⟩ | ⟨n, hw, hn⟩ | ⟨c, b, hw, hb⟩ := ready <;> rw [hw] <;> simp [*]
    refine ⟨_, slotStep_longResultReturn hx hr hk resultReady.1 resultReady.2, fun e => ?_, fun q hq => ?_, fun q v hv hl => ?_, out, pc, wait⟩
    · rw [stack, Strand.stack_foldl_putG]
    · rw [vectors, Strand.v_deliver_of_forall_ne x r q hq]
    · rw [vectors, Strand.v_deliver_of_vdests x hv hl]
  case text =>
    obtain ⟨-, -, out, pc, -, -⟩ := Strand.afterLast_deliver x r
    have ready : s.resultReady r = true := by rw [State.resultReady, hw]
    have dropped : s.dropTsync x r = { s with mem := s.mem.dropText fun w =>
        w.ctx == x.ctx && (s.partCores x.part).contains w.core && decide (lo < hi ∧ w.va / 64 * 64 < hi ∧ lo < w.va / 64 * 64 + 64) } := by
      rw [State.dropTsync, hw]
    refine ⟨_, _, exec_longResultReturn hx hr hk ready, ?_, out, pc, ?_, ?_⟩
    · rw [dropped]
      exact State.strandAt_setStrand_same (fun t => Strand.place_afterLast_deliver t r) hx
    · rw [dropped]
      rfl
    · intro w
      rw [dropped]
      refine List.mem_filter.trans (and_congr_right fun _ => ?_)
      simp only [Bool.not_eq_true', Bool.eq_false_iff, ne_eq, Bool.and_eq_true, beq_iff_eq, List.contains_iff_mem, decide_eq_true_eq, and_assoc]
  case line =>
    have walked := (walks_translate _ _).ok ht
    have here : s'.strandAt core slot = some x := (walked.strandAt core slot).trans hx
    have there : (s'.takeLine x l).strandAt core slot = some x := here
    have core_eq := Strand.core_of_strandAt hx
    refine ⟨_, exec_icacheLineFill hx hw ht (Option.isNone_iff_eq_none.mp awake),
      State.strandAt_setStrand_same (f := fun t : Strand => { t with wait := .none }) (fun _ => rfl) there, State.bytes_takeLine s' x l, fun k hk => ?_⟩
    rw [← core_eq]
    exact State.cached_takeLine s' x l hk
  case fetch =>
    have walked := (walks_translate _ _).ok ht
    have here : s'.strandAt core slot = some x := (walked.strandAt core slot).trans hx
    refine ⟨_, exec_fetch hx hw hi ht hk, State.strandAt_setStrand_same (f := fun t : Strand => { t with wait := .fetch }) (fun _ => rfl) here, ?_⟩
    exact State.postEvent_notified (s'.setStrand core slot fun t => { t with wait := .fetch }) x.part 1 x.ctx
      (systemBody 0x14 (slot % 256) (s.vcoreWord x.ctx core) x.pc 0 0)
  case snapshot =>
    intro core slot i g n r y x s hx hr hw hy hl hn hi
    let k := x.ctx * 2 ^ 32 + i
    let u := (s.freeSnaps.putSnap x.ctx i y).setStrand core slot fun t => t.boundTo n k r.id
    have at_ : u.strandAt core slot = some (x.boundTo n k r.id) :=
      State.strandAt_setStrand_same (fun t => Strand.place_boundTo t n k r.id) (s := s.freeSnaps.putSnap x.ctx i y) hx
    have live : (x.boundTo n k r.id).isLive = true := by
      rw [Strand.isLive, Strand.place_boundTo]
      exact hl
    have refers : (x.boundTo n k r.id).sh0 = some k ∨ (x.boundTo n k r.id).sh1 = some k := by
      cases n
      · exact .inl rfl
      · exact .inr rfl
    have stored : u.snapOf k = y := (FMap.get_set ..).trans (if_pos rfl)
    refine ⟨_, exec_snapshotWaitEnd hx hr hw hn hi, ?_, rfl, rfl, ?_⟩
    · exact (State.snapOf_freeSnaps (List.mem_of_find?_eq_some at_) live refers).trans stored
    · refine at_.trans (congrArg some ?_)
      cases n <;> rfl
  case remote =>
    intro core slot id st addr version x s hx answered
    have code : BitVec.ofNat 64 st.toNat = st.setWidth 64 := BitVec.ofNat_toNat ..
    refine ⟨fun r use hr hw => ?result, fun hr hw => ?word⟩
    case result =>
      have becomes (n : Nat) (a v : Word) := State.slotBecomes_setStrand (s := s) (core := core) (slot := slot)
        (f := fun t => t.resultAnswered r id n use a v) (fun _ => rfl) hx
      refine ⟨fun hc ht => ⟨_, exec_remoteResolve ?_ ht, ?_⟩, ⟨_, rfl, ?_⟩⟩
      · rw [State.answerCodes_result hx hr hw]
        cases use <;> exact hc
      · rw [State.answerRemote_result hx hr hw]
        have b := becomes st.toNat addr version
        rw [Strand.resultAnswered, RemoteUse.dests_eq use st.isLt, code] at b
        cases use <;> exact b
      · rw [State.answerRemote_result hx hr hw]
        have b := becomes stUNREACHABLE 0 0
        rw [Strand.resultAnswered, RemoteUse.dests_eq use (by decide)] at b
        cases use <;> exact b
    case word =>
      have becomes (n : Nat) (a v : Word) := State.slotBecomes_setStrand (s := s) (core := core) (slot := slot)
        (f := fun t => t.wordAnswered n a v) (fun _ => rfl) hx
      refine ⟨fun hc ht => ⟨_, exec_remoteResolve ?_ ht, ?_⟩, ⟨_, rfl, ?_⟩⟩
      · rw [State.answerCodes_word hx hr hw]
        exact hc
      · rw [State.answerRemote_word hx hr hw]
        have b := becomes st.toNat addr version
        have number : st.toNat = (st.setWidth 64).toNat := (BitVec.toNat_setWidth_of_le (by decide)).symm
        rw [Strand.wordAnswered, number] at b
        exact b
      · rw [State.answerRemote_word hx hr hw]
        exact becomes 4 0 0

end Sys2Proof.Machine

/-!
PROOFS. The statement on partitions: PARTSET and REACH, contexts, and the scrub (O45).
-/

namespace Sys2Proof.Machine

/-! ## What applying the bounds leaves of a partition (R425) -/

/-- A partition without its event ring. -/
def Part.silent (q : Part) : Part := { q with events := [], evSeq := 0, interrupts := 0 }

theorem State.postEvent_silent (s : State) (p : Nat) (type : BitVec 8) (ctx : Nat) (body : List Word) (k : Nat) :
    ((s.postEvent p type ctx body).partOf k).silent = (s.partOf k).silent := by
  rw [State.postEvent, State.partOf_setPart]
  split
  · next h =>
    rw [h]
    rfl
  · rfl

theorem State.updateCap_silent {s : State} (i : Nat) (hwf : s.partsWf) (k : Nat) : ((s.updateCap i).partOf k).silent = (s.partOf k).silent := by
  rcases State.updateCap_cases i hwf with h | ⟨p, -, h⟩ <;> rw [h]
  · rfl
  · exact State.postEvent_silent (s.setCause i) _ _ _ _ k

/-- Applying the bounds tells partitions at most. -/
theorem State.updateCaps_silent {s : State} (hwf : s.partsWf) (k : Nat) : (s.updateCaps.partOf k).silent = (s.partOf k).silent := by
  have both : s.updateCaps.partsWf ∧ (s.updateCaps.partOf k).silent = (s.partOf k).silent :=
    List.foldlRecOn (motive := fun t : State => t.partsWf ∧ (t.partOf k).silent = (s.partOf k).silent) (List.range 32) _ ⟨hwf, rfl⟩
      fun t ht i _ => ⟨(State.updateCap_applied i ht.1).wf, (State.updateCap_silent i ht.1 k).trans ht.2⟩
  exact both.2

/-! ## The cores of some islands (R34, R94) -/

/-- The cores of islands. -/
def coresOf (islands : BitVec 32) : List Nat :=
  ((List.range 32).filter fun i => islands.getLsbD i).flatMap fun i => (List.range 80).map (80 * i + ·)

theorem mem_coresOf {islands : BitVec 32} {c : Nat} : c ∈ coresOf islands ↔ islands.getLsbD (c / 80) = true := by
  simp only [coresOf, List.mem_flatMap, List.mem_filter, List.mem_range, List.mem_map]
  constructor
  · rintro ⟨i, ⟨-, hi⟩, k, hk, rfl⟩
    rwa [show (80 * i + k) / 80 = i by omega]
  · intro h
    have small : c / 80 < 32 := by
      by_contra hge
      rw [BitVec.getLsbD_of_ge _ _ (by omega)] at h
      cases h
    exact ⟨c / 80, ⟨small, h⟩, c % 80, Nat.mod_lt _ (by decide), by omega⟩

/-- Emptying one core's cache of names, unless it is empty. -/
def State.clearCache (s : State) (c : Nat) : State := if (s.coreOf c).names.isEmpty then s else s.setCore c fun k => { k with names := [] }

theorem State.clearCaches_eq (s : State) (islands : BitVec 32) : s.clearCaches islands = (coresOf islands).foldl State.clearCache s := rfl

theorem State.clearCache_rest (s : State) (c : Nat) : s.clearCache c = { s with cores := (s.clearCache c).cores } := by
  unfold State.clearCache
  split <;> rfl

theorem State.names_clearCache (s : State) (c k : Nat) : ((s.clearCache c).coreOf k).names = if k = c then [] else (s.coreOf k).names := by
  unfold State.clearCache
  split
  · next h =>
    split
    · next hk => rw [hk, List.isEmpty_iff.mp h]
    · rfl
  · rw [State.coreOf_setCore]
    split <;> rfl

/-- The caches of islands that change partition are empty, and nothing but caches has changed. -/
theorem State.clearCaches_rest (s : State) (islands : BitVec 32) :
    s.clearCaches islands = { s with cores := (s.clearCaches islands).cores } := by
  rw [State.clearCaches_eq]
  refine List.foldlRecOn (motive := fun t : State => t = { s with cores := t.cores }) _ _ rfl fun t ht c _ => ?_
  rw [State.clearCache_rest, ht]

theorem State.names_clearCaches (s : State) {islands : BitVec 32} {c : Nat} (h : islands.getLsbD (c / 80) = true) :
    ((s.clearCaches islands).coreOf c).names = [] := by
  rw [State.clearCaches_eq]
  have hc := mem_coresOf.mpr h
  generalize coresOf islands = cs at hc
  induction cs generalizing s with
  | nil => cases hc
  | cons k cs ih =>
    by_cases hm : c ∈ cs
    · exact ih _ hm
    · have hk : c = k := (List.mem_cons.mp hc).resolve_right hm
      have first : ((s.clearCache k).coreOf c).names = [] := (State.names_clearCache ..).trans (if_pos hk)
      refine List.foldlRecOn (motive := fun t : State => (t.coreOf c).names = []) cs _ first fun t ht j _ => ?_
      rw [State.names_clearCache, ht, ite_self]

/-! ## PARTSET and REACH (R32, R414) -/

theorem State.hvCommand_gives {s u : State} (i : RingEntry) {f : State → Nat × State} {st : Nat} (h : s.ringReady 16 = true)
    (hf : f (s.running 16) = (st, u)) : s.hvCommand i 16 f = .next (u.putStatus 16 s.hub.hvCmds st) := by
  rw [State.hvCommand_ready i f h, hf]

/-- A command that changes a partition reports that it is done. -/
theorem State.partChange_reports (s : State) (free p : Nat) (f : Part → Part) :
    let t := ({ s.running 16 with free := free }.setPart p f).putStatus 16 s.hub.hvCmds 0
    s.reports t 16 0 ∧ t.mem = s.mem ∧ t.partOf p = f (s.partOf p) :=
  ⟨State.reports_putStatus 0 rfl, rfl, (State.partOf_setPart ..).trans (if_pos rfl)⟩

/-- The hypervisor's commands are denied on any other ring (R416). -/
theorem State.hvCommand_denied {s : State} (i : RingEntry) {ring : Nat} (f : State → Nat × State) (hne : ring ≠ 16)
    (h : s.ringReady ring = true) : s.hvCommand i ring f = .next (s.answered ring 1 id) := by
  simp only [State.hvCommand, State.command, h, if_true, if_neg hne]
  rfl

/-- The resources of a PARTSET. -/
structure Resources where
  islands : BitVec 32
  sysCores : BitVec 16
  hbm : List (Nat × Nat)
  irq : BitVec 4
  net : NetShare
  queues : Word

/-- What PARTSET makes of a partition. -/
def Part.with (q : Part) (r : Resources) (image : Option (BitVec 512)) : Part :=
  { q with live := true, islands := r.islands, sysCores := r.sysCores, hbm := r.hbm, irqCore := r.irq, qpQuota := r.net.queuePairs.toNat
           netPorts := r.net.whole, queueQuota := r.queues.toNat, image := q.image.or image }

/-- Whether PARTSET takes its resources (R414). -/
def State.allots (s : State) (p : Nat) (r : Resources) : Prop :=
  r.islands ≠ 0 ∧ r.sysCores ≠ 0 ∧ r.sysCores.getLsbD r.irq.toNat = true
    ∧ s.goodResources p r.hbm r.net.whole r.net.queuePairs.toNat r.queues.toNat = true
    ∧ s.resourceTaken p r.islands r.sysCores r.hbm r.net.whole = false ∧ s.ctxOutside p r.islands = false

/-- The state in which a partition has resources, before the bounds are applied. -/
def State.givenResources (s : State) (p : Nat) (r : Resources) : State :=
  let c := s.clearCaches (r.islands ^^^ (s.partOf p).islands)
  let t := c.setPart p fun q => q.with r (if Config.systemImageOk p c.free then some (Config.systemImage p c.free) else none)
  { t with free := t.free + 1 }

section
variable {s : State} {part : Word} (r : Resources) (hr : s.ringReady 16 = true)
include hr

theorem exec_partset_badPart (h : 15 < part.toNat) :
    exec (.partset 16 part r.islands r.sysCores r.hbm r.irq r.net r.queues) s = .next (s.answered 16 2 id) := by
  show execPartset 16 part r.islands r.sysCores r.hbm r.irq r.net r.queues s = _
  rw [execPartset]
  exact State.hvCommand_answered _ hr (if_pos h)

variable (h : part.toNat ≤ 15)
include h

theorem exec_partset_busy (busy : s.partBusy part.toNat = true ∨ (s.partOf part.toNat).scrubbing = true) :
    exec (.partset 16 part r.islands r.sysCores r.hbm r.irq r.net r.queues) s = .next (s.answered 16 3 id) := by
  show execPartset 16 part r.islands r.sysCores r.hbm r.irq r.net r.queues s = _
  rw [execPartset]
  exact State.hvCommand_answered _ hr ((if_neg (Nat.not_lt.mpr h)).trans (if_pos busy))

variable (free : s.partBusy part.toNat = false) (stays : (s.partOf part.toNat).scrubbing = false)
include free stays

/-- A partition that is left without resources is destroyed (R415). -/
theorem exec_partset_destroys (hi : r.islands = 0) (hc : r.sysCores = 0) (live : (s.partOf part.toNat).live = true)
    (empty : ∀ c ∈ s.hub.ctxs, c.2.live = true → c.2.part ≠ part.toNat) :
    exec (.partset 16 part r.islands r.sysCores r.hbm r.irq r.net r.queues) s =
      .next (s.answered 16 0 fun s => s.setPart part.toNat fun q => { q with scrubbing := true }) := by
  have noCtx : ¬ (s.hub.ctxs.any fun c => c.2.live && c.2.part == part.toNat) = true := by
    rw [List.any_eq_true]
    rintro ⟨c, hc, hl⟩
    simp only [Bool.and_eq_true, beq_iff_eq] at hl
    exact empty c hc hl.1 hl.2
  show execPartset 16 part r.islands r.sysCores r.hbm r.irq r.net r.queues s = _
  rw [execPartset]
  refine State.hvCommand_gives _ hr ((if_neg (Nat.not_lt.mpr h)).trans ((if_neg ?idle).trans ((if_pos ⟨hi, hc⟩).trans
    ((if_neg ?stands).trans (if_neg noCtx)))))
  case idle =>
    rintro (busy | scrubs)
    · exact absurd (free.symm.trans busy) (by decide)
    · exact absurd (stays.symm.trans scrubs) (by decide)
  case stands =>
    rw [show ((s.running 16).partOf part.toNat).live = true from live]
    decide

/-- A partition gets its resources (R414). -/
theorem exec_partset_gives (good : s.allots part.toNat r) :
    exec (.partset 16 part r.islands r.sysCores r.hbm r.irq r.net r.queues) s =
      .next (((s.running 16).givenResources part.toNat r).updateCaps.putStatus 16 s.hub.hvCmds 0) := by
  obtain ⟨hi, hc, irq, good, own, inside⟩ := good
  show execPartset 16 part r.islands r.sysCores r.hbm r.irq r.net r.queues s = _
  rw [execPartset]
  refine State.hvCommand_gives _ hr ((if_neg (Nat.not_lt.mpr h)).trans ((if_neg ?idle).trans ((if_neg fun h0 => hi h0.1).trans
    ((if_neg ?fit).trans (if_neg ?inside)))))
  case idle =>
    rintro (busy | scrubs)
    · exact absurd (free.symm.trans busy) (by decide)
    · exact absurd (stays.symm.trans scrubs) (by decide)
  case fit =>
    rintro (h0 | h0 | h0 | h0 | h0)
    · exact hi h0
    · exact hc h0
    · rw [irq] at h0
      cases h0
    · rw [show (s.running 16).goodResources part.toNat r.hbm r.net.whole r.net.queuePairs.toNat r.queues.toNat = true from good] at h0
      cases h0
    · exact absurd (own.symm.trans h0) (by decide)
  case inside => exact fun h0 => absurd (inside.symm.trans h0) (by decide)

end

theorem State.partsWf_setPart {s : State} (p : Nat) (f : Part → Part) (h : s.partsWf) : (s.setPart p f).partsWf := FMap.wf_set _ _ _ _ h

/-- What a partition with its resources is, and what stays of the rest. -/
theorem State.givenResources_spec {s : State} (p : Nat) (r : Resources) (wf : s.partsWf) :
    let u := s.givenResources p r
    u.partsWf ∧ u.mem = s.mem ∧ u.hub.hvCmds = s.hub.hvCmds ∧ (∃ image, u.partOf p = (s.partOf p).with r image)
      ∧ (∀ k, k ≠ p → u.partOf k = s.partOf k) ∧ u.cores = (s.clearCaches (r.islands ^^^ (s.partOf p).islands)).cores := by
  intro u
  let c := s.clearCaches (r.islands ^^^ (s.partOf p).islands)
  let image := if Config.systemImageOk p c.free then some (Config.systemImage p c.free) else none
  have rest : c = { s with cores := c.cores } := State.clearCaches_rest ..
  have parts (k : Nat) : u.partOf k = if k = p then (s.partOf p).with r image else s.partOf k := by
    have old (k : Nat) : c.partOf k = s.partOf k := by
      rw [rest]
      rfl
    show (c.setPart p fun q => q.with r image).partOf k = _
    rw [State.partOf_setPart, old, old]
  have hub : c.hub = s.hub := by rw [rest]
  have wf' : c.partsWf := by
    rw [State.partsWf, hub]
    exact wf
  refine ⟨?_, ?_, ?_, ⟨image, (parts p).trans (if_pos rfl)⟩,
    fun k hk => (parts k).trans (if_neg hk), rfl⟩
  · exact State.partsWf_setPart p (fun q => q.with r image) wf'
  · show c.mem = s.mem
    rw [rest]
  · show c.hub.hvCmds = s.hub.hvCmds
    rw [hub]

/-- A partition that stands gets a reach map (R32). -/
theorem exec_reach {s : State} {part map : Word} (hr : s.ringReady 16 = true) (hp : part.toNat ≤ 15) (hl : (s.partOf part.toNat).live = true)
    (hm : s.inHbm none map.toNat 64 = true) :
    exec (.reach 16 part map) s = .next (({ s.running 16 with free := s.free + 384 }.setPart part.toNat fun q =>
      { q with reach := (List.range 384).filter fun c => Config.freeBit (s.free + c) && c != s.hub.chip }).putStatus 16 s.hub.hvCmds 0) := by
  show execReach 16 part map s = _
  rw [execReach, State.partCommand_ready _ _ hr hp hl]
  refine State.hvCommand_gives _ hr (if_neg ?_)
  rw [show (s.running 16).inHbm none map.toNat 64 = true from hm]
  decide

/-- A context number that is free is given plies of a partition's islands (R94, R414). -/
theorem exec_contextCreate {s : State} {p ctx : Nat} {plies : List Nat} (live : (s.partOf p).live = true) (stays : (s.partOf p).scrubbing = false)
    (hc : ctx < 65535) (free : (s.ctxOf ctx).live = false) (own : ∀ y ∈ plies, y < Config.plies ∧ (s.partOf p).islands.getLsbD (y / 5) = true) :
    exec (.contextCreate p ctx plies) s = .next ({ s with ages := s.ages + 1 }.setCtx ctx fun _ =>
      { Ctx.none with live := true, part := p, born := s.ages, plies := (List.range Config.plies).filter fun y => plies.contains y }) := by
  have inside : (((List.range Config.plies).filter fun y => plies.contains y).all fun y => (s.partOf p).islands.getLsbD (y / 5)) = true :=
    List.all_eq_true.mpr fun y hy => (own y (List.contains_iff_mem.mp (List.mem_filter.mp hy).2)).2
  exact if_pos ⟨live, by rw [stays]; rfl, hc, by rw [free]; rfl, inside⟩

/-! ## Scrubbing (R193, R240, R415) -/

theorem FMap.get_clear {α : Type} (d : α) (m : FMap α) (a b k : Nat) :
    FMap.get d (FMap.clear m a b) k = if a ≤ k ∧ k < b then d else FMap.get d m k := by
  induction m with
  | nil => simp [FMap.clear]
  | cons x m ih =>
    obtain ⟨i, v⟩ := x
    rw [FMap.clear, FMap.get]
    by_cases hk : k = i
    · subst hk
      by_cases inside : a ≤ k ∧ k < b
      · rw [if_pos inside, ih, if_pos inside, if_pos inside]
      · rw [if_neg inside, FMap.get, if_pos rfl, if_neg inside, if_pos rfl]
    · rw [if_neg hk, ← ih]
      split
      · rfl
      · rw [FMap.get, if_neg hk]

theorem FMap.get_clear_of_default {α : Type} {d : α} {m : FMap α} {k : Nat} (a b : Nat) (h : FMap.get d m k = d) :
    FMap.get d (FMap.clear m a b) k = d := by
  rw [FMap.get_clear, h, ite_self]

theorem FMap.get_clear_inside {α : Type} {d : α} {m : FMap α} {a b k : Nat} (h : a ≤ k ∧ k < b) : FMap.get d (FMap.clear m a b) k = d :=
  (FMap.get_clear ..).trans (if_pos h)

/-- A memory's reset values at the place of a byte. -/
def Mem.blankAt (m : Mem) (k : Nat) : Prop :=
  FMap.get Mem.byte0 m.bytes k = 0 ∧ FMap.get 0 m.tags (k / 8) = 0 ∧ FMap.get Mem.desc0 m.descs (k / 64) = Mem.desc0
    ∧ FMap.get 0 m.selects (k / 4096) = 0

/-- What is cleared stays so. -/
theorem Mem.blankAt_scrubRange_of_blankAt {m : Mem} {k : Nat} (a n : Nat) (h : m.blankAt k) : (m.scrubRange a n).blankAt k := by
  obtain ⟨bytes, tags, descs, selects⟩ := h
  exact ⟨FMap.get_clear_of_default _ _ bytes, FMap.get_clear_of_default _ _ tags, FMap.get_clear_of_default _ _ descs,
    FMap.get_clear_of_default _ _ selects⟩

/-- A range of whole pages is cleared. -/
theorem Mem.blankAt_scrubRange (m : Mem) {a n k : Nat} (ha : a % 4096 = 0) (hn : n % 4096 = 0) (h : a ≤ k) (h' : k < a + n) :
    (m.scrubRange a n).blankAt k := by
  refine ⟨FMap.get_clear_inside ?_, FMap.get_clear_inside ?_, FMap.get_clear_inside ?_, FMap.get_clear_inside ?_⟩ <;> omega

/-- The tables of a tagged memory are as after reset: without owners, at vector 0, with empty entries (R240). -/
def Mem.noTables (m : Mem) (sp : Space) : Prop :=
  ∀ n, n < 8 → FMap.get none m.owners (slotKey sp n) = none ∧ FMap.get 0 m.vectors (slotKey sp n) = 0
    ∧ ∀ e, e < 128 → FMap.get 0 m.tables (tableKey sp n e) = 0

theorem Mem.noTables_scrubTagged (m : Mem) (sp : Space) (n : Nat) : (m.scrubTagged sp n).noTables sp := fun t ht => by
  refine ⟨FMap.get_clear_inside ?_, FMap.get_clear_inside ?_, fun e he => FMap.get_clear_inside ?_⟩
  · rw [slotKey]
    omega
  · rw [slotKey]
    omega
  · rw [tableKey]
    omega

theorem Mem.noTables_scrubTagged_of_noTables {m : Mem} {sp : Space} (sp' : Space) (n : Nat) (h : m.noTables sp) :
    (m.scrubTagged sp' n).noTables sp := fun t ht => by
  obtain ⟨owner, vector, tables⟩ := h t ht
  exact ⟨FMap.get_clear_of_default _ _ owner, FMap.get_clear_of_default _ _ vector, fun e he => FMap.get_clear_of_default _ _ (tables e he)⟩

theorem Mem.blankAt_scrubTagged_of_blankAt {m : Mem} {k : Nat} (sp : Space) (n : Nat) (h : m.blankAt k) : (m.scrubTagged sp n).blankAt k :=
  Mem.blankAt_scrubRange_of_blankAt _ _ h

theorem Mem.blankAt_scrubTagged (m : Mem) {sp : Space} {n o : Nat} (hn : n % 4096 = 0) (ho : o < n) :
    (m.scrubTagged sp n).blankAt (PAddr.key { space := sp, off := o }) := by
  refine Mem.blankAt_scrubRange m ?_ hn ?_ ?_ <;> simp only [PAddr.key] <;> omega

/-- A scrub of several memories sets what one of them sets, and keeps what is set. -/
theorem foldl_of_mem {α β : Type} {f : β → α → β} {P : β → Prop} (keeps : ∀ m y, P m → P (f m y)) {xs : List α} {x : α} (hx : x ∈ xs)
    (sets : ∀ m, P (f m x)) (m : β) : P (xs.foldl f m) := by
  induction xs generalizing m with
  | nil => cases hx
  | cons y ys ih =>
    by_cases hm : x ∈ ys
    · exact ih hm _
    · obtain rfl := (List.mem_cons.mp hx).resolve_right hm
      exact List.foldlRecOn ys f (sets m) fun m hm y _ => keeps m y hm

theorem foldl_keeps {α β : Type} {f : β → α → β} {P : β → Prop} (keeps : ∀ m y, P m → P (f m y)) (xs : List α) {m : β} (h : P m) :
    P (xs.foldl f m) := List.foldlRecOn xs f h fun m hm y _ => keeps m y hm

theorem hbmKey_eq (a : Nat) : hbmKey a = a := by simp [hbmKey, PAddr.key, Space.index]

/-- The scrub of a partition clears every memory that it holds, and the tables of its local stores (R193, R240, R415). -/
theorem State.blankAt_scrub {s : State} {p k : Nat} (h : s.partHolds p k) : (s.scrub p).mem.blankAt k := by
  let blank (m : Mem) : Prop := m.blankAt k
  have ranges (m : Mem) (r : Nat × Nat) (hm : blank m) : blank (m.scrubRange (hbmKey (r.1 * 2 ^ 30)) (r.2 * 2 ^ 30)) :=
    Mem.blankAt_scrubRange_of_blankAt _ _ hm
  have pools (m : Mem) (y : Nat) (hm : blank m) : blank (m.scrubTagged (.pool y) Config.poolBytes) :=
    Mem.blankAt_scrubTagged_of_blankAt _ _ hm
  have stores (m : Mem) (c : Nat) (hm : blank m) : blank (m.scrubTagged (.ls c) Config.lsBytes) :=
    Mem.blankAt_scrubTagged_of_blankAt _ _ hm
  obtain ⟨c, hc, hi, o, ho, rfl⟩ | ⟨y, hy, hi, o, ho, rfl⟩ | ⟨x, hx, o, ho, ho', rfl⟩ := h
  · have set (m : Mem) : blank (m.scrubTagged (.ls c) Config.lsBytes) := Mem.blankAt_scrubTagged m (by decide) ho
    exact foldl_keeps ranges _ (foldl_keeps pools _ (foldl_of_mem stores (mem_coresOf.mpr hi) set _))
  · have set (m : Mem) : blank (m.scrubTagged (.pool y) Config.poolBytes) := Mem.blankAt_scrubTagged m (by decide) ho
    have held : y ∈ ((s.partCores p).map corePly).eraseDups := by
      rw [List.mem_eraseDups]
      refine List.mem_map.mpr ⟨16 * y, mem_coresOf.mpr ?_, ?_⟩
      · rwa [show 16 * y / 80 = y / 5 by omega]
      · rw [corePly]
        omega
    exact foldl_keeps ranges _ (foldl_of_mem pools held set _)
  · have set (m : Mem) : blank (m.scrubRange (hbmKey (x.1 * 2 ^ 30)) (x.2 * 2 ^ 30)) := by
      show (m.scrubRange (hbmKey (x.1 * 2 ^ 30)) (x.2 * 2 ^ 30)).blankAt (hbmKey o)
      rw [hbmKey_eq, hbmKey_eq]
      exact Mem.blankAt_scrubRange m (by omega) (by omega) ho (by rwa [← Nat.add_mul])
    exact foldl_of_mem ranges hx set _

theorem State.noTables_scrub {s : State} {p c : Nat} (h : (s.partOf p).islands.getLsbD (c / 80) = true) :
    (s.scrub p).mem.noTables (.ls c) := by
  let empty (m : Mem) : Prop := m.noTables (.ls c)
  have pools (m : Mem) (y : Nat) (hm : empty m) : empty (m.scrubTagged (.pool y) Config.poolBytes) :=
    Mem.noTables_scrubTagged_of_noTables _ _ hm
  have stores (m : Mem) (k : Nat) (hm : empty m) : empty (m.scrubTagged (.ls k) Config.lsBytes) :=
    Mem.noTables_scrubTagged_of_noTables _ _ hm
  have ranges (m : Mem) (r : Nat × Nat) (hm : empty m) : empty (m.scrubRange (hbmKey (r.1 * 2 ^ 30)) (r.2 * 2 ^ 30)) := hm
  exact foldl_keeps ranges _ (foldl_keeps pools _ (foldl_of_mem stores (mem_coresOf.mpr h) (fun m => Mem.noTables_scrubTagged m _ _) _))

/-- A map from which some values are removed has none of them. -/
theorem FMap.get_filter_values {α : Type} (d : α) (q : α → Bool) (m : FMap α) (i : Nat) :
    FMap.get d (m.filter fun x => q x.2) i = d ∨ q (FMap.get d (m.filter fun x => q x.2) i) = true := by
  induction m with
  | nil => exact .inl rfl
  | cons x m ih =>
    obtain ⟨k, v⟩ := x
    rw [List.filter_cons]
    split
    · next hv =>
      rw [FMap.get]
      split
      · exact .inr hv
      · exact ih
    · exact ih

/-- A partition that is scrubbed, before the bounds are applied. -/
def State.scrubbed (s : State) (p : Nat) : State :=
  let t := (s.scrub p).clearCaches (s.partOf p).islands
  ({ t with
    hub := { t.hub with
      names := t.hub.names.filter fun n => n.2.part != p, queues := t.hub.queues.filter fun q => q.2.part != p
      rings := FMap.set [] t.hub.rings p [] }
    pkg := { t.pkg with qpairs := t.pkg.qpairs.filter fun q => q.2.part != p } } : State).setPart p fun _ => Part.none

theorem exec_partitionScrubComplete {s : State} {p : Nat} (h : (s.partOf p).scrubbing = true) :
    exec (.partitionScrubComplete p) s = .next (s.scrubbed p).updateCaps := by
  show execPartitionScrubComplete p s = _
  exact if_pos h

theorem State.scrubbed_spec {s : State} (p : Nat) (wf : s.partsWf) :
    let u := s.scrubbed p
    u.partsWf ∧ u.partOf p = Part.none ∧ u.mem = (s.scrub p).mem
      ∧ u.hub.names = s.hub.names.filter (fun n => n.2.part != p) ∧ u.pkg.qpairs = s.pkg.qpairs.filter fun q => q.2.part != p := by
  have rest := State.clearCaches_rest (s.scrub p) (s.partOf p).islands
  refine ⟨?_, (State.partOf_setPart ..).trans (if_pos rfl), ?_, ?_, ?_⟩
  · refine State.partsWf_setPart p _ ?_
    show ((s.scrub p).clearCaches (s.partOf p).islands).partsWf
    rw [rest]
    exact wf
  · show ((s.scrub p).clearCaches (s.partOf p).islands).mem = _
    rw [rest]
  · show ((s.scrub p).clearCaches (s.partOf p).islands).hub.names.filter (fun n => n.2.part != p) = _
    rw [rest]
    rfl
  · show ((s.scrub p).clearCaches (s.partOf p).islands).pkg.qpairs.filter (fun q => q.2.part != p) = _
    rw [rest]
    rfl

/-! ## The statement -/

/-- Settles O45: the commands that another ring is denied; PARTSET by its checks; REACH; the making of a context; and the scrub. -/
theorem partitionLife : Obligations.PartitionLife := by
  unfold Obligations.PartitionLife
  intro ring p part islands sysCores hbm qps queues map w irq ports s old set answers
  refine ⟨fun hne ready e he => ?denied, fun hr wf hp => ⟨fun h => ?badPart, fun h busy => ?busy, fun h free stays => ⟨?destroys, ?gives⟩,
    fun h live hm => ?reach⟩, fun ctx plies live stays hc free own => ?context, fun scrubs wf => ?scrub⟩
  case denied =>
    have here (i : RingEntry) (f : State → Nat × State) := State.hvCommand_denied i f hne ready
    simp only [List.mem_cons, List.not_mem_nil, or_false] at he
    obtain rfl | rfl | rfl | rfl | rfl | rfl | rfl := he
    · show execPartset ring part islands sysCores hbm irq ⟨qps, ports⟩ queues s = _
      rw [execPartset, here]
    · show execReach ring part map s = _
      rw [execReach, State.partCommand, here]
    · show execRank ring part w s = _
      rw [execRank, State.partCommand, here]
    · show execPartceil ring part w s = _
      rw [execPartceil, State.partCommand, here]
    · show execPkglimit ring w s = _
      rw [execPkglimit, here]
    · exact (if_neg fun h => hne h.1).trans (here ..)
    · exact (if_neg fun h => hne h.1).trans (here ..)
  case badPart =>
    subst hp
    exact exec_partset_badPart ⟨islands, sysCores, hbm, irq, ⟨qps, ports⟩, queues⟩ hr h
  case busy =>
    subst hp
    exact exec_partset_busy ⟨islands, sysCores, hbm, irq, ⟨qps, ports⟩, queues⟩ hr h busy
  case destroys =>
    subst hp
    intro hi hc live empty
    exact exec_partset_destroys ⟨islands, sysCores, hbm, irq, ⟨qps, ports⟩, queues⟩ hr h free stays hi hc live empty
  case gives =>
    subst hp
    intro hi hc hirq len apart frames count quota own inside
    let r : Resources := ⟨islands, sysCores, hbm, irq, ⟨qps, ports⟩, queues⟩
    have good : s.goodResources part.toNat hbm ports qps.toNat queues.toNat = true := by
      simp only [State.goodResources, Bool.and_eq_true, decide_eq_true_eq, List.all_eq_true]
      exact ⟨⟨⟨⟨len, apart⟩, frames⟩, count⟩, quota⟩
    obtain ⟨wf', mem, cmds, ⟨image, given⟩, others, cores⟩ := State.givenResources_spec (s := s.running 16) part.toNat r wf
    have applied := State.updateCaps_applied wf'
    have parts (k : Nat) := State.updateCaps_silent wf' k
    have capped := State.updateCaps_capped wf'
    have gives := exec_partset_gives r hr h free stays ⟨hi, hc, hirq, good, own, inside⟩
    generalize ((s.running 16).givenResources part.toNat r).updateCaps = v at applied parts capped gives
    refine ⟨_, gives, State.reports_putStatus 0 ?_, State.capped_congr rfl rfl rfl capped, ?_, ?_, fun k hk => ?_, fun c hc hd => ?_⟩
    · rw [applied.hub]
      exact cmds
    · exact (congrArg State.mem applied.rest).trans mem
    · have fields := (parts part.toNat).trans (congrArg Part.silent given)
      refine ⟨(congrArg Part.live fields :), (congrArg Part.islands fields :), (congrArg Part.sysCores fields :), (congrArg Part.irqCore fields :),
        (congrArg Part.qpQuota fields :), (congrArg Part.hbm fields :), (congrArg Part.netPorts fields :), (congrArg Part.queueQuota fields :),
        (congrArg Part.rank fields :), (congrArg Part.ceiling fields :), fun hi => ?_⟩
      obtain ⟨x, hx⟩ := Option.ne_none_iff_exists'.mp hi
      have kept : (v.partOf part.toNat).image = old.image.or image := (congrArg Part.image fields :)
      exact kept.trans (by rw [hx]; rfl)
    · have fields := (parts k).trans (congrArg Part.silent (others k hk))
      exact ⟨(congrArg Part.islands fields :), (congrArg Part.live fields :)⟩
    · have core := (congrArg State.cores applied.rest).trans cores
      have empty : (((s.running 16).clearCaches (r.islands ^^^ ((s.running 16).partOf part.toNat).islands)).coreOf c).names = [] :=
        State.names_clearCaches (s.running 16) hd
      rw [State.coreOf, ← core] at empty
      exact empty
  case reach =>
    subst hp
    obtain ⟨reports, mem, changed⟩ := State.partChange_reports s (s.free + 384) part.toNat fun q =>
      { q with reach := (List.range 384).filter fun c => Config.freeBit (s.free + c) && c != s.hub.chip }
    refine ⟨_, exec_reach hr h live hm, reports, mem, ?_⟩
    rw [changed]
    refine ⟨rfl, fun c hc => ?_⟩
    obtain ⟨small, joined⟩ := List.mem_filter.mp hc
    simp only [Bool.and_eq_true, bne_iff_ne] at joined
    exact ⟨List.mem_range.mp small, joined.2⟩
  case context =>
    have made : ({ s with ages := s.ages + 1 }.setCtx ctx fun _ =>
        { Ctx.none with live := true, part := p, born := s.ages, plies := (List.range Config.plies).filter fun y => plies.contains y }).ctxOf ctx
          = { Ctx.none with live := true, part := p, born := s.ages, plies := (List.range Config.plies).filter fun y => plies.contains y } :=
      (State.ctxOf_setCtx ..).trans (if_pos rfl)
    exact ⟨_, exec_contextCreate live stays hc free own, (congrArg Ctx.live made :), (congrArg Ctx.part made :), (congrArg Ctx.plies made :),
      (congrArg Ctx.root made :), (congrArg Ctx.born made :), (congrArg Ctx.savePool made :),
      fun c hne => (State.ctxOf_setCtx ..).trans (if_neg hne), rfl, rfl⟩
  case scrub =>
    obtain ⟨wf', gone, mem, names, qpairs⟩ := State.scrubbed_spec p wf
    have applied := State.updateCaps_applied wf'
    refine ⟨_, exec_partitionScrubComplete scrubs, ?_, State.updateCaps_capped wf', fun n hn => ?_, fun n hn => ?_, fun k hk => ?_,
      fun c n hc hi hn => ?_⟩
    · exact congrArg Part.live ((State.updateCaps_silent wf' p).trans (congrArg Part.silent gone))
    · rw [State.nameEntry, applied.hub] at hn ⊢
      have kept := FMap.get_filter_values NameEntry.none (fun e => e.part != p) s.hub.names n
      rw [← names] at kept
      obtain gone' | other := kept
      · rw [gone'] at hn
        exact absurd rfl hn
      · exact bne_iff_ne.mp other
    · rw [State.qpOf, applied.pkg] at hn ⊢
      have kept := FMap.get_filter_values QPair.none (fun e => e.part != p) s.pkg.qpairs n
      rw [← qpairs] at kept
      obtain gone' | other := kept
      · rw [gone'] at hn
        cases hn
      · exact bne_iff_ne.mp other
    · rw [applied.rest, mem]
      exact State.blankAt_scrub hk
    · rw [applied.rest, mem]
      exact State.noTables_scrub hi n hn

end Sys2Proof.Machine

/-!
PROOFS. Shoot-downs, and the placement and dispatch of groups (R35, R37, R95–R100, R400).
-/

namespace Sys2Proof.Machine

/-! ## Shoot-downs (R35, R37) -/

/-- A core that looks the name up no more drops it and acknowledges. -/
theorem exec_shootdownInvalidate {s : State} {n core : Nat} (ack : core ∈ (s.nameEntry n).acks)
    (idle : ∀ t ∈ s.all, t.core = core → ∀ r ∈ t.outstanding, r.name ≠ some n) :
    exec (.shootdownInvalidate n core) s = .next ((s.setCore core fun c => c.forget n).setName n fun e =>
      { e with acks := e.acks.filter (· ≠ core) }) := by
  have notBusy : ¬ ((s.all.any fun t => t.core == core && t.outstanding.any fun r => r.name == some n) = true
      ∨ (!(s.nameEntry n).acks.contains core) = true) := by
    rintro (busy | missing)
    · obtain ⟨t, ht, busy⟩ := List.any_eq_true.mp busy
      obtain ⟨hc, busy⟩ := Bool.and_eq_true_iff.mp busy
      obtain ⟨r, hr, named⟩ := List.any_eq_true.mp busy
      exact idle t ht (beq_iff_eq.mp hc) r hr (beq_iff_eq.mp named)
    · simp [ack] at missing
  exact if_neg notBusy

/-- Every core has acknowledged: the name is shot down, and gone where nothing refers to it. -/
theorem exec_shootdownComplete {s : State} {n : Nat} (dying : (s.nameEntry n).state = .dying) (acks : (s.nameEntry n).acks = [])
    (notDone : (s.nameEntry n).sdone = false) :
    exec (.shootdownComplete n) s = .next ((s.setName n fun e =>
      { e with sdone := true, dropRef := false, refcount := if e.dropRef then e.refcount - 1 else e.refcount }).removeDead n) :=
  if_pos ⟨dying, acks, by rw [notDone]; rfl⟩

/-! ## Phases of barriers (R356) -/

/-- From one state to another phases of launches may have completed. -/
structure State.PhasesStep (s t : State) : Prop where
  rest : t = { s with hub := { s.hub with launches := t.hub.launches } }
  launch : ∀ k, t.launchOf k = { s.launchOf k with phases := (t.launchOf k).phases }

namespace State.PhasesStep
variable {s t u : State}

theorem refl (s : State) : s.PhasesStep s := ⟨rfl, fun _ => rfl⟩

theorem trans (h : s.PhasesStep t) (h' : t.PhasesStep u) : s.PhasesStep u where
  rest := by rw [h'.rest, h.rest]
  launch k := by rw [h'.launch, h.launch]

theorem foldl {α : Type} (xs : List α) (f : State → α → State) (h : ∀ (s : State) x, s.PhasesStep (f s x)) : s.PhasesStep (xs.foldl f s) :=
  List.foldlRecOn xs f (motive := fun t => s.PhasesStep t) (.refl s) fun t ht x _ => ht.trans (h t x)

end State.PhasesStep

theorem State.settlePhase_step (s : State) (l level inst slot : Nat) : s.PhasesStep (s.settlePhase l level inst slot) := by
  unfold State.settlePhase
  dsimp only
  split
  · refine ⟨rfl, fun k => ?_⟩
    rw [State.launchOf_setLaunch]
    split
    · next h => rw [h]
    · rfl
  · exact .refl s

theorem State.settlePhases_step (s : State) (l : Nat) : s.PhasesStep (s.settlePhases l) :=
  State.PhasesStep.foldl _ _ fun _ _ => State.PhasesStep.foldl _ _ fun s _ => State.settlePhase_step s l _ _ _

/-! ## Placing a group (R95–R99) -/

theorem lowestFree_eq {used : List Nat} {n i k : Nat} (hk : i ≤ k) (hn : k < i + n) (taken : ∀ j, i ≤ j → j < k → j ∈ used) (free : k ∉ used) :
    lowestFree used n i = some k := by
  induction n generalizing i with
  | zero => omega
  | succ n ih =>
    rw [lowestFree]
    by_cases h : i = k
    · rw [if_neg (by simpa [h] using free), h]
    · rw [if_pos (List.contains_iff_mem.mpr (taken i (le_refl i) (by omega)))]
      exact ih (by omega) (by omega) fun j hj hjk => taken j (by omega) hjk

/-- The lowest slot of the slot table without a valid record. -/
theorem State.freeBind_eq {s : State} {slot : Nat} (h : slot < 4096) (below : ∀ j, j < slot → ∃ b, (j, b) ∈ s.hub.binds ∧ b.valid = true)
    (free : ∀ b, (slot, b) ∈ s.hub.binds → b.valid = false) : s.freeBind = some slot := by
  have used (j : Nat) : j ∈ (s.hub.binds.filter fun b => b.2.valid).map (·.1) ↔ ∃ b, (j, b) ∈ s.hub.binds ∧ b.valid = true := by
    simp [List.mem_map, List.mem_filter]
  refine lowestFree_eq (Nat.zero_le _) (by omega) (fun j _ hj => (used j).mpr (below j hj)) fun hs => ?_
  obtain ⟨b, hb, valid⟩ := (used slot).mp hs
  exact absurd ((free b hb).symm.trans valid) (by decide)

/-- A placed group's reservations. -/
def Launch.groupOn (x : Launch) (core : Nat) : Group :=
  { core := core, reserved := x.lrec.nstr, left := x.lrec.nstr, banks := x.lrec.nbank, haltReq := x.haltReq, finish := .none }

/-- From one state to another a group was placed: launches, contexts, bind records and the free values may differ, and the launch has
its next group on that core. -/
structure State.PlacedOn (s t : State) (l core : Nat) : Prop where
  rest : t = { s with free := t.free, hub := { s.hub with launches := t.hub.launches, ctxs := t.hub.ctxs, binds := t.hub.binds } }
  next : (t.launchOf l).nextGroup = (s.launchOf l).nextGroup + 1
  group : FMap.get Group.none (t.launchOf l).groups (s.launchOf l).nextGroup = (s.launchOf l).groupOn core
  strands : (t.launchOf l).strands = (s.launchOf l).strands

namespace State.PlacedOn
variable {s t u : State} {l core : Nat} (h : s.PlacedOn t l core)
include h

theorem me : t.me = s.me := by rw [h.rest]
theorem others : t.strands = s.strands := by rw [h.rest]
theorem all : t.all = s.all := by rw [State.all, State.all, h.me, h.others]
theorem mem : t.mem = s.mem := by rw [h.rest]
theorem eng : t.eng = s.eng := by rw [h.rest]

/-- Other launches and bind records. -/
theorem rest_with (ls : FMap Launch) (bs : FMap BindRec) : { t with hub := { t.hub with launches := ls, binds := bs } }
    = { s with free := t.free, hub := { s.hub with launches := ls, ctxs := t.hub.ctxs, binds := bs } } := by
  rw [h.rest]

/-- The launch may change otherwise. -/
theorem setLaunch {f : Launch → Launch}
    (hf : ∀ x, (f x).nextGroup = x.nextGroup ∧ (f x).groups = x.groups ∧ (f x).strands = x.strands) : s.PlacedOn (t.setLaunch l f) l core := by
  obtain ⟨next, groups, strands⟩ := hf (t.launchOf l)
  have launch : (t.setLaunch l f).launchOf l = f (t.launchOf l) := (State.launchOf_setLaunch ..).trans (if_pos rfl)
  refine ⟨h.rest_with _ _, ?_, ?_, ?_⟩ <;> rw [launch]
  · exact next.trans h.next
  · rw [groups]
    exact h.group
  · exact strands.trans h.strands

/-- Bind records may change. -/
theorem setBinds (bs : FMap BindRec) : s.PlacedOn (t.setHub fun h => { h with binds := bs }) l core :=
  ⟨h.rest_with _ _, h.next, h.group, h.strands⟩

theorem settled (h' : t.PhasesStep u) : s.PlacedOn u l core where
  rest := by rw [h'.rest, h.rest]
  next := by rw [h'.launch]; exact h.next
  group := by rw [h'.launch]; exact h.group
  strands := by rw [h'.launch]; exact h.strands

end State.PlacedOn

/-- A launch with its next group on a core. -/
def Launch.placedOn (x : Launch) (core : Nat) : Launch :=
  { x with nextGroup := x.nextGroup + 1, groups := FMap.set Group.none x.groups x.nextGroup (x.groupOn core) }

theorem State.setLaunch_placedOn (s : State) (l core : Nat) : s.PlacedOn (s.setLaunch l fun x => x.placedOn core) l core := by
  have launch : (s.setLaunch l fun x => x.placedOn core).launchOf l = (s.launchOf l).placedOn core :=
    (State.launchOf_setLaunch ..).trans (if_pos rfl)
  refine ⟨rfl, ?_, ?_, ?_⟩ <;> rw [launch]
  · rfl
  · exact (FMap.get_set ..).trans (if_pos rfl)
  · rfl

/-- What a placed group reserves, and the new cursor, change launches and contexts alone. -/
theorem State.reserve_placedOn (s : State) (l core : Nat) :
    s.PlacedOn (s.reserve l core) l core ∧ (s.reserve l core).hub.binds = s.hub.binds := by
  have placed := State.setLaunch_placedOn s l core
  unfold State.reserve
  dsimp only
  split
  · exact ⟨⟨rfl, placed.next, placed.group, placed.strands⟩, rfl⟩
  · exact ⟨placed, rfl⟩

/-- The bind record of the next group of a launch (R99). -/
def State.recordFor (s : State) (l core : Nat) : BindRec :=
  let x := s.launchOf l
  { valid := true, lslot := l, core := core, vcore := s.vcoreWord x.ctx core, group := x.nextGroup, tbase := x.nextGroup * x.lrec.nstr
    nstr := x.lrec.nstr, high := decide (x.lrec.priority = 1)
    deadline := if x.lrec.reldl.toNat + x.accept.toNat < 2 ^ 64 then x.accept + x.lrec.reldl else BitVec.allOnes 64 }

/-- On a core of this chip the group's bind record is written. -/
theorem State.placeGroup_placedOn (s : State) (l core slot : Nat) :
    s.PlacedOn (s.placeGroup l core slot) l core ∧ FMap.get BindRec.none (s.placeGroup l core slot).hub.binds slot = s.recordFor l core := by
  let t := (s.reserve l core).setHub fun h => { h with binds := FMap.set BindRec.none h.binds slot (s.recordFor l core) }
  have settled : t.PhasesStep (s.placeGroup l core slot) := State.settlePhases_step t l
  refine ⟨((State.reserve_placedOn s l core).1.setBinds _).settled settled, ?_⟩
  rw [settled.rest]
  exact (FMap.get_set BindRec.none (s.reserve l core).hub.binds slot slot (s.recordFor l core)).trans (if_pos rfl)

/-- On a core of another chip it is not. -/
theorem State.placeAway_placedOn (s : State) (l core : Nat) :
    s.PlacedOn (s.placeAway l core) l core ∧ (s.placeAway l core).hub.binds = s.hub.binds := by
  let r := s.reserve l core
  let t := r.setLaunch l fun x => { x with untriggered := x.untriggered - (s.launchOf l).lrec.nstr
                                           tbind := if Config.freeBit r.free then x.tbind.or (some r.ns) else x.tbind }
  obtain ⟨reserved, binds⟩ := State.reserve_placedOn s l core
  have settled : t.PhasesStep (s.placeAway l core) := State.settlePhases_step t l
  have changed : s.PlacedOn t l core := reserved.setLaunch fun _ => ⟨rfl, rfl, rfl⟩
  refine ⟨changed.settled settled, ?_⟩
  rw [settled.rest]
  exact binds

/-! ## Dispatch (R52, R100) -/

/-- The index and extent of each level in a strand's registers. -/
theorem levelRegs_get (t i : Nat) (ls : List Level) {j : Nat} {lv : Level} (h : ls[j]? = some lv) :
    FMap.get 0 (levelRegs t i ls).1 (i + j) = BitVec.ofNat 64 (t / ((ls.take j).map (·.extent)).prod % lv.extent)
      ∧ FMap.get 1 (levelRegs t i ls).2 (i + j) = BitVec.ofNat 64 lv.extent := by
  induction ls generalizing t i j with
  | nil => cases h
  | cons l ls ih =>
    rw [levelRegs]
    dsimp only
    rw [FMap.get_set, FMap.get_set]
    cases j with
    | zero =>
      obtain rfl : l = lv := Option.some.inj h
      simp
    | succ j =>
      have deeper := ih (t / l.extent) (i + 1) (j := j) h
      rw [show i + 1 + j = i + (j + 1) by omega] at deeper
      rw [if_neg (by omega), if_neg (by omega), deeper.1, deeper.2, List.take_succ_cons, List.map_cons, List.prod_cons, Nat.div_div_eq_div_mul]
      exact ⟨rfl, rfl⟩

/-- A strand of a record as it enters the pending list. -/
def State.slice (s : State) (b : BindRec) (i uid age : Nat) : Strand :=
  { s.launchStrand b (b.tbase + i) uid with place := .pending b.core, wait := .none, age := age }

/-- The strands of a record enter the pending list. -/
def State.enterSlices (s : State) (b : BindRec) (is : List Nat) : State :=
  is.foldl (fun s i =>
    let (uid, s) := s.freshUid
    s.enterList b.core (s.launchStrand b (b.tbase + i) uid)) s

theorem State.enterSlices_spec (s : State) (b : BindRec) (is : List Nat) :
    ∃ us : List Strand, s.enterSlices b is = { s with ages := (s.enterSlices b is).ages, strands := s.strands ++ us } ∧ us.length = is.length
      ∧ ∀ i ∈ is, ∃ uid age, s.slice b i uid age ∈ us := by
  induction is generalizing s with
  | nil => exact ⟨[], by simp [State.enterSlices], rfl, by simp⟩
  | cons i is ih =>
    let u := s.slice b i (s.ages + 1) (s.ages + 1)
    let t : State := { s with ages := s.ages + 2, strands := s.strands ++ [u] }
    obtain ⟨us, entered, length, members⟩ := ih t
    have first : s.enterSlices b (i :: is) = t.enterSlices b is := rfl
    refine ⟨u :: us, ?_, by simp [length], fun j hj => ?_⟩
    · rw [first, entered]
      simp [t]
    · obtain rfl | hj := List.mem_cons.mp hj
      · exact ⟨_, _, List.mem_cons_self⟩
      · obtain ⟨uid, age, hu⟩ := members j hj
        exact ⟨uid, age, List.mem_cons_of_mem _ hu⟩

theorem State.pendingRoom_of_roomFor {s : State} {core n : Nat} (h : s.roomFor core n) : s.pendingRoom core n = true := by
  rw [State.pendingRoom, State.pendingCount, Bool.and_eq_true, decide_eq_true_iff, Bool.not_eq_true', List.any_eq_false]
  exact ⟨h.1, fun t ht held => h.2 t ht (of_decide_eq_true held)⟩

/-- Dispatching a record that its core has room for puts its strands in the list. -/
theorem State.dispatch_spec {s : State} {n : Nat} {b : BindRec} (hb : FMap.get BindRec.none s.hub.binds n = b) (valid : b.valid = true)
    (room : s.roomFor b.core b.nstr) :
    let t := s.dispatch n
    (FMap.get BindRec.none t.hub.binds n).valid = false ∧ (t.launchOf b.lslot).strands = (s.launchOf b.lslot).strands + b.nstr
      ∧ (t.launchOf b.lslot).nextGroup = (s.launchOf b.lslot).nextGroup
      ∧ t.strands.length = s.strands.length + b.nstr ∧ t.me = s.me ∧ t.mem = s.mem ∧ t.eng = s.eng
      ∧ ∀ i, i < b.nstr → ∃ uid age, s.slice b i uid age ∈ t.strands := by
  obtain ⟨us, entered, length, members⟩ := State.enterSlices_spec s b (List.range b.nstr)
  have whole : s.dispatch n = ((s.enterSlices b (List.range b.nstr)).setHub fun h =>
      { h with binds := FMap.set BindRec.none h.binds n { b with valid := false } }).setLaunch b.lslot fun x =>
        { x with strands := x.strands + b.nstr } := by
    rw [State.dispatch, hb]
    exact if_pos ⟨valid, State.pendingRoom_of_roomFor room⟩
  intro t
  have ht : t = _ := whole
  rw [entered] at ht
  have launch : t.launchOf b.lslot = { s.launchOf b.lslot with strands := (s.launchOf b.lslot).strands + b.nstr } := by
    rw [ht, State.launchOf_setLaunch, if_pos rfl]
    rfl
  refine ⟨?_, by rw [launch], by rw [launch], ?_, by rw [ht]; rfl, by rw [ht]; rfl, by rw [ht]; rfl, fun i hi => ?_⟩
  · rw [ht]
    exact congrArg BindRec.valid ((FMap.get_set BindRec.none s.hub.binds n n { b with valid := false }).trans (if_pos rfl))
  · rw [ht]
    show (s.strands ++ us).length = _
    rw [List.length_append, length, List.length_range]
  · obtain ⟨uid, age, hu⟩ := members i (List.mem_range.mpr hi)
    refine ⟨uid, age, ?_⟩
    rw [ht]
    exact List.mem_append_right s.strands hu

/-! ## Group placement -/

section
variable {s : State} {l core : Nat} (hn : s.nextPlaced = some (l, s.launchOf l))
  (hc : (s.candidates (s.launchOf l)).find? (s.fits (s.launchOf l)) = some core)
include hn hc

theorem exec_groupPlacement_away (far : 4096 ≤ core) : ∃ free, exec .groupPlacement s = .next { s.placeAway l core with free := free } := by
  have away : isAway core = true := decide_eq_true far
  show ∃ free, execGroupPlacement s = _
  rw [execGroupPlacement, hn]
  dsimp only
  rw [State.placeNext, hc]
  dsimp only
  rw [if_pos away]
  split
  · exact ⟨_, rfl⟩
  · exact ⟨_, rfl⟩

theorem exec_groupPlacement_here {slot : Nat} (near : core < 4096) (hb : s.freeBind = some slot) :
    ∃ free, exec .groupPlacement s = .next { s.placeHere l (s.launchOf l) core slot with free := free } := by
  have here : ¬ isAway core = true := by simpa [isAway] using near
  show ∃ free, execGroupPlacement s = _
  rw [execGroupPlacement, hn]
  dsimp only
  rw [State.placeNext, hc]
  dsimp only
  rw [if_neg here, hb]
  dsimp only
  split
  · exact ⟨_, rfl⟩
  · exact ⟨_, rfl⟩

end

theorem State.preemptedFor_iff {s : State} {x : Launch} {core : Nat} :
    s.preemptedFor x core = true ↔ ∃ z ∈ s.all, z.core = core ∧ z.forGroup = some (x.order, x.nextGroup) := by
  simp [State.preemptedFor, List.any_eq_true, and_comm]

theorem State.roomFor_congr {s t : State} (h : t.all = s.all) {core n : Nat} (hr : s.roomFor core n) : t.roomFor core n := by
  rw [State.roomFor, h]
  exact hr

/-- A group for which the spindle has pre-empted is placed and dispatched at once (R400). -/
theorem State.placeHere_dispatched {s : State} {l core slot : Nat} (pre : s.preemptedFor (s.launchOf l) core = true)
    (room : s.roomFor core (s.launchOf l).lrec.nstr) :
    let x := s.launchOf l
    let t := s.placeHere l x core slot
    (t.launchOf l).nextGroup = x.nextGroup + 1 ∧ (FMap.get BindRec.none t.hub.binds slot).valid = false
      ∧ (t.launchOf l).strands = x.strands + x.lrec.nstr ∧ t.strands.length = s.strands.length + x.lrec.nstr ∧ t.mem = s.mem ∧ t.me = s.me
      ∧ t.eng = s.eng ∧ ∀ i, i < x.lrec.nstr → ∃ u ∈ t.strands, u.place = .pending core ∧ u.launch = some l
          ∧ u.tnum = BitVec.ofNat 32 (x.nextGroup * x.lrec.nstr + i) := by
  intro x t
  obtain ⟨placed, record⟩ := State.placeGroup_placedOn s l core slot
  obtain ⟨gone, strands, next, length, me, mem, eng, members⟩ :=
    State.dispatch_spec record rfl (State.roomFor_congr placed.all room)
  have ht : t = (s.placeGroup l core slot).dispatch slot := if_pos pre
  rw [ht]
  refine ⟨next.trans placed.next, gone, ?_, ?_, mem.trans placed.mem, me.trans placed.me, eng.trans placed.eng, fun i hi => ?_⟩
  · exact strands.trans (congrArg (· + x.lrec.nstr) placed.strands)
  · rw [length, placed.others]
    rfl
  · obtain ⟨uid, age, hu⟩ := members i hi
    exact ⟨_, hu, rfl, rfl, rfl⟩

end Sys2Proof.Machine

/-!
PROOFS. The trigger store and the retirement of launches, and the statement on launches placed and ended (O34).
-/

namespace Sys2Proof.Machine

/-! ## Packets that complete (R72, R80) -/

/-- From one state to another no launch came to be live, and none ceased to be. -/
def State.SameLive (s t : State) : Prop := ∀ k, (t.launchOf k).live = (s.launchOf k).live

theorem State.SameLive.trans {s t u : State} (h : s.SameLive t) (h' : t.SameLive u) : s.SameLive u := fun k => (h' k).trans (h k)

theorem State.notifyPacket_sameLive (s : State) (q : Nat) (p : Packet) : s.SameLive (s.notifyPacket q p) := fun k => by
  unfold State.notifyPacket
  dsimp only
  split <;> rfl

theorem State.vput_sameLive (s : State) (ctx va n x : Nat) : s.SameLive (s.vput ctx va n x) := fun k =>
  congrArg Launch.live ((State.vput_frontStep s ctx va n x).launchOf k)

theorem State.markComplete_sameLive (depth : Nat) (s : State) (q place : Nat) : s.SameLive (s.markComplete depth q place) := by
  induction depth generalizing s place with
  | zero => exact fun _ => rfl
  | succ n ih =>
    rw [State.markComplete]
    split
    · exact fun _ => rfl
    · next p _ =>
      split
      · exact fun _ => rfl
      · have marked : s.SameLive ((s.setPacket q place fun p => { p with state := .complete }).notifyPacket q p) :=
          State.notifyPacket_sameLive (s.setPacket q place _) q p
        dsimp only
        split
        · exact marked
        · split
          · exact marked.trans (ih _ _)
          · exact marked

theorem State.advanceDone_sameLive (fuel : Nat) (s : State) (q : Nat) : s.SameLive (s.advanceDone fuel q) := by
  induction fuel generalizing s with
  | zero => exact fun _ => rfl
  | succ n ih =>
    rw [State.advanceDone]
    dsimp only
    split
    · exact fun _ => rfl
    · split
      · refine State.SameLive.trans ?_ (ih _)
        exact State.vput_sameLive (s.setQueue q _) _ _ _ _
      · exact fun _ => rfl

theorem State.settleQueue_sameLive (fuel : Nat) (s : State) (q : Nat) : s.SameLive (s.settleQueue fuel q) := by
  induction fuel generalizing s with
  | zero => exact fun _ => rfl
  | succ n ih =>
    have done := State.advanceDone_sameLive ((s.queueOf q).packets.length) s q
    rw [State.settleQueue]
    dsimp only
    split
    · exact done
    · next p _ =>
      refine (done.trans ?_).trans (ih _)
      split
      · exact State.markComplete_sameLive _ _ _ _
      · split
        · exact fun _ => rfl
        · split
          · intro k
            rw [State.launchOf_setLaunch]
            split
            · next h =>
              rw [h]
              rfl
            · rfl
          · exact fun _ => rfl

theorem State.completePacket_sameLive (s : State) (p : Option (Nat × Nat)) : s.SameLive (s.completePacket p) := by
  cases p with
  | none => exact fun _ => rfl
  | some p => exact (State.markComplete_sameLive _ _ _ _).trans (State.settleQueue_sameLive _ _ _)

/-- In a queue without packets nothing completes, and nothing starts. -/
theorem State.completePacket_of_empty {s : State} {q : Nat} (place : Nat) (h : (s.queueOf q).packets = []) :
    s.completePacket (some (q, place)) = s := by
  have marked : s.markComplete 6 q place = s := by
    rw [State.markComplete, Queue.at?, h]
    rfl
  show (s.markComplete 6 q place).settle q = s
  rw [marked, State.settle, h]
  show s.settleQueue 1 q = s
  rw [State.settleQueue, h]
  dsimp only [List.length_nil, State.advanceDone]
  rw [h]
  rfl

/-! ## References that a launch holds (R402) -/

theorem State.endOpName_namesStep (s : State) (c : Nat) : s.NamesStep (s.endOpName c) := by
  have shot := State.startShootdown_namesStep s c true
  unfold State.endOpName
  split
  · exact ⟨rfl, shot.dying⟩
  · exact shot

theorem State.dropHeld_namesStep (s : State) (n : Name) : s.NamesStep (s.dropHeld n) := by
  unfold State.dropHeld
  split
  · exact State.dropNameRef_namesStep ..
  · exact .refl s

theorem State.dropLaunchRefs_namesStep (s : State) (l : Nat) : s.NamesStep (s.dropLaunchRefs l) := by
  have ops (xs : List (Nat × Op)) (s : State) : s.NamesStep (xs.foldl (fun s o =>
      match o.2.name with
      | some c => if o.2.launch = some l ∧ (s.nameEntry c).state = .live then s.endOpName c else s
      | none => s) s) := State.NamesStep.foldl _ _ fun s o => by
    split
    · split
      · exact State.endOpName_namesStep ..
      · exact .refl s
    · exact .refl s
  exact ((((ops _ s).trans (State.NamesStep.foldl _ _ State.dropHeld_namesStep)).trans
    (State.NamesStep.foldl _ _ State.dropHeld_namesStep)).trans (State.setLaunch_namesStep ..)).trans (State.freeSnaps_namesStep _)

/-! ## The trigger store (R358) -/

/-- A launch with its trigger stored. -/
def State.triggered (s : State) (l : Nat) : State := s.setLaunch l fun x => { x with triggerStored := true }

theorem State.storeTrigger_of_stored {s : State} {l : Nat} (h : (s.launchOf l).triggerStored = true) : s.storeTrigger l = s := if_pos h

theorem State.storeTrigger_eq {s : State} {l : Nat} (h : (s.launchOf l).triggerStored = false) : s.storeTrigger l =
    if (s.launchOf l).lrec.trigaddr = 0 then s.triggered l
    else (s.triggered l).vput (s.launchOf l).ctx (s.launchOf l).lrec.trigaddr.toNat 8 (s.launchOf l).lrec.compval.toNat :=
  if_neg (by simp [h])

theorem State.storeTrigger_frontStep {s : State} {l : Nat} (h : (s.launchOf l).triggerStored = false) :
    (s.triggered l).FrontStep (s.storeTrigger l) := by
  rw [State.storeTrigger_eq h]
  split
  · exact .refl _
  · exact State.vput_frontStep ..

theorem State.launchOf_storeTrigger (s : State) (l : Nat) : (s.storeTrigger l).launchOf l = { s.launchOf l with triggerStored := true } := by
  cases h : (s.launchOf l).triggerStored with
  | true => rw [State.storeTrigger_of_stored h, ← h]
  | false => exact ((State.storeTrigger_frontStep h).launchOf l).trans ((State.launchOf_setLaunch ..).trans (if_pos rfl))

/-- A doubleword within a block is written where its address translates to. -/
theorem State.vwrite_word {s s' : State} {ctx va : Nat} (x : Nat) {pa : PAddr} (hl : va % 64 ≤ 56)
    (h : s.vtranslate ctx va true = some (pa, s')) : s.vwrite ctx va (toLE 8 x) = some (s'.storeAt pa (toLE 8 x)) :=
  State.vwrite_one (by simp [toLE]) (by rw [length_toLE]; omega) h

theorem State.vput_wrote {s s' : State} {ctx va x : Nat} {pa : PAddr} (hl : va % 64 ≤ 56) (h : s.vtranslate ctx va true = some (pa, s')) :
    s'.wrote (s.vput ctx va 8 x) pa.key 8 x := by
  rw [State.vput, State.vwrite_word x hl h]
  exact State.storeAt_wrote s' pa 8 x

theorem exec_triggerStore {s : State} {l : Nat} (live : (s.launchOf l).live = true) (stays : (s.ctxOf (s.launchOf l).ctx).killing = false)
    (all : (s.launchOf l).untriggered = 0) (here : (s.launchOf l).awayLeft = false) :
    exec (.triggerStore l) s = .next (s.storeTrigger l) := by
  show execTriggerStore l s = _
  unfold execTriggerStore
  dsimp only
  rw [here, if_pos ⟨live, all, .inl rfl, by rw [stays]; rfl⟩]
  rfl

/-! ## Retirement (R402, R403) -/

/-- Nothing is asked of a launch whose strands on other chips have ended. -/
theorem State.awayEnds_of_here {s : State} {l : Nat} (h : (s.launchOf l).awayLeft = false) : s.awayEnds l = s := by
  have noGroup : (s.launchOf l).groups.filter (fun g => isAway g.2.core && g.2.left != 0) = [] := by
    rw [List.filter_eq_nil_iff]
    exact List.any_eq_false.mp h
  unfold State.awayEnds
  dsimp only
  rw [noGroup]
  rfl

/-- The end of a retirement: its event, and that of the launch's name. -/
def State.announced (s : State) (x : Launch) (flags : Nat) : State :=
  let s := if x.notify then
      s.postEvent x.part 2 x.ctx [x.name.extractLsb' 0 64, x.name.extractLsb' 64 64, BitVec.ofNat 64 x.index, BitVec.ofNat 64 flags]
    else s
  s.startShootdown (nameCounter x.name) true

theorem State.announced_spec (s : State) (x : Launch) (flags : Nat) :
    let t := s.announced x flags
    (t.nameEntry (nameCounter x.name)).state = .dying ∧ t.mem = s.mem ∧ (∀ k, t.launchOf k = s.launchOf k)
      ∧ (x.notify = true → ∃ e ∈ (t.partOf x.part).events, e.type = 2
          ∧ e.body.take 3 = [x.name.extractLsb' 0 64, x.name.extractLsb' 64 64, BitVec.ofNat 64 x.index]) := by
  have dying (u : State) : ((u.startShootdown (nameCounter x.name) true).nameEntry (nameCounter x.name)).state = .dying := by
    rw [State.nameEntry_startShootdown, if_pos rfl]
  intro t
  refine ⟨dying _, ?_, ?_, fun hn => ?_⟩
  · simp only [t, State.announced]
    split <;> rfl
  · intro k
    simp only [t, State.announced]
    split <;> rfl
  · obtain ⟨e, events, type, -, -, body, -⟩ := State.postEvent_notified s x.part 2 x.ctx
      [x.name.extractLsb' 0 64, x.name.extractLsb' 64 64, BitVec.ofNat 64 x.index, BitVec.ofNat 64 flags]
    refine ⟨e, ?_, type, by rw [body]; rfl⟩
    have part : t.partOf x.part = (s.postEvent x.part (BitVec.ofNat 8 2) x.ctx
        [x.name.extractLsb' 0 64, x.name.extractLsb' 64 64, BitVec.ofNat 64 x.index, BitVec.ofNat 64 flags]).partOf x.part := by
      simp only [t, State.announced, hn, if_true]
      rfl
    rw [part, events]
    exact List.mem_append_right _ List.mem_cons_self

/-- What follows the account record and the completion word of a launch that retires. -/
def State.retired (s : State) (l : Nat) (x : Launch) (flags : Nat) : State :=
  ((s.setLaunch l fun _ => Launch.none).completePacket (some (x.queue, 2 ^ 17 * x.index + x.sub))).announced x flags

theorem State.retired_spec (s : State) (l : Nat) (x : Launch) (flags : Nat) :
    let t := s.retired l x flags
    (t.launchOf l).live = false ∧ (t.nameEntry (nameCounter x.name)).state = .dying
      ∧ (x.notify = true → ∃ e ∈ (t.partOf x.part).events, e.type = 2
          ∧ e.body.take 3 = [x.name.extractLsb' 0 64, x.name.extractLsb' 64 64, BitVec.ofNat 64 x.index])
      ∧ ((s.queueOf x.queue).packets = [] → t.mem = s.mem) := by
  let ended := s.setLaunch l fun _ => Launch.none
  obtain ⟨dying, mem, launch, event⟩ :=
    State.announced_spec (ended.completePacket (some (x.queue, 2 ^ 17 * x.index + x.sub))) x flags
  refine ⟨?_, dying, event, fun h => ?_⟩
  · rw [State.retired, launch]
    refine (State.completePacket_sameLive ended _ l).trans ?_
    rw [State.launchOf_setLaunch, if_pos rfl]
    rfl
  · have same : ended.completePacket (some (x.queue, 2 ^ 17 * x.index + x.sub)) = ended := State.completePacket_of_empty _ h
    rw [State.retired, mem, same]
    rfl

/-- A retirement stores the trigger and drops the references, makes its two stores, and ends the launch. -/
theorem State.retire_eq (s : State) (l : Nat) :
    let x := (s.storeTrigger l).launchOf l
    let d := (s.storeTrigger l).dropLaunchRefs l
    ∃ w flags, s.retire l = w.retired l x flags
      ∧ ∀ v, x.lrec.acctaddr = 0 → x.lrec.compaddr ≠ 0 → d.vwrite x.ctx x.lrec.compaddr.toNat (toLE 8 x.lrec.compval.toNat) = some v → w = v := by
  intro x d
  refine ⟨_, _, rfl, fun v ha hc hv => ?_⟩
  show (if x.lrec.compaddr = 0 then ((if x.lrec.acctaddr = 0 then (d, false) else d.writeOrSkip x.ctx x.lrec.acctaddr.toNat _).1, false)
    else (if x.lrec.acctaddr = 0 then (d, false) else d.writeOrSkip x.ctx x.lrec.acctaddr.toNat _).1.writeOrSkip x.ctx x.lrec.compaddr.toNat
      (toLE 8 x.lrec.compval.toNat)).1 = v
  rw [if_neg hc, if_pos ha, State.writeOrSkip, hv]

theorem exec_launchRetire {s : State} {l : Nat} (live : (s.launchOf l).live = true) (stays : (s.ctxOf (s.launchOf l).ctx).killing = false)
    (started : (s.launchOf l).started = true) (placed : (s.launchOf l).nextGroup = (s.launchOf l).lrec.groupCount)
    (ended : (s.launchOf l).strands = 0) (here : (s.launchOf l).awayLeft = false)
    (binds : ∀ b ∈ s.hub.binds, b.2.lslot = l → b.2.valid = false) (ops : ∀ o ∈ s.eng.ops, o.2.launch = some l → o.2.live = false) :
    exec (.launchRetire l) s = .next (s.retire l) := by
  have noBind : (s.hub.binds.any fun b => b.2.valid && b.2.lslot == l) = false := by
    rw [List.any_eq_false]
    intro b hb valid
    simp only [Bool.and_eq_true, beq_iff_eq] at valid
    exact absurd ((binds b hb valid.2).symm.trans valid.1) (by decide)
  have noOp : (s.eng.ops.any fun o => o.2.launch == some l && o.2.live) = false := by
    rw [List.any_eq_false]
    intro o ho left
    simp only [Bool.and_eq_true, beq_iff_eq] at left
    exact absurd ((ops o ho left.1).symm.trans left.2) (by decide)
  have may : s.mayRetire l = true := by
    simp [State.mayRetire, live, started, placed, ended, here, noBind, noOp, stays]
  show execLaunchRetire l s = _
  rw [execLaunchRetire, State.awayEnds_of_here here]
  exact if_pos may

/-! ## The statement -/

/-- Settles O34: the steps of a shoot-down; a group placed here, placed and dispatched, or placed on another chip; the dispatch of a record;
the trigger store; and retirement. -/
theorem launchesPlacedAndEnded : Obligations.LaunchesPlacedAndEnded := by
  unfold Obligations.LaunchesPlacedAndEnded
  refine ⟨fun s n core => ⟨fun ack idle => ?invalidate, fun dying acks notDone => ?complete, ?placed, ?dispatched, ?away, ?record⟩,
    fun l s live stays => ⟨?trigger, ?retire⟩⟩
  case invalidate =>
    have entry := (State.nameEntry_setName (s.setCore core fun c => c.forget n) n n fun e => { e with acks := e.acks.filter (· ≠ core) }).trans
      (if_pos rfl)
    have caches := (State.coreOf_setCore s core core fun c => c.forget n).trans (if_pos rfl)
    exact ⟨_, exec_shootdownInvalidate ack idle, (congrArg NameEntry.acks entry :), (congrArg NameEntry.state entry :),
      (congrArg Core.names caches :), rfl, rfl⟩
  case complete =>
    refine ⟨_, exec_shootdownComplete dying acks notDone, State.removeDead_mem .., State.removeDead_me .., ?_⟩
    rw [State.removeDead_nameEntry, State.nameEntry_setName, if_pos rfl]
    exact if_congr (by simp [dying]) rfl rfl
  case placed =>
    intro l slot hn hs below free x hc near others
    obtain ⟨f, hf⟩ := exec_groupPlacement_here hn hc near (State.freeBind_eq hs below free)
    obtain ⟨placed, record⟩ := State.placeGroup_placedOn s l core slot
    have alone : ¬ s.preemptedFor x core = true := fun h => by
      obtain ⟨z, hz, hcore, hg⟩ := State.preemptedFor_iff.mp h
      exact others z hz hcore hg
    rw [State.placeHere, if_neg alone] at hf
    exact ⟨_, hf, placed.next, placed.group, record, placed.mem, placed.me, placed.eng⟩
  case dispatched =>
    intro l slot hn hs below free x hc near waiting room
    obtain ⟨f, hf⟩ := exec_groupPlacement_here hn hc near (State.freeBind_eq hs below free)
    obtain ⟨next, gone, strands, length, mem, me, eng, members⟩ :=
      State.placeHere_dispatched (l := l) (slot := slot) (State.preemptedFor_iff.mpr waiting) room
    exact ⟨_, hf, next, gone, strands, length, mem, me, eng, members⟩
  case away =>
    intro l hn x hc far
    obtain ⟨f, hf⟩ := exec_groupPlacement_away hn hc far
    obtain ⟨placed, binds⟩ := State.placeAway_placedOn s l core
    exact ⟨_, hf, placed.next, congrArg Group.core placed.group, binds, placed.others, placed.mem, placed.me, placed.eng⟩
  case record =>
    intro b x valid room
    obtain ⟨gone, strands, -, length, me, mem, -, members⟩ := State.dispatch_spec rfl valid room
    refine ⟨_, rfl, gone, strands, length, me, mem, fun i hi => ?_⟩
    obtain ⟨uid, age, hu⟩ := members i hi
    refine ⟨_, hu, rfl, rfl, rfl, rfl, rfl, rfl, rfl, rfl, rfl, rfl, rfl, rfl, rfl, rfl, rfl, rfl, rfl, rfl, rfl, fun j lv hlv _ => ?_⟩
    have regs := levelRegs_get ((FMap.get BindRec.none s.hub.binds n).tbase + i) 0 _ hlv
    rw [Nat.zero_add] at regs
    exact regs
  case trigger =>
    intro all notStored here
    refine ⟨_, exec_triggerStore live stays all here, ?_, fun noAddr => ?_, fun pa s' addr hl ht => ?_⟩
    · rw [State.launchOf_storeTrigger]
    · rw [State.storeTrigger_eq notStored, if_pos noAddr]
      rfl
    · rw [State.storeTrigger_eq notStored, if_neg addr]
      exact State.vput_wrote hl ht
  case retire =>
    intro started placed ended here binds ops
    obtain ⟨w, flags, retires, stores⟩ := State.retire_eq s l
    obtain ⟨gone, dying, event, mem⟩ := State.retired_spec w l ((s.storeTrigger l).launchOf l) flags
    rw [← retires] at gone dying event mem
    rw [State.launchOf_storeTrigger] at stores dying event mem
    refine ⟨_, exec_launchRetire live stays started placed ended here binds ops, gone, dying, event, ?_⟩
    intro pa s' s'' stored noAccount addr hl empty hs' ht
    rw [State.storeTrigger_of_stored stored, ← hs'] at stores
    have written : w = s''.storeAt pa (toLE 8 (s.launchOf l).lrec.compval.toNat) :=
      stores _ noAccount addr (State.vwrite_word _ hl ht)
    have packets : (w.queueOf (s.launchOf l).queue).packets = [] := by
      rw [written, (State.storeAt_frontStep ..).queue_packets, (State.vtranslate_frontStep ht).queue_packets, hs',
        (State.dropLaunchRefs_namesStep s l).queueOf]
      exact empty
    intro k
    rw [mem packets, written]
    exact State.storeAt_wrote s'' pa 8 _ k

end Sys2Proof.Machine

/-!
PROOFS. Words of one access that nothing stands in the way of: what the access answers and leaves (R183, R192, R245).
-/

namespace Sys2Proof.Machine

/-! ## One unit of a strand -/

/-- What a unit without a trace leaves, whose memory lets it pass and writes no tags: the data of its effect, whole words of which are
sound again (R392), and the wakes of the waiters there (R354). -/
theorem State.perform_eq (s : State) {u : AccessUnit} {m : Mem} {r : UnitRes} {offs : List Nat} (ht : u.trace = none)
    (hl : landingTags u [] = []) (ha : applyAct s.mem u = (m, r, offs)) :
    s.perform u [] = (State.wakeWords { s with mem := { m with
      poison := (wholeWords u.pa.block offs).foldl (fun p w => FMap.set 0 p w 0) m.poison } } ((wordsOf offs).map (8 * u.pa.block + ·)), r) := by
  unfold State.perform
  simp only [ha, hl, ht, List.foldl_nil, List.map_nil, List.append_nil]

/-- A unit that its memory lets pass is performed. -/
theorem runUnit_ok {s : State} {u : AccessUnit} (hm : u.pa.space ≠ .mmio) (hw : s.wakeIsland u.pa.space = none) (hu : uncorrOf s u = none)
    (hp : lookupUnit s.mem u = .pass []) (ha : u.act ≠ .look) (hl : landingTags u [] = []) :
    runUnit u s = .ok (.done (s.perform u []).2 []) (s.perform u []).1 := by
  have attempt : attemptUnit u s = .ok (.done (s.perform u []).2 []) (s.perform u []).1 := by
    rw [attemptUnit, attemptWith, act_get_bind, hw]
    simp only [act_get_bind, hu, hp, if_neg ha, hl]
    have answer : deviceAnswer u (s.perform u []).2 (s.perform u []).1 = .ok (s.perform u []).2 (s.perform u []).1 := by
      rw [deviceAnswer, if_neg fun h => hm h.1]
      rfl
    show ((set (s.perform u []).1 >>= fun _ => deviceAnswer u (s.perform u []).2 >>= fun x => pure (.done x [])) : Act Attempt) s = _
    rw [act_bind_ok (act_set ..), act_bind_ok answer]
    rfl
  rw [runUnit, act_bind_ok attempt]
  rfl

/-- A word has performed a unit: its answer stands in the word's log. -/
def State.logs (s : State) (r : UnitRes) : State := { s with me := { s.me with unitLog := s.me.unitLog ++ [r], unitPos := s.me.unitPos + 1 } }

/-- The first access of a word finds nothing settled before it. -/
structure Replay.Unused (r : Replay) : Prop where
  leaves : r.leaves = []
  leafPos : r.leafPos = 0
  watched : r.watched = 0
  watchPos : r.watchPos = 0

theorem Takes.follows_unused {k : Takes} {t : Strand} (h : k.follows t = true) : t.replay.Unused := by
  rw [Takes.follows_replay h]
  exact ⟨rfl, rfl, rfl, rfl⟩

/-- A page that no filter watches and that translates lets the word's first access pass, with its leaf settled. -/
theorem translateWatch_ok {s s' : State} {xk : XKind} {acc : Acc} {rd wr : Bool} {p : Piece} {l : Leaf} (hr : s.me.replay.Unused)
    (ht : translate { ctx := s.me.ctx, sysm := s.me.sysm, kind := xk, rd := rd, wr := wr } p.va s = .ok (.ok l) s')
    (hw : bitsOf l.entry 8 1 = 0) :
    ∃ r₁ r₂ : Replay, translatePieces xk acc rd wr [p] s = .ok [(p, l)] (s'.settledAs r₁)
      ∧ watchPieces acc [(p, l)] (s'.settledAs r₁) = .ok () (s'.settledAs r₂) := by
  obtain ⟨leaves, leafPos, watched, watchPos⟩ := hr
  have first : s.me.replay.leafAt p.va = none := by
    rw [Replay.leafAt, leaves]
    rfl
  let r₁ : Replay := { s.me.replay with leaves := [(p.va, l)], leafPos := 1, watched := 0, watchPos := 0 }
  have leaf : settledLeaf { ctx := s.me.ctx, sysm := s.me.sysm, kind := xk, rd := rd, wr := wr } p.va s = .ok (.ok l) (s'.settledAs r₁) := by
    rw [settledLeaf, act_get_bind]
    simp only [first, act_bind_ok ht, leaves, leafPos, watched, watchPos]
    rfl
  refine ⟨r₁, _, ?_, watchPieces_one hw ?_⟩
  · rw [translatePieces, act_get_bind, act_bind_ok leaf]
    rfl
  · exact Nat.lt_irrefl 0

section
variable {s : State} {xk : XKind} {acc : Acc} {va n : Nat} {act : UnitAct} {l : Leaf}

/-- A unit that nothing stands in the way of is performed after the strand's acquires have returned, and answers. -/
theorem performPieces_one (r : Replay) (k : BitVec 8) (first : s.me.unitLog[s.me.unitPos]? = none) (untraced : bitsOf l.entry 9 1 = 0)
    (hm : l.pa.space ≠ .mmio) (awake : (s.wakeIsland l.pa.space).isNone = true) (sound : uncorrOf s (s.unitAt xk acc va n act l) = none)
    (passes : lookupUnit s.mem (s.unitAt xk acc va n act l) = .pass []) (ha : act ≠ .look)
    (hl : landingTags (s.unitAt xk acc va n act l) [] = []) :
    performPieces xk acc k [({ va := va, offs := blockOffs va n, act := act }, l)] (s.settledAs r)
      = .ok [((s.acquiresAs r).perform (s.unitAt xk acc va n act l) []).2]
          (((s.acquiresAs r).perform (s.unitAt xk acc va n act l) []).1.logs ((s.acquiresAs r).perform (s.unitAt xk acc va n act l) []).2) := by
  have acq : modMe Strand.acquired (s.settledAs r) = .ok () (s.acquiresAs r) := by
    rw [← State.settledAs_acquires]
    rfl
  have run := runUnit_ok (s := s.acquiresAs r) (u := s.unitAt xk acc va n act l) hm
    (wakeIsland_congr (s := s) (t := s.acquiresAs r) rfl _ awake) sound passes ha hl
  rw [performPieces, performAs, act_get_bind]
  simp only [show (s.settledAs r).me.unitLog[(s.settledAs r).me.unitPos]? = none from first, act_bind_ok acq, untraced,
    show ¬ (0 : Nat) = 1 by decide, if_false]
  refine (act_bind_ok run).trans ?_
  rfl

/-- An access of one unit that nothing stands in the way of. -/
theorem strandAccess_open {s' : State} (fresh : s.me.replay.Unused) (k : BitVec 8) (h : Open s xk acc va n act l s') (ha : act ≠ .look)
    (hl : landingTags (s'.unitAt xk acc va n act l) [] = []) :
    ∃ r : Replay, strandAccess xk acc k [{ va := va, offs := blockOffs va n, act := act }] s
      = .ok [((s'.acquiresAs r).perform (s'.unitAt xk acc va n act l) []).2]
          (((s'.acquiresAs r).perform (s'.unitAt xk acc va n act l) []).1.logs
            ((s'.acquiresAs r).perform (s'.unitAt xk acc va n act l) []).2) := by
  obtain ⟨r₁, r₂, translated, watched⟩ := translateWatch_ok (acc := acc) (p := { va := va, offs := blockOffs va n, act := act }) fresh h.found
    h.unwatched
  refine ⟨r₂, ?_⟩
  rw [strandAccess]
  refine (act_bind_ok translated).trans ((act_bind_ok watched).trans ?_)
  exact performPieces_one r₂ k h.first h.untraced h.memory h.awake (Option.isNone_iff_eq_none.mp h.sound) h.passes ha hl

end

/-! ## What such a unit leaves -/

section
variable {s : State} {u : AccessUnit} {m : Mem} {res : UnitRes} {offs : List Nat}

/-- A unit of a strand that changes bytes at most leaves those of its effect, answers, and leaves the names as they were. -/
theorem State.perform_onlyStored (r : Replay) (ht : u.trace = none) (hl : landingTags u [] = []) (ha : applyAct s.mem u = (m, res, offs))
    (tags : m.tags = s.mem.tags) (descs : m.descs = s.mem.descs) (parked : m.parked = s.mem.parked) :
    let x := (s.acquiresAs r).perform u []
    let t := x.1.logs x.2
    onlyStored s t ∧ t.mem.bytes = m.bytes ∧ t.hub.names = s.hub.names ∧ x.2 = res := by
  have put (y : Mem) : (s.acquiresAs r).FrontStep { s.acquiresAs r with mem := y } := ⟨rfl, rfl, fun _ => rfl⟩
  intro x t
  have whole : x = _ := State.perform_eq (s.acquiresAs r) ht hl ha
  have front : (s.acquiresAs r).FrontStep x.1 := by
    rw [whole]
    exact (put _).trans (State.wakeWords_frontStep _ _)
  have mem : x.1.mem = { m with
      poison := (wholeWords u.pa.block offs).foldl (fun p w => FMap.set 0 p w 0) m.poison, waiters := x.1.mem.waiters } := by
    rw [whole, State.wakeWords_mem]
  have me := congrArg (fun y : Strand => { y with unitLog := x.1.me.unitLog ++ [x.2], unitPos := x.1.me.unitPos + 1 }) front.me
  refine ⟨⟨⟨_, _, _, _, me⟩, ?_, ?_, ?_, (congrArg State.cores front.rest :), (congrArg State.eng front.rest :),
    (congrArg State.pkg front.rest :), (congrArg State.agenda front.rest :), (congrArg State.time front.rest :)⟩, ?_,
    (congrArg (·.hub.names) front.rest :), congrArg Prod.snd whole⟩
  · exact (congrArg Mem.tags mem).trans tags
  · exact (congrArg Mem.descs mem).trans descs
  · exact (congrArg Mem.parked mem).trans parked
  · exact (congrArg Mem.bytes mem :)

/-- A number written over the bytes at a place. -/
theorem storedAt_of_setList {t : State} {l : Leaf} {va n x : Nat}
    (h : t.mem.bytes = FMap.setList Mem.byte0 s.mem.bytes (placeKey l va 0) (toLE n x)) : storedAt s t l va n x := fun k => by
  rw [h, FMap.get_setList_toLE]
  rfl

end

end Sys2Proof.Machine

/-!
PROOFS. The statement on fences, triggers, `tsync`, releases, acquires and `shrel` (O14).
-/

namespace Sys2Proof.Machine

/-- A word whose body ends at the next word. -/
theorem completes_of_body {i : Instr} {sw : Bool} {k : Takes} {body : Act Flow} {s t : State} (h : k.follows s.me = true)
    (hi : exec i s = issue i sw k body s) (hb : body s = .ok .next t) : completes i sw k s t := hi.trans (issue_ok h hb)

/-- The results of acquires change registers and what is outstanding, and nothing else of a strand. -/
theorem Strand.acquired_rest (t : Strand) : t.acquired = { t with
    stack := t.acquired.stack, vregs := t.acquired.vregs, vlive := t.acquired.vlive, parity := t.acquired.parity
    outstanding := t.acquired.outstanding } := by
  unfold Strand.acquired
  refine List.foldlRecOn (motive := fun u : Strand => u = { t with
    stack := u.stack, vregs := u.vregs, vlive := u.vlive, parity := u.parity, outstanding := u.outstanding }) _ _ rfl fun u hu r _ => ?_
  rw [Strand.deliver_rest, hu]

section
variable {sw : Bool} {r q : Reg} {c : BitVec 3} {s : State}

theorem completes_fence (k : BitVec 4) (h : Takes.plain.follows s.me = true) :
    completes (.fence sw c k) sw .plain s (s.afresh (decide (c ≠ 0) && (k.getLsbD 0 || k.getLsbD 2))) := by
  have loads : k &&& 0x5#4 ≠ 0 ↔ (k.getLsbD 0 || k.getLsbD 2) = true := by
    revert k
    decide
  refine completes_of_body h rfl ?_
  by_cases hc : c ≠ 0 ∧ k &&& 0x5#4 ≠ 0
  · rw [if_pos hc, State.afresh, if_pos (by rw [loads.mp hc.2, decide_eq_true hc.1]; rfl)]
    rfl
  · rw [if_neg hc, State.afresh, if_neg (by simpa only [Bool.and_eq_true, decide_eq_true_iff, ← loads] using hc)]
    rfl

/-- The checks of a word that reads registers at hand and has no long result. -/
theorem prologue_reads {rs : List Reg} (h : ∀ r ∈ rs, s.me.canRead r = true) : prologue false rs [] [] [] s = .ok () s :=
  prologue_ok h (by simp) (by simp) (by simp) (by simp)

/-- A word that acts on the object that a register names. -/
theorem completes_of_object {i : Instr} {f : Word → Act Flow} {t : State} (h : Takes.plain.follows s.me = true) (hr : s.me.canRead r = true)
    (hi : exec i s = issue i sw .plain (do
      prologue false [r] [] [] []
      let x ← readReg r
      f x) s)
    (hf : f (s.me.g r) s = .ok .next t) : completes i sw .plain s t := by
  refine hi.trans (issue_ok h ?_)
  rw [act_bind_ok (prologue_reads (by simpa using hr)), act_bind_ok (readReg_ok (Takes.follows_gs h) hr)]
  exact hf

/-- After an acquire the strand's streams read their elements afresh, but for scope strand (R343, R344). -/
theorem afterOrdered_acquire (s : State) (c : BitVec 3) : afterOrdered (orderWait 1 c.toNat) s = .ok () (s.afresh (decide (c ≠ 0))) := by
  have scope : c.toNat ≠ 0 ↔ c ≠ 0 := by simp [BitVec.toNat_eq]
  by_cases hc : c ≠ 0
  · rw [orderWait, if_pos ⟨scope.mpr hc, .inl rfl⟩, State.afresh, if_pos (by simpa using hc)]
    rfl
  · rw [orderWait, if_neg fun h => hc (scope.mp h.1), State.afresh, if_neg (by simpa using hc)]
    rfl

/-- The state after a release to the default object of a scope (R349): the strand's acquires have returned. -/
def State.releasedDefault (s : State) (scope : Nat) : State :=
  match s.me.launch with
  | some l =>
    let k := 2 ^ 40 * scope + s.scopeInstance scope
    s.acquires.setLaunch l fun x => { x with defaults := FMap.set 0 x.defaults k ((FMap.get 0 x.defaults k + 1) % 2 ^ 64) }
  | none => s.acquires

theorem releaseDefault_ok (s : State) (scope : Nat) : releaseDefault scope s = .ok () (s.releasedDefault scope) := by
  have launch : s.acquires.me.launch = s.me.launch := (congrArg Strand.launch s.me.acquired_rest :)
  have inst : s.acquires.scopeInstance scope = s.scopeInstance scope := by
    unfold State.scopeInstance State.acquires
    rw [s.me.acquired_rest]
    rfl
  rw [releaseDefault, act_bind_ok (modMe_ok _ _), act_modify]
  show EStateM.Result.ok _ (match s.acquires.me.launch with
    | some l => _
    | none => _) = _
  rw [launch, State.releasedDefault]
  cases s.me.launch with
  | none => rfl
  | some l =>
    dsimp only
    rw [← inst]
    rfl

theorem State.releasedDefault_rest (s : State) (scope : Nat) :
    s.releasedDefault scope = { s.acquires with hub := (s.releasedDefault scope).hub } := by
  unfold State.releasedDefault
  cases s.me.launch <;> rfl

variable (h : Takes.plain.follows s.me = true) (hr : s.me.canRead r = true)
include h hr

theorem completes_acq_default (h0 : s.me.g r = 0) : completes (.acq sw r c) sw .plain s (s.afresh (decide (c ≠ 0))) := by
  refine completes_of_object h hr rfl ?_
  rw [if_neg (not_not.mpr h0)]
  show (afterOrdered (orderWait 1 c.toNat) >>= fun _ => pure .next : Act Flow) s = _
  rw [act_bind_ok (afterOrdered_acquire s c)]
  rfl

/-- A release to a default object adds to it in the strand's launch, where it has one (R349). -/
theorem completes_rel_default (h0 : s.me.g r = 0) : completes (.rel sw r c) sw .plain s (s.releasedDefault c.toNat) := by
  refine completes_of_object h hr rfl ?_
  rw [if_pos h0, act_bind_ok (releaseDefault_ok s c.toNat)]
  rfl

end

/-- The state after `trig` (R358): a counted strand counts as triggered, at its launch once. -/
def State.afterTrig (s : State) : State :=
  { s.countTrigger s.me with me := { s.me with triggered := s.me.triggered || s.me.counted } }

theorem State.countTrigger_rest (s : State) (t : Strand) : s.countTrigger t = { s with hub := (s.countTrigger t).hub } := by
  unfold State.countTrigger
  split
  · split <;> rfl
  · rfl

theorem State.countTrigger_launch {s : State} {t : Strand} {l : Nat} (hl : t.launch = some l) (counted : t.counted = true)
    (first : t.triggered = false) : ((s.countTrigger t).launchOf l).untriggered = (s.launchOf l).untriggered - 1 := by
  rw [State.countTrigger, hl]
  dsimp only
  rw [if_pos ⟨counted, by rw [first]; rfl⟩, State.launchOf_setLaunch, if_pos rfl]

theorem State.countTrigger_not {s : State} {t : Strand} (h : t.counted = false ∨ t.triggered = true) : s.countTrigger t = s := by
  have not : ¬ (t.counted = true ∧ (!t.triggered) = true) := by
    rintro ⟨hc, ht⟩
    rcases h with h | h <;> simp_all
  unfold State.countTrigger
  split
  · exact if_neg not
  · rfl

theorem completes_trig (sw : Bool) {s : State} (h : Takes.plain.follows s.me = true) : completes (.trig sw) sw .plain s s.afterTrig := by
  have me : (s.countTrigger s.me).me = s.me := by rw [State.countTrigger_rest]
  have turned : (if s.me.counted then { s.me with triggered := true } else s.me : Strand) =
      { s.me with triggered := s.me.triggered || s.me.counted } := by
    cases s.me.counted
    · rw [Bool.or_false]
      rfl
    · rw [Bool.or_true]
      rfl
  have whole : ({ s.countTrigger s.me with me := if (s.countTrigger s.me).me.counted then
      { (s.countTrigger s.me).me with triggered := true } else (s.countTrigger s.me).me } : State) = s.afterTrig := by
    rw [me, turned]
    rfl
  refine completes_of_body h (rfl : execTrig sw s = _) ?_
  rw [← whole]
  rfl

/-- R359; the result that drops the lines is a long one (log 49). -/
theorem completes_tsync {sw : Bool} {r q : Reg} {s : State} (h : s.me.atHand .plain [r, q] [] = true) :
    completes (.tsync sw r q) sw .plain s
      (s.returns [] (.text (s.me.g r).toNat (Min.min (2 ^ 57) ((s.me.g r).toNat + (s.me.g q).toNat))) none) := by
  refine completes_of_body (Strand.atHand_iff.mp h).1 rfl ?_
  rw [act_bind_ok (prologue_atHand h), act_bind_ok (readReg_atHand h (by simp)), act_bind_ok (readReg_atHand h (by simp))]
  rfl

/-- R69. -/
theorem completes_shrel (sw b : Bool) {s : State} (h : Takes.plain.follows s.me = true) :
    completes (.shrel sw b) sw .plain s (State.freeSnaps { s with me := s.me.setShape b none }) :=
  completes_of_body h (rfl : execShrel sw b s = _) rfl

/-! ## Sync objects in memory (R352) -/

section
variable {sw : Bool} {r : Reg} {c : BitVec 3} {s s' : State} {l : Leaf}

/-- An atomic add of a doubleword answers nothing that its word uses, and leaves the sum. -/
theorem State.perform_add (k : Replay) {u : AccessUnit} {va : Nat} (ht : u.trace = none) (hp : u.pa = l.pa)
    (ha : u.act = .amo (va % 64) 0 1) :
    let x := (s.acquiresAs k).perform u []
    onlyStored s (x.1.logs x.2) ∧ storedAt s (x.1.logs x.2) l va 8 ((s.numberAt l va 8 + 1) % 2 ^ 64) := by
  have sum : (amoNew 0 (BitVec.ofNat 64 (ofLE (s.mem.bytesAt (64 * u.pa.block + va % 64) 8))) 1).toNat
      = (s.numberAt l va 8 + 1) % 2 ^ 64 := by
    rw [hp, ← State.numberAt_eq]
    simp [amoNew]
  have effect : applyAct s.mem u = (s.mem.putAt u.pa.block (withOffsets (va % 64) (toLE 8 ((s.numberAt l va 8 + 1) % 2 ^ 64))),
      { bytes := toLE 8 (ofLE (s.mem.bytesAt (64 * u.pa.block + va % 64) 8)), desc := Mem.desc0, flags := 0 },
      (List.range 8).map (va % 64 + ·)) := by
    unfold applyAct
    rw [ha, ← sum]
    rfl
  intro x
  obtain ⟨only, bytes, -, -⟩ := State.perform_onlyStored k ht (by rw [landingTags, ha]) effect rfl rfl rfl
  refine ⟨only, storedAt_of_setList ?_⟩
  rw [bytes, Mem.putAt_withOffsets, hp]
  rfl

/-- A read answers and leaves memory as it was. -/
theorem State.perform_read (k : Replay) {u : AccessUnit} (ht : u.trace = none) (ha : u.act = .read) :
    let x := (s.acquiresAs k).perform u []
    onlyStored s (x.1.logs x.2) ∧ (x.1.logs x.2).mem.bytes = s.mem.bytes := by
  have effect : applyAct s.mem u = (s.mem,
      { bytes := u.offs.map fun o => FMap.get Mem.byte0 s.mem.bytes (64 * u.pa.block + o), desc := Mem.desc0, flags := 0 }, []) := by
    unfold applyAct
    rw [ha]
  intro x
  obtain ⟨only, bytes, -, -⟩ := State.perform_onlyStored k ht (by rw [landingTags, ha]) effect rfl rfl rfl
  exact ⟨only, bytes⟩

/-- A doubleword's address passes the check of its alignment. -/
theorem checkAlign_ok {va n : Nat} (acc : Acc) (h : va % n = 0) : checkAlign va n acc s = .ok () s := by
  rw [checkAlign, if_neg (not_not.mpr h)]
  rfl

variable (h : Takes.plain.follows s.me = true) (hr : s.me.canRead r = true) (align : (s.me.g r).toNat % 8 = 0) (h0 : s.me.g r ≠ 0)
include h hr align h0

theorem completes_rel (free : Open s .atomic .atomic (s.me.g r).toNat 8 (.amo ((s.me.g r).toNat % 64) 0 1) l s') :
    ∃ t : State, completes (.rel sw r c) sw .plain s t ∧ onlyStored s' t
      ∧ storedAt s' t l (s.me.g r).toNat 8 ((s'.numberAt l (s.me.g r).toNat 8 + 1) % 2 ^ 64) := by
  obtain ⟨k, access⟩ := strandAccess_open (Takes.follows_unused h) 1 free (by simp) rfl
  obtain ⟨only, sum⟩ := State.perform_add (s := s') (l := l) k (va := (s.me.g r).toNat)
    (u := s'.unitAt .atomic .atomic (s.me.g r).toNat 8 (.amo ((s.me.g r).toNat % 64) 0 1) l) rfl rfl rfl
  refine ⟨_, completes_of_object h hr rfl ?_, only, sum⟩
  rw [if_neg h0, atomicAccess]
  refine act_bind_ok ((act_bind_ok (checkAlign_ok .atomic align)).trans (act_bind_ok access))

theorem completes_acq (free : Open s .atomic .atomic (s.me.g r).toNat 8 .read l s')
    (sound : uncorrOf s' (s'.unitAt .atomic .load (s.me.g r).toNat 8 .read l) = none)
    (passes : lookupUnit s'.mem (s'.unitAt .atomic .load (s.me.g r).toNat 8 .read l) = .pass []) :
    ∃ t : State, completes (.acq sw r c) sw .plain s (t.afresh (decide (c ≠ 0))) ∧ onlyStored s' t ∧ t.mem.bytes = s'.mem.bytes := by
  let piece : Piece := { va := (s.me.g r).toNat, offs := blockOffs (s.me.g r).toNat 8, act := .read }
  obtain ⟨k₁, k₂, translated, watched⟩ := translateWatch_ok (acc := .atomic) (p := piece) (Takes.follows_unused h) free.found free.unwatched
  have performed := performPieces_one k₂ 0 free.first free.untraced free.memory free.awake sound passes (by simp) rfl
  obtain ⟨only, bytes⟩ := State.perform_read (s := s') k₂ (u := s'.unitAt .atomic .load (s.me.g r).toNat 8 .read l) rfl rfl
  refine ⟨_, completes_of_object h hr rfl ?_, only, bytes⟩
  rw [if_pos h0, act_bind_ok (checkAlign_ok .atomic align)]
  refine (act_bind_ok translated).trans ((act_bind_ok watched).trans ((act_bind_ok performed).trans ?_))
  show (afterOrdered (orderWait 1 c.toNat) >>= fun _ => pure .next : Act Flow) _ = _
  rw [act_bind_ok (afterOrdered_acquire _ c)]
  rfl

end

/-- Settles O14: the words that reach no memory, then releases and acquires of an object that nothing stands in the way of. -/
theorem orderingWords : Obligations.OrderingWords := by
  unfold Obligations.OrderingWords
  refine ⟨fun sw c k r q b s h => ⟨completes_fence k h, completes_acq_default h, fun hr h0 alone => ?alone, fun hr h0 _ => ?launch, ?trig,
    completes_tsync, ?shrel⟩, fun sw r c s s' l h hr align h0 => ⟨completes_rel h hr align h0, completes_acq h hr align h0⟩⟩
  case alone =>
    have done := completes_rel_default (sw := sw) (c := c) h hr h0
    rwa [State.releasedDefault, alone] at done
  case launch =>
    refine ⟨_, completes_rel_default h hr h0, ?_⟩
    rw [State.releasedDefault_rest]
    exact ⟨rfl, rfl, rfl⟩
  case trig =>
    refine ⟨_, completes_trig sw h, rfl, fun l hl counted first => State.countTrigger_launch hl counted first, fun not => ?_, ?_⟩
    · rw [State.afterTrig, State.countTrigger_not not]
    · rw [State.afterTrig, State.countTrigger_rest]
  case shrel =>
    refine ⟨_, completes_shrel sw b h, ?_, rfl, rfl⟩
    cases b <;> rfl

end Sys2Proof.Machine

/-!
PROOFS. What a word's record of what it has settled does not change: a translation, and the end of the word (R183, R32).
-/

namespace Sys2Proof.Machine

/-! ## Translations do not read what the word has settled -/

/-- The same end of an action, in the state in which a word has settled something. -/
def endAs {α : Type} (r : Replay) : EStateM.Result Exn State α → EStateM.Result Exn State α
  | .ok x t => .ok x (t.settledAs r)
  | .error e t => .error e (t.settledAs r)

/-- An action that neither reads nor writes what the current strand's word has settled. -/
structure Blind {α : Type} (a : Act α) : Prop where
  blind (s : State) (r : Replay) : a (s.settledAs r) = endAs r (a s)

section
variable {α β : Type}

theorem blind_pure (x : α) : Blind (pure x : Act α) := ⟨fun _ _ => rfl⟩

theorem Blind.bind {a : Act α} {f : α → Act β} (ha : Blind a) (hf : ∀ x, Blind (f x)) : Blind (a >>= f) where
  blind s r := by
    have first := ha.blind s r
    cases h : a s with
    | ok x t =>
      rw [h] at first
      rw [act_bind_ok h, act_bind_ok first]
      exact (hf x).blind t r
    | error e t =>
      rw [h] at first
      rw [act_bind_error h, act_bind_error first]
      rfl

/-- What an action does next may depend on the state it finds, but not on what the word has settled. -/
theorem blind_get_bind {f : State → Act β} (same : ∀ s r, f (s.settledAs r) = f s) (hf : ∀ s, Blind (f s)) :
    Blind ((get : Act State) >>= f) where
  blind s r := by
    rw [act_get_bind, act_get_bind, same]
    exact (hf s).blind s r

theorem blind_ite {p : Prop} [Decidable p] {a b : Act α} (ha : Blind a) (hb : Blind b) : Blind (if p then a else b) := by
  split
  · exact ha
  · exact hb

theorem Blind.forM {xs : List α} {f : α → Act PUnit} (h : ∀ x, Blind (f x)) : Blind (xs.forM f) := by
  induction xs with
  | nil => exact blind_pure _
  | cons x xs ih => exact (h x).bind fun _ => ih

end

theorem blind_drawBit : Blind drawBit := ⟨fun _ _ => rfl⟩

theorem blind_cacheEntry (x : TlbEntry) : Blind (cacheEntry x) where
  blind s r := by
    unfold cacheEntry
    rw [act_modify, act_modify, endAs, apply_ite (State.settledAs · r)]
    refine congrArg _ (ite_congr rfl (fun _ => rfl) fun _ => ?_)
    have tlb : (s.settledAs r).mem.tlb = s.mem.tlb := rfl
    have free : (s.settledAs r).free = s.free := rfl
    rw [tlb, free]
    split <;> rfl

theorem blind_readPte (ctx va level : Nat) (ply : Option Nat) (fresh : Bool) (a : Nat) : Blind (readPte ctx va level ply fresh a) :=
  blind_get_bind (fun _ _ => rfl) fun s => by
    dsimp only
    split
    · exact blind_pure _
    · exact blind_drawBit.bind fun _ => blind_ite (blind_pure _) (blind_pure _)

theorem blind_notePointer (ctx va level : Nat) (ply : Option Nat) (a e : Nat) : Blind (notePointer ctx va level ply a e) :=
  blind_get_bind (fun _ _ => rfl) fun s => by
    cases ply with
    | none => exact blind_pure _
    | some p => exact blind_ite (blind_pure _) (blind_cacheEntry _)

theorem blind_walkFrom (ctx va : Nat) (ply : Option Nat) (fresh : Bool) (level tf : Nat) : Blind (walkFrom ctx va ply fresh level tf) := by
  have leaf (es : List Nat) (chip : Nat) (w : Walk) (l : Nat) :
      Blind (if groupOk chip es then pure w else pure (.bad faultFORMAT l) : Act Walk) := blind_ite (blind_pure _) (blind_pure _)
  induction level generalizing tf with
  | zero =>
    unfold walkFrom
    refine (blind_readPte ..).bind fun e => blind_get_bind (fun _ _ => rfl) fun s => ?_
    exact blind_ite (blind_pure _) (blind_ite (blind_pure _) (blind_ite (blind_pure _) (blind_ite (leaf ..) (blind_pure _))))
  | succ level ih =>
    unfold walkFrom
    refine (blind_readPte ..).bind fun e => blind_get_bind (fun _ _ => rfl) fun s => ?_
    refine blind_ite (blind_pure _) (blind_ite (blind_ite (blind_pure _) ?_) (blind_ite (blind_pure _) (blind_ite (leaf ..) (blind_pure _))))
    cases fresh
    · exact (blind_notePointer ..).bind fun _ => ih _
    · exact ih _

theorem blind_setAD (q : XReq) (va e level ad : Nat) : Blind (setAD q va e level ad) where
  blind s r := by
    have caches (x : TlbId → TlbEntry) : Blind ((q.path s.me.core).1.forM fun c => cacheEntry (x c)) := Blind.forM fun c => blind_cacheEntry _
    have core : (s.settledAs r).me.core = s.me.core := rfl
    have held : (s.settledAs r).hbmNat ad 8 = s.hbmNat ad 8 := rfl
    unfold setAD
    rw [act_get_bind, act_get_bind]
    dsimp only
    rw [core, held]
    generalize s.hbmNat ad 8 ||| 2048 ||| (if q.wr then 4096 else 0) = e'
    split
    · exact (caches _).blind (s.putHbm ad 8 e') r
    · exact (caches _).blind s r

theorem blind_tryWalk (q : XReq) (va : Nat) (fresh : Bool) : Blind (tryWalk q va fresh) := blind_get_bind (fun _ _ => rfl) fun s =>
  (blind_walkFrom ..).bind fun w => by
    cases w <;> exact blind_pure _

/-- A walk that is tried finds the same leaf. -/
theorem blind_lookupLeaf (q : XReq) (va : Nat) : Blind (lookupLeaf q va) := by
  have walked : Blind (do
      let (w, k) ← tryWalk q va false
      pure (w, k, false) : Act (Walk × Nat × Bool)) := (blind_tryWalk ..).bind fun _ => blind_pure _
  refine blind_get_bind (fun s r => ?_) fun s => ?_
  · have tlb : (s.settledAs r).tlbLeaf q va = s.tlbLeaf q va := rfl
    have fault (e level : Nat) : leafFault (s.settledAs r) q e level = leafFault s q e level := rfl
    simp only [tlb, fault, (blind_tryWalk q va true).blind s r]
    cases tryWalk q va true s <;> rfl
  · dsimp only
    split
    · exact blind_ite (blind_pure _) (blind_drawBit.bind fun _ => blind_ite (blind_pure _) walked)
    · exact walked

theorem blind_peerAnswer (q : XReq) (l : Leaf) (va : Nat) : Blind (peerAnswer q l va) where
  blind s r := by
    unfold peerAnswer
    rw [act_get_bind, act_get_bind]
    cases l.pa.space with
    | peer chip ctx => exact (blind_ite (blind_pure _) (blind_pure _)).blind { s with free := s.free + 1 } r
    | _ => rfl

theorem blind_translate (q : XReq) (va : Nat) : Blind (translate q va) := by
  have answer (c : Bool) (k e level own ad : Nat) : Blind (
      if k ≠ 0 then pure (.fail k level false)
      else do
        let s ← get
        if c && s.hbmNat own 8 % 2 ^ 11 == e % 2 ^ 11 then setAD q va e level ad
        peerAnswer q { entry := e, level := level, pa := leafAddr s q.ctx va e level } va : Act XRes) := by
    refine blind_ite (blind_pure _) (blind_get_bind (fun _ _ => rfl) fun s => ?_)
    exact blind_ite ((blind_setAD ..).bind fun _ => blind_peerAnswer ..) (blind_peerAnswer ..)
  unfold translate
  refine blind_ite (blind_pure _) ((blind_lookupLeaf q va).bind fun ⟨w, k, cached⟩ => ?_)
  refine blind_ite ((blind_tryWalk ..).bind fun ⟨w, k⟩ => ?_) ((blind_pure _).bind fun ⟨w, k⟩ => ?_)
  all_goals
    cases w with
    | bad kind level => exact blind_pure _
    | leaf e level own ad => exact answer ..

/-! ## The end of a word does not read what it has settled -/

theorem Strand.countWord_withReplay (t : Strand) (r : Replay) (b : Bool) : (t.withReplay r).countWord b = (t.countWord b).withReplay r := by
  unfold Strand.countWord
  dsimp only
  rw [apply_ite (Strand.withReplay · r), apply_ite (Strand.withReplay · r)]
  rfl

theorem Strand.spend_withReplay (t : Strand) (r : Replay) (n : Nat) : (t.withReplay r).spend n = (t.spend n).withReplay r := by
  unfold Strand.spend
  rw [apply_ite (Strand.withReplay · r)]
  rfl

/-- A strand after `n` cycles of its core: it spends them, is parked for them, and may be tried again where it passed or waited at issue
(R103, R162, R165, R168). -/
def Strand.parkedFor (n : Nat) (t : Strand) : Strand := if t.wait.parks then { t with parkedCycles := t.parkedCycles + n } else t
def Strand.triedAgain (t : Strand) : Strand :=
  if t.wait = .passed ∨ t.wait = .issue then { t with wait := .none }
  else if t.wait = .passedMarker then { t with wait := .marker }
  else t
def Strand.afterCycles (core n : Nat) (t : Strand) : Strand :=
  match t.place with
  | .slot c _ => if c = core then ((t.spend n).parkedFor n).triedAgain else t
  | _ => t

theorem Strand.afterCycles_withReplay (t : Strand) (r : Replay) (core n : Nat) :
    (t.withReplay r).afterCycles core n = (t.afterCycles core n).withReplay r := by
  have parked (u : Strand) : (u.withReplay r).parkedFor n = (u.parkedFor n).withReplay r := by
    unfold Strand.parkedFor
    rw [apply_ite (Strand.withReplay · r)]
    rfl
  have again (u : Strand) : (u.withReplay r).triedAgain = u.triedAgain.withReplay r := by
    unfold Strand.triedAgain
    rw [apply_ite (Strand.withReplay · r), apply_ite (Strand.withReplay · r)]
    rfl
  unfold Strand.afterCycles
  rw [show (t.withReplay r).place = t.place from rfl, Strand.spend_withReplay, parked, again]
  split
  · rw [apply_ite (Strand.withReplay · r)]
  · rfl

/-- Whether the strand in a slot stays the greedy one of its core (R167). -/
def State.staysGreedy (s : State) (core slot : Nat) : Bool :=
  match s.strandAt core slot with
  | some t => s.eligible t
  | none => false

theorem State.staysGreedy_settledAs (s : State) (r : Replay) (core slot : Nat) :
    (s.settledAs r).staysGreedy core slot = s.staysGreedy core slot := by
  unfold State.staysGreedy State.strandAt State.all
  cases h : s.me.inSlot core slot
  · have here (t : Strand) (ht : t.inSlot core slot = false) : (t :: s.strands).find? (fun t => t.inSlot core slot) =
        s.strands.find? fun t => t.inSlot core slot := List.find?_cons_of_neg (p := fun t : Strand => t.inSlot core slot) (by simp [ht])
    rw [here s.me h, show (s.settledAs r).me :: (s.settledAs r).strands = s.me.withReplay r :: s.strands from rfl,
      here (s.me.withReplay r) h]
    rfl
  · have here (t : Strand) (ht : t.inSlot core slot = true) : (t :: s.strands).find? (fun t => t.inSlot core slot) = some t :=
      List.find?_cons_of_pos (p := fun t : Strand => t.inSlot core slot) ht
    rw [here s.me h, show (s.settledAs r).me :: (s.settledAs r).strands = s.me.withReplay r :: s.strands from rfl,
      here (s.me.withReplay r) h]
    rfl

theorem State.cycles_eq (s : State) (core n : Nat) (issued : Bool) : s.cycles core n issued =
    { (s.mapAll (Strand.afterCycles core n)).setCore core fun c =>
        if issued then { c with sissue := c.sissue + 1, greedy := c.greedy.filter (s.staysGreedy core) }
        else { c with sidle := c.sidle + BitVec.ofNat 64 n, greedy := c.greedy.filter (s.staysGreedy core) } with
      time := s.time + 4 * n } := rfl

theorem State.cycles_settledAs (s : State) (r : Replay) (core n : Nat) (issued : Bool) :
    (s.settledAs r).cycles core n issued = (s.cycles core n issued).settledAs r := by
  have greedy : (s.settledAs r).staysGreedy core = s.staysGreedy core := funext fun x => State.staysGreedy_settledAs s r core x
  have all : (s.settledAs r).mapAll (Strand.afterCycles core n) = (s.mapAll (Strand.afterCycles core n)).settledAs r :=
    congrArg (fun t => { s.mapAll (Strand.afterCycles core n) with me := t }) (Strand.afterCycles_withReplay ..)
  rw [State.cycles_eq, State.cycles_eq, greedy, all]
  rfl

/-- The end of a word forgets what it has settled. -/
theorem completeWord_settledAs (sw : Bool) (s t : State) (r : Replay) :
    completeWord sw .plain .next s (t.settledAs r) = completeWord sw .plain .next s t := by
  have count : (t.settledAs r).me.countWord false = (t.me.countWord false).withReplay r := Strand.countWord_withReplay ..
  unfold completeWord
  cases s.me.reissue
  · simp only [Bool.false_eq_true, if_false, State.cycles_settledAs, reduceCtorEq, decide_false, count]
    rfl
  · rfl
/-- A word whose body ends at the next word, whatever it has settled by then. -/
theorem completes_of_settled {i : Instr} {sw : Bool} {body : Act Flow} {s t : State} (r : Replay) (h : Takes.plain.follows s.me = true)
    (hi : exec i s = issue i sw .plain body s) (hb : body s = .ok .next (t.settledAs r)) : completes i sw .plain s t :=
  (completes_of_body h hi hb).trans (congrArg _ (completeWord_settledAs ..))

end Sys2Proof.Machine

/-!
PROOFS. The statement on `ebind`, `shbind` and `shpub` (O16).
-/

namespace Sys2Proof.Machine

/-! ## Resolved names -/

/-- What a word has settled once a name's lookup has found an entry. -/
def Replay.resolvedTo (r : Replay) (s : State) (st k : Nat) : Replay :=
  { r with answers := [(st, k + 1, (s.nameEntry k).addr, (s.nameEntry k).version)], answerPos := r.answerPos + 1 }

theorem resolveHome_found {s : State} {n : Name} {st k : Nat} (hr : s.resolve s.me.part n = .found st k) (ha : s.me.replay.answers = []) :
    resolveHome n s = .ok { st := st, counter := some k, addr := (s.nameEntry k).addr, version := (s.nameEntry k).version }
      (s.settledAs (s.me.replay.resolvedTo s st k)) := by
  rw [resolveHome, act_bind_ok (settled_first (x := (st, k + 1, (s.nameEntry k).addr, (s.nameEntry k).version)) ha ?found)]
  case found =>
    rw [act_get_bind, hr]
    rfl
  rfl

theorem Strand.atHand_answers {t : Strand} {k : Takes} {rs ws : List Reg} (h : t.atHand k rs ws = true) : t.replay.answers = [] := by
  rw [Takes.follows_replay (Strand.atHand_iff.mp h).1]
  rfl

/-! ## `ebind` (R351) -/

/-- The state in which a launch has one more binding, which holds its sync name (R350, R351). -/
def State.bound (s : State) (l : Nat) (base len : Word) (name : Name) : State :=
  (s.setName (nameCounter name) fun x => { x with refcount := x.refcount + 1 }).addBinding l base len name

theorem State.bound_nameEntry (s : State) (l : Nat) (base len : Word) (n : Name) : (s.bound l base len n).nameEntry (nameCounter n) =
    { s.nameEntry (nameCounter n) with refcount := (s.nameEntry (nameCounter n)).refcount + 1 } :=
  (State.nameEntry_setName s _ _ fun x => { x with refcount := x.refcount + 1 }).trans (if_pos rfl)

/-- A sound region for a LIVE sync name of this chip is bound, unless it overlaps another. -/
theorem completes_ebind {sw : Bool} {r n t : Reg} {k : Nat} {s : State} (h : s.me.atHand .plain [r, r + 1, n, n + 1] [t] = true)
    (launch : s.me.launch = some k) (live : s.standing (s.me.pair n) .live) (cls : nameClass (s.me.pair n) = 4)
    (region : ¬ ((s.me.g r).toNat % 4096 ≠ 0 ∨ s.me.g (r + 1) = 0 ∨ (s.me.g (r + 1)).toNat % 4096 ≠ 0
      ∨ 2 ^ 57 < (s.me.g r).toNat + (s.me.g (r + 1)).toNat)) (room : ¬ 256 ≤ (s.launchOf k).bindings.length) {overlap : Bool}
    (any : ((s.launchOf k).bindings.any fun b => b.overlaps (s.me.g r).toNat (s.me.g (r + 1)).toNat) = overlap)
    (count : overlap = false → ¬ 65535 ≤ (s.nameEntry (nameCounter (s.me.pair n))).refcount) :
    completes (.ebind sw r n t) sw .plain s
      (if overlap then s.returns [(t, 13)] .none (some (nameCounter (s.me.pair n)))
        else (s.bound k (s.me.g r) (s.me.g (r + 1)) (s.me.pair n)).returns [(t, 0)] .none (some (nameCounter (s.me.pair n)))) := by
  have launch' (x : Replay) : (s.settledAs x).me.launch = some k := launch
  have bindings (x : Replay) : (s.settledAs x).launchOf k = s.launchOf k := rfl
  have entry (x : Replay) : (s.settledAs x).nameEntry (nameCounter (s.me.pair n)) = s.nameEntry (nameCounter (s.me.pair n)) := rfl
  refine completes_of_settled (s.me.replay.resolvedTo s stLIVE (nameCounter (s.me.pair n))) (Strand.atHand_iff.mp h).1 rfl ?_
  rw [act_bind_ok (prologue_atHand h), act_bind_ok (readReg_atHand h (by simp)), act_bind_ok (readReg_atHand h (by simp)),
    act_bind_ok (readPair_atHand h (by simp) (by simp)), act_bind_ok (resolveHome_found live.resolve_live (Strand.atHand_answers h)),
    act_get_bind]
  simp only [launch', bindings, entry, cls, if_neg region, if_neg room, any, ne_eq, not_true_eq_false, if_false]
  cases overlap
  · rw [if_neg Bool.false_ne_true, act_pure_bind, if_neg (by simpa using count rfl)]
    rfl
  · rfl

theorem Strand.dropAhead_withReplay (t : Strand) (r : Replay) : (t.withReplay r).dropAhead = t.dropAhead.withReplay r := by
  refine List.foldl_hom (fun t : Strand => t.withReplay r) fun t i => ?_
  rw [apply_ite (Strand.withReplay · r)]
  rfl

/-! ## `shbind` and `shpub` (R68, R70) -/

/-- A word that looks up the name in a pair and finds an entry. -/
theorem completes_of_lookup {i : Instr} {sw : Bool} {a d : Reg} {s t : State} {f : Name → Resolved → Act Flow} {st k : Nat} {r : Replay}
    (h : s.me.atHand .plain [a, a + 1] [d] = true) (hr : s.resolve s.me.part (s.me.pair a) = .found st k)
    (hi : exec i s = issue i sw .plain (do
      prologue true [a, a + 1] [d] [] []
      let n ← readPair a
      let x ← resolveHome n
      f n x) s)
    (hf : f (s.me.pair a) { st := st, counter := some k, addr := (s.nameEntry k).addr, version := (s.nameEntry k).version }
      (s.settledAs (s.me.replay.resolvedTo s st k)) = .ok .next (t.settledAs r)) : completes i sw .plain s t := by
  refine completes_of_settled r (Strand.atHand_iff.mp h).1 hi ?_
  rw [act_bind_ok (prologue_atHand h), act_bind_ok (readPair_atHand h (by simp) (by simp)),
    act_bind_ok (resolveHome_found hr (Strand.atHand_answers h))]
  exact hf

theorem completes_of_lookup_body {i : Instr} {sw : Bool} {a d : Reg} {s t : State} {f : Name → Resolved → Act Flow} {st k : Nat}
    (h : s.me.atHand .plain [a, a + 1] [d] = true) (hr : s.resolve s.me.part (s.me.pair a) = .found st k)
    (hi : exec i s = issue i sw .plain (do
      prologue true [a, a + 1] [d] [] []
      let n ← readPair a
      let x ← resolveHome n
      f n x) s)
    (hf : f (s.me.pair a) { st := st, counter := some k, addr := (s.nameEntry k).addr, version := (s.nameEntry k).version }
      (s.settledAs (s.me.replay.resolvedTo s st k)) = .ok .next t) : completes i sw .plain s t :=
  completes_of_lookup (r := t.me.replay) h hr hi hf

/-- Nothing stands in the way of an access, whatever its word has settled. -/
theorem Open.settledAs {s s' : State} {xk : XKind} {acc : Acc} {va n : Nat} {act : UnitAct} {l : Leaf} (h : Open s xk acc va n act l s')
    (r : Replay) : Open (s.settledAs r) xk acc va n act l (s'.settledAs r) where
  found := ((blind_translate _ va).blind s r).trans (congrArg _ h.found)
  unwatched := h.unwatched
  untraced := h.untraced
  memory := h.memory
  first := h.first
  awake := Option.isNone_iff_eq_none.mpr (wakeIsland_congr (s := s') (t := s'.settledAs r) rfl _ h.awake)
  sound := h.sound
  passes := h.passes

theorem storeOne_of_access {xk : XKind} {va n x : Nat} {s t : State} {rs : List UnitRes}
    (h : strandAccess xk .store 0 [{ va := va, offs := blockOffs va n, act := .write (withOffsets (va % 64) (toLE n x)) }] s = .ok rs t) :
    storeOne xk va n x s = .ok () t := act_bind_ok h

/-- A store of a number leaves it at its place. -/
theorem State.perform_store {s : State} {l : Leaf} {va n x : Nat} (k : Replay) {u : AccessUnit} (ht : u.trace = none) (hp : u.pa = l.pa)
    (ha : u.act = .write (withOffsets (va % 64) (toLE n x))) :
    let y := (s.acquiresAs k).perform u []
    storedAt s (y.1.logs y.2) l va n x ∧ (y.1.logs y.2).hub.names = s.hub.names := by
  have effect : applyAct s.mem u = (s.mem.putAt u.pa.block (withOffsets (va % 64) (toLE n x)),
      { bytes := [], desc := Mem.desc0, flags := 0 }, (withOffsets (va % 64) (toLE n x)).map (·.1)) := by
    unfold applyAct
    rw [ha]
  intro y
  obtain ⟨-, bytes, names, -⟩ := State.perform_onlyStored k ht (by rw [landingTags, ha]) effect rfl rfl rfl
  refine ⟨storedAt_of_setList ?_, names⟩
  rw [bytes, Mem.putAt_withOffsets, hp]
  rfl

section
variable {sw : Bool} {a d : Reg} {s : State} (h : s.me.atHand .plain [a, a + 1] [d] = true)
include h

theorem completes_shbind_dying (b : Bool) (dying : s.standing (s.me.pair a) .dying) :
    completes (.shbind sw a d b) sw .plain s (s.returns [(d, 1)] .none (some (nameCounter (s.me.pair a)))) :=
  completes_of_lookup h dying.resolve_dying rfl rfl

theorem completes_shpub_dying (dying : s.standing (s.me.pair a) .dying) :
    completes (.shpub sw a d) sw .plain s (s.returns [(d, 1)] .none (some (nameCounter (s.me.pair a)))) :=
  completes_of_lookup h dying.resolve_dying rfl rfl

variable (live : s.standing (s.me.pair a) .live) (cls : nameClass (s.me.pair a) = 3)
include live cls

theorem completes_shbind_found (b : Bool) {i : Nat}
    (found : s.findSnap s.me.ctx (s.me.pair a) (s.nameEntry (nameCounter (s.me.pair a))).version = some i) :
    completes (.shbind sw a d b) sw .plain s ((State.freeSnaps { s with me := s.me.dropAhead.setShape b (some i) }).returns [(d, 0)] .none
      (some (nameCounter (s.me.pair a)))) := by
  have found' (x : Replay) : (s.settledAs x).findSnap (s.settledAs x).me.ctx (s.me.pair a) (s.nameEntry (nameCounter (s.me.pair a))).version
      = some i := found
  have shape (x : Replay) : ({ s with me := (s.me.withReplay x).dropAhead.setShape b (some i) } : State)
      = State.settledAs { s with me := s.me.dropAhead.setShape b (some i) } x := by
    rw [Strand.dropAhead_withReplay]
    cases b <;> rfl
  refine completes_of_lookup (r := s.me.replay.resolvedTo s stLIVE (nameCounter (s.me.pair a))) h live.resolve_live rfl ?_
  rw [act_get_bind]
  simp only [cls, ne_eq, not_true_eq_false, if_false, found']
  rw [act_bind_ok (modMe_ok _ _), act_bind_ok (modMe_ok _ _)]
  refine (congrArg _ (shape _)).trans ?_
  rfl

/-- A strand's word has stored the next version of a shape's record, which its entry then holds (R70). -/
theorem completes_shpub {l : Leaf} {s' : State} (free : Open s (.scalar 8) .store ((s.nameEntry (nameCounter (s.me.pair a))).addr.toNat + 0x20) 8
      (.write (withOffsets (((s.nameEntry (nameCounter (s.me.pair a))).addr.toNat + 0x20) % 64)
        (toLE 8 ((s.nameEntry (nameCounter (s.me.pair a))).version + 1).toNat))) l s') :
    ∃ t : State, completes (.shpub sw a d) sw .plain s ((t.setName (nameCounter (s.me.pair a)) NameEntry.bump).returns [(d, 0)] .none
        (some (nameCounter (s.me.pair a))))
      ∧ t.hub.names = s'.hub.names
      ∧ storedAt s' t l ((s.nameEntry (nameCounter (s.me.pair a))).addr.toNat + 0x20) 8
          ((s.nameEntry (nameCounter (s.me.pair a))).version + 1).toNat := by
  have unused : (s.settledAs (s.me.replay.resolvedTo s stLIVE (nameCounter (s.me.pair a)))).me.replay.Unused :=
    have old := Takes.follows_unused (Strand.atHand_iff.mp h).1
    ⟨old.leaves, old.leafPos, old.watched, old.watchPos⟩
  have free' := free.settledAs (s.me.replay.resolvedTo s stLIVE (nameCounter (s.me.pair a)))
  obtain ⟨r, access⟩ := strandAccess_open unused 0 free' (by simp) rfl
  obtain ⟨stored, names⟩ := State.perform_store (l := l) (va := (s.nameEntry (nameCounter (s.me.pair a))).addr.toNat + 0x20)
    (s := s'.settledAs (s.me.replay.resolvedTo s stLIVE (nameCounter (s.me.pair a)))) r
    (u := s'.unitAt (.scalar 8) .store ((s.nameEntry (nameCounter (s.me.pair a))).addr.toNat + 0x20) 8 _ l) rfl rfl rfl
  refine ⟨_, completes_of_lookup_body h live.resolve_live rfl ?_, names, stored⟩
  simp only [cls, ne_eq, not_true_eq_false, if_false]
  rw [act_bind_ok (storeOne_of_access access), act_bind_ok (act_modify ..), act_bind_ok (statusFor_ok ..), act_pure]
  rfl

end

/-- Settles O16: a region bound or not, a DYING name, a snapshot that stands, and the store of the next version. -/
theorem regionsAndShapes : Obligations.RegionsAndShapes := by
  unfold Obligations.RegionsAndShapes
  refine ⟨fun sw r n t k s h launch live cls base some_ size fits room => ?bind, fun sw a d b s h => ⟨fun dying =>
    ⟨completes_shbind_dying h b dying, completes_shpub_dying h dying⟩, fun i live cls found => ?found,
    fun l s' live cls align free same => ?publish⟩⟩
  case bind =>
    have region : ¬ ((s.me.g r).toNat % 4096 ≠ 0 ∨ s.me.g (r + 1) = 0 ∨ (s.me.g (r + 1)).toNat % 4096 ≠ 0
        ∨ 2 ^ 57 < (s.me.g r).toNat + (s.me.g (r + 1)).toNat) := by
      rintro (h | h | h | h)
      · exact h base
      · exact some_ h
      · exact h size
      · exact absurd fits (Nat.not_le.mpr h)
    intro clear
    have any : ((s.launchOf k).bindings.any fun b => b.overlaps (s.me.g r).toNat (s.me.g (r + 1)).toNat) = !clear := by
      rw [List.any_eq_not_all_not]
    have binds := completes_ebind (sw := sw) h launch live cls region (Nat.not_le.mpr room) any
    refine ⟨fun hc => ?_, fun hc count => ?_⟩
    · rw [hc] at binds
      exact binds fun no => absurd no (by decide)
    · rw [hc] at binds
      refine ⟨_, binds fun _ => Nat.not_le.mpr count, ?_, ?_, rfl, rfl⟩
      · rw [State.bound, State.addBinding, State.launchOf_setLaunch, if_pos rfl]
        rfl
      · exact congrArg NameEntry.refcount (State.bound_nameEntry ..)
  case found =>
    refine ⟨_, completes_shbind_found h live cls b found, ?_, rfl⟩
    cases b <;> rfl
  case publish =>
    obtain ⟨t, done, names, stored⟩ := completes_shpub (sw := sw) h live cls free
    have entry : t.nameEntry (nameCounter (s.me.pair a)) = s.nameEntry (nameCounter (s.me.pair a)) :=
      congrArg (fun m => FMap.get NameEntry.none m _) (names.trans (congrArg Hub.names same))
    refine ⟨_, done, ?_, stored⟩
    have bumped : ((t.setName (nameCounter (s.me.pair a)) NameEntry.bump).nameEntry (nameCounter (s.me.pair a))) =
        (s.nameEntry (nameCounter (s.me.pair a))).bump := by
      rw [State.nameEntry_setName, if_pos rfl, entry]
    refine (congrArg NameEntry.version bumped).trans ?_
    rw [NameEntry.bump, if_neg (by rw [live.2.1]; decide)]
end Sys2Proof.Machine

/-!
PROOFS. Vector operands at hand: what the shared reads and writes of the vector words give (R118, R127, R213, R218).
-/

namespace Sys2Proof.Machine

theorem Takes.follows_vs {k : Takes} {t : Strand} (h : k.follows t = true) : t.replay.vs = [] := by
  rw [Takes.follows_replay h]
  rfl

theorem Strand.canReadV_iff {t : Strand} {r : Reg} :
    t.canReadV r = true ↔ lastV r.toNat t.outstanding = none ∧ t.parity.contains (64 + r.toNat) = false := by
  rw [Strand.canReadV, Bool.and_eq_true, Option.isNone_iff_eq_none, Bool.not_eq_true']

/-- A vector register at hand reads as its lanes. -/
theorem readV_ok {s : State} {r : Reg} (hf : s.me.replay.vs = []) (h : s.me.canReadV r = true) : readV r s = .ok (s.me.v r) s := by
  obtain ⟨last, parity⟩ := Strand.canReadV_iff.mp h
  have checked : parityCheck (64 + r.toNat) 6 r.toNat s = .ok () s := by
    simp only [parityCheck, act_get_bind, parity, Bool.and_false, Bool.false_eq_true, if_false]
    rfl
  simp only [readV, act_bind_ok checked, act_get_bind, last, hf, List.find?_nil, act_pure]

/-- A mask whose register is at hand (R118). -/
theorem readMask_ok {s : State} {m : Mask} (hf : s.me.replay.gs = []) (h : ∀ r ∈ maskRegs m, s.me.canRead r = true) :
    readMask m s = .ok (s.me.enabled m) s := by
  unfold readMask Strand.enabled
  unfold maskRegs at h
  by_cases all : m.reg = 0 ∧ m.sense = false
  · rw [if_pos all, if_pos all]
    rfl
  · rw [if_neg all] at h
    rw [if_neg all, if_neg all, act_bind_ok (readReg_ok hf (h m.reg (by simp)))]
    rfl

/-- A b operand at hand. -/
theorem readB_ok {s : State} {x : Bool} {b : Reg} (hg : s.me.replay.gs = []) (hv : s.me.replay.vs = [])
    (hr : ∀ r ∈ bG x b, s.me.canRead r = true) (hvr : ∀ r ∈ bV x b, s.me.canReadV r = true) :
    ∃ l, readB x b s = .ok l s ∧ ∀ i < 64, laneAt l i = s.me.bLane x b i := by
  cases x with
  | true =>
    refine ⟨List.replicate 64 ((s.me.g b).setWidth 32), ?_, fun i hi => ?_⟩
    · exact act_bind_ok (readReg_ok hg (hr b (by simp [bG])))
    · rw [laneAt, List.getElem?_replicate, if_pos hi]
      rfl
  | false => exact ⟨s.me.v b, readV_ok hv (hvr b (by simp [bV])), fun i _ => rfl⟩

/-- The lanes that a merge gives. -/
theorem mergeLanes_fst (m : Word) (old : List Lane) (f : Nat → Lane × Flags) :
    (mergeLanes m old f).1 = (List.range 64).map fun i => if m.getLsbD i then (f i).1 else laneAt old i := by
  unfold mergeLanes
  generalize List.range 64 = is
  induction is with
  | nil => rfl
  | cons i is ih =>
    rw [List.foldr_cons, List.map_cons, ← ih]
    cases m.getLsbD i <;> rfl

/-- The lanes that a word keeps of its destination are read where it writes some only, and merge with those that it writes. -/
theorem keptLanes_ok {s : State} {d : Reg} {mk : Mask} (hf : s.me.replay.vs = [])
    (h : s.me.enabled mk = BitVec.allOnes 64 ∨ s.me.canReadV d = true) :
    ∃ old, keptLanes d (s.me.enabled mk) s = .ok old s
      ∧ ∀ f, (mergeLanes (s.me.enabled mk) old f).1 = s.me.merged d mk fun i => (f i).1 := by
  by_cases all : s.me.enabled mk = BitVec.allOnes 64
  · refine ⟨[], by rw [keptLanes, if_pos all]; rfl, fun f => ?_⟩
    rw [mergeLanes_fst, Strand.merged, all]
    refine List.map_congr_left fun i hi => ?_
    have written : (BitVec.allOnes 64).getLsbD i = true := by
      rw [BitVec.getLsbD_allOnes]
      exact decide_eq_true (List.mem_range.mp hi)
    rw [written]
    rfl
  · refine ⟨s.me.v d, by rw [keptLanes, if_neg all]; exact readV_ok hf (h.resolve_left all), fun f => ?_⟩
    rw [mergeLanes_fst]
    rfl

/-- A word without sticky flags of its own leaves the strand's. -/
theorem State.setsNoFlags (s : State) : { s with me := { s.me with sflags := s.me.sflags ||| (0 : Flags) } } = s := by
  rw [show s.me.sflags ||| (0 : Flags) = s.me.sflags from BitVec.or_zero]

theorem setFlags_none (s : State) : setFlags 0 s = .ok () s := congrArg (EStateM.Result.ok ()) s.setsNoFlags

theorem longV_ok (s : State) (r : Reg) (x : List Lane) : longV r x s = .ok () (s.sendsV r x) := rfl

/-! ## Results in a general register (R218, R224) -/

/-- The checks before a word whose destination, which no stream is bound to, is a general register. -/
theorem gPrologue_ok {s : State} {gr vr : List Reg} {d : Reg} (hr : ∀ r ∈ gr, s.me.canRead r = true)
    (hv : ∀ r ∈ vr, s.me.canReadV r = true) (hw : s.me.canWrite d = true) (hl : s.me.outstanding.length < 8) :
    gPrologue gr vr d s = .ok () s := by
  have unbound : s.me.boundGen d = none := by
    simp only [Strand.canWrite, Bool.and_eq_true, Option.isNone_iff_eq_none] at hw
    exact hw.1
  rw [gPrologue, act_bind_ok (waitNinth_ok hl), act_bind_ok (strictG_ok 1 fun r h => canWrite_of_canRead (hr r h)),
    act_bind_ok (strictV_ok 1 fun r h => (Strand.canReadV_iff.mp (hv r h)).1), act_bind_ok (strictG_ok 2 (by simpa using hw)),
    act_bind_ok (streamReads_ok [] fun r h => canWrite_of_canRead (hr r h)), appendChecks, act_get_bind, unbound]
  rfl

theorem gResult_ok {s : State} {d : Reg} (x : Word) (before : Strand) (fl : Flags) (hw : s.me.canWrite d = true) :
    gResult d x before fl s =
      .ok .next { s.sends [(d, x)] with me := { (s.sends [(d, x)]).me with sflags := s.me.sflags ||| fl } } := by
  have unbound : s.me.boundGen d = none := by
    simp only [Strand.canWrite, Bool.and_eq_true, Option.isNone_iff_eq_none] at hw
    exact hw.1
  rw [gResult, act_get_bind, unbound]
  rfl

/-! ## Compares (R218) -/

/-- Lanes of a type have equal values only where they are equal. -/
theorem laneInt_inj {ty : VType} {p q : Lane} : laneInt ty p = laneInt ty q ↔ p = q := by
  cases ty <;> simp only [laneInt, BitVec.toInt_inj, Nat.cast_inj, BitVec.toNat_inj]

theorem asInt_eq_laneInt {ty : VType} (h : ty ≠ .f) (p : Lane) : asInt ty p = laneInt ty p := by
  cases ty with
  | f => exact absurd rfl h
  | _ => rfl

theorem cmpLanes_eq (op : Nat) (ty : VType) (p q : Lane) : cmpLanes op ty p q = compareLanes op ty p q := by
  by_cases f : ty = .f
  · subst f
    simp only [cmpLanes, compareLanes, if_true, flagIf]
    cases (laneVal p).isNaN || (laneVal q).isNaN <;> rfl
  · have ints : cmpLanes op ty p q = (match op with
      | 0 => decide (laneInt ty p = laneInt ty q)
      | 1 => decide (laneInt ty p ≠ laneInt ty q)
      | 2 => decide (laneInt ty p < laneInt ty q)
      | _ => decide (laneInt ty p ≤ laneInt ty q), 0) := by
      cases ty with
      | f => exact absurd rfl f
      | _ => rfl
    unfold compareLanes
    rw [ints, if_neg f, asInt_eq_laneInt f, asInt_eq_laneInt f]
    match op with
    | 0 => simp only [laneInt_inj]
    | 1 => simp only [ne_eq, laneInt_inj]
    | 2 => rfl
    | _ + 3 => rfl

/-- A compare gathers a bit for each lane that holds, and the flags of the lanes. -/
theorem foldl_compare (m : Word) (f : Nat → Bool × Flags) (is : List Nat) (a : Nat × Flags) :
    is.foldl (fun acc i => if m.getLsbD i then (acc.1 + natOf (f i).1 * 2 ^ i, acc.2 ||| (f i).2) else acc) a =
      (a.1 + (is.map fun i => if m.getLsbD i && (f i).1 then 2 ^ i else 0).sum,
        a.2 ||| is.foldr (fun i acc => if m.getLsbD i then (f i).2 ||| acc else acc) 0) := by
  induction is generalizing a with
  | nil => simp
  | cons i is ih =>
    rw [List.foldl_cons, ih]
    cases on : m.getLsbD i with
    | false => simp [on]
    | true => cases holds : (f i).1 <;> simp [on, holds, natOf, Nat.add_assoc, BitVec.or_assoc]

end Sys2Proof.Machine

/-!
PROOFS. The greatest of some values, which `vsmax.seg` subtracts from each (R217, R233).
-/

namespace Sys2Proof.Machine

/-! ## The order of values -/

/-- The exact value of a finite value, 0 of any other. -/
def Val.toRat : Val → ℚ
  | .fin n m e => (if n then -1 else 1) * (m : ℚ) * 2 ^ e
  | _ => 0

/-- The place of a value that is no NaN in the order of R217: below, among or above the finite values, by its exact value, and +0
above −0. -/
def Val.rank : Val → ℤ ×ₗ ℚ ×ₗ ℕ
  | .inf true => toLex (-1, toLex (0, 0))
  | .inf false => toLex (1, toLex (0, 0))
  | .fin n m e => toLex (0, toLex (Val.toRat (.fin n m e), if m = 0 ∧ n = false then 1 else 0))
  | .nan _ => toLex (0, toLex (0, 0))

/-- A mantissa at a lesser exponent is the exact value in units of it. -/
theorem mantAt_eq {e0 e : ℤ} (h : e0 ≤ e) (n : Bool) (m : ℕ) :
    (mantAt e0 (.fin n m e) : ℚ) * 2 ^ e0 = Val.toRat (.fin n m e) := by
  have units : (2 : ℚ) ^ (e - e0).toNat * 2 ^ e0 = 2 ^ e := by
    rw [← zpow_natCast, Int.toNat_of_nonneg (sub_nonneg.mpr h), ← zpow_add₀ two_ne_zero, sub_add_cancel]
  rw [mantAt, Val.toRat, ← units]
  cases n <;> push_cast <;> simp <;> ring

theorem toRat_lt_iff {e0 e e' : ℤ} (h : e0 ≤ e) (h' : e0 ≤ e') (n n' : Bool) (m m' : ℕ) :
    mantAt e0 (.fin n m e) < mantAt e0 (.fin n' m' e') ↔ Val.toRat (.fin n m e) < Val.toRat (.fin n' m' e') := by
  rw [← mantAt_eq h, ← mantAt_eq h', mul_lt_mul_iff_left₀ (zpow_pos two_pos e0), Int.cast_lt]

theorem Val.toRat_eq_zero_iff {n : Bool} {m : ℕ} {e : ℤ} : Val.toRat (.fin n m e) = 0 ↔ m = 0 := by
  cases n <;> simp [Val.toRat, zpow_ne_zero]

/-- The order of finite values is that of their ranks. -/
theorem valLess_fin (n n' : Bool) (m m' : ℕ) (e e' : ℤ) :
    valLess (.fin n m e) (.fin n' m' e') = true ↔ (Val.fin n m e).rank < (Val.fin n' m' e').rank := by
  simp only [valLess, Val.rank, Prod.Lex.toLex_lt_toLex, lt_irrefl, true_and, false_or]
  by_cases zeros : m = 0 ∧ m' = 0
  · have equal : Val.toRat (.fin n m e) = Val.toRat (.fin n' m' e') :=
      (Val.toRat_eq_zero_iff.mpr zeros.1).trans (Val.toRat_eq_zero_iff.mpr zeros.2).symm
    rw [if_pos zeros, equal, zeros.1, zeros.2]
    cases n <;> cases n' <;> simp
  · have least : (if e ≤ e' then e else e') ≤ e ∧ (if e ≤ e' then e else e') ≤ e' := by
      split <;> omega
    rw [if_neg zeros, decide_eq_true_iff, toRat_lt_iff least.1 least.2, iff_self_or]
    intro ⟨equal, signs⟩
    have zero : m = 0 ↔ m' = 0 := by rw [← Val.toRat_eq_zero_iff (n := n) (e := e), equal, Val.toRat_eq_zero_iff]
    exfalso
    have nonzero : m ≠ 0 ∧ m' ≠ 0 := by tauto
    simp [nonzero] at signs

theorem valLess_iff {a b : Val} (ha : a.isNaN = false) (hb : b.isNaN = false) : valLess a b = true ↔ a.rank < b.rank := by
  match a, b with
  | .nan _, _ => cases ha
  | _, .nan _ => cases hb
  | .inf x, .inf y => cases x <;> cases y <;> simp [valLess, Val.rank, Prod.Lex.toLex_lt_toLex]
  | .inf x, .fin n m e => cases x <;> simp [valLess, Val.rank, Prod.Lex.toLex_lt_toLex]
  | .fin n m e, .inf y => cases y <;> simp [valLess, Val.rank, Prod.Lex.toLex_lt_toLex]
  | .fin n m e, .fin n' m' e' => exact valLess_fin n n' m m' e e'

/-! ## The greatest of some values -/

/-- The greatest of a value and some others, as `vsmax.seg` finds it. -/
def greatest (a : Val) (vs : List Val) : Val := vs.foldl (fun a v => if valLess a v then v else a) a

theorem greatest_spec {a : Val} {vs : List Val} (ha : a.isNaN = false) (hv : ∀ v ∈ vs, v.isNaN = false) :
    (greatest a vs = a ∨ greatest a vs ∈ vs) ∧ ∀ v ∈ a :: vs, valLess (greatest a vs) v = false := by
  induction vs generalizing a with
  | nil =>
    refine ⟨.inl rfl, fun v hv => ?_⟩
    rw [List.mem_singleton.mp hv, Bool.eq_false_iff, ne_eq, show greatest a [] = a from rfl, valLess_iff ha ha]
    exact lt_irrefl _
  | cons x xs ih =>
    have hx := hv x (by simp)
    have hxs : ∀ v ∈ xs, v.isNaN = false := fun v h => hv v (by simp [h])
    let b := if valLess a x then x else a
    have hb : b.isNaN = false := by
      show (if valLess a x then x else a).isNaN = false
      split
      · exact hx
      · exact ha
    obtain ⟨found, top⟩ := ih hb hxs
    have among : greatest a (x :: xs) = a ∨ greatest a (x :: xs) ∈ x :: xs := by
      rcases found with found | found
      · rw [show greatest a (x :: xs) = greatest b xs from rfl, found]
        rcases ite_eq_or_eq (valLess a x = true) x a with h | h
        · exact .inr (List.mem_cons.mpr (.inl h))
        · exact .inl h
      · exact .inr (List.mem_cons_of_mem _ found)
    have number : (greatest a (x :: xs)).isNaN = false := by
      rcases among with h | h
      · rw [h, ha]
      · exact hv _ h
    have notBelow {v : Val} (h : v.isNaN = false) :
        valLess (greatest a (x :: xs)) v = false ↔ v.rank ≤ (greatest a (x :: xs)).rank := by
      rw [Bool.eq_false_iff, ne_eq, valLess_iff number h, not_lt]
    have aboveB : b.rank ≤ (greatest a (x :: xs)).rank := (notBelow hb).mp (top b (by simp))
    have covers : a.rank ≤ b.rank ∧ x.rank ≤ b.rank := by
      show a.rank ≤ (if valLess a x then x else a).rank ∧ x.rank ≤ (if valLess a x then x else a).rank
      split
      next h => exact ⟨((valLess_iff ha hx).mp h).le, le_rfl⟩
      next h => exact ⟨le_rfl, not_lt.mp fun l => h ((valLess_iff ha hx).mpr l)⟩
    refine ⟨among, fun v hv' => ?_⟩
    rcases List.mem_cons.mp hv' with rfl | hv'
    · exact (notBelow ha).mpr (covers.1.trans aboveB)
    · rcases List.mem_cons.mp hv' with rfl | hv'
      · exact (notBelow hx).mpr (covers.2.trans aboveB)
      · exact top v (List.mem_cons_of_mem _ hv')

/-- Where some value is above −∞, the greatest from −∞ on is one of the values. -/
theorem greatest_mem {vs : List Val} (hv : ∀ v ∈ vs, v.isNaN = false) (some : ∃ v ∈ vs, v ≠ .inf true) :
    greatest (.inf true) vs ∈ vs ∧ ∀ v ∈ vs, valLess (greatest (.inf true) vs) v = false := by
  obtain ⟨found, top⟩ := greatest_spec (a := .inf true) rfl hv
  refine ⟨found.resolve_left fun least => ?_, fun v h => top v (List.mem_cons_of_mem _ h)⟩
  obtain ⟨v, mem, above⟩ := some
  have below := top v (List.mem_cons_of_mem _ mem)
  rw [least] at below
  match v with
  | .nan _ => cases hv _ mem
  | .inf true => exact above rfl
  | .inf false => cases below
  | .fin _ _ _ => cases below

end Sys2Proof.Machine

/-!
PROOFS. The statement on the vector words that give a general register, and on those that need a shape (O20).
-/

namespace Sys2Proof.Machine

/-! ## Compares and `vext` (R218, R224) -/

section
variable {d a b : Reg} {x : Bool} {s : State}

theorem vcmpForm_ok (op : Nat) {ty : VType} {mk : Mask} (h : Takes.plain.follows s.me = true)
    (hr : ∀ r ∈ bG x b ++ maskRegs mk, s.me.canRead r = true) (hv : ∀ r ∈ [a] ++ bV x b, s.me.canReadV r = true)
    (hw : s.me.canWrite d = true) (hl : s.me.outstanding.length < 8) {f : ScalarForm} {vs : List Reg} {sw : Bool}
    (hf : compareForm op sw d a b x ty mk = some (f, vs)) : vcmpForm op d a b x ty mk s = .ok .next (f.effect s) := by
  obtain ⟨bv, readsB, lanesB⟩ := readB_ok (x := x) (b := b) (Takes.follows_gs h) (Takes.follows_vs h) (fun r hb => hr r (by simp [hb]))
    (fun r hb => hv r (by simp [hb]))
  rw [vcmpForm, act_bind_ok (gPrologue_ok hr hv hw hl), act_get_bind, act_bind_ok (readV_ok (Takes.follows_vs h) (hv a (by simp))),
    act_bind_ok readsB, act_bind_ok (readMask_ok (Takes.follows_gs h) fun r hm => hr r (by simp [hm]))]
  simp only [foldl_compare]
  rw [gResult_ok _ _ _ hw]
  obtain ⟨rfl, rfl⟩ := Prod.mk.inj (Option.some.inj hf)
  have bits : ((List.range 64).map fun i => if (s.me.enabled mk).getLsbD i
        && (cmpLanes op ty (laneAt (s.me.v a) i) (laneAt bv i)).1 then 2 ^ i else 0)
      = (List.range 64).map fun i => if (s.me.enabled mk).getLsbD i
        && (compareLanes op ty (s.me.lane a i) (s.me.bLane x b i)).1 then 2 ^ i else 0 :=
    List.map_congr_left fun i hi => by rw [lanesB i (List.mem_range.mp hi), cmpLanes_eq]; rfl
  have flags : (0 : Flags) ||| (List.range 64).foldr (fun i acc => if (s.me.enabled mk).getLsbD i
        then (cmpLanes op ty (laneAt (s.me.v a) i) (laneAt bv i)).2 ||| acc else acc) 0
      = unionFlags (s.me.enabled mk) fun i => (compareLanes op ty (s.me.lane a i) (s.me.bLane x b i)).2 :=
    BitVec.zero_or.trans (List.foldr_ext _ _ _ fun i hi acc => by rw [lanesB i (List.mem_range.mp hi), cmpLanes_eq]; rfl)
  rw [bits, flags, Nat.zero_add]
  rfl

theorem completes_vext {sw : Bool} {l : BitVec 4} {ty : VType} {k : BitVec 2} (h : Takes.plain.follows s.me = true)
    (hv : s.me.canReadV a = true) (hw : s.me.canWrite d = true) (hl : s.me.outstanding.length < 8) :
    completes (.vext sw d a l ty k) sw .plain s (s.sends [(d,
      if ty = .i then (s.me.lane a (l.toNat + 16 * k.toNat)).signExtend 64 else (s.me.lane a (l.toNat + 16 * k.toNat)).setWidth 64)]) := by
  refine completes_of_body h (rfl : execVext sw d a l ty k s = _) ?_
  have unflagged : s.me.sflags ||| (0 : Flags) = s.me.sflags := BitVec.or_zero
  rw [act_bind_ok (gPrologue_ok (by simp) (by simpa using hv) hw hl), act_get_bind, act_bind_ok (readV_ok (Takes.follows_vs h) hv),
    gResult_ok _ _ _ hw, unflagged]
  cases ty <;> rfl

/-- The words of `toScalarTable`: compares, and `vext`. -/
theorem completes_toScalar {i : Instr} {f : ScalarForm} {vs : List Reg} (hf : toScalarTable i = some (f, vs)) (ready : f.ready s.me = true)
    (hv : vs.all s.me.canReadV = true) : completes i f.sw f.takes s (f.effect s) := by
  simp only [ScalarForm.ready, Bool.and_eq_true, List.all_eq_true] at ready
  obtain ⟨⟨⟨follows, reads⟩, writes⟩, ninth⟩ := ready
  rw [List.all_eq_true] at hv
  have compare {op : Nat} {sw : Bool} {d a b : Reg} {x : Bool} {ty : VType} {mk : Mask}
      (hi : exec i s = issue i sw .plain (vcmpForm op d a b x ty mk) s) (hf : compareForm op sw d a b x ty mk = some (f, vs)) :
      completes i f.sw f.takes s (f.effect s) := by
    obtain ⟨rfl, rfl⟩ := Prod.mk.inj (Option.some.inj hf)
    exact completes_of_body follows hi (vcmpForm_ok op follows (fun r h => reads r (by simpa [guardReads] using h)) hv writes
      (by simpa using ninth) hf)
  cases i with
  | vceq => exact compare rfl hf
  | vcne => exact compare rfl hf
  | vclt => exact compare rfl hf
  | vcle => exact compare rfl hf
  | vext sw d a l ty k =>
    obtain ⟨rfl, rfl⟩ := Prod.mk.inj (Option.some.inj hf)
    have done := completes_vext (sw := sw) (l := l) (ty := ty) (k := k) follows (hv a (by simp)) writes (by simpa using ninth)
    rw [ScalarForm.effect, if_pos rfl]
    exact done.trans (congrArg _ (congrArg _ (State.setsNoFlags _).symm))
  | _ => cases hf

end

/-! ## The words that need a shape (R65) -/

theorem needShape_some {s : State} {q : Bool} {k : Nat} (h : s.me.shape q = some k) :
    needShape q s = .ok (s.snapOf k) (s.usesShape k) := by
  rw [needShape, act_get_bind, h]
  rfl

theorem needShape_none {s : State} {q : Bool} (h : s.me.shape q = none) :
    needShape q s = .error (.trap { cause := .segx, tinfo := 1, taddr := 0 }) s := by
  rw [needShape, act_get_bind, h]
  rfl

/-! ## Softmax (R233) -/

/-- The result of a lane among those of some lanes. -/
theorem find?_laneResults (is : List Nat) (f : Nat → Lane) (i : Nat) :
    (((is.map fun j => (j, f j)).find? fun x => x.1 == i).map (·.2)).getD 0 = if is.contains i then f i else 0 := by
  induction is with
  | nil => rfl
  | cons j is ih =>
    rw [List.map_cons, List.find?_cons, List.contains_cons]
    by_cases h : j = i
    · simp [h]
    · have here : (j == i) = false := beq_eq_false_iff_ne.mpr h
      have there : (i == j) = false := beq_eq_false_iff_ne.mpr (Ne.symm h)
      rw [here, there, Bool.false_or]
      exact ih

theorem softmax_nan {av : List Lane} {is : List Nat}
    (any : (is.map fun i => laneVal (laneAt av i)).any (fun v => v.isNaN || decide (v = .inf false)) = true) :
    softmax av is = (is.map fun i => (i, nan32), flagIf ((is.map fun i => laneVal (laneAt av i)).any Val.isSig) flagNV) := by
  have some : ¬ (is.map fun i => laneVal (laneAt av i)).all (fun v => decide (v = .inf true)) = true := by
    intro all
    obtain ⟨v, mem, above⟩ := List.any_eq_true.mp any
    rw [of_decide_eq_true (List.all_eq_true.mp all v mem)] at above
    cases above
  exact (if_neg some).trans (if_pos any)

theorem softmax_finite {av : List Lane} {is : List Nat}
    (some : (is.map fun i => laneVal (laneAt av i)).all (fun v => decide (v = .inf true)) = false)
    (finite : (is.map fun i => laneVal (laneAt av i)).any (fun v => v.isNaN || decide (v = .inf false)) = false) :
    ∃ top ∈ is.map fun i => laneVal (laneAt av i), (∀ v ∈ is.map fun i => laneVal (laneAt av i), valLess top v = false)
      ∧ let e (i : Nat) : Val := laneVal (expF (roundNE32 (addVal (laneVal (laneAt av i)) top.negate false)))
        let total := (sumVals (is.map e)).frac
        softmax av is = (is.map fun i => (i, ratNE false ((e i).frac.1 * total.2) ((e i).frac.2 * total.1)), 0) := by
  have numbers : ∀ v ∈ is.map fun i => laneVal (laneAt av i), v.isNaN = false := fun v hv =>
    (Bool.or_eq_false_iff.mp (Bool.eq_false_iff.mpr (List.any_eq_false.mp finite v hv))).1
  obtain ⟨v, mem, above⟩ := List.all_eq_false.mp some
  obtain ⟨found, top⟩ := greatest_mem numbers ⟨v, mem, by simpa using above⟩
  refine ⟨_, found, top, ?_⟩
  unfold softmax
  simp only [some, finite, Bool.false_eq_true, if_false, List.map_map]
  rfl

theorem flagIf_cases (p : Bool) (f : Flags) : flagIf p f = 0 ∨ flagIf p f = f := by
  cases p
  · exact .inl rfl
  · exact .inr rfl

/-- The row statistics of finite sums whose var + epsilon is positive (R234). -/
theorem normFinish_finite {n : Nat} {s1 s2 eps : Val} (h1 : s1.isFin = true) (h2 : s2.isFin = true) (he : eps.isFin = true)
    (pos : 0 < (varPlus n s1 s2 eps).1) (free : Lane) :
    normFinish n s1 s2 eps free =
      (ratNE s1.neg? s1.frac.1 (s1.frac.2 * n), rsqrtNE (varPlus n s1 s2 eps).1.toNat (varPlus n s1 s2 eps).2, 0) := by
  unfold normFinish
  simp only [h1, h2, he, Bool.and_self, if_true, if_neg (not_lt.mpr pos.le), if_neg pos.ne']
  cases s1 with
  | fin => rfl
  | _ => cases h1

section
variable {sw c q : Bool} {d a b : Reg} {mk : Mask} {s : State}

section
variable (h : Takes.plain.follows s.me = true) (hr : ([b] ++ maskRegs mk).all s.me.canRead = true) (ha : s.me.canReadV a = true)
  (hd : s.me.canReadV d = true) (hl : s.me.outstanding.length < 8)
include h hr ha hd hl

/-- What `vsmax.seg` reads before its shape. -/
theorem vsmaxSeg_reads (F : List Lane → Word → Word → Act Flow) :
    ((do
      prologue true ([b] ++ maskRegs mk) [] [a] [d]
      let av ← readV a
      let g ← readReg b
      let m ← readMask mk
      F av g m) : Act Flow) s = F (s.me.v a) (s.me.g b) (s.me.enabled mk) s := by
  rw [List.all_eq_true] at hr
  have checked : prologue true ([b] ++ maskRegs mk) [] [a] [d] s = .ok () s :=
    prologue_ok hr (by simp) (fun _ => hl) (by simpa using (Strand.canReadV_iff.mp ha).1) (by simpa using (Strand.canReadV_iff.mp hd).1)
  rw [act_bind_ok checked, act_bind_ok (readV_ok (Takes.follows_vs h) ha), act_bind_ok (readReg_ok (Takes.follows_gs h) (hr b (by simp))),
    act_bind_ok (readMask_ok (Takes.follows_gs h) fun r hm => hr r (by simp [hm]))]

/-- What the row statistics read before their shape. -/
theorem vlnorm_reads (F : List Lane → List Lane → Word → Word → Act Flow) :
    ((do
      prologue true ([b] ++ maskRegs mk) [] [d, a] [d]
      let dv ← readV d
      let av ← readV a
      let row ← readReg b
      let m ← readMask mk
      F dv av row m) : Act Flow) s = F (s.me.v d) (s.me.v a) (s.me.g b) (s.me.enabled mk) s := by
  rw [List.all_eq_true] at hr
  have checked : prologue true ([b] ++ maskRegs mk) [] [d, a] [d] s = .ok () s :=
    prologue_ok hr (by simp) (fun _ => hl) (by simpa using ⟨(Strand.canReadV_iff.mp hd).1, (Strand.canReadV_iff.mp ha).1⟩)
      (by simpa using (Strand.canReadV_iff.mp hd).1)
  rw [act_bind_ok checked, act_bind_ok (readV_ok (Takes.follows_vs h) hd), act_bind_ok (readV_ok (Takes.follows_vs h) ha),
    act_bind_ok (readReg_ok (Takes.follows_gs h) (hr b (by simp))),
    act_bind_ok (readMask_ok (Takes.follows_gs h) fun r hm => hr r (by simp [hm]))]

theorem segx_without_shape (hq : s.me.shape q = none) :
    let t : TrapInfo := { cause := .segx, tinfo := 1, taddr := 0 }
    exec (.vsmaxSeg sw d a b mk c q) s = .next (trapWord t s s) ∧ exec (.vlnormAcc sw d a b mk q) s = .next (trapWord t s s)
      ∧ exec (.vlnormFin sw d a b mk q) s = .next (trapWord t s s) := by
  refine ⟨issue_trap h ?_, issue_trap h ?_, issue_trap h ?_⟩
  · exact (vsmaxSeg_reads h hr ha hd hl _).trans (act_bind_error (needShape_none hq))
  · exact (vlnorm_reads h hr ha hd hl _).trans (act_bind_error (needShape_none hq))
  · exact (vlnorm_reads h hr ha hd hl _).trans (act_bind_error (needShape_none hq))

variable {k : Nat} (hq : s.me.shape q = some k)
include hq

/-- `vsmax.seg` gives each enabled lane its softmax, 0 where the lane takes no part. -/
theorem completes_vsmaxSeg {is : List Nat} {f : Nat → Lane} {fl : Flags}
    (sm : softmax (s.me.v a) (softmaxIn (s.snapOf k) c ((s.me.g b).toNat % 2 ^ 32) ((s.me.g b).toNat / 2 ^ 32) (s.me.enabled mk))
      = (is.map fun i => (i, f i), fl)) :
    completes (.vsmaxSeg sw d a b mk c q) sw .plain s
      { (s.usesShape k).sendsV d (s.me.merged d mk fun i => if is.contains i then f i else 0) with
        me := { ((s.usesShape k).sendsV d (s.me.merged d mk fun i => if is.contains i then f i else 0)).me with
          sflags := s.me.sflags ||| fl } } := by
  refine completes_of_body h (rfl : execVsmaxSeg sw d a b mk c q s = _) ((vsmaxSeg_reads h hr ha hd hl _).trans ?_)
  obtain ⟨old, kept, merge⟩ := keptLanes_ok (s := s.usesShape k) (d := d) (mk := mk) (Takes.follows_vs h) (.inr hd)
  rw [act_bind_ok (needShape_some hq)]
  refine (act_bind_ok kept).trans ?_
  rw [sm]
  simp only [find?_laneResults]
  have merge (f) : (mergeLanes (s.me.enabled mk) old f).1 = s.me.merged d mk fun i => (f i).1 := merge f
  rw [act_bind_ok (setFlags_ok ..), merge]
  rfl

theorem completes_vlnormAcc_outside (none : ((s.snapOf k).segment (s.me.g b).toNat).isNone = true) :
    completes (.vlnormAcc sw d a b mk q) sw .plain s ((s.usesShape k).sendsV d (s.me.v d)) := by
  refine completes_of_body h (rfl : execVlnormAcc sw d a b mk q s = _) ((vlnorm_reads h hr ha hd hl _).trans ?_)
  rw [act_bind_ok (needShape_some hq), if_pos none]
  rfl

theorem completes_vlnormFin_zero (none : ((s.snapOf k).segment (s.me.g b).toNat).isNone = true ∨ (s.me.lane d 0).toNat = 0) :
    completes (.vlnormFin sw d a b mk q) sw .plain s ((s.usesShape k).sendsV d (List.replicate 64 0)) := by
  refine completes_of_body h (rfl : execVlnormFin sw d a b mk q s = _) ((vlnorm_reads h hr ha hd hl _).trans ?_)
  rw [act_bind_ok (needShape_some hq)]
  exact congrFun (if_pos none) (s.usesShape k)

theorem completes_vlnormAcc (inside : ((s.snapOf k).segment (s.me.g b).toNat).isSome = true) :
    let xs := (s.me.under mk a 64).map laneVal
    ∃ fl : Flags,
      let r := (List.range 64).map fun i =>
        match i with
        | 0 => s.me.lane d 0 + BitVec.ofNat 32 xs.length
        | 1 => roundNE32 (addVal (laneVal (s.me.lane d 1)) (sumVals xs) false)
        | 2 => roundNE32 (addVal (laneVal (s.me.lane d 2)) (sumVals (xs.map fun v => mulVal v v)) false)
        | i => s.me.lane d i
      completes (.vlnormAcc sw d a b mk q) sw .plain s
        { (s.usesShape k).sendsV d r with me := { ((s.usesShape k).sendsV d r).me with sflags := s.me.sflags ||| fl } }
      ∧ (fl = 0 ∨ fl = 0x010#9) := by
  intro xs
  let s1 := laneVal (s.me.lane d 1)
  let s2 := laneVal (s.me.lane d 2)
  refine ⟨flagIf (xs.any Val.isSig || s1.isSig || s2.isSig || sumInvalid (s1 :: xs) || sumInvalid (s2 :: xs.map fun v => mulVal v v))
    flagNV, completes_of_body h (rfl : execVlnormAcc sw d a b mk q s = _) ((vlnorm_reads h hr ha hd hl _).trans ?_), flagIf_cases _ _⟩
  rw [act_bind_ok (needShape_some hq), if_neg (by simpa using Option.isSome_iff_ne_none.mp inside)]
  exact act_bind_ok (setFlags_ok ..)

theorem completes_vlnormFin (inside : ((s.snapOf k).segment (s.me.g b).toNat).isSome = true) (count : (s.me.lane d 0).toNat ≠ 0)
    (fin1 : (laneVal (s.me.lane d 1)).isFin = true) (fin2 : (laneVal (s.me.lane d 2)).isFin = true)
    (finE : (laneVal (s.me.lane d 3)).isFin = true)
    (pos : 0 < (varPlus (s.me.lane d 0).toNat (laneVal (s.me.lane d 1)) (laneVal (s.me.lane d 2)) (laneVal (s.me.lane d 3))).1) :
    let v := varPlus (s.me.lane d 0).toNat (laneVal (s.me.lane d 1)) (laneVal (s.me.lane d 2)) (laneVal (s.me.lane d 3))
    let r : List Lane := ratNE (laneVal (s.me.lane d 1)).neg? (laneVal (s.me.lane d 1)).frac.1
        ((laneVal (s.me.lane d 1)).frac.2 * (s.me.lane d 0).toNat) :: rsqrtNE v.1.toNat v.2 :: List.replicate 62 0
    completes (.vlnormFin sw d a b mk q) sw .plain s { (s.usesShape k).sendsV d r with free := s.free + 1 } := by
  intro v r
  refine completes_of_body h (rfl : execVlnormFin sw d a b mk q s = _) ((vlnorm_reads h hr ha hd hl _).trans ?_)
  have drawn : drawLane (s.usesShape k) = .ok (Config.freeLane s.free) { s.usesShape k with free := s.free + 1 } := rfl
  have within : ¬ (((s.snapOf k).segment (s.me.g b).toNat).isNone = true ∨ (s.me.lane d 0).toNat = 0) := by
    simpa using ⟨Option.isSome_iff_ne_none.mp inside, count⟩
  rw [act_bind_ok (needShape_some hq)]
  refine (congrFun (if_neg within) (s.usesShape k)).trans ?_
  have finish : normFinish (laneAt (s.me.v d) 0).toNat (laneVal (laneAt (s.me.v d) 1)) (laneVal (laneAt (s.me.v d) 2))
      (laneVal (laneAt (s.me.v d) 3)) (Config.freeLane s.free) = _ := normFinish_finite fin1 fin2 finE pos _
  rw [act_bind_ok drawn, finish]
  exact act_bind_ok (setFlags_none _)

end
end

/-- Settles O20: compares and `vext`, then the words that need a shape, by what their softmax or their row is. -/
theorem vectorToScalar : Obligations.VectorToScalar := by
  unfold Obligations.VectorToScalar
  refine ⟨fun i f vs s hf _ ready hv => completes_toScalar hf ready hv, fun sw d a b mk c q s h hr ha hd hl =>
    ⟨segx_without_shape h hr ha hd hl, fun k hq => ⟨fun all => ?least, fun any => ?nan, fun some finite => ?finite, fun none => ?outside,
      fun zero => completes_vlnormFin_zero h hr ha hd hl hq (.inr zero), completes_vlnormAcc h hr ha hd hl hq,
      completes_vlnormFin h hr ha hd hl hq⟩⟩⟩
  case least =>
    refine completes_vsmaxSeg (is := []) (f := fun _ => 0) h hr ha hd hl hq ?_
    exact if_pos all
  case nan =>
    refine completes_vsmaxSeg (f := fun _ => nan32) h hr ha hd hl hq ?_
    exact softmax_nan any
  case finite =>
    obtain ⟨top, mem, greatest, sm⟩ := softmax_finite some finite
    exact ⟨top, mem, greatest, completes_vsmaxSeg h hr ha hd hl hq sm⟩
  case outside =>
    exact ⟨completes_vlnormAcc_outside h hr ha hd hl hq none, completes_vlnormFin_zero h hr ha hd hl hq (.inl none)⟩

end Sys2Proof.Machine

/-!
PROOFS. The statement on ragged loads and streams does not hold as it stands (O24): a masked `vld.seg` keeps the lanes that its destination
holds after its reads, and the results of the strand's acquires have returned before those (R343). `Strand.deliver` takes a vector
destination modulo 16, `lastV` as it stands, so that a result for number 17, which no word sends, writes v1 unseen by `Strand.canSendV`.
-/

namespace Sys2Proof.Machine

/-- The result of an acquire for vector register number 17, on its way. -/
def resultPast : LongResult := { id := 0, gdests := [], vdests := [(17, List.replicate 64 5)], wait := .acquire, name := none }

/-- A shape of one segment. -/
def oneSegment : Snapshot := { Snapshot.none with live := true, ctx := 1, nseg := 1, rows := 1, start := [0, 1] }

/-- The strand that loads one word at 0x10000, where its mask enables lane 63 alone, while that result is outstanding. -/
def raggedStrand : Strand :=
  { loadStrand with
    stack := [(entryOf 0 2, 0x10000), (entryOf 0 6, 0x8000000000000000)], sh0 := some (2 ^ 32), outstanding := [resultPast] }

def raggedState : State :=
  let s := State.reset.placed 0
  { s with me := raggedStrand, hub := { s.hub with snaps := [(2 ^ 32, oneSegment)] } }

def raggedLoad : Instr := .vldSeg false 1 2 3 3 ⟨6, false⟩ false

/-- Lane 0 of the latest vector result on its way. -/
def State.lane0Sent (s : State) : Option Lane :=
  s.me.outstanding.getLast?.bind fun r => r.vdests.head?.bind fun x => x.2.head?

/-- The units of that load. -/
def raggedUnits : List Piece :=
  elementPieces (((List.range 64).filter fun i => (raggedState.me.enabled ⟨6, false⟩).getLsbD i).map fun i =>
    ((raggedState.me.g 2).toNat + 256 * (raggedState.me.g 3).toNat + 4 * i) % 2 ^ 64) 4 fun _ => .read

/-- What the statement says that the load leaves, from what its units read. -/
def raggedClaim (rs : List UnitRes) (s' : State) : State :=
  completeWord false .plain .next raggedState (s'.sendsV 1 (raggedState.me.merged 1 ⟨6, false⟩ fun i =>
    elementLane (raggedUnits.zip rs) (((raggedState.me.g 2).toNat + 256 * (raggedState.me.g 3).toNat + 4 * i) % 2 ^ 64) 4 false))

/-- Whether a load's units are read, and it then sends 5 in lane 0, which its mask leaves, where the statement says 0. -/
def raggedDiffers (o : Host.Outcome State Fault Refusal) : EStateM.Result Exn State (List UnitRes) → Bool
  | .ok rs s' =>
    match o with
    | .next t => decide (t.lane0Sent = some 5 ∧ (raggedClaim rs s').lane0Sent = some 0)
    | _ => false
  | .error _ _ => false

theorem raggedDiffers_exec :
    raggedDiffers (exec raggedLoad raggedState) (strandAccess .vector .load 0 raggedUnits (raggedState.usesShape (2 ^ 32))) = true := by
  decide +kernel

theorem ne_of_raggedDiffers {o : Host.Outcome State Fault Refusal} {r : EStateM.Result Exn State (List UnitRes)}
    (h : raggedDiffers o r = true) : ∃ rs s', r = .ok rs s' ∧ o ≠ .next (raggedClaim rs s') := by
  cases r with
  | error => cases h
  | ok rs s' =>
    refine ⟨rs, s', rfl, fun claim => ?_⟩
    rw [claim] at h
    obtain ⟨five, zero⟩ := of_decide_eq_true h
    exact absurd (five.symm.trans zero) (by decide)

/-- What the load asks for before its units: its registers at hand, its rows in one segment, its one element aligned. -/
theorem raggedState_ready :
    Takes.plain.follows raggedState.me = true ∧ ([2, 3, 3] ++ maskRegs ⟨6, false⟩).all raggedState.me.canRead = true
      ∧ raggedState.me.canSendV 1 ⟨6, false⟩ = true ∧ raggedState.me.shape false = some (2 ^ 32)
      ∧ (raggedState.snapOf (2 ^ 32)).segment (raggedState.me.g 3).toNat ≠ none
      ∧ ∀ i ∈ (List.range 64).filter fun i => (raggedState.me.enabled ⟨6, false⟩).getLsbD i,
          ((raggedState.me.g 2).toNat + 256 * (raggedState.me.g 3).toNat + 4 * i) % 2 ^ 64 % 4 = 0 := by decide +kernel

/-- Refutes O24: with a result for vector register number 17 outstanding, whose wait is that of an acquire, a `vld.seg` into v1 that enables
lane 63 alone sends 5 in the lanes that it keeps, where v1 held 0 before the word. -/
theorem not_raggedAndStreams : ¬ Obligations.RaggedAndStreams := by
  unfold Obligations.RaggedAndStreams
  rintro ⟨ragged, -⟩
  obtain ⟨follows, reads, sends, shape, segment, aligned⟩ := raggedState_ready
  obtain ⟨rs, s', access, ne⟩ := ne_of_raggedDiffers raggedDiffers_exec
  obtain ⟨-, bound⟩ := ragged false 1 2 3 3 ⟨6, false⟩ false raggedState follows reads sends
  obtain ⟨-, loads, -⟩ := bound _ shape
  exact ne (loads segment rfl aligned rs s' access)

end Sys2Proof.Machine

/-!
PROOFS. The statement on the words that create matrix ops does not hold as it stands (O27): `Created` keeps the vector registers as before
the word, while the results of the strand's acquires return before the op is created (R273, R344), and a state may hold the result of an acquire
that is for a vector register, which no word sends.
-/

namespace Sys2Proof.Machine

theorem Strand.vregs_spend (t : Strand) (n : Nat) : (t.spend n).vregs = t.vregs := by
  unfold Strand.spend
  rw [apply_ite Strand.vregs, ite_self]

theorem Strand.vregs_afterCycles (t : Strand) (core n : Nat) : (t.afterCycles core n).vregs = t.vregs := by
  have parked (u : Strand) : (u.parkedFor n).vregs = u.vregs := by
    unfold Strand.parkedFor
    rw [apply_ite Strand.vregs, ite_self]
  have again (u : Strand) : u.triedAgain.vregs = u.vregs := by
    unfold Strand.triedAgain
    rw [apply_ite Strand.vregs, apply_ite Strand.vregs, ite_self, ite_self]
  unfold Strand.afterCycles
  split
  · rw [apply_ite Strand.vregs, again, parked, Strand.vregs_spend, ite_self]
  · rfl

/-- The end of a word leaves the vector registers as its effect did. -/
theorem completeWord_vregs (sw : Bool) (s t : State) : (completeWord sw .engine .next s t).me.vregs = t.me.vregs := by
  unfold completeWord
  cases s.me.reissue
  · exact Strand.vregs_afterCycles t.me s.me.core 1
  · rfl

/-- The result of an acquire for v3, on its way. -/
def vectorAcquire : LongResult := { id := 0, gdests := [], vdests := [(3, [5])], wait := .acquire, name := none }

/-- A strand with that result outstanding, which may create an op with token 0 and holds no bank. -/
def acquiringState : State :=
  { State.reset with me := { loadStrand with ntok := 16, outstanding := [vectorAcquire] } }

/-- Whether an outcome is a state in which v3 has come to hold a value. -/
def fillsV3 : Host.Outcome State Fault Refusal → Bool
  | .next t => decide (FMap.get 0 t.me.vregs 192 = 5)
  | _ => false

theorem fillsV3_mld : fillsV3 (exec (.mld false 0 1 2 0) acquiringState) = true := by decide +kernel

theorem acquiringState_ready :
    Takes.engine.follows acquiringState.me = true ∧ ([1, 2] : List Reg).all acquiringState.me.canRead = true
      ∧ acquiringState.me.tokenFree 0 = true ∧ (acquiringState.me.g 1).toNat % 64 = 0 ∧ (acquiringState.me.g 2).toNat % 64 = 0
      ∧ (acquiringState.bankOps acquiringState.me.core 0).length < 2 ∧ FMap.get 0 acquiringState.me.vregs 192 = 0 := by decide +kernel

/-- Refutes O27: with a result for v3 outstanding whose wait is that of an acquire, `mld` leaves that result in v3, where the statement's
op leaves the vector registers as they were. -/
theorem not_matrixOps : ¬ Obligations.MatrixOps := by
  unfold Obligations.MatrixOps
  intro ops
  obtain ⟨follows, reads, free, addr, stride, room, empty⟩ := acquiringState_ready
  obtain ⟨-, creates, -⟩ := ops false 0 1 2 0 0 acquiringState follows reads
  obtain ⟨loads, -⟩ := creates free addr stride
  obtain ⟨t, done, created, -⟩ := loads room
  obtain ⟨-, kept, -⟩ := created.registers
  have filled := fillsV3_mld
  rw [show exec (.mld false 0 1 2 0) acquiringState = _ from done] at filled
  have five : FMap.get 0 (completeWord false .engine .next acquiringState t).me.vregs 192 = 5 := of_decide_eq_true filled
  rw [completeWord_vregs, kept, empty] at five
  exact absurd five (by decide)

end Sys2Proof.Machine

/-!
PROOFS. Commands of a ring on a context (R416): what one that may run finds, takes and reports.
-/

namespace Sys2Proof.Machine

/-! ## The state in which a command runs -/

/-- To take an entry counts it, at the hypervisor or at the ring's partition. -/
theorem State.running_rest (s : State) (ring : Nat) :
    s.running ring = { s with hub := { s.hub with hvCmds := (s.running ring).hub.hvCmds, parts := (s.running ring).hub.parts } } := by
  unfold State.running State.takeEntry
  split <;> rfl

theorem State.running_ctxOf (s : State) (ring k : Nat) : (s.running ring).ctxOf k = s.ctxOf k := by
  rw [State.running_rest]
  rfl

theorem State.running_mem (s : State) (ring : Nat) : (s.running ring).mem = s.mem := by rw [State.running_rest]

theorem State.running_chip (s : State) (ring : Nat) : (s.running ring).hub.chip = s.hub.chip := by rw [State.running_rest]

/-- It leaves the HBM of the partitions. -/
theorem State.running_hbm (s : State) (ring k : Nat) : ((s.running ring).partOf k).hbm = (s.partOf k).hbm := by
  unfold State.running State.takeEntry
  split
  · rfl
  · rw [State.partOf_setPart]
    split
    · next h => rw [h]
    · rfl

theorem State.running_inHbm (s : State) (ring p addr n : Nat) : (s.running ring).inHbm (some p) addr n = s.inHbm (some p) addr n := by
  have holds : ((s.running ring).partOf p).holdsGib = (s.partOf p).holdsGib :=
    funext fun g => by rw [Part.holdsGib, Part.holdsGib, State.running_hbm]
  rw [State.inHbm, State.inHbm, holds]

/-! ## The command -/

section
variable {s : State} {ring ctx : Nat}

/-- The hypervisor's ring reaches every partition, another its own. -/
theorem notDenied {part : Nat} (h : ring = 16 ∨ ring = part) : deniedTo (reachOf ring) part = false := by
  unfold reachOf
  rcases h with rfl | rfl
  · rw [if_pos rfl]
    rfl
  · split <;> simp [deniedTo]

/-- A command that may run on a context runs, and its status is written. -/
theorem State.ctxCommand_gives {o : Host.Outcome State Fault Refusal} {u : State} {st : Nat} {i : RingEntry} {f : State → Nat × State}
    (ho : o = s.ctxCommand i ring ctx f) (h : s.mayCommand ring ctx) (hf : f (s.running ring) = (st, u)) :
    o = .next (u.putStatus ring (s.takeEntry ring).1 st) := by
  obtain ⟨ready, live, reach⟩ := h
  have stands : ¬ (!((s.running ring).ctxOf ctx).live) = true := by
    rw [State.running_ctxOf, live]
    decide
  have allowed : ¬ deniedTo (reachOf ring) ((s.running ring).ctxOf ctx).part = true := by
    rw [State.running_ctxOf, notDenied reach]
    exact Bool.false_ne_true
  have runs : (if !((s.running ring).ctxOf ctx).live then (hubBADARG, s.running ring)
      else if deniedTo (reachOf ring) ((s.running ring).ctxOf ctx).part then (hubDENIED, s.running ring) else f (s.running ring)) = (st, u) :=
    (if_neg stands).trans ((if_neg allowed).trans hf)
  rw [ho, State.ctxCommand, State.command, if_pos ready]
  exact congrArg (fun x : Nat × State => Host.Outcome.next (x.2.putStatus ring (s.takeEntry ring).1 x.1)) runs

/-- A command whose effect is a function of the state. -/
theorem State.ctxCommand_answers {o : Host.Outcome State Fault Refusal} {st : Nat} {i : RingEntry} {f : State → Nat × State}
    (ho : o = s.ctxCommand i ring ctx f) (h : s.mayCommand ring ctx) (g : State → State)
    (hf : f (s.running ring) = (st, g (s.running ring))) : o = .next (s.answered ring st g) :=
  State.ctxCommand_gives ho h hf

/-- Its ring reports it, where it leaves the rings' own fields alone. -/
theorem State.reports_of_same {u : State} (st : Nat) (hv : u.hub.hvCmds = (s.running ring).hub.hvCmds)
    (parts : u.partOf ring = (s.running ring).partOf ring) : s.reports (u.putStatus ring (s.takeEntry ring).1 st) ring st := by
  by_cases h : ring = 16
  · subst h
    exact State.reports_putStatus st hv
  · have counted : (s.running ring).partOf ring = { s.partOf ring with cmds := (s.partOf ring).cmds + 1 } := by
      unfold State.running State.takeEntry
      rw [if_neg h]
      exact (State.partOf_setPart ..).trans (if_pos rfl)
    have entry : (s.takeEntry ring).1 = (s.partOf ring).cmds := by
      unfold State.takeEntry
      rw [if_neg h]
    unfold State.reports State.putStatus
    rw [if_neg h, if_neg h, State.partOf_setPart, if_pos rfl, parts, counted, entry]
    exact ⟨rfl, (FMap.get_set ..).trans (if_pos rfl)⟩

theorem State.putStatus_rest (s : State) (ring entry st : Nat) : s.putStatus ring entry st =
    { s with hub := { s.hub with hvStatus := (s.putStatus ring entry st).hub.hvStatus, parts := (s.putStatus ring entry st).hub.parts } } := by
  unfold State.putStatus
  split <;> rfl

theorem State.putStatus_ctxOf (s : State) (ring entry st k : Nat) : (s.putStatus ring entry st).ctxOf k = s.ctxOf k := by
  rw [State.putStatus_rest]
  rfl

theorem State.putStatus_mem (s : State) (ring entry st : Nat) : (s.putStatus ring entry st).mem = s.mem := by rw [State.putStatus_rest]

/-- A command that changes memory alone. -/
theorem State.ctxCommand_changesMem {o : Host.Outcome State Fault Refusal} {i : RingEntry} {f : State → Nat × State}
    (ho : o = s.ctxCommand i ring ctx f) (h : s.mayCommand ring ctx) (g : Mem → Mem)
    (hf : f (s.running ring) = (0, { s.running ring with mem := g (s.running ring).mem })) :
    ∃ t : State, o = .next t ∧ s.reports t ring 0 ∧ t.mem = g s.mem ∧ t.me = s.me ∧ t.eng = s.eng := by
  refine ⟨_, State.ctxCommand_gives ho h hf, State.reports_of_same 0 rfl rfl, ?_, ?_, ?_⟩
  · rw [State.putStatus_mem, State.running_mem]
  · rw [State.putStatus_rest, State.running_rest]
  · rw [State.putStatus_rest, State.running_rest]

end

/-! ## What the hub reads through a context -/

theorem State.vread_frontStep {s t : State} {ctx va n : Nat} {bs : List Byte} (h : s.vread ctx va n = some (bs, t)) : s.FrontStep t := by
  unfold State.vread at h
  have loop (ps : List (Nat × Nat)) (acc : Option (List Byte × State)) (hacc : ∀ r u, acc = some (r, u) → s.FrontStep u) :
      ∀ r u, ps.foldl (fun acc p =>
        match acc with
        | none => none
        | some (bs, s) =>
          match s.vtranslate ctx p.1 false with
          | none => none
          | some (pa, s) => some (bs ++ s.mem.bytesAt pa.key p.2, s)) acc = some (r, u) → s.FrontStep u := by
    induction ps generalizing acc with
    | nil => exact hacc
    | cons p ps ih =>
      refine ih _ fun r u hu => ?_
      cases acc with
      | none => cases hu
      | some x =>
        obtain ⟨rest, v⟩ := x
        dsimp only at hu
        split at hu
        · cases hu
        · next pa w hw =>
          obtain ⟨-, rfl⟩ := Prod.mk.inj (Option.some.inj hu)
          exact (hacc rest v rfl).trans (State.vtranslate_frontStep hw)
  refine loop _ _ (fun r u hu => ?_) _ _ h
  obtain ⟨-, rfl⟩ := Prod.mk.inj (Option.some.inj hu)
  exact .refl s

end Sys2Proof.Machine

/-!
PROOFS. The statement on the commands on the registers, tables and areas of a context (O41).
-/

namespace Sys2Proof.Machine

/-- Whether a leaf is still to be used in a range of a context (log 65). -/
theorem usedLeaves_any_iff {ctx : Nat} {a b : Word} {s : State} :
    s.usedLeaves.any (fun u => u.1 == ctx && decide (a.toNat ≤ u.2.1 + 63 ∧ u.2.1 < a.toNat + b.toNat)) = true
      ↔ ∃ u ∈ s.usedLeaves, u.1 = ctx ∧ a.toNat ≤ u.2.1 + 63 ∧ u.2.1 < a.toNat + b.toNat := by
  simp only [List.any_eq_true, Bool.and_eq_true, beq_iff_eq, decide_eq_true_eq]

/-- A cached entry maps an address of a range of a context (R187). -/
theorem TlbEntry.inRange_iff {x : TlbEntry} {ctx base len : Nat} :
    x.inRange ctx base len = true ↔ x.ctx = ctx ∧ x.va < base + len ∧ base < x.va + entrySpan x.entry x.level := by
  rw [TlbEntry.inRange, Bool.and_eq_true, beq_iff_eq, decide_eq_true_iff]

/-! ## Owners of tables (R240) -/

/-- The owner that TABOWN names (log 61). -/
def tableOwner (c : Word) : Option Nat := if c.toNat = 0xFFFF then none else some c.toNat

theorem tableOwner_eq (c : Word) : tableOwner c = if c = 0xFFFF then none else some c.toNat := by
  have none : c.toNat = 0xFFFF ↔ c = 0xFFFF := by
    rw [BitVec.toNat_eq]
    rfl
  simp only [tableOwner, none]

/-- Where a ring may name an owner, it stands and is within the ring's reach. -/
theorem tableOwner_allowed {s : State} {ring : Nat} {c : Word}
    (owner : c = 0xFFFF ∨ (c.toNat < 65535 ∧ (s.ctxOf c.toNat).live = true ∧ (ring = 16 ∨ ring = (s.ctxOf c.toNat).part))) :
    ¬ 0xFFFF < c.toNat ∧ (tableOwner c).any (fun k => !((s.running ring).ctxOf k).live) = false
      ∧ (tableOwner c).any (fun k => deniedTo (reachOf ring) ((s.running ring).ctxOf k).part) = false := by
  rcases owner with rfl | ⟨below, live, reach⟩
  · exact ⟨by decide, rfl, rfl⟩
  · rw [show tableOwner c = some c.toNat from if_neg (by omega), Option.any_some, Option.any_some, State.running_ctxOf, live]
    exact ⟨by omega, rfl, notDenied reach⟩

/-! ## Handler images (R111, R112) -/

/-- The parts of a handler image's header that R111 asks for. -/
structure ImageHeader (img : List Byte) : Prop where
  magic : bytesAt img 0 4 = 0x49484E44
  version : bytesAt img 4 2 = 1
  some : 1 ≤ bytesAt img 6 2
  most : bytesAt img 6 2 ≤ 256
  text : bytesAt img 8 4 ≠ 0
  whole : bytesAt img 8 4 % 64 = 0
  zeros : ∀ x ∈ (img.drop 12).take 52, x = 0
  entries : ∀ x ∈ (List.range (bytesAt img 6 2)).map fun i => bytesAt img (64 + 4 * i) 4, x % 4 = 0 ∧ x < bytesAt img 8 4

theorem parseImage_header {img : List Byte} (good : ImageHeader img) (va : Nat) :
    parseImage img va = some (BitVec.ofNat 64 (va + (64 + 4 * bytesAt img 6 2 + 63) / 64 * 64),
      (List.range (bytesAt img 6 2)).map fun i => bytesAt img (64 + 4 * i) 4) := by
  obtain ⟨magic, version, some, most, text, whole, zeros, entries⟩ := good
  refine if_pos ⟨magic, version, some, most, text, whole, ?_, ?_⟩
  · exact List.all_eq_true.mpr fun x hx => beq_iff_eq.mpr (zeros x hx)
  · exact List.all_eq_true.mpr fun x hx => decide_eq_true (entries x hx)

section
variable {ring ctx : Nat} {a b c : Word} {s : State} (h : s.mayCommand ring ctx)
include h

/-! ## Registers (R178, R353, R388) -/

theorem exec_setroot : if s.inHbm (some (s.ctxOf ctx).part) (4096 * a.toNat) 4096
    then exec (.setroot ring ctx a) s = .next (s.answered ring 0 fun s => s.setCtx ctx fun c => { c with root := a.toNat })
    else exec (.setroot ring ctx a) s = .next (s.answered ring 2 id) := by
  have same : (s.running ring).inHbm (some ((s.running ring).ctxOf ctx).part) (4096 * a.toNat) 4096
      = s.inHbm (some (s.ctxOf ctx).part) (4096 * a.toNat) 4096 := by rw [State.running_inHbm, State.running_ctxOf]
  split
  · next lies => exact State.ctxCommand_answers (rfl : execSetroot ring ctx a s = _) h _ (if_pos (same.trans lies))
  · next lies => exact State.ctxCommand_answers (rfl : execSetroot ring ctx a s = _) h id (if_neg fun l => lies (same.symm.trans l))

theorem exec_savepool : if a.toNat % 4096 ≠ 0 ∨ s.inHbm (some (s.ctxOf ctx).part) a.toNat (73728 * b.toNat) = false
    then exec (.savepool ring ctx a b) s = .next (s.answered ring 2 id)
    else if (s.ctxOf ctx).areas ≠ [] then exec (.savepool ring ctx a b) s = .next (s.answered ring 3 id)
    else exec (.savepool ring ctx a b) s = .next (s.answered ring 0 fun s => s.setCtx ctx fun c => { c with savePool := (a, b.toNat) }) := by
  have bad : (a.toNat % 4096 ≠ 0
      ∨ (!(s.running ring).inHbm (some ((s.running ring).ctxOf ctx).part) a.toNat (73728 * b.toNat)) = true)
      ↔ (a.toNat % 4096 ≠ 0 ∨ s.inHbm (some (s.ctxOf ctx).part) a.toNat (73728 * b.toNat) = false) := by
    rw [State.running_inHbm, State.running_ctxOf, Bool.not_eq_true']
  have used : (!((s.running ring).ctxOf ctx).areas.isEmpty) = true ↔ (s.ctxOf ctx).areas ≠ [] := by
    rw [State.running_ctxOf, Bool.not_eq_true', List.isEmpty_eq_false_iff]
  split
  · next hb => exact State.ctxCommand_answers (rfl : execSavepool ring ctx a b s = _) h id (if_pos (bad.mpr hb))
  · next hb =>
    split
    · next hu => exact State.ctxCommand_answers (rfl : execSavepool ring ctx a b s = _) h id ((if_neg (mt bad.mp hb)).trans (if_pos (used.mpr hu)))
    · next hu => exact State.ctxCommand_answers (rfl : execSavepool ring ctx a b s = _) h _ ((if_neg (mt bad.mp hb)).trans (if_neg (mt used.mp hu)))

theorem exec_timeout : if b ≠ 0 ∧ (b.toNat < 256 ∨ 16777216 < b.toNat)
    then exec (.timeout ring ctx a b) s = .next (s.answered ring 2 id)
    else exec (.timeout ring ctx a b) s = .next (s.answered ring 0 fun s =>
      s.setCtx ctx fun c => { c with wakeLimit := a, sampleInterval := b.toNat }) := by
  split
  · next bad => exact State.ctxCommand_answers (rfl : execTimeout ring ctx a b s = _) h id (if_pos bad)
  · next bad => exact State.ctxCommand_answers (rfl : execTimeout ring ctx a b s = _) h _ (if_neg bad)

/-! ## Memory's own tables (R187, R240, R407) -/

theorem exec_tracebase (die : a.toNat < 8) (which : b.toNat < 2) (fits : c.toNat + 64 ≤ Config.dsmBytes) :
    ∃ t : State, exec (.tracebase ring ctx a b c) s = .next t ∧ s.reports t ring 0
      ∧ FMap.get 0 t.mem.ringBase (2 * a.toNat + b.toNat) = c ∧ t.mem.bytes = s.mem.bytes
      ∧ ∀ k, k ≠ 2 * a.toNat + b.toNat → FMap.get 0 t.mem.ringBase k = FMap.get 0 s.mem.ringBase k := by
  have good : ¬ (7 < a.toNat ∨ 1 < b.toNat ∨ Config.dsmBytes < c.toNat + 64) := by omega
  obtain ⟨t, runs, reports, mem, -, -⟩ := State.ctxCommand_changesMem (rfl : execTracebase ring ctx a b c s = _) h
    (fun m => { m with ringBase := FMap.set 0 m.ringBase (2 * a.toNat + b.toNat) c }) (if_neg good)
  refine ⟨t, runs, reports, ?_, ?_, fun k hk => ?_⟩
  · rw [mem]
    exact (FMap.get_set ..).trans (if_pos rfl)
  · rw [mem]
  · rw [mem]
    exact (FMap.get_set ..).trans (if_neg hk)

theorem exec_xinval_used (used : ∃ u ∈ s.usedLeaves, u.1 = ctx ∧ a.toNat ≤ u.2.1 + 63 ∧ u.2.1 < a.toNat + b.toNat) :
    exec (.xinval ring ctx a b) s = .next (s.append ring (.words 0x03 ctx [a, b])) :=
  if_pos ⟨h.2.1, usedLeaves_any_iff.mpr used⟩

theorem exec_xinval_unused (unused : ¬ ∃ u ∈ s.usedLeaves, u.1 = ctx ∧ a.toNat ≤ u.2.1 + 63 ∧ u.2.1 < a.toNat + b.toNat)
    (range : a.toNat + b.toNat ≤ 144115188075855872) :
    ∃ t : State, exec (.xinval ring ctx a b) s = .next t ∧ s.reports t ring 0
      ∧ (∀ e, e ∈ t.mem.tlb ↔ e ∈ s.mem.tlb
          ∧ ¬ (e.ctx = ctx ∧ e.va < a.toNat + b.toNat ∧ a.toNat < e.va + entrySpan e.entry e.level))
      ∧ t.mem.bytes = s.mem.bytes ∧ t.me = s.me ∧ t.eng = s.eng := by
  obtain ⟨t, runs, reports, mem, me, eng⟩ := State.ctxCommand_changesMem
    (if_neg fun old => unused (usedLeaves_any_iff.mp old.2) : execXinval ring ctx a b s = _) h
    (fun m => { m with tlb := m.tlb.filter fun x => !x.inRange ctx a.toNat b.toNat }) (if_neg (Nat.not_lt.mpr range))
  refine ⟨t, runs, reports, fun e => ?_, ?_, me, eng⟩
  · rw [mem]
    rw [List.mem_filter, Bool.not_eq_true', Bool.eq_false_iff, ne_eq, TlbEntry.inRange_iff]
  · rw [mem]

theorem exec_tabown {pa : PAddr} {core : Nat} (place : (s.running ring).placeOf ctx a.toNat = some pa)
    (tagged : pa.space = .ls core ∨ pa.space = .pool core) (low : 1 ≤ b.toNat) (high : b.toNat ≤ 7)
    (owner : c = 0xFFFF ∨ (c.toNat < 65535 ∧ (s.ctxOf c.toNat).live = true ∧ (ring = 16 ∨ ring = (s.ctxOf c.toNat).part))) :
    ∃ t : State, exec (.tabown ring ctx a b c) s = .next t ∧ s.reports t ring 0
      ∧ FMap.get none t.mem.owners (slotKey pa.space b.toNat) = (if c = 0xFFFF then none else some c.toNat)
      ∧ (∀ k, k ≠ slotKey pa.space b.toNat → FMap.get none t.mem.owners k = FMap.get none s.mem.owners k)
      ∧ t.mem.tables = s.mem.tables ∧ t.mem.bytes = s.mem.bytes := by
  obtain ⟨small, stands, within⟩ := tableOwner_allowed owner
  have denied : ¬ (tableOwner c).any (fun k => deniedTo (reachOf ring) ((s.running ring).ctxOf k).part) = true := by
    rw [within]
    exact Bool.false_ne_true
  have bad : ¬ ((!true) = true ∨ b.toNat = 0 ∨ 7 < b.toNat ∨ 0xFFFF < c.toNat
      ∨ (tableOwner c).any (fun k => !((s.running ring).ctxOf k).live) = true) := by
    rw [stands]
    simp only [Bool.not_true, Bool.false_eq_true, false_or, or_false]
    omega
  obtain ⟨t, runs, reports, mem, -, -⟩ := State.ctxCommand_changesMem (rfl : execTabown ring ctx a b c s = _) h
    (fun m => { m with owners := FMap.set none m.owners (slotKey pa.space b.toNat) (tableOwner c) }) (by
      simp only [place]
      rcases tagged with space | space
      · rw [space]
        exact (if_neg bad).trans (if_neg denied)
      · rw [space]
        exact (if_neg bad).trans (if_neg denied))
  refine ⟨t, runs, reports, ?_, fun k hk => ?_, ?_, ?_⟩
  · rw [mem, ← tableOwner_eq]
    exact (FMap.get_set ..).trans (if_pos rfl)
  · rw [mem]
    exact (FMap.get_set ..).trans (if_neg hk)
  · rw [mem]
  · rw [mem]

/-! ## Lists and areas (R55, R64, R84) -/

theorem exec_msgcores_here {cs vs : List Nat} (chip : a.toNat = s.hub.chip) (small : s.hub.chip ≤ 383) (count : c.toNat ≤ 256)
    (read : (s.running ring).readVcores ctx b.toNat c.toNat = some vs) (all : vs.length = cs.length)
    (named : vs.filterMap ((s.running ring).namedCore ctx) = cs) :
    exec (.msgcores ring ctx a b c) s = .next (s.answered ring 0 fun s => s.setCtx ctx fun k => { k with msgCores := cs }) := by
  refine State.ctxCommand_answers (rfl : execMsgcores ring ctx a b c s = _) h _ ?_
  have here : ¬ a.toNat ≠ (s.running ring).hub.chip := by
    rw [State.running_chip]
    exact not_not.mpr chip
  dsimp only
  rw [if_neg (by omega), read]
  dsimp only
  rw [if_neg here, named, if_pos all.symm]

theorem exec_msgcores_away {vs : List Nat} (chip : a.toNat ≠ s.hub.chip) (small : a.toNat ≤ 383) (count : c.toNat ≤ 256)
    (read : (s.running ring).readVcores ctx b.toNat c.toNat = some vs) :
    exec (.msgcores ring ctx a b c) s = .next (s.answered ring
      (if vs.all (fun v => v / 4096 == a.toNat && ((s.running ring).reachCore ctx v).isSome) then 0 else 2) id) := by
  refine State.ctxCommand_answers (rfl : execMsgcores ring ctx a b c s = _) h id ?_
  have away : a.toNat ≠ (s.running ring).hub.chip := by rwa [State.running_chip]
  dsimp only
  rw [if_neg (by omega), read]
  dsimp only
  rw [if_pos away]
  rfl

theorem exec_routetab (chip : a.toNat = s.hub.chip) (small : s.hub.chip ≤ 383) (count : c.toNat ≤ 65536)
    (pinned : c = 0 ∨ (s.running ring).pinnedHbm ctx b.toNat (4 * c.toNat) = true) :
    exec (.routetab ring ctx a b c) s = .next (s.answered ring 0 fun s => s.setCtx ctx fun k => { k with routeTab := (b, c.toNat) }) := by
  refine State.ctxCommand_answers (rfl : execRoutetab ring ctx a b c s = _) h _ ?_
  have here : ¬ a.toNat ≠ (s.running ring).hub.chip := by
    rw [State.running_chip]
    exact not_not.mpr chip
  have good : ¬ (c ≠ 0 ∧ (!(s.running ring).pinnedHbm ctx b.toNat (4 * c.toNat)) = true) := by
    rintro ⟨some, bad⟩
    rw [pinned.resolve_left some] at bad
    cases bad
  exact (if_neg (by omega)).trans ((if_neg good).trans (if_neg here))

theorem exec_snaparea (free : (s.running ring).freeSnaps.hub.snaps = [])
    (pinned : b = 0 ∨ (a.toNat % 4096 = 0 ∧ (s.running ring).freeSnaps.pinnedHbm ctx a.toNat (4160 * b.toNat) = true)) :
    ∃ t : State, exec (.snaparea ring ctx a b) s = .next t ∧ s.reports t ring 0 ∧ (t.ctxOf ctx).snapArea = (a, b.toNat) ∧ t.mem = s.mem := by
  have good : ¬ (b ≠ 0 ∧ (a.toNat % 4096 ≠ 0 ∨ (!(s.running ring).freeSnaps.pinnedHbm ctx a.toNat (4160 * b.toNat)) = true)) := by
    rintro ⟨some, bad⟩
    obtain ⟨aligned, pinned⟩ := pinned.resolve_left some
    rw [pinned] at bad
    exact bad.elim (absurd aligned) (absurd · (by decide))
  have unused : ¬ ((s.running ring).freeSnaps.hub.snaps.any fun x => x.2.live && x.2.ctx == ctx) = true := by
    rw [free]
    exact Bool.false_ne_true
  refine ⟨_, State.ctxCommand_gives (rfl : execSnaparea ring ctx a b s = _) h ((if_neg good).trans (if_neg unused)),
    State.reports_of_same 0 rfl rfl, ?_, ?_⟩
  · rw [State.putStatus_ctxOf, State.ctxOf_setCtx, if_pos rfl]
  · rw [State.putStatus_mem]
    exact s.running_mem ring

/-! ## The image installed (R112) -/

theorem exec_himage {hd img : List Byte} {s1 s2 : State} (head : (s.running ring).vread ctx a.toNat 64 = some (hd, s1))
    (body : (s.running ring).vread ctx a.toNat (64 + 4 * bytesAt hd 6 2) = some (img, s2)) (good : ImageHeader img)
    (pinned : s2.pinnedFor .fetch ctx (BitVec.ofNat 64 (a.toNat + (64 + 4 * bytesAt img 6 2 + 63) / 64 * 64)).toNat (bytesAt img 8 4) = true) :
    let image := (a, BitVec.ofNat 64 (a.toNat + (64 + 4 * bytesAt img 6 2 + 63) / 64 * 64),
      (List.range (bytesAt img 6 2)).map fun i => bytesAt img (64 + 4 * i) 4)
    ∃ t : State, exec (.himage ring ctx a) s = .next t ∧ s.reports t ring 0 ∧ image ∈ (t.ctxOf ctx).images
      ∧ ∀ x ∈ (t.ctxOf ctx).images, x.1 = a → x = image := by
  intro image
  have step := State.vread_frontStep body
  let installed : State := s2.setCtx ctx fun c => { c with images := (c.images.filter fun i => i.1 != a) ++ [image] }
  have ready : ¬ (!s2.pinnedFor .fetch ctx image.2.1.toNat (bytesAt img 8 4)) = true := by
    rw [show s2.pinnedFor .fetch ctx image.2.1.toNat (bytesAt img 8 4) = true from pinned]
    decide
  have runs := State.ctxCommand_gives (u := installed) (st := 0) (rfl : execHimage ring ctx a s = _) h (by
    rw [head]
    dsimp only
    rw [show (s.running ring).vread ctx a.toNat (0x40 + 4 * fieldOf hd 6 2) = some (img, s2) from body]
    dsimp only
    rw [parseImage_header good]
    exact if_neg ready)
  have images : ((installed.putStatus ring (s.takeEntry ring).1 0).ctxOf ctx).images
      = ((s2.ctxOf ctx).images.filter fun i => i.1 != a) ++ [image] := by
    rw [State.putStatus_ctxOf, State.ctxOf_setCtx, if_pos rfl]
  refine ⟨_, runs, State.reports_of_same 0 ?_ (step.partOf ring), ?_, fun x hx same => ?_⟩
  · exact congrArg (·.hub.hvCmds) step.rest
  · rw [images]
    exact List.mem_append_right _ (List.mem_singleton_self _)
  · rw [images, List.mem_append, List.mem_filter, List.mem_singleton] at hx
    rcases hx with ⟨-, other⟩ | hx
    · exact absurd same (by simpa using other)
    · exact hx

end

/-- Settles O41: each command by what it finds in its ring's next entry. -/
theorem contextCommands : Obligations.ContextCommands := by
  unfold Obligations.ContextCommands
  intro ring ctx a b c s h
  exact ⟨exec_setroot h, exec_savepool h, exec_timeout h, exec_tracebase h, ⟨exec_xinval_used h, exec_xinval_unused h⟩,
    fun pa core place tagged low high owner => exec_tabown h place tagged low high owner,
    fun cs chip small count ⟨vs, read, all, named⟩ => exec_msgcores_here h chip small count read all named,
    fun vs chip small count read => exec_msgcores_away h chip small count read,
    exec_routetab h, exec_snaparea h,
    fun hd img s1 s2 head body _ magic version some most text whole zeros entries pinned =>
      exec_himage h head body ⟨magic, version, some, most, text, whole, zeros, entries⟩ pinned⟩

end Sys2Proof.Machine

/-!
PROOFS. The statement on the copy words does not hold as it stands (O28): the add of `cpyfree` to the mailbox may write a tag for which the
read of a stream's element is parked; that read is then performed, before which the results of the strand's acquires return (R239, R344),
while the statement has the register stack unchanged.
-/

namespace Sys2Proof.Machine

/-- Cycles change a strand's budget, its count of parked cycles and its wait alone. -/
theorem Strand.afterCycles_rest (t : Strand) (core n : Nat) : t.afterCycles core n =
    { t with
      budget := (t.afterCycles core n).budget, budgetDue := (t.afterCycles core n).budgetDue
      parkedCycles := (t.afterCycles core n).parkedCycles, wait := (t.afterCycles core n).wait } := by
  have spent : t.spend n = { t with budget := (t.spend n).budget, budgetDue := (t.spend n).budgetDue } := by
    unfold Strand.spend
    split <;> rfl
  have parked (u : Strand) : u.parkedFor n = { u with parkedCycles := (u.parkedFor n).parkedCycles } := by
    unfold Strand.parkedFor
    split <;> rfl
  have again (u : Strand) : u.triedAgain = { u with wait := u.triedAgain.wait } := by
    unfold Strand.triedAgain
    split
    · rfl
    · split <;> rfl
  unfold Strand.afterCycles
  split
  · split
    · rw [again, parked, spent]
    · rfl
  · rfl

/-- The end of a word leaves the register stack as its effect did. -/
theorem completeWord_stack (sw : Bool) (s t : State) : (completeWord sw .plain .next s t).me.stack = t.me.stack := by
  unfold completeWord
  cases s.me.reissue
  · have kept : (t.me.afterCycles s.me.core 1).stack = t.me.stack := by rw [Strand.afterCycles_rest]
    exact kept
  · rfl

/-- Page 0 of the local store of core 0, at 0x11000, as a page of the context of `State.placed`. -/
def State.withLocalPage (s : State) : State :=
  { s with mem := s.mem.putBytes (hbmKey (entryAddr 20 0 (loadVa + 4096))) (toLE 8 0x38FF) }

/-- The result of an acquire for r4, on its way. -/
def acquiredG4 : LongResult := { id := 0, gdests := [(entryOf 0 4, 7)], vdests := [], wait := .acquire, name := none }

/-- A strand whose r2 holds a mailbox's address, with that result outstanding, and a generator that has parked the read of an element. -/
def freeingStrand : Strand :=
  { loadStrand with
    stack := [(entryOf 0 2, 0x11000)], outstanding := [acquiredG4], streams := [(0, { Stream.reset with parked := [0] })] }

/-- The read of that element, which waits for the mailbox to be written. -/
def parkedElement : AccessUnit :=
  { who := .prefetch 0 0 0 0 0, ctx := 1, sysm := false, core := 0, va := 0x11000, pa := { space := .ls 0, off := 0 }, xk := .vector
    via := .core 0, kind := .ld, acc := .load, offs := blockOffs 0x11000 8, act := .read, trace := none, redirected := false }

/-- An entry of which core 0 is the one receiver. -/
def oneReceiver : FreeEntry :=
  { ply := 0, ctx := 1, mailbox := 0x11000, tile := 0, receivers := 1, freed := 0, compval := 9, op := 0 }

/-- The mailbox's action table: a load of tag 0 waits, and an engine's write of tag 0 leaves tag 1, where a load finds RET (R243). -/
def Mem.filledByEngines (m : Mem) : Mem :=
  let here (k : AKind) : Nat := tableKey (.ls 0) 1 (16 * k.code)
  { m with
    selects := FMap.set 0 m.selects (PAddr.region { space := .ls 0, off := 0 }) 1
    tables := FMap.set 0 (FMap.set 0 m.tables (here .ld) 0x4000) (here .ewr) 0x2200, parked := [parkedElement] }

def freeingState : State :=
  let s := (State.reset.placed 0).withLocalPage
  { s with me := freeingStrand, mem := s.mem.filledByEngines, eng := { s.eng with entries := [oneReceiver] } }

/-- Whether an outcome is a state in which r4 has come to hold that result. -/
def fillsG4 : Host.Outcome State Fault Refusal → Bool
  | .next t => decide (FMap.get 0 t.me.stack (entryOf 0 4) = 7)
  | _ => false

theorem fillsG4_cpyfree : fillsG4 (exec (.cpyfree false 1 2 3) freeingState) = true := by decide +kernel

/-- Whether a translation of the mailbox's address succeeds, where its memory is awake, and leaves the strand and the entry. -/
def findsMailbox : EStateM.Result Exn State XRes → Bool
  | .ok (.ok l) t => decide ((t.wakeIsland l.pa.space).isNone = true ∧ t.me = freeingStrand ∧ t.eng.entries = [oneReceiver])
  | _ => false

theorem findsMailbox_freeingState :
    findsMailbox (translate { ctx := freeingState.me.ctx, sysm := freeingState.me.sysm, kind := .scalar 8, rd := true, wr := false }
      (freeingState.me.g 2).toNat freeingState) = true := by decide +kernel

theorem exists_of_findsMailbox {r : EStateM.Result Exn State XRes} (h : findsMailbox r = true) :
    ∃ l t, r = .ok (.ok l) t ∧ (t.wakeIsland l.pa.space).isNone = true ∧ t.me = freeingStrand ∧ t.eng.entries = [oneReceiver] := by
  unfold findsMailbox at h
  split at h
  · next l t => exact ⟨l, t, rfl, of_decide_eq_true h⟩
  · cases h

theorem freeingState_ready :
    Takes.plain.follows freeingState.me = true ∧ ([2, 3] : List Reg).all freeingState.me.canRead = true
      ∧ freeingState.me.canWrite 1 = true ∧ freeingState.me.outstanding.length < 8 := by decide +kernel

/-- Refutes O28: the last receiver's add to the mailbox writes a tag for which the read of a stream's element waits; before that element
returns, the result of the strand's acquire does (R344), and r4 holds 7, where the statement keeps the register stack. -/
theorem not_copyWords : ¬ Obligations.CopyWords := by
  unfold Obligations.CopyWords
  rintro ⟨-, frees⟩
  obtain ⟨follows, reads, writes, room⟩ := freeingState_ready
  obtain ⟨l, s', found, awake, me, entries⟩ := exists_of_findsMailbox findsMailbox_freeingState
  obtain ⟨-, receiver⟩ := frees false 1 2 3 l freeingState s' follows reads writes room found awake me
  obtain ⟨-, -, first⟩ := receiver oneReceiver (by rw [entries]; decide +kernel)
  obtain ⟨-, last⟩ := first (by decide +kernel) (by decide +kernel)
  obtain ⟨u, done, -, kept⟩ := last (by decide +kernel)
  have filled := fillsG4_cpyfree
  rw [show exec (.cpyfree false 1 2 3) freeingState = _ from done] at filled
  have seven := of_decide_eq_true filled
  rw [completeWord_stack, show (u.sends [(1, 0)]).me.stack = u.me.stack from rfl, kept, me] at seven
  exact absurd seven (by decide +kernel)

end Sys2Proof.Machine

/-!
PROOFS. The statement on the packets of queues does not hold as it stands (O36): when a NOP is accepted and done, doneidx passes it
(R72), and that store wakes the strands that wait for its word (R354), the current strand among them, where the statement has every step
leave the current strand as it was.
-/

namespace Sys2Proof.Machine

/-- A NOP as it is copied from slot 0. -/
def copiedNop : Packet := copiedSlot 0 (toLE 8 0x1000A ++ List.replicate 56 0) 0

/-- A mapped queue whose descriptor stands at 0x11000, with that NOP copied and not yet validated. -/
def nopQueue : Queue :=
  { Queue.none with state := .mapped, ctx := 1, part := 1, desc := 0x11000, ring := 0x10000, lgslots := 4, awaiting := [copiedNop] }

/-- The strand waits for a store to the queue's doneidx, which lies in its local store. -/
def waitingState : State :=
  let s := (State.reset.placed 0).withLocalPage
  { s with
    me := { loadStrand with wait := .wwait }
    mem := { s.mem with waiters := [{ core := 0, slot := 0, pa := { space := .ls 0, off := 0x30 }, gb := 0 }] }
    hub := { s.hub with queues := [(5, nopQueue)] } }

/-- Whether an outcome is a state in which the current strand waits for a store no more. -/
def wakesMe : Host.Outcome State Fault Refusal → Bool
  | .next t => decide (t.me.wait ≠ .wwait)
  | _ => false

theorem wakesMe_skeinValidation : wakesMe (exec (.skeinValidation 5) waitingState) = true := by decide +kernel

/-- Refutes O36: where the current strand waits for a store to doneidx, the acceptance of a NOP wakes it. -/
theorem not_queuePackets : ¬ Obligations.QueuePackets := by
  unfold Obligations.QueuePackets
  rintro ⟨consumption, -⟩
  obtain ⟨-, -, nop, -⟩ := consumption 5 waitingState
  obtain ⟨accepts, -⟩ := nop copiedNop (by decide +kernel) (by decide +kernel) (by decide +kernel) (by decide +kernel) (by decide +kernel)
    (by decide +kernel)
  obtain ⟨t, done, -, -, -, -, -, -, me⟩ := accepts (by decide +kernel)
  have woken := wakesMe_skeinValidation
  rw [done] at woken
  have waits : t.me.wait ≠ .wwait := of_decide_eq_true woken
  rw [me] at waits
  exact waits rfl

end Sys2Proof.Machine

/-!
PROOFS. The statement on the states of queues does not hold as it stands (O35): the count of the hardware contexts in use runs over the list
that holds the queues, and a state may list a number twice, which no step of the model does; the wake store itself then drops the second
entries, and finds a context free.
-/

namespace Sys2Proof.Machine

/-- An IDLE queue with a store to its wake word, and behind it 1,024 entries of the same number, each with a hardware context. -/
def crowdedQueues : FMap Queue :=
  (5, { Queue.none with state := .idle, wakes := [0] }) :: List.replicate 1024 (5, { Queue.none with state := .mapped })

def crowdedState : State := { State.reset with hub := { State.reset.hub with queues := crowdedQueues } }

/-- Whether an outcome is a state in which the queue is mapped. -/
def mapsQueue : Host.Outcome State Fault Refusal → Bool
  | .next t => decide ((t.queueOf 5).state = .mapped)
  | _ => false

theorem mapsQueue_wakeStore : mapsQueue (exec (.wakeStore 5 0) crowdedState) = true := by decide +kernel

/-- No context is free by that count. -/
theorem crowdedState_full :
    ¬ (crowdedState.hub.queues.filter fun x => decide (x.2.state = .mapped ∨ x.2.state = .error)).length < 1024 := by decide +kernel

/-- Refutes O35: where the list of queues holds 1,024 further entries of the number of an IDLE queue, the wake store finds no context free
by the statement's count, and maps the queue. -/
theorem not_queueStates : ¬ Obligations.QueueStates := by
  unfold Obligations.QueueStates
  rintro ⟨states, -⟩
  obtain ⟨-, full, -⟩ := states 5 0 crowdedState
  obtain ⟨t, done, idle, -⟩ := full (by decide +kernel) (by decide +kernel) (by decide +kernel) crowdedState_full
  have mapped := mapsQueue_wakeStore
  rw [done] at mapped
  exact absurd (idle.symm.trans (of_decide_eq_true mapped)) (by decide)

end Sys2Proof.Machine

/-!
PROOFS. Commands on queues and on the device's state (R72–R74, R409, R410, R416, R417).
-/

namespace Sys2Proof.Machine

/-! ## The state in which such a command runs -/

theorem State.running_queueOf (s : State) (ring q : Nat) : (s.running ring).queueOf q = s.queueOf q := by
  rw [State.running_rest]
  rfl

theorem State.running_queueNamed (s : State) (ring : Nat) (n : Name) : (s.running ring).queueNamed n = s.queueNamed n := by
  rw [State.running_rest]
  rfl

theorem State.running_inHbm_reachOf (s : State) (ring addr n : Nat) :
    (s.running ring).inHbm (reachOf ring) addr n = s.inHbm (reachOf ring) addr n := by
  by_cases h : ring = 16
  · subst h
    rfl
  · rw [show reachOf ring = some ring from if_neg h, State.running_inHbm]

theorem State.putStatus_queueOf (s : State) (ring entry st q : Nat) : (s.putStatus ring entry st).queueOf q = s.queueOf q := by
  rw [State.putStatus_rest]
  rfl

/-- A front-end step leaves the rings' own fields. -/
theorem State.FrontStep.hvCmds {s t : State} (h : s.FrontStep t) : t.hub.hvCmds = s.hub.hvCmds := by rw [h.rest]

/-- So does a step that ends names. -/
theorem State.NamesStep.hvCmds {s t : State} (h : s.NamesStep t) : t.hub.hvCmds = s.hub.hvCmds := by rw [h.rest]
theorem State.NamesStep.partOf {s t : State} (h : s.NamesStep t) (k : Nat) : t.partOf k = s.partOf k := by
  rw [h.rest]
  rfl

theorem State.queueNamed_attached {s : State} {n : Name} {q : Nat} (h : s.queueNamed n = some q) : (s.queueOf q).state ≠ .none := by
  unfold State.queueNamed at h
  split at h
  · next found =>
    obtain ⟨-, attached, -⟩ := found
    rwa [← Option.some.inj h]
  · cases h

/-! ## Setting a queue's state, and closing a queue (R74) -/

@[simp] theorem State.setQueue_hub_hvCmds (s : State) (q : Nat) (f : Queue → Queue) : (s.setQueue q f).hub.hvCmds = s.hub.hvCmds := rfl

/-- The state of a queue is set in the front end and then stored in its descriptor. -/
theorem State.setQueueState_frontStep (s : State) (q : Nat) (st : QState) :
    (s.setQueue q fun x => { x with state := st }).FrontStep (s.setQueueState q st) := State.vput_frontStep ..

theorem State.queueOf_setQueueState (s : State) (q : Nat) (st : QState) : (s.setQueueState q st).queueOf q =
    { s.queueOf q with state := st, wakes := ((s.setQueueState q st).queueOf q).wakes } :=
  ((s.setQueueState_frontStep q st).queues q).trans (by rw [State.queueOf_setQueue, if_pos rfl])

/-- To close a queue leaves the rings' own fields, and it is closed where it was attached. -/
theorem State.closeQueue_spec (s : State) (q : Nat) : (s.closeQueue q).hub.hvCmds = s.hub.hvCmds
    ∧ (∀ k, (s.closeQueue q).partOf k = s.partOf k)
    ∧ ((s.queueOf q).state ≠ .none → ((s.closeQueue q).queueOf q).state = .closed) := by
  unfold State.closeQueue
  split
  · next h => exact ⟨rfl, fun _ => rfl, h.resolve_left⟩
  · have put : (s.setQueue q Queue.close).FrontStep ((s.setQueue q Queue.close).putQueueField q 0x19 1 QState.closed.code) :=
      State.vput_frontStep ..
    have left := State.discardLaunches_namesStep ((s.setQueue q Queue.close).putQueueField q 0x19 1 QState.closed.code) q
    refine ⟨left.hvCmds.trans put.hvCmds, fun k => (left.partOf k).trans (put.partOf k), fun _ => ?_⟩
    · rw [left.queueOf, put.queue_state, State.queueOf_setQueue, if_pos rfl]
      rfl

section
variable {s : State} {ring ctx q : Nat} (h : s.mayCommand ring ctx)
include h

theorem exec_qclose_closes {lo hi : Word} (named : s.queueNamed (hi ++ lo) = some q) (reach : ring = 16 ∨ ring = (s.queueOf q).part) :
    ∃ t : State, exec (.qclose ring ctx lo hi) s = .next t ∧ s.reports t ring 0 ∧ (t.queueOf q).state = .closed := by
  obtain ⟨cmds, parts, closed⟩ := (s.running ring).closeQueue_spec q
  rw [State.running_queueOf] at closed
  refine ⟨_, State.ctxCommand_gives (rfl : execQclose ring ctx lo hi s = _) h ?_, State.reports_of_same 0 cmds (parts ring), ?_⟩
  · rw [State.running_queueNamed, named]
    dsimp only
    rw [State.running_queueOf, notDenied reach]
    rfl
  · rw [State.putStatus_queueOf]
    exact closed (State.queueNamed_attached named)

theorem exec_qclose_denied {lo hi : Word} (named : s.queueNamed (hi ++ lo) = some q) (below : ring ≠ 16) (other : ring ≠ (s.queueOf q).part) :
    exec (.qclose ring ctx lo hi) s = .next (s.answered ring 1 id) := by
  refine State.ctxCommand_answers (rfl : execQclose ring ctx lo hi s = _) h id ?_
  have denied : deniedTo (reachOf ring) (s.queueOf q).part = true := by
    rw [show reachOf ring = some ring from if_neg below]
    exact bne_iff_ne.mpr other
  rw [State.running_queueNamed, named]
  dsimp only
  rw [State.running_queueOf, denied]
  rfl

theorem exec_qclose_unnamed {lo hi : Word} (none : s.queueNamed (hi ++ lo) = none) :
    exec (.qclose ring ctx lo hi) s = .next (s.answered ring 2 id) := by
  refine State.ctxCommand_answers (rfl : execQclose ring ctx lo hi s = _) h id ?_
  rw [State.running_queueNamed, none]
  rfl

end

/-! ## Attaching a queue (R72, R73) -/

/-- The checks that R73 makes of a queue's descriptor `b`, in the state in which it has been read. -/
structure QueueChecks (s : State) (ctx part q : Nat) (desc : Word) (b : List Byte) : Prop where
  place : desc.toNat % 128 = 0
  ring : bytesAt b 0x10 8 % 4096 = 0
  least : 4 ≤ bytesAt b 0x18 1
  most : bytesAt b 0x18 1 ≤ 16
  errrec : bytesAt b 0x40 8 % 64 = 0
  zeros : bytesAt b 0x1A 6 = 0
  rest : ∀ x ∈ b.drop 0x48, x = 0
  described : s.rangeInHbm ctx desc.toNat 128 = true
  slots : s.rangeInHbm ctx (bytesAt b 0x10 8) (64 * 2 ^ bytesAt b 0x18 1) = true
  counter : q = nameCounter (BitVec.ofNat 128 (bytesAt b 0 16))
  found : s.resolve part (BitVec.ofNat 128 (bytesAt b 0 16)) = .found 0 q
  cls : nameClass (BitVec.ofNat 128 (bytesAt b 0 16)) = classQUEUE
  addr : (s.nameEntry q).addr = desc
  quota : (s.hub.queues.filter fun x => x.2.part == part && decide (x.2.state ≠ .none ∧ x.2.state ≠ .closed)).length < (s.partOf part).queueQuota

/-- A queue as it is attached. -/
def State.newQueue (s : State) (ctx part : Nat) (desc : Word) (b : List Byte) : Queue :=
  { Queue.none with
    state := .idle, name := BitVec.ofNat 128 (bytesAt b 0 16), part := part, ctx := ctx, desc := desc
    ring := BitVec.ofNat 64 (bytesAt b 0x10 8), lgslots := bytesAt b 0x18 1, errrec := BitVec.ofNat 64 (bytesAt b 0x40 8)
    attachOrder := s.hub.attachCount, wakeKey := s.wordKey ctx (desc.toNat + 0x38) }

/-- The state with a queue attached. -/
def State.attaches (s : State) (q : Nat) (k : Queue) : State :=
  ((s.setQueue q fun _ => k).setHub fun h => { h with attachCount := h.attachCount + 1 }).setQueueState q .idle

theorem State.attach_eq {s s1 : State} {ctx q : Nat} {desc : Word} {b : List Byte} (read : s.vread ctx desc.toNat 128 = some (b, s1))
    (good : QueueChecks s1 ctx (s.ctxOf ctx).part q desc b) : s.attach ctx desc =
      if ((s1.queueOf q).state ≠ .none ∧ (s1.queueOf q).state ≠ .closed) ∨ (!(s1.queueOf q).packets.isEmpty) = true then (3, s1)
      else (0, s1.attaches q (s1.newQueue ctx (s.ctxOf ctx).part desc b)) := by
  obtain ⟨place, ring, least, most, errrec, zeros, rest, described, slots, counter, found, cls, addr, quota⟩ := good
  have zero : zeroFrom b 0x48 = true := List.all_eq_true.mpr fun x hx => beq_iff_eq.mpr (rest x hx)
  subst counter
  unfold State.attach
  rw [read]
  dsimp only
  rw [if_neg (by
    simp only [Bool.not_eq_true', Bool.not_eq_false, Bool.and_eq_true, decide_eq_true_eq, beq_iff_eq]
    exact ⟨⟨⟨⟨⟨⟨⟨place, ring, least, most, errrec, zeros, zero⟩, described⟩, slots⟩, found⟩, cls⟩, addr⟩, quota⟩)]
  rfl

/-- To attach a queue leaves the rings' own fields, and it stands as it was given. -/
theorem State.attaches_spec (s : State) (q : Nat) {k : Queue} (idle : k.state = .idle) :
    (s.attaches q k).hub.hvCmds = s.hub.hvCmds ∧ (∀ p, (s.attaches q k).partOf p = s.partOf p)
      ∧ (s.attaches q k).queueOf q = { k with wakes := ((s.attaches q k).queueOf q).wakes } := by
  let counted := (s.setQueue q fun _ => k).setHub fun h => { h with attachCount := h.attachCount + 1 }
  rw [show s.attaches q k = counted.setQueueState q .idle from rfl]
  have step := counted.setQueueState_frontStep q .idle
  have set : counted.queueOf q = k := (State.queueOf_setQueue s q q fun _ => k).trans (if_pos rfl)
  have queue := counted.queueOf_setQueueState q .idle
  rw [set] at queue
  have same (ws : List Word) : { k with state := .idle, wakes := ws } = { k with wakes := ws } :=
    congrArg (fun st => { k with state := st, wakes := ws }) idle.symm
  have cmds : (counted.setQueue q fun x => { x with state := .idle }).hub.hvCmds = s.hub.hvCmds := by
    simp only [counted, State.setQueue_hub_hvCmds, State.setHub_hub]
  have parts : (counted.setQueue q fun x => { x with state := .idle }).hub.parts = s.hub.parts := by
    simp only [counted, State.setQueue_hub_parts, State.setHub_hub]
  exact ⟨step.hvCmds.trans cmds, fun p => (step.partOf p).trans (congrArg (FMap.get Part.none · p) parts), queue.trans (same _)⟩

theorem State.vtranslate_queues {s t : State} {ctx va : Nat} {write : Bool} {pa : PAddr}
    (h : s.vtranslate ctx va write = some (pa, t)) : t.hub.queues = s.hub.queues := by
  have meets (u : State) (sp : Space) : (u.meets sp).hub.queues = u.hub.queues := by
    unfold State.meets
    split
    · split <;> rfl
    · rfl
  unfold State.vtranslate at h
  split at h
  · next l u hu =>
    obtain ⟨-, rfl⟩ := Prod.mk.inj (Option.some.inj h)
    rw [meets, ((walks_translate _ _).ok hu).hub]
  · cases h

/-- A read leaves the queues, the wakes noted of them too. -/
theorem State.vread_queues {s t : State} {ctx va n : Nat} {bs : List Byte} (h : s.vread ctx va n = some (bs, t)) :
    t.hub.queues = s.hub.queues := by
  unfold State.vread at h
  refine List.foldlRecOn _ _ (motive := fun acc => ∀ r u, acc = some (r, u) → u.hub.queues = s.hub.queues) ?_ (fun acc keeps p _ r u hu => ?_)
    _ _ h
  · intro r u hu
    obtain ⟨-, rfl⟩ := Prod.mk.inj (Option.some.inj hu)
    rfl
  · cases acc with
    | none => cases hu
    | some x =>
      dsimp only at hu
      split at hu
      · cases hu
      · next pa v hv =>
        obtain ⟨-, rfl⟩ := Prod.mk.inj (Option.some.inj hu)
        exact (State.vtranslate_queues hv).trans (keeps x.1 x.2 rfl)

section
variable {s s1 : State} {ring ctx q : Nat} {desc : Word} {b : List Byte} (h : s.mayCommand ring ctx)
  (read : (s.running ring).vread ctx desc.toNat 128 = some (b, s1)) (good : QueueChecks s1 ctx (s.ctxOf ctx).part q desc b)
include h read good

theorem exec_qattach_new (new : (s.queueOf q).state = .none ∨ (s.queueOf q).state = .closed) (empty : (s.queueOf q).packets = []) :
    ∃ t : State, exec (.qattach ring ctx desc) s = .next t ∧ s.reports t ring 0
      ∧ t.queueOf q = { s1.newQueue ctx (s.ctxOf ctx).part desc b with wakes := (t.queueOf q).wakes } := by
  have step := State.vread_frontStep read
  have free : ¬ (((s1.queueOf q).state ≠ .none ∧ (s1.queueOf q).state ≠ .closed) ∨ (!(s1.queueOf q).packets.isEmpty) = true) := by
    rw [step.queue_state, step.queue_packets, State.running_queueOf, empty]
    rcases new with new | new <;> simp [new]
  have attaches := (State.attach_eq read (by rwa [State.running_ctxOf])).trans (if_neg free)
  rw [State.running_ctxOf] at attaches
  obtain ⟨cmds, parts, queue⟩ := s1.attaches_spec q (rfl : (s1.newQueue ctx (s.ctxOf ctx).part desc b).state = .idle)
  refine ⟨_, State.ctxCommand_gives (rfl : execQattach ring ctx desc s = _) h attaches,
    State.reports_of_same 0 (cmds.trans step.hvCmds) ((parts ring).trans (step.partOf ring)), ?_⟩
  rw [State.putStatus_queueOf]
  exact queue

theorem exec_qattach_busy (held : (s.queueOf q).state ≠ .none ∧ (s.queueOf q).state ≠ .closed) :
    ∃ t : State, exec (.qattach ring ctx desc) s = .next t ∧ s.reports t ring 3 ∧ t.queueOf q = s.queueOf q := by
  have step := State.vread_frontStep read
  have same : s1.queueOf q = s.queueOf q :=
    (congrArg (FMap.get Queue.none · q) (State.vread_queues read)).trans (State.running_queueOf ..)
  have busy := (State.attach_eq read (by rwa [State.running_ctxOf])).trans (if_pos (.inl (by rwa [same])))
  refine ⟨_, State.ctxCommand_gives (rfl : execQattach ring ctx desc s = _) h busy, State.reports_of_same 3 step.hvCmds (step.partOf ring), ?_⟩
  rw [State.putStatus_queueOf, same]

end

/-! ## Windows (R417) -/

/-- The window of an object, or the buffer, that a command names is none that R417 allows. -/
def State.badWindow (s : State) (ring : Nat) (offset len buf : Word) : Prop :=
  offset.toNat % 8 ≠ 0 ∨ len.toNat % 8 ≠ 0 ∨ len.toNat < 8 ∨ 4096 < len.toNat ∨ buf.toNat % 8 ≠ 0
    ∨ s.inHbm (reachOf ring) buf.toNat len.toNat = false

section
variable {s : State} {ring ctx : Nat} {cls id0 id1 offset len buf : Word}

/-- The test that both commands begin with. -/
theorem badWindow_iff : ((!goodWindow offset.toNat len.toNat) = true ∨ buf.toNat % 8 ≠ 0
      ∨ (!(s.running ring).inHbm (reachOf ring) buf.toNat len.toNat) = true ∨ 2 ^ 8 ≤ cls.toNat) ↔
    s.badWindow ring offset len buf ∨ 2 ^ 8 ≤ cls.toNat := by
  have window : ¬ (offset.toNat % 8 = 0 ∧ len.toNat % 8 = 0 ∧ 8 ≤ len.toNat ∧ len.toNat ≤ 4096) ↔
      offset.toNat % 8 ≠ 0 ∨ len.toNat % 8 ≠ 0 ∨ len.toNat < 8 ∨ 4096 < len.toNat := by omega
  rw [State.running_inHbm_reachOf, goodWindow, Bool.not_eq_true', Bool.not_eq_true', decide_eq_false_iff_not, window, State.badWindow]
  simp only [or_assoc]

/-- R417: a window, a buffer or a class that is none. -/
theorem exec_state_bad (h : s.mayCommand ring ctx) (bad : s.badWindow ring offset len buf ∨ 2 ^ 8 ≤ cls.toNat) :
    exec (.staterd ring ctx cls id0 id1 offset len buf) s = .next (s.answered ring 2 id)
      ∧ exec (.statewr ring ctx cls id0 id1 offset len buf) s = .next (s.answered ring 2 id) :=
  ⟨State.ctxCommand_answers (rfl : execStaterd ring ctx cls id0 id1 offset len buf s = _) h id (if_pos (badWindow_iff.mpr bad)),
    State.ctxCommand_answers (rfl : execStatewr ring ctx cls id0 id1 offset len buf s = _) h id (if_pos (badWindow_iff.mpr bad))⟩

variable (good : ¬ s.badWindow ring offset len buf) (known : cls.toNat < 2 ^ 8)
include good known

/-! ## Reading (R410) -/

theorem exec_staterd_error (h : s.mayCommand ring ctx) {st : Nat}
    (form : (s.running ring).objectForm (reachOf ring) ctx cls.toNat id0 id1 (offset.toNat + len.toNat) = .error st) :
    exec (.staterd ring ctx cls id0 id1 offset len buf) s = .next (s.answered ring st id) := by
  refine State.ctxCommand_answers (rfl : execStaterd ring ctx cls id0 id1 offset len buf s = _) h id ?_
  refine (if_neg (mt badWindow_iff.mp (not_or.mpr ⟨good, Nat.not_le.mpr known⟩))).trans ?_
  rw [form]
  rfl

theorem exec_staterd_ok (h : s.mayCommand ring ctx) {b : List Byte}
    (form : (s.running ring).objectForm (reachOf ring) ctx cls.toNat id0 id1 (offset.toNat + len.toNat) = .ok b)
    (fits : offset.toNat + len.toNat ≤ b.length) :
    ∃ t : State, exec (.staterd ring ctx cls id0 id1 offset len buf) s = .next t ∧ s.reports t ring 0
      ∧ ∀ i, i < len.toNat → FMap.get Mem.byte0 t.mem.bytes (hbmKey buf.toNat + i) = (b[offset.toNat + i]?).getD 0 := by
  have store := (s.running ring).storeAt_frontStep { space := .hbm, off := buf.toNat } ((b.drop offset.toNat).take len.toNat)
  refine ⟨_, State.ctxCommand_gives (rfl : execStaterd ring ctx cls id0 id1 offset len buf s = _) h
    ((if_neg (mt badWindow_iff.mp (not_or.mpr ⟨good, Nat.not_le.mpr known⟩))).trans (by
      rw [form]
      exact if_neg (Nat.not_lt.mpr fits))), State.reports_of_same 0 store.hvCmds (store.partOf ring), fun i hi => ?_⟩
  have length : ((b.drop offset.toNat).take len.toNat).length = len.toNat := by
    rw [List.length_take, List.length_drop]
    omega
  rw [State.putStatus_mem, State.storeAt, State.wakeWords_bytes, Mem.putWords_bytes, Mem.putBytes, FMap.get_setList, length]
  rw [if_pos (by rw [hbmKey]; omega), hbmKey, Nat.add_sub_cancel_left, List.getD_eq_getElem?_getD, List.getElem?_take_of_lt hi,
    List.getElem?_drop]
  rfl

/-! ## Writing (R410) -/

theorem State.writeObject_good : (s.running ring).writeObject (reachOf ring) ctx cls id0 id1 offset len buf =
    (s.running ring).writeWindow (reachOf ring) ctx cls.toNat id0 id1 offset.toNat (s.mem.bytesAt (hbmKey buf.toNat) len.toNat) := by
  refine (if_neg (mt badWindow_iff.mp (not_or.mpr ⟨good, Nat.not_le.mpr known⟩))).trans ?_
  rw [State.running_mem]

end

section
variable {s : State} {r : Reach} {ctx cls o : Nat} {id0 id1 : Word} {x : List Byte}

theorem State.writeWindow_readOnly (h : cls ∉ [3, 5, 6, 7, 10]) : s.writeWindow r ctx cls id0 id1 o x = (2, s) :=
  if_pos (by rw [Bool.not_eq_true', ← Bool.not_eq_true, List.contains_iff_mem]; exact h)

variable (writable : cls ∈ [3, 5, 6, 7, 10])
include writable

theorem State.writeWindow_error {st : Nat} (form : s.objectForm r ctx cls id0 id1 (o + x.length) = .error st) :
    s.writeWindow r ctx cls id0 id1 o x = (st, s) := by
  refine (if_neg (by rw [List.contains_iff_mem.mpr writable]; decide)).trans ?_
  rw [form]

theorem State.writeWindow_ok {old : List Byte} (form : s.objectForm r ctx cls id0 id1 (o + x.length) = .ok old)
    (fits : o + x.length ≤ old.length) (zeros : cls = 10 → ∀ y ∈ x, y = 0) :
    s.writeWindow r ctx cls id0 id1 o x = s.writeForm ctx cls id0 id1 old (patch old o x) := by
  refine (if_neg (by rw [List.contains_iff_mem.mpr writable]; decide)).trans ?_
  rw [form]
  have resets : ¬ (cls = 10 ∧ x.any (· != 0) = true) := by
    rintro ⟨counters, some⟩
    obtain ⟨y, hy, bad⟩ := List.any_eq_true.mp some
    exact bne_iff_ne.mp bad (zeros counters y hy)
  exact (if_neg (Nat.not_lt.mpr fits)).trans (if_neg resets)

end

/-! ## A form with a window replaced -/

theorem getElem?_patch {b x : List Byte} {o : Nat} (fits : o + x.length ≤ b.length) (j : Nat) :
    (patch b o x)[j]? = if o ≤ j ∧ j < o + x.length then x[j - o]? else b[j]? := by
  have start : (b.take o).length = o := by
    rw [List.length_take]
    omega
  rw [patch, List.append_assoc]
  by_cases before : j < o
  · rw [List.getElem?_append_left (by omega), List.getElem?_take_of_lt before, if_neg (by omega)]
  · rw [List.getElem?_append_right (by omega), start]
    by_cases within : j < o + x.length
    · rw [List.getElem?_append_left (by omega), if_pos (by omega)]
    · rw [List.getElem?_append_right (by omega), List.getElem?_drop, if_neg (by omega)]
      congr 1
      omega

theorem ofLE_zeros {bs : List Byte} (h : ∀ y ∈ bs, y = 0) : ofLE bs = 0 := by
  induction bs with
  | nil => rfl
  | cons y bs ih =>
    rw [ofLE, h y List.mem_cons_self, ih fun z hz => h z (List.mem_cons_of_mem y hz)]
    rfl

/-- A field within a window of zeros. -/
theorem fieldOf_patch_within {b x : List Byte} {o off n : Nat} (fits : o + x.length ≤ b.length) (zeros : ∀ y ∈ x, y = 0) (low : o ≤ off)
    (high : off + n ≤ o + x.length) : fieldOf (patch b o x) off n = 0 := by
  refine ofLE_zeros fun y hy => ?_
  obtain ⟨k, hk⟩ := List.mem_iff_getElem?.mp hy
  have small : k < n := by
    by_contra big
    rw [List.getElem?_eq_none (by rw [List.length_take]; omega)] at hk
    cases hk
  rw [List.getElem?_take_of_lt small, List.getElem?_drop, getElem?_patch fits, if_pos (by omega)] at hk
  exact zeros y (List.mem_of_getElem? hk)

/-- A field beside a window. -/
theorem fieldOf_patch_beside {b x : List Byte} {o off n : Nat} (fits : o + x.length ≤ b.length) (beside : off + n ≤ o ∨ o + x.length ≤ off) :
    fieldOf (patch b o x) off n = fieldOf b off n := by
  refine congrArg ofLE (List.ext_getElem? fun k => ?_)
  by_cases small : k < n
  · rw [List.getElem?_take_of_lt small, List.getElem?_take_of_lt small, List.getElem?_drop, List.getElem?_drop, getElem?_patch fits,
      if_neg (by omega)]
  · rw [List.getElem?_take_eq_none (by omega), List.getElem?_take_eq_none (by omega)]

/-! ## Error counters (R410) -/

/-- A counter that the form reads as 0 is reset. -/
def zeroCounter (b : List Byte) (x : Nat × Space) (i : Nat) (e : FMap Nat) : FMap Nat :=
  if fieldOf b (16 * x.1 + 8 * i) 8 = 0 then FMap.set 0 e (2 * x.2.index + i) 0 else e

/-- Whether the form reads 0 for a counter of some memories, by its key. -/
def ReadsZero (b : List Byte) (xs : List (Nat × Space)) (j : Nat) : Prop :=
  ∃ x ∈ xs, ∃ i, i < 2 ∧ j = 2 * x.2.index + i ∧ fieldOf b (16 * x.1 + 8 * i) 8 = 0

theorem get_zeroCounter (b : List Byte) (x : Nat × Space) (i : Nat) (e : FMap Nat) (j : Nat) :
    FMap.get 0 (zeroCounter b x i e) j = if fieldOf b (16 * x.1 + 8 * i) 8 = 0 ∧ j = 2 * x.2.index + i then 0 else FMap.get 0 e j := by
  unfold zeroCounter
  split
  · next zero => simp [zero]
  · next some => simp [some]

theorem readsZero_cons (b : List Byte) (x : Nat × Space) (xs : List (Nat × Space)) (j : Nat) : ReadsZero b (x :: xs) j ↔
    ((fieldOf b (16 * x.1 + 8 * 0) 8 = 0 ∧ j = 2 * x.2.index + 0) ∨ (fieldOf b (16 * x.1 + 8 * 1) 8 = 0 ∧ j = 2 * x.2.index + 1))
      ∨ ReadsZero b xs j := by
  have two (p : Nat → Prop) : (∃ i, i < 2 ∧ p i) ↔ p 0 ∨ p 1 := by
    constructor
    · rintro ⟨i, hi, h⟩
      obtain rfl | rfl : i = 0 ∨ i = 1 := by omega
      · exact .inl h
      · exact .inr h
    · rintro (h | h)
      · exact ⟨0, by decide, h⟩
      · exact ⟨1, by decide, h⟩
  unfold ReadsZero
  rw [List.exists_mem_cons_iff, two]
  simp only [and_comm]

/-- Those counters come to be 0, and the others stay. -/
theorem foldl_zeroCounter (b : List Byte) (xs : List (Nat × Space)) (e : FMap Nat) (j : Nat) :
    let t := xs.foldl (fun e x => zeroCounter b x 1 (zeroCounter b x 0 e)) e
    (ReadsZero b xs j → FMap.get 0 t j = 0) ∧ (¬ ReadsZero b xs j → FMap.get 0 t j = FMap.get 0 e j) := by
  induction xs generalizing e with
  | nil => exact ⟨fun ⟨_, hx, _⟩ => absurd hx List.not_mem_nil, fun _ => rfl⟩
  | cons x xs ih =>
    intro t
    obtain ⟨zero, same⟩ := ih (zeroCounter b x 1 (zeroCounter b x 0 e))
    rw [get_zeroCounter, get_zeroCounter] at same
    by_cases later : ReadsZero b xs j
    · exact ⟨fun _ => zero later, fun none => absurd ((readsZero_cons ..).mpr (.inr later)) none⟩
    · rw [show FMap.get 0 t j = _ from same later]
      refine ⟨fun reads => ?_, fun none => ?_⟩
      · obtain (first | second) := ((readsZero_cons ..).mp reads).resolve_right later
        · rw [if_pos first, ite_self]
        · rw [if_pos second]
      · obtain ⟨first, second⟩ := not_or.mp (not_or.mp (mt (readsZero_cons ..).mpr none)).1
        rw [if_neg first, if_neg second]

theorem Mem.errors_resetErrors (m : Mem) (sps : List Space) (b : List Byte) (j : Nat) :
    (ReadsZero b ((List.range sps.length).zip sps) j → FMap.get 0 (m.resetErrors sps b).errors j = 0)
      ∧ (¬ ReadsZero b ((List.range sps.length).zip sps) j → FMap.get 0 (m.resetErrors sps b).errors j = FMap.get 0 m.errors j) :=
  foldl_zeroCounter b ((List.range sps.length).zip sps) m.errors j

theorem Mem.length_bytesAt (m : Mem) (k n : Nat) : (m.bytesAt k n).length = n := FMap.length_getList ..

theorem Mem.getElem?_bytesAt (m : Mem) {k n i : Nat} (small : i < n) : (m.bytesAt k n)[i]? = some (FMap.get Mem.byte0 m.bytes (k + i)) := by
  have inside : i < (m.bytesAt k n).length := by rwa [Mem.length_bytesAt]
  rw [List.getElem?_eq_getElem inside, ← FMap.getD_getList Mem.byte0 0 m.bytes k n i small]
  exact congrArg some (List.getD_eq_getElem _ _ inside).symm

theorem Mem.bytesAt_zeros {m : Mem} {k n : Nat} (zeros : ∀ i, i < n → FMap.get Mem.byte0 m.bytes (k + i) = 0) : ∀ y ∈ m.bytesAt k n, y = 0 := by
  intro y hy
  obtain ⟨i, hi⟩ := List.mem_iff_getElem?.mp hy
  have small : i < n := by
    obtain ⟨inside, -⟩ := List.getElem?_eq_some_iff.mp hi
    rwa [Mem.length_bytesAt] at inside
  rw [Mem.getElem?_bytesAt m small, zeros i small] at hi
  exact (Option.some.inj hi).symm

section
variable {s : State} {r : Reach} {ctx upTo : Nat} {id0 id1 : Word}

/-- The counters of all memories (log 120). -/
theorem State.objectForm_allErrors : s.objectForm r ctx 10 0 id1 upTo =
    if r.isSome then .error 1 else .ok (allMemories.map s.mem.errorBytes).flatten := by
  simp only [State.objectForm, ↓reduceIte]

theorem State.objectForm_errors {pa : PAddr} {b : List Byte} (one : id0 ≠ 0) (place : s.placeOf ctx id0.toNat = some pa)
    (form : s.objectForm r ctx 10 id0 id1 upTo = .ok b) : b = s.mem.errorBytes pa.space := by
  simp only [State.objectForm, if_neg one, place] at form
  split at form
  · split at form
    · cases form
    · exact (Except.ok.inj form).symm
  · split at form
    · cases form
    · exact (Except.ok.inj form).symm

end

theorem Mem.fieldOf_errorBytes {m : Mem} (small : ∀ e, FMap.get 0 m.errors e < 2 ^ 64) (sp : Space) {i : Nat} (hi : i < 2) :
    fieldOf (m.errorBytes sp) (8 * i) 8 = FMap.get 0 m.errors (2 * sp.index + i) := by
  have read (x : Nat) (hx : x < 2 ^ 64) : ofLE (toLE 8 x) = x := by
    rw [ofLE_toLE]
    exact Nat.mod_eq_of_lt hx
  obtain rfl | rfl : i = 0 ∨ i = 1 := by omega
  · exact read _ (small _)
  · exact read _ (small _)

/-- The counters of a memory that a window of its form covers, by their keys. -/
def CoversCounter (o n : Nat) (sp : Space) (e : Nat) : Prop := ∃ i, i < 2 ∧ e = 2 * sp.index + i ∧ o ≤ 8 * i ∧ 8 * i + 8 ≤ o + n

/-- Zeros in a window reset the counters that it covers and no others: a counter beside it that the form reads as 0 is 0 already. -/
theorem Mem.resetErrors_window {m : Mem} {sp : Space} {o : Nat} {x : List Byte} (small : ∀ e, FMap.get 0 m.errors e < 2 ^ 64)
    (fits : o + x.length ≤ (m.errorBytes sp).length) (zeros : ∀ y ∈ x, y = 0) (start : o % 8 = 0) (whole : x.length % 8 = 0) (e : Nat) :
    (CoversCounter o x.length sp e → FMap.get 0 (m.resetErrors [sp] (patch (m.errorBytes sp) o x)).errors e = 0)
      ∧ (¬ CoversCounter o x.length sp e →
        FMap.get 0 (m.resetErrors [sp] (patch (m.errorBytes sp) o x)).errors e = FMap.get 0 m.errors e) := by
  obtain ⟨reset, same⟩ := m.errors_resetErrors [sp] (patch (m.errorBytes sp) o x) e
  refine ⟨fun covered => reset ?_, fun beside => ?_⟩
  · obtain ⟨i, hi, rfl, low, high⟩ := covered
    refine ⟨(0, sp), List.mem_singleton.mpr rfl, i, hi, rfl, fieldOf_patch_within fits zeros ?_ ?_⟩ <;> omega
  · by_cases reads : ReadsZero (patch (m.errorBytes sp) o x) ((List.range [sp].length).zip [sp]) e
    · rw [reset reads]
      obtain ⟨_, hx, i, hi, rfl, zero⟩ := reads
      obtain rfl := List.mem_singleton.mp hx
      have apart : 8 * i + 8 ≤ o ∨ o + x.length ≤ 8 * i := by
        by_contra meets
        exact beside ⟨i, hi, rfl, by omega, by omega⟩
      rw [Nat.mul_zero, Nat.zero_add, fieldOf_patch_beside fits apart, Mem.fieldOf_errorBytes small _ hi] at zero
      exact zero.symm
    · exact same reads

/-- The state with the tags of a block written, one a byte, and the waiters of its words woken. -/
def State.writesTags (s : State) (block : Nat) (x : List Byte) : State :=
  ({ s with mem := { s.mem with tags := FMap.setList 0 s.mem.tags (8 * block) (x.map fun y => y.setWidth 4) } } : State).wakeWords
    ((List.range 8).map fun k => 8 * block + k)

theorem State.writesTags_frontStep (s : State) (block : Nat) (x : List Byte) : s.FrontStep (s.writesTags block x) :=
  State.FrontStep.trans (t := { s with mem := { s.mem with tags := FMap.setList 0 s.mem.tags (8 * block) (x.map fun y => y.setWidth 4) } })
    ⟨rfl, rfl, fun _ => rfl⟩ (State.wakeWords_frontStep ..)

theorem State.writesTags_bytes (s : State) (block : Nat) (x : List Byte) : (s.writesTags block x).mem.bytes = s.mem.bytes :=
  State.wakeWords_bytes ..

theorem State.writesTags_tags (s : State) (block : Nat) (x : List Byte) :
    (s.writesTags block x).mem.tags = FMap.setList 0 s.mem.tags (8 * block) (x.map fun y => y.setWidth 4) := State.wakeWords_tags ..

section
variable {s : State} {ctx : Nat} {id0 id1 : Word} {old b : List Byte} {pa : PAddr}

theorem State.writeForm_tags (place : s.placeOf ctx id0.toNat = some pa) (unparked : s.mem.parked = []) :
    s.writeForm ctx 6 id0 0 old b = (0, s.writesTags pa.block b) := by
  have none (t : State) (ws : List Nat) (same : t.mem.parked = []) : (t.wakeWords ws).mem.parked = [] := by
    rw [State.wakeWords_mem]
    exact same
  simp only [State.writeForm, place]
  exact congrArg (Prod.mk 0) (State.afterTagChange_of_unparked _ (none _ _ unparked))

theorem State.writeForm_allErrors : s.writeForm ctx 10 0 id1 old b = (0, { s with mem := s.mem.resetErrors allMemories b }) := by
  simp only [State.writeForm, ↓reduceIte]

theorem State.writeForm_errors (one : id0 ≠ 0) (place : s.placeOf ctx id0.toNat = some pa) :
    s.writeForm ctx 10 id0 id1 old b = (0, { s with mem := s.mem.resetErrors [pa.space] b }) := by
  simp only [State.writeForm, if_neg one, place]

end

section
variable {s : State} {ring ctx : Nat} {cls id0 id1 offset len buf : Word} (h : s.mayCommand ring ctx)
  (good : ¬ s.badWindow ring offset len buf)
include h good

theorem exec_statewr_readOnly (readOnly : cls.toNat ∉ [3, 5, 6, 7, 10]) :
    exec (.statewr ring ctx cls id0 id1 offset len buf) s = .next (s.answered ring 2 id) := by
  by_cases known : cls.toNat < 2 ^ 8
  · exact State.ctxCommand_answers (rfl : execStatewr ring ctx cls id0 id1 offset len buf s = _) h id
      ((State.writeObject_good good known).trans (State.writeWindow_readOnly readOnly))
  · exact (exec_state_bad h (.inr (Nat.not_lt.mp known))).2

/-- Partitions are DENIED the counters of all memories (log 120). -/
theorem exec_state_allErrors_denied (below : ring ≠ 16) :
    exec (.staterd ring ctx 10 0 id1 offset len buf) s = .next (s.answered ring 1 id)
      ∧ ((∀ i, i < len.toNat → FMap.get Mem.byte0 s.mem.bytes (hbmKey buf.toNat + i) = 0) →
        exec (.statewr ring ctx 10 0 id1 offset len buf) s = .next (s.answered ring 1 id)) := by
  have denied (upTo : Nat) : (s.running ring).objectForm (reachOf ring) ctx 10 0 id1 upTo = .error 1 := by
    rw [State.objectForm_allErrors, show reachOf ring = some ring from if_neg below]
    rfl
  exact ⟨exec_staterd_error good (by decide) h (denied _), fun _ =>
    State.ctxCommand_answers (rfl : execStatewr ring ctx 10 0 id1 offset len buf s = _) h id
      ((State.writeObject_good good (by decide)).trans (State.writeWindow_error (by decide) (denied _)))⟩

variable {b : List Byte} {pa : PAddr}

theorem exec_statewr_tags (form : (s.running ring).objectForm (reachOf ring) ctx 6 id0 0 (offset.toNat + len.toNat) = .ok b)
    (eight : b.length = 8) (start : offset.toNat = 0) (whole : len.toNat = 8) (place : (s.running ring).placeOf ctx id0.toNat = some pa)
    (unparked : s.mem.parked = []) :
    ∃ t : State, exec (.statewr ring ctx 6 id0 0 offset len buf) s = .next t ∧ s.reports t ring 0 ∧ t.mem.bytes = s.mem.bytes
      ∧ ∀ k, k < 8 → FMap.get 0 t.mem.tags (8 * pa.block + k) = (FMap.get Mem.byte0 s.mem.bytes (hbmKey buf.toNat + k)).setWidth 4 := by
  have written : (s.mem.bytesAt (hbmKey buf.toNat) len.toNat).length = 8 := (Mem.length_bytesAt ..).trans whole
  have replaced : patch b offset.toNat (s.mem.bytesAt (hbmKey buf.toNat) len.toNat) = s.mem.bytesAt (hbmKey buf.toNat) len.toNat := by
    rw [patch, start, written, List.drop_eq_nil_of_le (by omega), List.take_zero, List.nil_append, List.append_nil]
  have writes := (State.writeObject_good (id0 := id0) (id1 := 0) (ctx := ctx) good (by decide : (6 : Word).toNat < 2 ^ 8)).trans
    (State.writeWindow_ok (by decide) (by rwa [Mem.length_bytesAt]) (by rw [written]; omega) (absurd · (by decide)))
  rw [replaced] at writes
  have gives := writes.trans (State.writeForm_tags place (by rwa [State.running_mem]))
  have step := (s.running ring).writesTags_frontStep pa.block (s.mem.bytesAt (hbmKey buf.toNat) len.toNat)
  refine ⟨_, State.ctxCommand_gives (rfl : execStatewr ring ctx 6 id0 0 offset len buf s = _) h gives,
    State.reports_of_same 0 step.hvCmds (step.partOf ring), ?_, fun k hk => ?_⟩
  · rw [State.putStatus_mem, State.writesTags_bytes, State.running_mem]
  · rw [State.putStatus_mem, State.writesTags_tags, FMap.get_setList, List.length_map, written, if_pos (by omega), Nat.add_sub_cancel_left,
      List.getD_eq_getElem?_getD, List.getElem?_map, Mem.getElem?_bytesAt _ (by omega)]
    rfl

section
variable (zeros : ∀ i, i < len.toNat → FMap.get Mem.byte0 s.mem.bytes (hbmKey buf.toNat + i) = 0)
  (fits : offset.toNat + len.toNat ≤ b.length)
include zeros fits

omit h in
/-- A window of zeros replaces a window of the counters. -/
theorem State.writeObject_zeros (form : (s.running ring).objectForm (reachOf ring) ctx 10 id0 id1 (offset.toNat + len.toNat) = .ok b) :
    (s.running ring).writeObject (reachOf ring) ctx 10 id0 id1 offset len buf = (s.running ring).writeForm ctx 10 id0 id1 b
      (patch b offset.toNat (s.mem.bytesAt (hbmKey buf.toNat) len.toNat)) :=
  (State.writeObject_good good (by decide)).trans (State.writeWindow_ok (by decide) (by rwa [Mem.length_bytesAt]) (by rwa [Mem.length_bytesAt])
    fun _ => Mem.bytesAt_zeros zeros)

theorem exec_statewr_allErrors (form : (s.running ring).objectForm (reachOf ring) ctx 10 0 id1 (offset.toNat + len.toNat) = .ok b) :
    ∃ t : State, exec (.statewr ring ctx 10 0 id1 offset len buf) s = .next t ∧ s.reports t ring 0
      ∧ (∀ e, FMap.get 0 t.mem.errors e = 0 ∨ FMap.get 0 t.mem.errors e = FMap.get 0 s.mem.errors e)
      ∧ ∀ j sp i, allMemories[j]? = some sp → i < 2 → offset.toNat ≤ 16 * j + 8 * i → 16 * j + 8 * i + 8 ≤ offset.toNat + len.toNat →
          FMap.get 0 t.mem.errors (2 * sp.index + i) = 0 := by
  obtain ⟨t, runs, reports, mem, -, -⟩ := State.ctxCommand_changesMem (rfl : execStatewr ring ctx 10 0 id1 offset len buf s = _) h
    (·.resetErrors allMemories (patch b offset.toNat (s.mem.bytesAt (hbmKey buf.toNat) len.toNat)))
    ((State.writeObject_zeros good zeros fits form).trans State.writeForm_allErrors)
  refine ⟨t, runs, reports, fun e => ?_, fun j sp i hj hi low high => ?_⟩
  · obtain ⟨reset, same⟩ := s.mem.errors_resetErrors allMemories (patch b offset.toNat (s.mem.bytesAt (hbmKey buf.toNat) len.toNat)) e
    rw [mem]
    exact (Classical.em _).imp reset same
  · rw [mem]
    obtain ⟨small, -⟩ := List.getElem?_eq_some_iff.mp hj
    exact (Mem.errors_resetErrors ..).1 ⟨(j, sp), List.mem_iff_getElem?.mpr ⟨j, List.getElem?_zip_eq_some.mpr ⟨List.getElem?_range small, hj⟩⟩,
      i, hi, rfl, fieldOf_patch_within (by rwa [Mem.length_bytesAt]) (Mem.bytesAt_zeros zeros) low (by rwa [Mem.length_bytesAt])⟩

/-- The counters of one memory. -/
theorem exec_statewr_errors (one : id0 ≠ 0)
    (form : (s.running ring).objectForm (reachOf ring) ctx 10 id0 id1 (offset.toNat + len.toNat) = .ok b)
    (place : (s.running ring).placeOf ctx id0.toNat = some pa) (small : ∀ e, FMap.get 0 s.mem.errors e < 2 ^ 64) :
    ∃ t : State, exec (.statewr ring ctx 10 id0 id1 offset len buf) s = .next t ∧ s.reports t ring 0
      ∧ ∀ e, (CoversCounter offset.toNat len.toNat pa.space e → FMap.get 0 t.mem.errors e = 0)
        ∧ (¬ CoversCounter offset.toNat len.toNat pa.space e → FMap.get 0 t.mem.errors e = FMap.get 0 s.mem.errors e) := by
  have written : (s.mem.bytesAt (hbmKey buf.toNat) len.toNat).length = len.toNat := Mem.length_bytesAt ..
  obtain ⟨t, runs, reports, mem, -, -⟩ := State.ctxCommand_changesMem (rfl : execStatewr ring ctx 10 id0 id1 offset len buf s = _) h
    (·.resetErrors [pa.space] (patch b offset.toNat (s.mem.bytesAt (hbmKey buf.toNat) len.toNat)))
    ((State.writeObject_zeros good zeros fits form).trans (State.writeForm_errors one place))
  have counters : b = s.mem.errorBytes pa.space := by
    rw [State.objectForm_errors one place form, State.running_mem]
  subst counters
  have start : offset.toNat % 8 = 0 := not_ne_iff.mp fun bad => good (.inl bad)
  have whole : len.toNat % 8 = 0 := not_ne_iff.mp fun bad => good (.inr (.inl bad))
  have resets := Mem.resetErrors_window small (by rwa [written]) (Mem.bytesAt_zeros zeros) start (by rwa [written])
  rw [written] at resets
  refine ⟨t, runs, reports, fun e => ?_⟩
  rw [mem]
  exact resets e

end

end

/-- Settles O42. QATTACH by the checks of the descriptor that it reads; QCLOSE; STATERD and STATEWR by the window, the buffer and the form of
the object. -/
theorem queueAndStateCommands : Obligations.QueueAndStateCommands := by
  refine ⟨fun ring ctx q s h => ⟨fun lo hi named => ⟨exec_qclose_closes h named, exec_qclose_denied h named⟩,
    fun lo hi none => exec_qclose_unnamed h none,
    fun desc b s1 read place ring least most errrec zeros rest described slots counter found cls addr quota => ?_⟩,
    fun ring ctx cls id0 id1 offset len buf s h => ⟨fun bad => exec_state_bad h (.inl bad), fun start whole least most aligned inside => ?_⟩⟩
  · have good : QueueChecks s1 ctx (s.ctxOf ctx).part q desc b :=
      ⟨place, ring, least, most, errrec, zeros, rest, described, slots, counter, found, cls, addr, quota⟩
    refine ⟨fun ⟨new, empty⟩ => ?_, fun held => exec_qattach_busy h read good ?_⟩
    · obtain ⟨t, runs, reports, queue⟩ := exec_qattach_new h read good new empty
      refine ⟨t, runs, reports, ?_⟩
      have count : s1.hub.attachCount = s.hub.attachCount := by
        rw [(State.vread_frontStep read).rest, State.running_rest]
      dsimp only
      rw [queue]
      exact ⟨rfl, rfl, rfl, rfl, rfl, rfl, rfl, rfl, rfl, rfl, rfl, count⟩
    · rcases held with held | held | held | held <;> simp [held]
  · have good : ¬ s.badWindow ring offset len buf := by
      rintro (bad | bad | bad | bad | bad | bad)
      · exact bad start
      · exact bad whole
      · omega
      · omega
      · exact bad aligned
      · exact Bool.false_ne_true (bad.symm.trans inside)
    refine ⟨fun b known form fits => exec_staterd_ok good known h form fits, fun st known form => exec_staterd_error good known h form,
      exec_statewr_readOnly h good, ?_, ?_, ?_, ?_⟩
    · rintro b pa rfl rfl form eight first all place unparked
      exact exec_statewr_tags h good form eight first all place unparked
    · rintro b rfl rfl form fits zeros
      exact exec_statewr_allErrors h good zeros fits form
    · rintro b pa rfl one form fits zeros place small
      exact exec_statewr_errors h good zeros fits one form place small
    · rintro below rfl rfl
      exact exec_state_allErrors_denied h good below

end Sys2Proof.Machine

/-!
PROOFS. Budgets, stops, halts and the ends of waits (R103, R353–R357, R398, R408, R412).
-/

namespace Sys2Proof.Machine

/-! ## The strand that becomes the current one -/

section
variable {s : State} {core slot : Nat} {x : Strand}

theorem Strand.inSlot_of_strandAt (h : s.strandAt core slot = some x) : x.inSlot core slot = true :=
  List.find?_some (p := fun t : Strand => t.inSlot core slot) h

theorem State.me_switchTo (h : s.strandAt core slot = some x) : (s.switchTo core slot).me = x := by
  rw [State.strandAt, State.all, List.find?_cons] at h
  unfold State.switchTo
  split at h
  next here => rw [if_pos here, Option.some.inj h]
  next away => rw [if_neg (by simp [away]), h]

theorem State.switchTo_rest (s : State) (core slot : Nat) :
    s.switchTo core slot = { s with me := (s.switchTo core slot).me, strands := (s.switchTo core slot).strands } := by
  unfold State.switchTo
  split
  · rfl
  · split <;> rfl

@[simp] theorem State.switchTo_mem (s : State) (core slot : Nat) : (s.switchTo core slot).mem = s.mem := by rw [State.switchTo_rest]
@[simp] theorem State.switchTo_eng (s : State) (core slot : Nat) : (s.switchTo core slot).eng = s.eng := by rw [State.switchTo_rest]
@[simp] theorem State.switchTo_hub (s : State) (core slot : Nat) : (s.switchTo core slot).hub = s.hub := by rw [State.switchTo_rest]

end

/-! ## Budgets (R103) -/

section
variable {s : State} {core slot : Nat} {x : Strand} (hx : s.strandAt core slot = some x)
include hx

theorem exec_budgetExhausted (spent : x.budget = 0) (normal : x.urg = false) (runs : x.halted = false) (first : x.budgetTaken = false) :
    exec (.budgetExhausted core slot) s =
      .next ((s.setStrand core slot fun t => { t with budgetDue := true }).withdrawWait core slot) := by
  show execBudgetExhausted core slot s = _
  rw [execBudgetExhausted, hx]
  exact if_pos (by simp [*])

/-- A withdrawn wait is given up, and its waiter forgotten (R355). -/
theorem State.strandAt_withdrawWait : (s.withdrawWait core slot).strandAt core slot = some { x with wait := x.wait.given } := by
  have given : (s.withdrawWait core slot).strandAt core slot = some _ := State.strandAt_setStrand_same (s := s.dropWaiter core slot)
    (fun y => by cases y.wait <;> rfl) hx
  rw [given]
  cases hw : x.wait <;> simp [Wait.given, ← hw]

theorem exec_budgetTrap (due : x.budgetDue = true) (first : x.budgetTaken = false) (outside : x.hm = false) (stands : x.wait = .none)
    (whole : x.pfx.count = 0) (fresh : x.reissue = false) (stored : x.appends = none) :
    exec (.budgetTrap core slot) s = .next ({ s.switchTo core slot with me := { x with budgetDue := false, budgetTaken := true } }.takeTrap
      { cause := .budget, tinfo := 0, taddr := 0 }) := by
  show execBudgetTrap core slot s = _
  rw [execBudgetTrap, hx]
  refine (if_pos (by simp [*])).trans ?_
  rw [State.budgetTrap, State.me_switchTo hx]

/-! ## Stops and halts (R398, R408, R412) -/

theorem exec_stopHit (stands : x.wait = .none) (runs : x.halted = false) (fresh : x.reissue = false)
    (stop : ∃ y ∈ (s.ctxOf x.ctx).stops, y.pc = x.pc ∧ (y.vcore = none ∨ y.vcore = some (s.vcoreWord x.ctx core).toNat)) :
    exec (.stopHit core slot) s = .next (s.setStrand core slot fun t => { t with haltReq := true }) := by
  obtain ⟨y, listed, pc, vcore⟩ := stop
  have at_ : s.atStop x = true := List.any_eq_true.mpr ⟨y, listed, by
    rw [Strand.core_of_strandAt hx, pc]
    rcases vcore with vcore | vcore <;> simp [vcore]⟩
  show execStopHit core slot s = _
  rw [execStopHit, hx]
  exact if_pos (by simp [*])

end

/-- A strand at its boundary, its word to issue again, whole (R251, R355). -/
def Strand.withdrawn (t : Strand) : Strand := { t.clean with pc := t.boundary, wait := .none }

/-- A strand one of whose generators holds nothing that it read ahead. -/
def Strand.forgets (t : Strand) (k : Nat) : Strand := t.setStream k fun g => { g with fetched := [], parked := [], stopped := [] }

/-- A strand whose generators hold nothing that they read ahead (R239). -/
def Strand.unfetched (t : Strand) : Strand :=
  [0, 1, 2, 3].foldl (fun t k => t.setStream k fun g => { g with fetched := [], parked := [], stopped := [] }) t

theorem Strand.unfetched_eq (t : Strand) : t.unfetched = [0, 1, 2, 3].foldl Strand.forgets t := rfl

theorem Strand.fetched_forgets (t : Strand) (k n : Nat) : (FMap.get Stream.reset (t.forgets k).streams n).fetched =
    if n = k then [] else (FMap.get Stream.reset t.streams n).fetched := by
  rw [Strand.forgets, Strand.setStream, FMap.get_set]
  split
  · rfl
  · rfl

theorem Strand.fetched_unfetched (t : Strand) {n : Nat} (h : n < 4) : (FMap.get Stream.reset t.unfetched.streams n).fetched = [] := by
  have all (ks : List Nat) : n ∈ ks → ∀ u : Strand, (FMap.get Stream.reset (ks.foldl Strand.forgets u).streams n).fetched = [] := by
    induction ks using List.reverseRecOn with
    | nil => simp
    | append_singleton ks k ih =>
      intro hn u
      rw [List.foldl_append, List.foldl_cons, List.foldl_nil, Strand.fetched_forgets]
      split
      · rfl
      · exact ih ((List.mem_append.mp hn).resolve_right (by simpa using ‹n ≠ k›)) u
  rw [Strand.unfetched_eq]
  exact all _ (by simp; omega) t

theorem Strand.foldl_forgets_rest (t : Strand) (ks : List Nat) :
    ks.foldl Strand.forgets t = { t with streams := (ks.foldl Strand.forgets t).streams } := by
  refine List.foldlRecOn (motive := fun u : Strand => u = { t with streams := u.streams }) ks _ rfl fun u hu k _ => ?_
  rw [Strand.forgets, Strand.setStream, hu]

theorem Strand.unfetched_rest (t : Strand) : t.unfetched = { t with streams := t.unfetched.streams } := by
  rw [Strand.unfetched_eq]
  exact Strand.foldl_forgets_rest t _

theorem Strand.place_unfetched (t : Strand) : t.unfetched.place = t.place := by
  rw [Strand.unfetched_rest]

/-- A strand as a halt leaves it: at its boundary, or where it waits if it has not begun (R398). -/
def Strand.stopped (x : Strand) : Strand :=
  let t : Strand := { (if x.haltWithdraws then x.withdrawn else x).unfetched with mskcnt := 0 }
  { t with halted := true, haltReq := false }

/-- The state in which a halt has reached the strand in a slot. -/
def State.stopped (s : State) (core slot : Nat) (x : Strand) : State :=
  ((((if x.haltWithdraws then s.withdraw core slot else s).dropPrefetch core slot).setStrand core slot fun t => { t with mskcnt := 0 }).setStrand
    core slot fun t => { t with halted := true, haltReq := false })

section
variable {s : State} {core slot : Nat} {x : Strand} (hx : s.strandAt core slot = some x)
include hx

theorem State.strandAt_withdraw : (s.withdraw core slot).strandAt core slot = some x.withdrawn :=
  State.strandAt_setStrand_same (f := Strand.withdrawn) (fun _ => rfl) hx

theorem State.strandAt_dropPrefetch : (s.dropPrefetch core slot).strandAt core slot = some x.unfetched := by
  unfold State.dropPrefetch
  refine State.strandAt_setStrand_same (f := Strand.unfetched) Strand.place_unfetched ?_
  exact hx

theorem State.strandAt_stopped : (s.stopped core slot x).strandAt core slot = some x.stopped := by
  have bound : (if x.haltWithdraws then s.withdraw core slot else s).strandAt core slot = some (if x.haltWithdraws then x.withdrawn else x) := by
    split
    · exact State.strandAt_withdraw hx
    · exact hx
  have whole := State.strandAt_setStrand_same (f := fun t => { t with mskcnt := 0 }) (fun _ => rfl) (State.strandAt_dropPrefetch bound)
  exact State.strandAt_setStrand_same (f := fun t => { t with halted := true, haltReq := false }) (fun _ => rfl) whole

end

section
variable (s : State) (core slot : Nat) (x : Strand)

@[simp] theorem State.stopped_eng : (s.stopped core slot x).eng = s.eng := by
  unfold State.stopped
  split <;> rfl

@[simp] theorem State.stopped_hub : (s.stopped core slot x).hub = s.hub := by
  unfold State.stopped
  split <;> rfl

@[simp] theorem State.stopped_pkg : (s.stopped core slot x).pkg = s.pkg := by
  unfold State.stopped
  split <;> rfl

@[simp] theorem State.bytes_stopped : (s.stopped core slot x).mem.bytes = s.mem.bytes := by
  unfold State.stopped
  split <;> rfl

end

theorem State.parked_stopped (s : State) (core slot : Nat) {x : Strand} (h : x.haltWithdraws = true) :
    ∀ y ∈ (s.stopped core slot x).mem.parked, y.who ≠ .strand core slot := by
  rw [State.stopped, if_pos h]
  intro y hy
  exact bne_iff_ne.mp (List.mem_filter.mp (List.mem_filter.mp hy).1).2

/-- A halt does not withdraw a strand that has not begun, is parked at the kernel, or waits on FETCH at a word without prefixes. -/
theorem Strand.haltWithdraws_iff (t : Strand) :
    t.haltWithdraws = true ↔ ¬ (t.wait = .start ∨ t.wait = .kernel ∨ (t.wait = .fetch ∧ t.pfx.count = 0)) := by
  unfold Strand.haltWithdraws
  cases t.wait <;> simp

/-- The state after a halt that is complete: flags in the save area, no session waits for it, and its launch was halted. -/
def State.haltDone (s : State) (core slot : Nat) (x : Strand) : State :=
  let s := ((s.stopped core slot x).putFlags x.stopped).reached x.uid
  match x.launch with
  | some l => s.setLaunch l fun y => { y with wasHalted := true }
  | none => s

theorem exec_haltComplete {s : State} {core slot : Nat} {x : Strand} (hx : s.strandAt core slot = some x) (due : x.haltReq = true)
    (runs : x.halted = false) (stands : x.continues = false) (leaves : x.wait ≠ .draining) (back : x.wait ≠ .restoring)
    (returned : x.outstanding = []) (stored : x.appends = none) :
    exec (.haltComplete core slot) s = .next (s.haltDone core slot x) := by
  show execHaltComplete core slot s = _
  rw [execHaltComplete, hx]
  refine (if_pos (by simp [Strand.mayHalt, *])).trans ((if_pos (by simp [*])).trans ?_)
  have here := State.strandAt_stopped hx
  unfold State.stopped at here
  dsimp only
  rw [here]
  rfl

/-- Where the save areas lie is the hub's. -/
theorem State.areaAddr_of_hub {s t : State} (h : t.hub = s.hub) : t.areaAddr = s.areaAddr := by
  unfold State.areaAddr State.ctxOf
  rw [h]

theorem State.putFlags_rest (s : State) (t : Strand) : s.putFlags t = { s with mem := (s.putFlags t).mem } := by
  unfold State.putFlags
  split <;> rfl

@[simp] theorem State.putFlags_me (s : State) (t : Strand) : (s.putFlags t).me = s.me := by rw [State.putFlags_rest]
@[simp] theorem State.putFlags_strands (s : State) (t : Strand) : (s.putFlags t).strands = s.strands := by rw [State.putFlags_rest]
@[simp] theorem State.putFlags_eng (s : State) (t : Strand) : (s.putFlags t).eng = s.eng := by rw [State.putFlags_rest]
@[simp] theorem State.putFlags_pkg (s : State) (t : Strand) : (s.putFlags t).pkg = s.pkg := by rw [State.putFlags_rest]

@[simp] theorem State.parked_putFlags (s : State) (t : Strand) : (s.putFlags t).mem.parked = s.mem.parked := by
  unfold State.putFlags
  split <;> rfl

/-- The flags byte, and no other, of a save area says what the strand is (R388). -/
theorem State.bytes_putFlags (s : State) (t : Strand) (k : Nat) : FMap.get Mem.byte0 (s.putFlags t).mem.bytes k =
    if t.area.any fun i => decide (k = hbmKey (s.areaAddr t.ctx i + 0xAF)) then BitVec.ofNat 8 (natOf t.halted + 2 * natOf t.ktrap)
    else FMap.get Mem.byte0 s.mem.bytes k := by
  unfold State.putFlags
  cases ha : t.area with
  | none => rfl
  | some i =>
    show FMap.get Mem.byte0 (FMap.setList Mem.byte0 s.mem.bytes _ (toLE 1 _)) k = _
    rw [FMap.get_setList_toLE]
    by_cases hk : k = hbmKey (s.areaAddr t.ctx i + 0xAF)
    · simp [hk]
    · rw [if_neg (by omega), Option.any_some, decide_eq_false hk, if_neg Bool.false_ne_true]

theorem Strand.stopped_eq (x : Strand) : x.stopped = { (if x.haltWithdraws then x.withdrawn else x) with
    streams := (if x.haltWithdraws then x.withdrawn else x).unfetched.streams, mskcnt := 0, halted := true, haltReq := false } := by
  rw [Strand.stopped, Strand.unfetched_rest]

theorem Strand.streams_stopped (x : Strand) : x.stopped.streams = (if x.haltWithdraws then x.withdrawn else x).unfetched.streams := by
  rw [Strand.stopped_eq]

/-- What a halt does not touch of a strand: what neither the end of its word nor the mark of a halt changes. -/
theorem Strand.stopped_keeps {α : Type} (x : Strand) (field : Strand → α)
    (mark : ∀ (y : Strand) (m : FMap Stream), field { y with streams := m, mskcnt := 0, halted := true, haltReq := false } = field y)
    (withdrawn : field x.withdrawn = field x) : field x.stopped = field x := by
  rw [Strand.stopped_eq, mark]
  split
  · exact withdrawn
  · rfl

theorem Strand.stopped_stays {x : Strand} (h : ¬ x.haltWithdraws = true) : x.stopped.pc = x.pc ∧ x.stopped.wait = x.wait := by
  rw [Strand.stopped_eq, if_neg h]
  exact ⟨rfl, rfl⟩

theorem Strand.stopped_withdraws {x : Strand} (h : x.haltWithdraws = true) : x.stopped.pc = x.boundary ∧ x.stopped.wait = .none := by
  rw [Strand.stopped_eq, if_pos h]
  exact ⟨rfl, rfl⟩

/-- What a halt that is complete leaves of the state: only its launch, the sessions and the memory of the stopped strand have changed. -/
theorem State.haltDone_spec (s : State) (core slot : Nat) (x : Strand) :
    (s.haltDone core slot x).all = (s.stopped core slot x).all
      ∧ (s.haltDone core slot x).mem = ((s.stopped core slot x).putFlags x.stopped).mem
      ∧ (s.haltDone core slot x).pkg.sessions = s.pkg.sessions.map (fun y => { y with awaits := y.awaits.filter (· ≠ x.uid) })
      ∧ (s.haltDone core slot x).eng = s.eng
      ∧ ∀ l, x.launch = some l → ((s.haltDone core slot x).launchOf l).wasHalted = true := by
  unfold State.haltDone
  cases x.launch with
  | none => exact ⟨by simp [State.reached, State.all], rfl, by simp [State.reached], by simp [State.reached], by simp⟩
  | some l =>
    refine ⟨by simp [State.reached, State.all], rfl, by simp [State.reached], by simp [State.reached], fun k hk => ?_⟩
    rw [State.launchOf_setLaunch, if_pos (Option.some.inj hk).symm]

/-- A strand in a slot that a halt takes to its boundary (R398): what it is then, and what its save area, its launch and the sessions say. -/
theorem exec_haltComplete_spec {s : State} {core slot : Nat} {x : Strand} (hx : s.strandAt core slot = some x) (due : x.haltReq = true)
    (runs : x.halted = false) (stands : x.continues = false) (leaves : x.wait ≠ .draining) (back : x.wait ≠ .restoring)
    (returned : x.outstanding = []) (stored : x.appends = none) :
    let stays : Prop := x.wait = .start ∨ x.wait = .kernel ∨ (x.wait = .fetch ∧ x.pfx.count = 0)
    ∃ (t : State) (u : Strand), exec (.haltComplete core slot) s = .next t ∧ t.strandAt core slot = some u
      ∧ u.halted = true ∧ u.haltReq = false ∧ u.mskcnt = 0 ∧ u.stack = x.stack ∧ u.vregs = x.vregs
      ∧ (stays → u.pc = x.pc ∧ u.wait = x.wait)
      ∧ (¬ stays → u.pc = (if x.pfx.count = 0 then x.pc else x.pfx.first) ∧ u.wait = .none)
      ∧ (∀ n, n < 4 → (FMap.get Stream.reset u.streams n).fetched = [])
      ∧ (∀ l, x.launch = some l → (t.launchOf l).wasHalted = true)
      ∧ (∀ y ∈ t.mem.parked, y.who ≠ .strand core slot ∨ stays)
      ∧ (∀ y ∈ t.pkg.sessions, x.uid ∉ y.awaits)
      ∧ (∀ k, FMap.get Mem.byte0 t.mem.bytes k =
          if x.area.any (fun i => decide (k = hbmKey (s.areaAddr x.ctx i + 0xAF))) then BitVec.ofNat 8 (1 + 2 * x.ktrap.toNat)
          else FMap.get Mem.byte0 s.mem.bytes k)
      ∧ t.eng = s.eng := by
  intro stays
  obtain ⟨all, mem, sessions, eng, launch⟩ := State.haltDone_spec s core slot x
  have withdraws : x.haltWithdraws = true ↔ ¬ stays := x.haltWithdraws_iff
  refine ⟨_, x.stopped, exec_haltComplete hx due runs stands leaves back returned stored, ?_, ?_, ?_, ?_,
    x.stopped_keeps (·.stack) (fun _ _ => rfl) rfl, x.stopped_keeps (·.vregs) (fun _ _ => rfl) rfl, fun h => ?_, fun h => ?_, fun n h => ?_,
    launch, fun y hy => ?_, fun y hy => ?_, fun k => ?_, eng⟩
  · rw [State.strandAt, all]
    exact State.strandAt_stopped hx
  · rw [Strand.stopped_eq]
  · rw [Strand.stopped_eq]
  · rw [Strand.stopped_eq]
  · exact Strand.stopped_stays fun hw => withdraws.mp hw h
  · exact Strand.stopped_withdraws (withdraws.mpr h)
  · rw [Strand.streams_stopped]
    exact Strand.fetched_unfetched _ h
  · by_cases h : stays
    · exact .inr h
    · rw [mem, State.parked_putFlags] at hy
      exact .inl (State.parked_stopped s core slot (withdraws.mpr h) y hy)
  · rw [sessions] at hy
    obtain ⟨z, -, rfl⟩ := List.mem_map.mp hy
    simp
  · have area := x.stopped_keeps (·.area) (fun _ _ => rfl) rfl
    have ctx := x.stopped_keeps (·.ctx) (fun _ _ => rfl) rfl
    have ktrap := x.stopped_keeps (·.ktrap) (fun _ _ => rfl) rfl
    have halted : x.stopped.halted = true := by rw [Strand.stopped_eq]
    rw [mem, State.bytes_putFlags, area, ctx, ktrap, halted, State.bytes_stopped, State.areaAddr_of_hub (State.stopped_hub ..)]
    cases x.ktrap <;> rfl

/-! ## The ends of waits (R353–R357) -/

theorem Strand.spend_rest (t : Strand) (n : Nat) : t.spend n = { t with budget := (t.spend n).budget, budgetDue := (t.spend n).budgetDue } := by
  unfold Strand.spend
  split <;> rfl

/-- A budget that is zero outside an urgent handler and a parked wait is due, once in a slice (R103). -/
theorem Strand.budgetDue_spend {t : Strand} (n : Nat) (spent : t.budget = 0) (normal : t.urg = false) (runs : t.halted = false)
    (first : t.budgetTaken = false) (free : t.wait.withdraws = false) : (t.spend n).budgetDue = true := by
  simp [Strand.spend, *]

/-- What a strand leaves a parked wait as (R354, R357): what `leaves` says of it in the statement on waits. -/
structure Strand.Leaves (x u : Strand) : Prop where
  pc : u.pc = x.pc + 4
  vregs : u.vregs = x.vregs
  outstanding : u.outstanding = x.outstanding
  place : u.place = x.place
  wait : u.wait = if x.pmark ∧ x.outstanding ≠ [] then .marker else .none
  due : x.budget = 0 → x.urg = false → x.halted = false → x.budgetTaken = false → u.budgetDue = true

theorem State.me_finishPark (s : State) : s.finishPark.me = (s.me.wordDone s.me.pmark (s.me.pc + 4) .none).spend 0 := rfl

theorem State.finishPark_rest (s : State) : s.finishPark = { s with me := s.finishPark.me } := rfl

theorem Strand.wait_wordDone (t : Strand) (pc : Word) :
    (t.wordDone t.pmark pc .none).wait = if t.pmark ∧ t.outstanding ≠ [] then .marker else .none := by
  rw [Strand.wordDone]
  cases t.pmark <;> cases t.outstanding <;> simp

theorem Strand.leaves_of_wordDone (x : Strand) : x.Leaves ((x.wordDone x.pmark (x.pc + 4) .none).spend 0) := by
  constructor
  case due =>
    intro spent normal runs first
    refine Strand.budgetDue_spend _ spent normal runs first ?_
    rw [Strand.wait_wordDone]
    split <;> rfl
  case wait =>
    rw [Strand.spend_rest]
    exact Strand.wait_wordDone x (x.pc + 4)
  all_goals rw [Strand.spend_rest]; rfl

theorem writeEntry_ok {s : State} {e : Nat} (x : Word) (h : lastG e s.me.outstanding = none) :
    writeEntry e x s = .ok () { s with me := s.me.putG (e, x) } := by
  simp only [writeEntry, act_get_bind, h]
  rfl

section
variable {s : State} {core slot : Nat} {x : Strand} (hx : s.strandAt core slot = some x)
include hx

theorem State.finishWwait_eq (reason : Nat) (free : lastG x.pdest x.outstanding = none) : s.finishWwait core slot reason =
    ({ (s.dropWaiter core slot).switchTo core slot with me := x.putG (x.pdest, BitVec.ofNat 64 reason) } : State).finishPark := by
  have me : ((s.dropWaiter core slot).switchTo core slot).me = x := State.me_switchTo hx
  rw [State.finishWwait, me, writeEntry_ok _ (by rw [me, free]), me]

/-- A `wwait` ends with its reason in its register, and its waiter is forgotten. -/
theorem State.finishWwait_spec (reason : Nat) (free : lastG x.pdest x.outstanding = none) :
    let t := s.finishWwait core slot reason
    x.Leaves t.me ∧ t.mem = (s.dropWaiter core slot).mem ∧ t.eng = s.eng ∧ t.hub = s.hub
      ∧ t.me.stack = FMap.set 0 x.stack x.pdest (BitVec.ofNat 64 reason) := by
  intro t
  have ends : t = _ := State.finishWwait_eq hx reason free
  have left := (x.putG (x.pdest, BitVec.ofNat 64 reason)).leaves_of_wordDone
  rw [ends]
  refine ⟨⟨left.pc, left.vregs, left.outstanding, left.place, left.wait, left.due⟩, State.switchTo_mem .., State.switchTo_eng ..,
    State.switchTo_hub .., ?_⟩
  rw [State.me_finishPark, Strand.spend_rest]
  rfl

end

/-- What a strand's streams read afresh after an acquire changes them alone. -/
theorem Strand.dropAhead_rest (t : Strand) : t.dropAhead = { t with streams := t.dropAhead.streams } := by
  unfold Strand.dropAhead
  refine List.foldlRecOn (motive := fun u : Strand => u = { t with streams := u.streams }) [0, 1, 2, 3] _ rfl fun u hu k _ => ?_
  split
  · exact hu
  · rw [Strand.setStream, hu]

section
variable {s : State} {core slot : Nat} {x : Strand} (hx : s.strandAt core slot = some x)
include hx

theorem exec_wwaitWake {k : Nat} (woken : x.wait = .woken k) : exec (.wwaitWake core slot) s = .next (s.finishWwait core slot k) := by
  show execWwaitWake core slot s = _
  rw [execWwaitWake, hx]
  simp only [woken]

theorem exec_wwaitTimeout (waits : x.wait = .wwait) (limited : x.wtmo ≠ 0 ∨ (s.ctxOf x.ctx).wakeLimit ≠ 0) :
    exec (.wwaitTimeout core slot) s = .next (s.finishWwait core slot 2) := by
  show execWwaitTimeout core slot s = _
  rw [execWwaitTimeout, hx]
  exact if_pos ⟨waits, by simpa [State.waitLimited] using limited⟩

theorem exec_wwaitSpuriousWake (waits : x.wait = .wwait) :
    exec (.wwaitSpuriousWake core slot) s = .next ((s.dropWaiter core slot).setStrand core slot fun t => t.wake 1) := by
  show execWwaitSpuriousWake core slot s = _
  rw [execWwaitSpuriousWake, hx]
  exact if_pos waits

theorem exec_barWaitRelease {lv n l : Nat} (waits : x.wait = .barrier lv n) (launch : x.launch = some l)
    (passed : FMap.get 0 x.arrived (32 * lv + n) ≤ FMap.get 0 (s.launchOf l).phases (phaseKey lv (x.homeAt lv) n)) :
    exec (.barWaitRelease core slot) s =
      .next { (s.switchTo core slot).finishPark with me := (s.switchTo core slot).finishPark.me.dropAhead } := by
  have passed : s.phasePassed x lv n = true := by
    rw [State.phasePassed, launch]
    simp [passed]
  show execBarWaitRelease core slot s = _
  rw [execBarWaitRelease, hx]
  simp only [waits, if_pos passed]

end

theorem State.waiters_dropWaiter (s : State) (core slot : Nat) :
    ∀ w ∈ (s.dropWaiter core slot).mem.waiters, ¬ (w.core = core ∧ w.slot = slot) := fun w hw ⟨hc, hs⟩ => by
  simpa [hc, hs] using (List.mem_filter.mp hw).2

/-! ## The statement on budgets, stops, halts and waits -/

/-- Settles O31: a spent budget and its trap, a stop and a halt, each by what its event leaves of the strand; then what ends each wait. -/
theorem budgetsHaltsAndWakes : Obligations.BudgetsHaltsAndWakes := by
  unfold Obligations.BudgetsHaltsAndWakes
  refine ⟨fun core slot x s hx => ⟨fun spent normal runs first => ?_, exec_budgetTrap hx, fun stands runs fresh stop => ?_,
    exec_haltComplete_spec hx⟩, fun core slot x s hx => ?_⟩
  · refine ⟨_, exec_budgetExhausted hx spent normal runs first, ?_, rfl⟩
    exact State.strandAt_withdrawWait (State.strandAt_setStrand_same (f := fun t => { t with budgetDue := true }) (fun _ => rfl) hx)
  · exact ⟨_, exec_stopHit hx stands runs fresh stop, State.slotBecomes_setStrand (f := fun t => { t with haltReq := true }) (fun _ => rfl) hx⟩
  · intro leaves returns
    have returned {e : Instr} {k : Nat} (runs : exec e s = .next (s.finishWwait core slot k)) (free : lastG x.pdest x.outstanding = none) :
        returns e k := by
      obtain ⟨left, mem, eng, hub, stack⟩ := State.finishWwait_spec hx k free
      exact ⟨_, runs, ⟨left.pc, left.vregs, left.outstanding, left.place, left.wait, left.due, by rw [mem]; rfl, eng, hub⟩, stack,
        by rw [mem]; exact State.waiters_dropWaiter s core slot⟩
    refine ⟨fun k woken => returned (exec_wwaitWake hx woken), fun waits free limited => returned (exec_wwaitTimeout hx waits limited) free,
      fun waits => ?_, fun lv n l waits launch passed => ?_⟩
    · refine ⟨_, exec_wwaitSpuriousWake hx waits, ?_, rfl⟩
      have woken : x.wake 1 = { x with wait := .woken 1 } := if_pos waits
      rw [← woken]
      exact State.strandAt_setStrand_same (s := s.dropWaiter core slot) (fun y => by rw [Strand.wake_eq]) hx
    · have left := x.leaves_of_wordDone
      refine ⟨_, exec_barWaitRelease hx waits launch passed, ?_⟩
      dsimp only
      rw [Strand.dropAhead_rest, State.me_finishPark, State.me_switchTo hx]
      refine ⟨⟨left.pc, left.vregs, left.outstanding, left.place, left.wait, left.due, ?_, ?_, ?_⟩, ?_, ?_⟩
      · exact congrArg Mem.bytes (State.switchTo_mem ..)
      · exact State.switchTo_eng ..
      · exact State.switchTo_hub ..
      · rw [Strand.spend_rest]
        rfl
      · exact State.switchTo_mem ..

end Sys2Proof.Machine

/-!
PROOFS. Messages and contexts that arrive, and the binding of slices (R102, R156, R164, R177, R314, R389, R392).
-/

namespace Sys2Proof.Machine

/-! ## Messages and contexts that arrive (R156, R164, R177) -/

theorem State.roomFor_iff {s : State} {core n : Nat} : s.roomFor core n ↔ s.pendingRoom core n = true := by
  refine ⟨State.pendingRoom_of_roomFor, fun h => ?_⟩
  rw [State.pendingRoom, Bool.and_eq_true, decide_eq_true_iff, Bool.not_eq_true', List.any_eq_false] at h
  exact ⟨h.1, fun t ht held => h.2 t ht (decide_eq_true held)⟩

/-- A strand added in a free slot is the one in it. -/
theorem State.strandAt_addStrand {s : State} {core slot : Nat} {u : Strand} (free : s.strandAt core slot = none)
    (place : u.place = .slot core slot) : (s.addStrand u).strandAt core slot = some u := by
  have all : (s.addStrand u).all = s.all ++ [u] := rfl
  rw [State.strandAt] at free ⊢
  rw [all, List.find?_append, free, Option.none_or, List.find?_singleton, Strand.inSlot, place]
  simp

/-- The registers of a handler: those of its message, the rest 0 (R156). -/
theorem Message.stack_strand (m : Message) (uid e : Nat) : FMap.get 0 (m.strand uid).stack e = (m.regs[e]?).getD 0 := by
  rw [Message.strand, FMap.get_setList, FMap.get_nil]
  split
  next h => rw [Nat.sub_zero, List.getD_eq_getElem?_getD]
  next h => rw [List.getElem?_eq_none (by omega)]; rfl

section
variable {s : State} {i : Nat} {m : Message} (hm : s.eng.messages[i]? = some m) (alone : m.sender = none)
include hm alone

theorem exec_amsgArrival : exec (.amsgArrival i) s = .next (
    if m.urgent then
      { s with eng := { s.eng with messages := s.eng.messages.eraseIdx i } }.setCore m.dest fun c => { c with urgent := c.urgent ++ [m] }
    else if s.pendingRoom m.dest 1 then
      State.enterList { s with ages := s.ages + 1, eng := { s.eng with messages := s.eng.messages.eraseIdx i } } m.dest (m.strand (s.ages + 1))
    else s) := by
  have first : earlierMessage (s.eng.messages.take i) m = false := by simp [earlierMessage, alone]
  show execAmsgArrival i s = _
  rw [execAmsgArrival, hm]
  refine (if_neg (by simp [first])).trans ?_
  split
  · rfl
  · split <;> rfl

end

/-- The oldest waiting message takes the free slot that comes first, 8 before 9. -/
theorem exec_urgentDelivery {s : State} {core slot : Nat} {m : Message} {rest : List Message} (waits : (s.coreOf core).urgent = m :: rest)
    (free : (slot = 8 ∧ s.strandAt core 8 = none) ∨ (slot = 9 ∧ (s.strandAt core 8).isSome = true ∧ s.strandAt core 9 = none)) :
    exec (.urgentDelivery core) s = .next (({ s.setCore core fun c => { c with urgent := rest } with
      ages := s.ages + 2, free := s.free + 2 } : State).addStrand { m.strand (s.ages + 1) with
        place := .slot core slot, wait := .start, age := s.ages + 1, fresh := false, slicebud := BitVec.allOnes 64
        budget := Config.freeWord s.free, deadline := Config.freeWord (s.free + 1) }) := by
  have first : ([8, 9].find? fun n => (s.strandAt core n).isNone) = some slot := by
    obtain ⟨rfl, h8⟩ | ⟨rfl, h8, h9⟩ := free
    · simp [h8]
    · simp [h9, Option.isNone_eq_false_iff.mpr h8]
  show execUrgentDelivery core s = _
  rw [execUrgentDelivery, waits, first]
  rfl

/-- Whether a strand waits in the network buffer of a core's ply (R177). -/
def Strand.buffersAt (core : Nat) (u : Strand) : Bool :=
  match u.place with
  | .buffered c => corePly c == corePly core
  | _ => false

section
variable {s : State} {i core : Nat} {x : Strand} (hx : s.travelling[i]? = some x) (here : x.core = core)
include hx here

theorem exec_hopArrival_enters (room : s.pendingRoom core 1 = true) :
    exec (.hopArrival i) s = .next ((s.removeStrand x.uid).enterList core x) := by
  subst here
  show execHopArrival i s = _
  rw [execHopArrival, hx]
  exact if_pos room

theorem exec_hopArrival_waits (full : ¬ s.pendingRoom core 1 = true) (travels : x.place = .transit core)
    (few : (s.all.filter (Strand.buffersAt core)).length < 16) :
    exec (.hopArrival i) s = .next ((s.removeStrand x.uid).addStrand { x with place := .buffered core }) := by
  subst here
  show execHopArrival i s = _
  rw [execHopArrival, hx]
  exact (if_neg full).trans (if_pos ⟨travels, few⟩)

end

/-! ## Which slice is bound, and where (R102, R163) -/

theorem Strand.bindsBefore_iff (a b : Strand) : a.bindsBefore b = true ↔ a.ahead b := by
  unfold Strand.bindsBefore Strand.ahead
  by_cases hd : a.deadline = b.deadline
  · by_cases hh : a.high = b.high
    · simp [hd, hh]
    · cases ha : a.high <;> cases hb : b.high <;> simp_all
  · simp [hd]

theorem Strand.ahead_asymm {a b : Strand} (h : a.ahead b) : ¬ b.ahead a := by
  unfold Strand.ahead at h ⊢
  grind

theorem firstBound_mem {l : List Strand} {u : Strand} (h : firstBound l = some u) : u ∈ l := by
  induction l generalizing u with
  | nil => exact absurd h (by simp [firstBound])
  | cons t ts ih =>
    rw [firstBound] at h
    split at h
    · exact List.mem_cons.mpr (.inl (Option.some.inj h).symm)
    next v hv =>
      split at h
      · exact Option.some.inj h ▸ List.mem_cons_of_mem _ (ih hv)
      · exact List.mem_cons.mpr (.inl (Option.some.inj h).symm)

/-- The slice that is ahead of every other is the first. -/
theorem firstBound_eq {l : List Strand} {x : Strand} (hx : x ∈ l) (first : ∀ y ∈ l, y = x ∨ x.ahead y) : firstBound l = some x := by
  induction l with
  | nil => cases hx
  | cons t ts ih =>
    have rest (y : Strand) (hy : y ∈ ts) := first y (List.mem_cons_of_mem _ hy)
    rw [firstBound]
    by_cases later : x ∈ ts
    · rw [ih later rest]
      obtain rfl | ahead := first t List.mem_cons_self
      · simp
      · exact if_pos ((Strand.bindsBefore_iff ..).mpr ahead)
    · obtain rfl : x = t := (List.mem_cons.mp hx).resolve_right later
      split
      · rfl
      next u hu =>
        have ahead := (rest u (firstBound_mem hu)).resolve_left fun e => later (e ▸ firstBound_mem hu)
        exact if_neg fun before => Strand.ahead_asymm ahead ((Strand.bindsBefore_iff ..).mp before)

/-- No group waits for a slot of the core (R400). -/
theorem State.placeFor_of_none {s : State} {core : Nat}
    (none : ∀ l y, s.nextPlaced = some (l, y) → ∀ z ∈ s.all, z.core = core → z.forGroup ≠ some (y.order, y.nextGroup)) :
    s.placeFor core = s := by
  unfold State.placeFor
  split
  next l y slot hn hb =>
    refine if_neg fun h => ?_
    simp only [Bool.and_eq_true] at h
    obtain ⟨z, hz, here, group⟩ := State.preemptedFor_iff.mp h.1.1
    exact none l y hn z hz here group
  · rfl

section
variable {s : State} {core slot : Nat} {x : Strand} (small : slot < 8) (free : s.strandAt core slot = none)
  (below : ∀ n, n < slot → (s.strandAt core n).isSome = true) (member : x ∈ s.all) (binds : s.bindable core x = true)
  (first : ∀ y ∈ s.all, s.bindable core y = true → y = x ∨ x.ahead y)
  (none : ∀ l y, s.nextPlaced = some (l, y) → ∀ z ∈ s.all, z.core = core → z.forGroup ≠ some (y.order, y.nextGroup))
include small free below member binds first none

theorem exec_sliceBind : exec (.sliceBind core) s = .next (if s.restoreBad x then s.restoreError core slot x else s.bind core slot x) := by
  have lowest : (List.range 8).find? (fun n => (s.strandAt core n).isNone) = some slot := by
    rw [List.find?_range_eq_some]
    refine ⟨by simp [free], List.mem_range.mpr small, fun n hn => ?_⟩
    simp [Option.isNone_eq_false_iff.mpr (below n hn)]
  have next : firstBound (s.all.filter (s.bindable core)) = some x :=
    firstBound_eq (List.mem_filter.mpr ⟨member, binds⟩) fun y hy => first y (List.mem_filter.mp hy).1 (List.mem_filter.mp hy).2
  show execSliceBind core s = _
  rw [execSliceBind, State.placeFor_of_none none]
  rw [lowest, next]

end

/-! ## A restore that meets an error (R392) -/

theorem State.restoreError_spec {s : State} {core slot i : Nat} {x : Strand} (member : x ∈ s.all) (free : s.strandAt core slot = none)
    (area : x.area = some i) :
    let t := s.restoreError core slot x
    t.strandAt core slot = none ∧ t.eng = s.eng ∧ (∃ z ∈ t.all, z.uid = x.uid ∧ z.place = x.place ∧ z.restErr = true ∧ z.kslot = slot)
      ∧ s.notified t x.part 1 x.ctx (systemBody 0x19 (slot % 256) (s.vcoreWord x.ctx core) 0 (BitVec.ofNat 64 (s.areaAddr x.ctx i)) 0) := by
  let mark (u : Strand) : Strand := if u.uid = x.uid then { u with restErr := true, kslot := slot } else u
  have place (u : Strand) : (mark u).place = u.place := by
    unfold mark
    split <;> rfl
  have event : s.restoreError core slot x = (s.mapAll mark).systemEvent x.part 0x19 x.ctx (s.vcoreWord x.ctx core) slot 0
      (BitVec.ofNat 64 (s.areaAddr x.ctx i)) 0 := by
    rw [State.restoreError, area]
  intro t
  have ht : t = _ := event
  have all : t.all = s.all.map mark := by rw [ht]; rfl
  refine ⟨?_, by rw [ht]; rfl, ⟨mark x, by rw [all]; exact List.mem_map_of_mem member, ?_, place x, ?_, ?_⟩, ?_⟩
  · have marked (u : Strand) : (mark u).inSlot core slot = u.inSlot core slot := by rw [Strand.inSlot, place, Strand.inSlot]
    rw [State.strandAt, all, List.find?_map]
    rw [State.strandAt] at free
    simp only [Function.comp_def, marked, free, Option.map_none]
  · simp [mark]
  · simp [mark]
  · simp [mark]
  · rw [ht]
    exact State.postEvent_notified (s.mapAll mark) x.part 1 x.ctx _

/-! ## The strand that is bound stands in its slot -/

section
variable {s : State} {core slot : Nat}

theorem State.strandAt_eq_none : s.strandAt core slot = none ↔ ∀ y ∈ s.all, y.inSlot core slot = false := by
  rw [State.strandAt, List.find?_eq_none]
  exact forall₂_congr fun _ _ => (Bool.not_eq_true _).to_iff

theorem Strand.inSlot_empty : Strand.empty.inSlot core slot = false := by
  rw [Strand.inSlot]
  exact decide_eq_false (by simp [Strand.empty])

/-- Of the strands of a state one is removed: the others stay, and an empty one may have come for it. -/
theorem State.mem_all_removeStrand {k : Nat} {y : Strand} (h : y ∈ (s.removeStrand k).all) :
    y = Strand.empty ∨ (y ∈ s.all ∧ y.uid ≠ k) := by
  obtain rfl | h := List.mem_cons.mp h
  · by_cases hk : s.me.uid = k
    · exact .inl (if_pos hk)
    · have stays : (s.removeStrand k).me = s.me := if_neg hk
      rw [stays]
      exact .inr ⟨List.mem_cons_self, hk⟩
  · obtain ⟨hy, hk⟩ := List.mem_filter.mp h
    exact .inr ⟨List.mem_cons_of_mem _ hy, bne_iff_ne.mp hk⟩

theorem State.strandAt_removeStrand_none (k : Nat) (h : s.strandAt core slot = none) : (s.removeStrand k).strandAt core slot = none := by
  rw [State.strandAt_eq_none] at h ⊢
  intro y hy
  obtain rfl | ⟨hy, -⟩ := State.mem_all_removeStrand hy
  · exact Strand.inSlot_empty
  · exact h y hy

/-- Another strand that is removed leaves the strand in a slot there. -/
theorem State.strandAt_removeStrand {u : Strand} {k : Nat} (h : s.strandAt core slot = some u) (other : u.uid ≠ k) :
    (s.removeStrand k).strandAt core slot = some u := by
  have here := Strand.inSlot_of_strandAt h
  rw [State.strandAt, State.all, List.find?_cons] at h ⊢
  by_cases hme : s.me.inSlot core slot = true
  · rw [hme] at h
    obtain rfl : s.me = u := Option.some.inj h
    have stays : (s.removeStrand k).me = s.me := if_neg other
    rw [stays, hme]
  · rw [Bool.not_eq_true] at hme
    rw [hme] at h
    have away : (s.removeStrand k).me.inSlot core slot = false := by
      show (if s.me.uid = k then Strand.empty else s.me).inSlot core slot = false
      split
      · exact Strand.inSlot_empty
      · exact hme
    rw [away]
    obtain ⟨-, before, after, list, none⟩ := List.find?_eq_some_iff_append.mp h
    have left : (s.removeStrand k).strands = (before.filter fun y => y.uid != k) ++ u :: after.filter fun y => y.uid != k := by
      show s.strands.filter _ = _
      rw [list, List.filter_append, List.filter_cons, if_pos (bne_iff_ne.mpr other)]
    exact List.find?_eq_some_iff_append.mpr ⟨here, _, _, left, fun y hy => none y (List.mem_filter.mp hy).1⟩

theorem State.strandAt_addStrand_of_some {u y : Strand} (h : s.strandAt core slot = some u) : (s.addStrand y).strandAt core slot = some u := by
  have all : (s.addStrand y).all = s.all ++ [y] := rfl
  rw [State.strandAt] at h ⊢
  rw [all, List.find?_append, h, Option.some_or]

theorem oldest_mem {l us : List Strand} {a : Strand} (ha : a ∈ l) (hus : ∀ b ∈ us, b ∈ l) :
    us.foldl (fun a b => if b.age < a.age then b else a) a ∈ l := by
  refine List.foldlRecOn (motive := fun a => a ∈ l) us _ ha fun a ha b hb => ?_
  split
  · exact hus b hb
  · exact ha

/-- What enters a core's list as entries free leaves the strand in a slot there, if none of it is that strand. -/
theorem State.strandAt_promote (fuel c : Nat) {u : Strand} (h : s.strandAt core slot = some u)
    (others : ∀ y ∈ s.all, y.uid = u.uid → y.place ≠ .held c) : (s.promote fuel c).strandAt core slot = some u := by
  induction fuel generalizing s with
  | zero => exact h
  | succ n ih =>
    unfold State.promote
    split
    · exact h
    next t ts hl =>
      split
      swap
      · exact h
      have held := oldest_mem List.mem_cons_self fun b (hb : b ∈ ts) => List.mem_cons_of_mem t hb
      dsimp only
      generalize ts.foldl (fun a b => if b.age < a.age then b else a) t = first at held ⊢
      rw [← hl] at held
      obtain ⟨hf, hp⟩ := List.mem_filter.mp held
      have other : u.uid ≠ first.uid := fun e => others first hf e.symm (of_decide_eq_true hp)
      refine ih (State.strandAt_addStrand_of_some (State.strandAt_removeStrand (s := s) h other)) fun y hy same => ?_
      obtain hy | hy := List.mem_append.mp (show y ∈ (s.removeStrand first.uid).all ++ _ from hy)
      · obtain rfl | ⟨hy, -⟩ := State.mem_all_removeStrand hy
        · simp [Strand.empty]
        · exact others y hy same
      · rw [List.mem_singleton.mp hy]
        simp

theorem State.promote_rest (s : State) (fuel c : Nat) : s.promote fuel c =
    { s with ages := (s.promote fuel c).ages, me := (s.promote fuel c).me, strands := (s.promote fuel c).strands } := by
  induction fuel generalizing s with
  | zero => rfl
  | succ n ih =>
    unfold State.promote
    split
    · rfl
    · split
      · rw [ih]
        rfl
      · rfl

end

/-! ## Binding a slice (R102, R103) -/

/-- The state in which a slice is bound: the banks of a restore are back, its share is taken, and its launch has begun. -/
def State.boundBase (s : State) (core slot : Nat) (x : Strand) : State :=
  let s := (s.readBack core slot x).2
  let s := if x.restore ∧ !x.fresh then s.takeShare core x (bankCount x.banks) else s
  match x.launch with
  | some l => s.setLaunch l fun y => { y with tbind := y.tbind.or (some s.ns) }
  | none => s

/-- A slice as it stands in its slot. -/
def State.boundAs (s : State) (core slot : Nat) (x : Strand) : Strand :=
  let r := (s.readBack core slot x).1
  let s := s.boundBase core slot x
  let budget := if x.fresh then x.slicebud else r.budget
  { r with
    place := .slot core slot, wait := if x.restore then .restoring else .start, age := s.ages, hopped := false
    budget := budget, budgetDue := x.restore && decide (budget = 0), budgetTaken := false
    issued := 0, parkedCycles := 0, fresh := false, forGroup := none, haltReq := x.haltReq || !(s.bindingHalts x).isEmpty
    haltBy := (x.haltBy ++ s.bindingHalts x).eraseDups }

/-- Two states differ in the hub alone. -/
def State.HubStep (s t : State) : Prop := t = { s with hub := t.hub }

theorem State.HubStep.trans {s t u : State} (h : s.HubStep t) (h' : t.HubStep u) : s.HubStep u := by
  unfold State.HubStep at *
  rw [h', h]

section
variable (s : State) (core slot : Nat) (x : Strand)

theorem State.bind_eq : s.bind core slot x =
    (({ s.boundBase core slot x with ages := (s.boundBase core slot x).ages + 1 }.removeStrand x.uid).addStrand
      (s.boundAs core slot x)).refill core := rfl

theorem State.reacquire_rest : s.reacquire core slot x = { s with eng := (s.reacquire core slot x).eng } := by
  refine List.foldlRecOn (motive := fun t : State => t = { s with eng := t.eng }) _ _ rfl fun t ht b _ => ?_
  split
  · rw [State.setBank, ht]
  · exact ht

theorem State.readBack_rest : (s.readBack core slot x).2 = { s with eng := (s.readBack core slot x).2.eng } := by
  unfold State.readBack
  split
  · rw [State.reacquire_rest]
  · rfl

theorem State.setGroup_hub (g : Nat) (f : Group → Group) : s.HubStep (s.setGroup x g f) := by
  unfold State.setGroup
  split <;> rfl

theorem State.takeShare_hub (n : Nat) : s.HubStep (s.takeShare core x n) := by
  have slot : s.HubStep (if x.counted then s.setGroup x x.group fun g => { g with reserved := g.reserved + 1 } else s) := by
    split
    · exact State.setGroup_hub ..
    · rfl
  have banks (t : State) : t.HubStep (match x.launch, t.sharedGroup core x with
      | some l, some g => t.setGroup x g fun g => { g with banks := min (t.launchOf l).lrec.nbank (g.banks + n) }
      | _, _ => t) := by
    split
    · exact State.setGroup_hub ..
    · rfl
  exact slot.trans (banks _)

/-- Binding changes strands, the banks of a restore, and the launch's record. -/
theorem State.boundBase_hub : (s.readBack core slot x).2.HubStep (s.boundBase core slot x) := by
  have share : (s.readBack core slot x).2.HubStep (if x.restore ∧ !x.fresh then
      (s.readBack core slot x).2.takeShare core x (bankCount x.banks) else (s.readBack core slot x).2) := by
    split
    · exact State.takeShare_hub ..
    · rfl
  have begun (t : State) : t.HubStep (match x.launch with
      | some l => t.setLaunch l fun y => { y with tbind := y.tbind.or (some t.ns) }
      | none => t) := by
    split <;> rfl
  exact share.trans (begun _)

theorem State.boundBase_rest : s.boundBase core slot x =
    { s with eng := (s.readBack core slot x).2.eng, hub := (s.boundBase core slot x).hub } := by
  rw [State.boundBase_hub s core slot x, State.readBack_rest]

end

theorem Strand.wentOn_uid (t : Strand) (m : Mem) (a : Nat) : (t.wentOn m a).uid = t.uid := rfl

section
variable (s : State) (core slot : Nat) (x : Strand)

theorem State.readBack_uid : (s.readBack core slot x).1.uid = x.uid := by
  unfold State.readBack
  split
  next i _ _ => exact x.wentOn_uid s.mem (s.areaAddr x.ctx i)
  · rfl

theorem State.bind_rest : s.bind core slot x = { s with
    ages := (s.bind core slot x).ages, me := (s.bind core slot x).me, strands := (s.bind core slot x).strands
    eng := (s.readBack core slot x).2.eng, hub := (s.boundBase core slot x).hub } := by
  rw [State.bind_eq, State.refill, State.promote_rest, State.boundBase_rest]
  rfl

theorem State.boundAs_age : (s.boundAs core slot x).age = s.ages := by
  show (s.boundBase core slot x).ages = s.ages
  rw [State.boundBase_rest]

/-- The launch of a bound slice has begun. -/
theorem State.tbind_boundBase {l : Nat} (h : x.launch = some l) : ((s.boundBase core slot x).launchOf l).tbind.isSome = true := by
  unfold State.boundBase
  rw [h]
  dsimp only
  rw [State.launchOf_setLaunch, if_pos rfl]
  simp

end

/-- A slice that is bound stands in its slot, whatever enters the core's list behind it. -/
theorem State.strandAt_bind {s : State} {core slot : Nat} (x : Strand) (free : s.strandAt core slot = none) :
    (s.bind core slot x).strandAt core slot = some (s.boundAs core slot x) := by
  rw [State.bind_eq]
  have base : ({ s.boundBase core slot x with ages := (s.boundBase core slot x).ages + 1 } : State).strandAt core slot = none := by
    rw [State.boundBase_rest]
    exact free
  refine State.strandAt_promote _ core (State.strandAt_addStrand (State.strandAt_removeStrand_none _ base) rfl) fun y hy same => ?_
  have uid : (s.boundAs core slot x).uid = x.uid := State.readBack_uid ..
  obtain hy | hy := List.mem_append.mp (show y ∈ (State.removeStrand _ x.uid).all ++ _ from hy)
  · obtain rfl | ⟨-, other⟩ := State.mem_all_removeStrand hy
    · simp [Strand.empty]
    · exact absurd (same.trans uid) other
  · rw [List.mem_singleton.mp hy]
    simp [State.boundAs]

/-! ## What a restore reads back (R389) -/

/-- Runs of one width written one after another: each key holds what the run of its block gives, where one was written. -/
theorem FMap.get_foldl_setList {α : Type} [DecidableEq α] (d : α) {w : Nat} {f : Nat → List α} (width : ∀ r, (f r).length = w) (rs : List Nat)
    (m : FMap α) {q n : Nat} (h : n < w) : FMap.get d (rs.foldl (fun v r => FMap.setList d v (w * r) (f r)) m) (w * q + n) =
      if q ∈ rs then (f q).getD n d else FMap.get d m (w * q + n) := by
  induction rs using List.reverseRecOn with
  | nil => simp
  | append_singleton rs r ih =>
    rw [List.foldl_append, List.foldl_cons, List.foldl_nil, FMap.get_setList, width]
    by_cases hq : q = r
    · subst hq
      rw [if_pos (by omega), if_pos (by simp), Nat.add_sub_cancel_left]
    · have apart : ¬ (w * r ≤ w * q + n ∧ w * q + n < w * r + w) := by
        rintro ⟨low, high⟩
        have := Nat.lt_of_mul_lt_mul_left (a := w) (b := r) (c := q + 1) (by rw [Nat.mul_succ]; omega)
        have := Nat.lt_of_mul_lt_mul_left (a := w) (b := q) (c := r + 1) (by rw [Nat.mul_succ]; omega)
        omega
      rw [if_neg apart, ih]
      simp [hq]

/-- A word without its two low bits. -/
theorem toNat_and_not_three (w : Word) : (w &&& ~~~3#64).toNat = w.toNat / 4 * 4 := by
  have shifted : w &&& ~~~3#64 = (w >>> 2) <<< 2 := by
    ext i hi
    have three : (3#64)[i] = decide (i < 2) := by
      rw [BitVec.getElem_eq_testBit_toNat]
      exact Nat.testBit_two_pow_sub_one 2 i
    rw [BitVec.getElem_and, BitVec.getElem_not, BitVec.getElem_shiftLeft, three]
    by_cases low : i < 2
    · simp [low]
    · simp [low, BitVec.getElem_ushiftRight, show 2 + (i - 2) = i by omega, BitVec.getLsbD_eq_getElem hi]
  have := w.isLt
  rw [shifted, BitVec.toNat_shiftLeft, BitVec.toNat_ushiftRight, Nat.shiftLeft_eq, Nat.shiftRight_eq_div_pow]
  omega

theorem State.hbmNat_lt (s : State) (a n : Nat) : s.hbmNat a n < 256 ^ n := by
  have := ofLE_lt (s.mem.bytesAt (hbmKey a) n)
  rwa [Mem.length_bytesAt] at this

/-- A number that fits a register is what the register then holds. -/
theorem State.toNat_hbmNat (s : State) (a n : Nat) {w : Nat} (fits : 256 ^ n ≤ 2 ^ w) : (BitVec.ofNat w (s.hbmNat a n)).toNat = s.hbmNat a n := by
  rw [BitVec.toNat_ofNat, Nat.mod_eq_of_lt (Nat.lt_of_lt_of_le (s.hbmNat_lt a n) fits)]

section
variable (x : Strand) (s : State) (a : Nat)

theorem Strand.restored_words : let u := x.restored s.mem a
    let field (o n : Nat) : Nat := s.hbmNat (a + o) n
    u.pc.toNat = field 0 8 / 4 * 4 ∧ u.stk.toNat = field 8 8 ∧ u.tvec.toNat = field 0x10 8 / 4 * 4
      ∧ u.epc.toNat = field 0x18 8 ∧ u.wtmo.toNat = field 0x20 8 ∧ u.srseed.toNat = field 0x28 8 ∧ u.deadline.toNat = field 0x98 8
      ∧ u.budget.toNat = field 0xA0 8 := by
  have word (o : Nat) : (BitVec.ofNat 64 (s.hbmNat (a + o) 8)).toNat = s.hbmNat (a + o) 8 := s.toNat_hbmNat _ 8 (by decide)
  have address (o : Nat) : (BitVec.ofNat 64 (s.hbmNat (a + o) 8) &&& ~~~3#64).toNat = s.hbmNat (a + o) 8 / 4 * 4 := by
    rw [toNat_and_not_three, word]
  exact ⟨address 0, word 8, address 0x10, word 0x18, word 0x20, word 0x28, word 0x98, word 0xA0⟩

theorem Strand.stack_restored : (x.restored s.mem a).stack =
    FMap.setList 0 x.stack 0 ((List.range 64).map fun e => BitVec.ofNat 64 (s.hbmNat (a + (0x140 + 8 * e)) 8)) := by
  unfold Strand.restored State.hbmNat
  dsimp only
  rfl

theorem Strand.restored_stack {e : Nat} (h : e < 64) : (FMap.get 0 (x.restored s.mem a).stack e).toNat = s.hbmNat (a + (0x140 + 8 * e)) 8 := by
  have entry : FMap.get 0 (x.restored s.mem a).stack e = BitVec.ofNat 64 (s.hbmNat (a + (0x140 + 8 * e)) 8) := by
    rw [Strand.stack_restored, FMap.get_setList, if_pos (by simpa using h)]
    simp [h]
  rw [entry, s.toNat_hbmNat _ 8 (by decide)]

/-- The lanes of a vector register as an area holds them. -/
def State.savedLanes (live : BitVec 16) (r : Nat) : List Lane :=
  if live.getLsbD r then (List.range 64).map fun i => BitVec.ofNat 32 (s.hbmNat (a + (0x340 + 256 * r + 4 * i)) 4) else List.replicate 64 0

theorem Strand.vregs_restored : (x.restored s.mem a).vregs =
    (List.range 16).foldl (fun v r => FMap.setList 0 v (64 * r) (s.savedLanes a (x.restored s.mem a).vlive r)) x.vregs := by
  unfold Strand.restored State.savedLanes State.hbmNat
  dsimp only
  rfl

theorem Strand.restored_vlive : (x.restored s.mem a).vlive = BitVec.ofNat 16 (s.hbmNat (a + 0x3E) 2) := rfl

theorem Strand.restored_vregs {r n : Nat} (hr : r < 16) (hn : n < 64) (live : (x.restored s.mem a).vlive.getLsbD r = true) :
    (FMap.get 0 (x.restored s.mem a).vregs (64 * r + n)).toNat = s.hbmNat (a + (0x340 + 256 * r + 4 * n)) 4 := by
  have width (r : Nat) : (s.savedLanes a (x.restored s.mem a).vlive r).length = 64 := by
    unfold State.savedLanes
    split <;> simp
  have lane : FMap.get 0 (x.restored s.mem a).vregs (64 * r + n) = BitVec.ofNat 32 (s.hbmNat (a + (0x340 + 256 * r + 4 * n)) 4) := by
    rw [Strand.vregs_restored, FMap.get_foldl_setList 0 width _ _ hn, if_pos (List.mem_range.mpr hr), State.savedLanes, if_pos live]
    simp [hn]
  rw [lane, s.toNat_hbmNat _ 4 (by decide)]

end

/-! ## The banks of a restore (R314, R389) -/

/-- Taking banks again puts each of a saved strand's in its next generation. -/
theorem State.gen_foldl_reacquire (s : State) (core slot : Nat) (x : Strand) {bs : List Nat} (once : bs.Nodup) (c : Nat) :
    ((bs.foldl (fun s b =>
      if x.banks.getLsbD b then
        s.setBank core b fun k => { k with cond := .held slot (x.banks.getLsbD (4 + b)), launch := x.launch, gen := k.gen + 1 }
      else s) s).bankOf core c).gen = (s.bankOf core c).gen + if c ∈ bs ∧ x.banks.getLsbD c = true then 1 else 0 := by
  induction bs using List.reverseRecOn with
  | nil => simp
  | append_singleton bs b ih =>
    obtain ⟨before, -, apart⟩ := List.nodup_append.mp once
    have ih := ih before
    rw [List.foldl_append, List.foldl_cons, List.foldl_nil]
    by_cases hc : c = b
    · subst hc
      have new : c ∉ bs := fun h => apart c h c (by simp) rfl
      rw [if_neg (by simp [new])] at ih
      by_cases bit : x.banks.getLsbD c = true
      · rw [if_pos bit, State.bankOf_setBank, if_pos rfl, if_pos (by simp [bit]), ← Nat.add_zero (s.bankOf core c).gen, ← ih]
      · rw [if_neg bit, if_neg (by simp [bit]), ih]
    · have same : (c ∈ bs ++ [b] ∧ x.banks.getLsbD c = true) ↔ (c ∈ bs ∧ x.banks.getLsbD c = true) := by simp [hc]
      rw [if_congr same rfl rfl, ← ih]
      split
      · rw [State.bankOf_setBank, if_neg (by omega)]
      · rfl

theorem State.gen_reacquire (s : State) {core slot b : Nat} {x : Strand} (hb : b < 4) (held : x.banks.getLsbD b = true) :
    ((s.reacquire core slot x).bankOf core b).gen = (s.bankOf core b).gen + 1 := by
  rw [State.reacquire, State.gen_foldl_reacquire s core slot x List.nodup_range, if_pos ⟨List.mem_range.mpr hb, held⟩]

/-- Lanes of a bank as an area holds them. -/
def State.savedBank (s : State) (a b : Nat) : List Lane :=
  (List.range 4096).map fun i => BitVec.ofNat 32 (s.hbmNat (a + 0x1340 + 16384 * b + 4 * i) 4)

/-- An engine's bank as an area holds it, held by a slot. -/
def Eng.takeBank (e : Eng) (s : State) (core slot : Nat) (launch : Option Nat) (mask : BitVec 8) (a b : Nat) : Eng :=
  if mask.getLsbD b then
    { e with
      acc := FMap.setList 0 e.acc (4096 * (4 * core + b)) (s.savedBank a b)
      banks := FMap.set Bank.reset e.banks (4 * core + b)
        { (FMap.get Bank.reset e.banks (4 * core + b)) with cond := .held slot (mask.getLsbD (4 + b)), launch := launch } }
  else e

/-- Some banks of an area taken one after another. -/
def Eng.takeBanks (e : Eng) (s : State) (core slot : Nat) (launch : Option Nat) (mask : BitVec 8) (a : Nat) (bs : List Nat) : Eng :=
  bs.foldl (fun e b => e.takeBank s core slot launch mask a b) e

section
variable (e : Eng) (s : State) (core slot : Nat) (l : Option Nat) (mask : BitVec 8) (a : Nat)

theorem restoreBanks_eq : restoreBanks e s.mem core slot l mask a = e.takeBanks s core slot l mask a (List.range 4) := rfl

theorem Eng.takeBanks_append (bs : List Nat) (c : Nat) :
    e.takeBanks s core slot l mask a (bs ++ [c]) = (e.takeBanks s core slot l mask a bs).takeBank s core slot l mask a c := by
  rw [Eng.takeBanks, List.foldl_append]
  rfl

/-- A bank that is read back stays in the generation in which it was taken. -/
theorem Eng.gen_takeBanks (bs : List Nat) (b : Nat) : (FMap.get Bank.reset (e.takeBanks s core slot l mask a bs).banks b).gen =
    (FMap.get Bank.reset e.banks b).gen := by
  induction bs using List.reverseRecOn with
  | nil => rfl
  | append_singleton bs c ih =>
    rw [Eng.takeBanks_append, Eng.takeBank, ← ih]
    split
    · rw [FMap.get_set]
      split
      next same => rw [same]
      · rfl
    · rfl

variable {b : Nat} (bit : mask.getLsbD b = true) {bs : List Nat} (h : b ∈ bs)
include bit h

/-- A bank of the area's mask is held by the slot, in the mode in which it was. -/
theorem Eng.cond_takeBanks : (FMap.get Bank.reset (e.takeBanks s core slot l mask a bs).banks (4 * core + b)).cond =
    .held slot (mask.getLsbD (4 + b)) := by
  induction bs using List.reverseRecOn with
  | nil => cases h
  | append_singleton bs c ih =>
    rw [Eng.takeBanks_append, Eng.takeBank]
    by_cases hc : b = c
    · subst hc
      simp [bit]
    · have ih := ih (by simpa [hc] using h)
      split
      · rw [FMap.get_set, if_neg (by omega), ih]
      · exact ih

/-- And its lanes are those that the area holds. -/
theorem Eng.acc_takeBanks {n : Nat} (hn : n < 4096) :
    FMap.get 0 (e.takeBanks s core slot l mask a bs).acc (4096 * (4 * core + b) + n) = (s.savedBank a b).getD n 0 := by
  have width (c : Nat) : (s.savedBank a c).length = 4096 := by simp [State.savedBank]
  induction bs using List.reverseRecOn with
  | nil => cases h
  | append_singleton bs c ih =>
    rw [Eng.takeBanks_append, Eng.takeBank]
    by_cases hc : b = c
    · subst hc
      rw [if_pos bit, FMap.get_setList, width, if_pos (by omega), Nat.add_sub_cancel_left]
    · have ih := ih (by simpa [hc] using h)
      split
      · rw [FMap.get_setList, width, if_neg (by omega), ih]
      · exact ih

end

section
variable {s : State} {core slot : Nat} {x : Strand}

theorem State.readBack_new (new : x.restore = false) : s.readBack core slot x = (x, s) := by
  rw [State.readBack, new]

theorem State.readBack_saved {i : Nat} (saved : x.restore = true) (area : x.area = some i) : s.readBack core slot x =
    ({ x.wentOn s.mem (s.areaAddr x.ctx i) with parity := [], pendingTrap := none }, { s.reacquire core slot x with
      eng := restoreBanks (s.reacquire core slot x).eng s.mem core slot x.launch x.banks (s.areaAddr x.ctx i) }) := by
  rw [State.readBack, saved, area]

/-- A slice that was not saved is bound with the registers that it has. -/
theorem State.boundAs_new (new : x.restore = false) : let u := s.boundAs core slot x
    u.pc = x.pc ∧ u.stack = x.stack ∧ u.vregs = x.vregs ∧ u.budgetDue = false ∧ (x.fresh = false → u.budget = x.budget) := by
  unfold State.boundAs
  rw [State.readBack_new new, new]
  exact ⟨rfl, rfl, rfl, rfl, fun old => by simp [old]⟩

/-- A saved slice's budget is what its area says, less what it has spent since (log 91). -/
theorem State.boundAs_budget {i : Nat} (saved : x.restore = true) (area : x.area = some i) (old : x.fresh = false) :
    (s.boundAs core slot x).budget.toNat = s.hbmNat (s.areaAddr x.ctx i + 0xA0) 8 - (x.savedBudget.toNat - x.budget.toNat) := by
  obtain ⟨-, -, -, -, -, -, -, budget⟩ := x.restored_words s (s.areaAddr x.ctx i)
  have taken : (s.boundAs core slot x).budget = (x.wentOn s.mem (s.areaAddr x.ctx i)).budget := by
    unfold State.boundAs
    rw [State.readBack_saved saved area, old]
    rfl
  have less := s.hbmNat_lt (s.areaAddr x.ctx i + 0xA0) 8
  rw [taken, Strand.wentOn, BitVec.toNat_ofNat, budget, Nat.mod_eq_of_lt (by omega)]

/-- A saved slice is bound with the registers that its area holds (R389). -/
theorem State.boundAs_saved {i : Nat} (saved : x.restore = true) (area : x.area = some i) :
    let u := s.boundAs core slot x
    let r := x.restored s.mem (s.areaAddr x.ctx i)
    u.pc = r.pc ∧ u.stk = r.stk ∧ u.tvec = r.tvec ∧ u.epc = r.epc ∧ u.wtmo = r.wtmo ∧ u.srseed = r.srseed ∧ u.deadline = r.deadline
      ∧ u.stack = r.stack ∧ u.vlive = r.vlive ∧ u.vregs = r.vregs ∧ u.budgetDue = decide (u.budget = 0) := by
  unfold State.boundAs
  rw [State.readBack_saved saved area, saved, Strand.wentOn]
  generalize x.restored s.mem (s.areaAddr x.ctx i) = r
  exact ⟨rfl, rfl, rfl, rfl, rfl, rfl, rfl, rfl, rfl, rfl, rfl⟩

end

/-- The banks of a saved slice stand on the core as its area holds them, and its slot holds them anew (R314, R389). -/
theorem State.bind_bank {s : State} {core slot : Nat} {x : Strand} {i : Nat} (saved : x.restore = true) (area : x.area = some i)
    {b : Nat} (hb : b < 4) (held : x.banks.getLsbD b = true) :
    let t := s.bind core slot x
    (t.bankOf core b).cond = .held slot (x.banks.getLsbD (4 + b)) ∧ (t.bankOf core b).gen = (s.bankOf core b).gen + 1
      ∧ ∀ n, n < 4096 → (FMap.get 0 t.eng.acc (4096 * (4 * core + b) + n)).toNat
          = s.hbmNat (s.areaAddr x.ctx i + (0x1340 + 16384 * b + 4 * n)) 4 := by
  intro t
  have eng : t.eng = (s.reacquire core slot x).eng.takeBanks s core slot x.launch x.banks (s.areaAddr x.ctx i) (List.range 4) := by
    show (s.bind core slot x).eng = _
    rw [State.bind_rest, State.readBack_saved saved area]
    exact restoreBanks_eq ..
  have listed : b ∈ List.range 4 := List.mem_range.mpr hb
  refine ⟨?_, ?_, fun n hn => ?_⟩
  · rw [State.bankOf, eng, Eng.cond_takeBanks _ _ _ _ _ _ _ held listed]
  · rw [State.bankOf, eng, Eng.gen_takeBanks]
    exact State.gen_reacquire s hb held
  · have lane : (s.savedBank (s.areaAddr x.ctx i) b).getD n 0
        = BitVec.ofNat 32 (s.hbmNat (s.areaAddr x.ctx i + (0x1340 + 16384 * b + 4 * n)) 4) := by
      simp [State.savedBank, hn, Nat.add_assoc]
    rw [eng, Eng.acc_takeBanks _ _ _ _ _ _ _ held listed hn, lane, s.toNat_hbmNat _ 4 (by decide)]

/-! ## The statement on arrivals and binding -/

/-- Settles O32: a message by whether it is urgent, a hop by whether its core has room, the delivery of an urgent message; then the slice
that comes first, by whether its restore meets an error. -/
theorem arrivalsAndBinding : Obligations.ArrivalsAndBinding := by
  unfold Obligations.ArrivalsAndBinding
  refine ⟨fun s core => ⟨fun i m hm alone => ⟨fun urgent => ?urgent, fun normal room => ?normal⟩,
    fun slot m rest waits urgent free => ?delivery,
    fun i x hx here => ⟨fun room => ?enters, fun full travels few => ?buffer⟩⟩,
    fun core slot x s small free below member binds first none => ⟨fun i bad area => ?bad, fun good => ?bind⟩⟩
  case urgent =>
    refine ⟨_, exec_amsgArrival hm alone, ?_⟩
    rw [if_pos urgent]
    refine ⟨rfl, ?_, rfl, rfl, rfl⟩
    rw [State.coreOf_setCore, if_pos rfl]
    rfl
  case normal =>
    refine ⟨_, { m.strand (s.ages + 1) with place := .pending m.dest, wait := .none, age := s.ages + 1 }, exec_amsgArrival hm alone, ?_⟩
    rw [if_neg (by simp [normal]), if_pos (State.pendingRoom_of_roomFor room)]
    exact ⟨rfl, rfl, rfl, rfl, rfl, rfl, m.stack_strand (s.ages + 1), rfl, rfl, rfl, rfl, normal, rfl, rfl, rfl, rfl, rfl, rfl⟩
  case delivery =>
    have empty : s.strandAt core slot = .none := by
      obtain ⟨rfl, h⟩ | ⟨rfl, -, h⟩ := free
      · exact h
      · exact h
    refine ⟨_, _, exec_urgentDelivery waits free, ?_, State.strandAt_addStrand empty rfl, urgent, rfl, rfl,
      m.stack_strand (s.ages + 1), rfl, rfl, rfl⟩
    exact congrArg Core.urgent ((State.coreOf_setCore s core core fun c => { c with urgent := rest }).trans (if_pos rfl))
  case enters =>
    exact ⟨_, exec_hopArrival_enters hx here (State.pendingRoom_of_roomFor room), List.mem_append_right _ (List.mem_singleton.mpr rfl),
      rfl, rfl, rfl⟩
  case buffer =>
    exact ⟨_, exec_hopArrival_waits hx here (mt State.roomFor_iff.mpr full) travels few,
      List.mem_append_right _ (List.mem_singleton.mpr rfl), rfl⟩
  case bad =>
    refine ⟨_, exec_sliceBind small free below member binds first none, ?_⟩
    rw [if_pos bad]
    exact State.restoreError_spec member free area
  case bind =>
    have rest := s.bind_rest core slot x
    refine ⟨s.bind core slot x, s.boundAs core slot x, ?_, State.strandAt_bind x free, rfl, State.boundAs_age .., State.readBack_uid .., rfl, rfl,
      fun l launch => ?_, by rw [rest], fun fresh => if_pos fresh, fun new => ?_, fun i saved area => ?_⟩
    · rw [exec_sliceBind small free below member binds first none, if_neg (by simp [good])]
    · rw [rest]
      exact State.tbind_boundBase s core slot x launch
    · obtain ⟨pc, stack, vregs, due, budget⟩ := State.boundAs_new (s := s) (core := core) (slot := slot) new
      exact ⟨pc, stack, vregs, due, by rw [rest, State.readBack_new new], budget⟩
    · obtain ⟨pc, stk, tvec, epc, wtmo, srseed, deadline, stack, vlive, vregs, due⟩ :=
        State.boundAs_saved (s := s) (core := core) (slot := slot) saved area
      obtain ⟨pc', stk', tvec', epc', wtmo', srseed', deadline', -⟩ := x.restored_words s (s.areaAddr x.ctx i)
      refine ⟨by rw [pc, pc'], by rw [stk, stk'], by rw [tvec, tvec'], by rw [epc, epc'], by rw [wtmo, wtmo'], by rw [srseed, srseed'],
        by rw [deadline, deadline'], due, State.boundAs_budget saved area, fun e he => ?_, vlive, fun r n hr hn live => ?_,
        fun b hb held => State.bind_bank saved area hb held⟩
      · rw [stack]
        exact x.restored_stack s _ he
      · rw [vlive] at live
        rw [vregs]
        exact x.restored_vregs s _ hr hn live

end Sys2Proof.Machine

/-!
PROOFS. Debug sessions: halts, resumes, stops, sampling intervals and hall keys (R398, R407, R408, R411, R412, R424).
-/

namespace Sys2Proof.Machine

/-! ## Commands of a session (R411) -/

/-- A command of a session has ended with a status in a state (R411). -/
def State.says (s : State) (session st : Nat) : State :=
  { s with pkg := { s.pkg with sessions := s.pkg.sessions.modify session fun y => { y with status := st } } }

theorem State.says_asked (s : State) (session st : Nat) : (s.asked session).says session st = s.replied session st := by
  unfold State.says State.asked State.replied
  rw [List.modify_modify_eq]
  rfl

/-- A command that leaves the package alone answers with its status alone. -/
theorem State.replies_says {s t : State} {session : Nat} (st : Nat) (h : t.pkg = (s.asked session).pkg) :
    s.replies (t.says session st) session st := by
  rw [State.replies, State.says, h]
  exact congrArg State.pkg (s.says_asked session st)

theorem deniedTo_rightReach (r : DebugRight) (p : Nat) : deniedTo (rightReach r) p = false ↔ rightCovers r p := by
  cases r with
  | package => simp [deniedTo, rightReach, rightCovers]
  | partition q => simp [deniedTo, rightReach, rightCovers]

section
variable {s : State} {session st : Nat} {r : DebugRight} {us : List Nat}
  (open_ : s.pkg.sessions[session]? = some { right := r, status := st, awaits := us })
include open_

theorem State.debugCommand_ends {e : Host.Outcome State Fault Refusal} {f : State → Reach → Nat × State} {k : Nat} {t : State}
    (runs : e = s.debugCommand session f) (h : f (s.asked session) (rightReach r) = (k, t)) : e = .next (t.says session k) := by
  have run : s.debugCommand session f = .next (State.says (f (s.asked session) (rightReach r)).2 session (f (s.asked session) (rightReach r)).1) := by
    rw [State.debugCommand, open_]
    rfl
  rw [runs, run, h]

theorem State.debugCommand_answers {e : Host.Outcome State Fault Refusal} {f : State → Reach → Nat × State} {k : Nat}
    (runs : e = s.debugCommand session f) (h : f (s.asked session) (rightReach r) = (k, s.asked session)) :
    e = .next (s.replied session k) := by
  rw [State.debugCommand_ends open_ runs h, State.says_asked]

section
variable {ctx : Nat} (live : (s.ctxOf ctx).live = true)
include live

theorem State.debugCtx_denied {e : Host.Outcome State Fault Refusal} {f : State → Nat × State} (runs : e = s.debugCtx session ctx f)
    (other : ∃ p, r = .partition p ∧ p ≠ (s.ctxOf ctx).part) : e = .next (s.replied session 1) := by
  obtain ⟨p, rfl, other⟩ := other
  refine State.debugCommand_answers open_ runs ((if_neg ?_).trans (if_pos (bne_iff_ne.mpr other)))
  rw [Bool.not_eq_true', Bool.not_eq_false]
  exact live

variable (covers : rightCovers r (s.ctxOf ctx).part)
include covers

theorem State.debugCtx_ends {e : Host.Outcome State Fault Refusal} {f : State → Nat × State} {k : Nat} {t : State}
    (runs : e = s.debugCtx session ctx f) (h : f (s.asked session) = (k, t)) : e = .next (t.says session k) := by
  refine State.debugCommand_ends open_ runs (((if_neg ?_).trans (if_neg ?_)).trans h)
  · rw [Bool.not_eq_true', Bool.not_eq_false]
    exact live
  · rw [Bool.not_eq_true]
    exact (deniedTo_rightReach r _).mpr covers

theorem State.debugCtx_answers {e : Host.Outcome State Fault Refusal} {f : State → Nat × State} {k : Nat}
    (runs : e = s.debugCtx session ctx f) (h : f (s.asked session) = (k, s.asked session)) : e = .next (s.replied session k) := by
  rw [State.debugCtx_ends open_ live covers runs h, State.says_asked]

end

/-! ## Stops and sampling intervals (R407, R408) -/

section
variable {ctx : Nat} (live : (s.ctxOf ctx).live = true) (covers : rightCovers r (s.ctxOf ctx).part) (v : Option Nat) (pc : Word)
include live covers

theorem exec_stopset_listed (h : ⟨v, pc⟩ ∈ (s.ctxOf ctx).stops) : exec (.stopset session ctx v pc) s = .next (s.replied session 0) :=
  State.debugCtx_answers open_ live covers (rfl : execStopset session ctx v pc s = _) (if_pos (List.contains_iff_mem.mpr h))

theorem exec_stopset_full (new : ⟨v, pc⟩ ∉ (s.ctxOf ctx).stops) (full : 64 ≤ (s.ctxOf ctx).stops.length) :
    exec (.stopset session ctx v pc) s = .next (s.replied session 3) :=
  State.debugCtx_answers open_ live covers (rfl : execStopset session ctx v pc s = _) ((if_neg (mt List.contains_iff_mem.mp new)).trans (if_pos full))

theorem exec_stopset_new (new : ⟨v, pc⟩ ∉ (s.ctxOf ctx).stops) (room : (s.ctxOf ctx).stops.length < 64) :
    exec (.stopset session ctx v pc) s =
      .next (((s.asked session).setCtx ctx fun c => { c with stops := c.stops ++ [⟨v, pc⟩] }).says session 0) :=
  State.debugCtx_ends open_ live covers (rfl : execStopset session ctx v pc s = _)
    ((if_neg (mt List.contains_iff_mem.mp new)).trans (if_neg (Nat.not_le.mpr room)))

theorem exec_stopclr : exec (.stopclr session ctx v pc) s =
    .next (((s.asked session).setCtx ctx fun c => { c with stops := c.stops.filter fun x => x != ⟨v, pc⟩ }).says session 0) :=
  State.debugCtx_ends open_ live covers (rfl : execStopclr session ctx v pc s = _) rfl

theorem exec_sample {interval : Word} (fits : interval = 0 ∨ (256 ≤ interval.toNat ∧ interval.toNat ≤ 16777216)) :
    exec (.sample session ctx interval) s =
      .next (((s.asked session).setCtx ctx fun c => { c with sampleInterval := interval.toNat }).says session 0) :=
  State.debugCtx_ends open_ live covers (rfl : execSample session ctx interval s = _) (if_neg (by
    rintro ⟨some, low | high⟩
    · have := (fits.resolve_left some).1
      omega
    · have := (fits.resolve_left some).2
      omega))

theorem exec_sample_bad {interval : Word} (some : interval ≠ 0) (bad : interval.toNat < 256 ∨ 16777216 < interval.toNat) :
    exec (.sample session ctx interval) s = .next (s.replied session 2) :=
  State.debugCtx_answers open_ live covers (rfl : execSample session ctx interval s = _) (if_pos ⟨some, bad⟩)

end

end

/-! ## Targets (R93, R398, R412) -/

theorem Strand.haltFor_rest (t : Strand) (target : DebugTarget) :
    t.haltFor target = { t with haltReq := t.haltReq || !t.halted, haltBy := (t.haltBy ++ [target]).eraseDups } := rfl

/-- A change of strands that leaves each where it is finds the same strand under a name. -/
theorem State.strandTarget_mapAll (s : State) {f : Strand → Strand} (place : ∀ y, (f y).place = y.place) (area : ∀ y, (f y).area = y.area)
    (kslot : ∀ y, (f y).kslot = y.kslot) (ctx : Nat) (vcore : BitVec 32) (slot : Nat) :
    (s.mapAll f).strandTarget ctx vcore slot = (s.strandTarget ctx vcore slot).map f := by
  have slots (c n : Nat) : (s.mapAll f).strandAt c n = (s.strandAt c n).map f := by
    have kept (y : Strand) : (f y).inSlot c n = y.inSlot c n := by rw [Strand.inSlot, place, Strand.inSlot]
    rw [State.strandAt, State.mapAll_all, List.find?_map]
    exact congrArg (fun p => (s.all.find? p).map f) (funext kept)
  have saved (c n : Nat) : ((s.mapAll f).all.find? fun t => t.isLive && !t.bound && t.area.isSome && t.core == c && t.kslot == n)
      = (s.all.find? fun t => t.isLive && !t.bound && t.area.isSome && t.core == c && t.kslot == n).map f := by
    rw [State.mapAll_all, List.find?_map]
    refine congrArg (fun p => (s.all.find? p).map f) (funext fun y => ?_)
    simp only [Function.comp_apply, Strand.isLive, Strand.bound, Strand.core, place, area, kslot]
  have named (c n : Nat) : (s.mapAll f).strandNamed c n = (s.strandNamed c n).map f := by
    rw [State.strandNamed, slots, saved, State.strandNamed]
    cases s.strandAt c n <;> rfl
  rw [State.strandTarget, State.strandTarget]
  have core : (s.mapAll f).namedCore ctx vcore.toNat = s.namedCore ctx vcore.toNat := rfl
  rw [core]
  split
  · cases s.namedCore ctx vcore.toNat with
    | none => rfl
    | some c => exact named c slot
  · rfl

/-- Whether a strand belongs to a target is by what a halt does not change of it. -/
theorem State.inTarget_congr (s : State) (target : DebugTarget) {x y : Strand} (place : y.place = x.place) (uid : y.uid = x.uid)
    (ctx : y.ctx = x.ctx) (launch : y.launch = x.launch) (counted : y.counted = x.counted) (group : y.group = x.group) :
    s.inTarget y target = s.inTarget x target := by
  cases target <;> simp only [State.inTarget, Strand.isLive, place, uid, ctx, launch, counted, group]

/-- A strand of a target stays one where strands change only in what a halt changes. -/
theorem State.inTarget_mapAll (s : State) (target : DebugTarget) {f : Strand → Strand} (place : ∀ y, (f y).place = y.place)
    (area : ∀ y, (f y).area = y.area) (kslot : ∀ y, (f y).kslot = y.kslot) (uid : ∀ y, (f y).uid = y.uid) (x : Strand) :
    (s.mapAll f).inTarget x target = s.inTarget x target := by
  cases target with
  | strand ctx vcore slot =>
    rw [State.inTarget, State.strandTarget_mapAll s place area kslot, State.inTarget]
    cases s.strandTarget ctx vcore slot with
    | none => rfl
    | some z => simp [uid]
  | _ => rfl

theorem State.markTarget_all (s : State) (target : DebugTarget) (on : Bool) : (s.markTarget target on).all = s.all := by
  cases target <;> rfl

theorem State.markTarget_mem (s : State) (target : DebugTarget) (on : Bool) : (s.markTarget target on).mem = s.mem := by
  cases target <;> rfl

/-- The mark of a target's own halt does not move a strand into the target, or out of it. -/
theorem State.inTarget_markTarget (s : State) (target : DebugTarget) (on : Bool) (x : Strand) :
    (s.markTarget target on).inTarget x target = s.inTarget x target := by
  cases target <;> rfl

/-! ## Halts (R398, R412) -/

/-- What a HALT of a target makes of each strand. -/
def State.haltMark (s : State) (target : DebugTarget) (t : Strand) : Strand := if s.inTarget t target then t.haltFor target else t

theorem State.haltMark_keeps {α : Type} (s : State) (target : DebugTarget) (t : Strand) (field : Strand → α)
    (kept : field (t.haltFor target) = field t) : field (s.haltMark target t) = field t := by
  unfold State.haltMark
  split
  · exact kept
  · rfl

/-- The state in which a target's strands and the target itself are marked to halt. -/
def State.haltMarked (s : State) (target : DebugTarget) : State := (s.mapAll (s.haltMark target)).markTarget target true

theorem State.inTarget_haltMarked (s : State) (target : DebugTarget) (x : Strand) :
    (s.haltMarked target).inTarget (s.haltMark target x) target = s.inTarget x target := by
  have keeps {α : Type} (y : Strand) (field : Strand → α) (kept : field (y.haltFor target) = field y) := s.haltMark_keeps target y field kept
  rw [State.haltMarked, State.inTarget_markTarget, State.inTarget_mapAll s target (keeps · (·.place) rfl) (keeps · (·.area) rfl)
    (keeps · (·.kslot) rfl) (keeps · (·.uid) rfl)]
  exact s.inTarget_congr target (keeps x (·.place) rfl) (keeps x (·.uid) rfl) (keeps x (·.ctx) rfl) (keeps x (·.launch) rfl)
    (keeps x (·.counted) rfl) (keeps x (·.group) rfl)

/-- The strands for which a HALT waits: those of its target that stand in a slot and have not halted. -/
def State.haltAwaits (s : State) (target : DebugTarget) : List Nat :=
  (s.all.filter fun x => s.inTarget x target && x.bound && !x.halted).map (·.uid)

theorem State.awaitHalt_haltMarked (s : State) (session : Nat) (target : DebugTarget) :
    (s.haltMarked target).awaitHalt session target = { s.haltMarked target with pkg := { (s.haltMarked target).pkg with
      sessions := (s.haltMarked target).pkg.sessions.modify session fun y => { y with awaits := s.haltAwaits target } } } := by
  have awaits : (((s.haltMarked target).all.filter fun t => (s.haltMarked target).inTarget t target && t.bound && !t.halted).map (·.uid))
      = s.haltAwaits target := by
    have all : (s.haltMarked target).all = s.all.map (s.haltMark target) := State.markTarget_all ..
    rw [all, List.filter_map, List.map_map, State.haltAwaits]
    have waits : ((fun t => (s.haltMarked target).inTarget t target && t.bound && !t.halted) ∘ s.haltMark target)
        = fun x => s.inTarget x target && x.bound && !x.halted := funext fun x => by
      simp only [Function.comp_apply, State.inTarget_haltMarked, s.haltMark_keeps target x (·.bound) rfl, s.haltMark_keeps target x (·.halted) rfl]
    rw [waits]
    exact List.map_congr_left fun x _ => s.haltMark_keeps target x (·.uid) rfl
  rw [State.awaitHalt, awaits]

theorem State.markTarget_pkg (s : State) {target : DebugTarget} (program : ∀ i, target ≠ .systemCore i) (on : Bool) :
    (s.markTarget target on).pkg = s.pkg := by
  cases target with
  | systemCore i => exact absurd rfl (program i)
  | _ => rfl

section
variable {s : State} {session st : Nat} {r : DebugRight} {us : List Nat}
  (open_ : s.pkg.sessions[session]? = some { right := r, status := st, awaits := us })
include open_

/-- A halt or a resume within the session's right runs. -/
theorem State.haltCommand_ends {e : Host.Outcome State Fault Refusal} {target : DebugTarget} {f : State → State} {p : Nat}
    (runs : e = s.haltCommand session target f) (part : s.targetPart target = some p) (covers : rightCovers r p) :
    e = .next ((f (s.asked session)).says session 0) := by
  refine State.debugCommand_ends open_ runs ?_
  have part : (s.asked session).targetPart target = some p := by
    rw [← part]
    cases target <;> rfl
  rw [part]
  exact if_neg (by rw [(deniedTo_rightReach r p).mpr covers]; decide)

/-- A halt marks the strands of its target, and waits for those that still run. -/
theorem exec_halt_spec {target : DebugTarget} {p : Nat} (program : ∀ i, target ≠ .systemCore i) (part : s.targetPart target = some p)
    (covers : rightCovers r p) :
    ∃ t : State, exec (.halt session target) s = .next t ∧ t.mem = s.mem ∧ t.all = s.all.map (s.haltMark target)
      ∧ t.pkg = { s.pkg with sessions := s.pkg.sessions.modify session fun y => { y with status := 0, awaits := s.haltAwaits target } }
      ∧ t.hub = (s.markTarget target true).hub ∧ t.eng = (s.markTarget target true).eng := by
  refine ⟨(((s.asked session).haltMarked target).awaitHalt session target).says session 0,
    State.haltCommand_ends open_ (rfl : execHalt session target s = _) part covers, ?_⟩
  rw [State.awaitHalt_haltMarked]
  refine ⟨State.markTarget_mem .., State.markTarget_all .., ?_, ?_, ?_⟩
  · have pkg : ((s.asked session).haltMarked target).pkg = (s.asked session).pkg := State.markTarget_pkg _ program true
    rw [State.says, pkg, State.asked, List.modify_modify_eq, List.modify_modify_eq]
    rfl
  · cases target <;> rfl
  · cases target <;> rfl

end

/-! ## Resumes (R412) -/

/-- Whether no HALT of another target stands on a strand. -/
def Strand.freedBy (t : Strand) (target : DebugTarget) : Prop := ∀ h ∈ t.haltBy, h = target

theorem Strand.freedBy_iff (t : Strand) (target : DebugTarget) : (t.haltBy.filter (· ≠ target)).isEmpty = true ↔ t.freedBy target := by
  simp [Strand.freedBy, List.isEmpty_iff, List.filter_eq_nil_iff]

theorem Strand.resumeFor_freed {t : Strand} {target : DebugTarget} (h : t.freedBy target) :
    t.resumeFor target = { t with haltReq := false, halted := false, haltBy := [] } := if_pos ((t.freedBy_iff target).mpr h)

theorem Strand.resumeFor_held {t : Strand} {target : DebugTarget} (h : ¬ t.freedBy target) :
    t.resumeFor target = { t with haltBy := t.haltBy.filter (· ≠ target) } := if_neg (mt (t.freedBy_iff target).mp h)

/-- A strand is no longer to halt where no other target's HALT stands on it, or where it was not to halt. -/
theorem Strand.haltReq_resumeFor (t : Strand) (target : DebugTarget) :
    (t.resumeFor target).haltReq = false ↔ t.freedBy target ∨ t.haltReq = false := by
  by_cases h : t.freedBy target
  · simp [Strand.resumeFor_freed h, h]
  · simp [Strand.resumeFor_held h, h]

theorem Strand.area_resumeFor (t : Strand) (target : DebugTarget) : (t.resumeFor target).area = t.area := by
  unfold Strand.resumeFor
  split <;> rfl

/-- What the RESUME of a target does for one of its strands, beside the strand itself. -/
def State.lets (target : DebugTarget) (s : State) (t : Strand) : State :=
  if (t.resumeFor target).haltReq then s else (s.putFlags (t.resumeFor target)).reached t.uid

/-- The strands for whose halt nothing waits any more after the RESUME of a target. -/
def released (target : DebugTarget) (ts : List Strand) : List Nat := (ts.filter fun z => !(z.resumeFor target).haltReq).map (·.uid)

/-- A session that waits for none of some strands any more. -/
def Session.without (y : Session) (us : List Nat) : Session := { y with awaits := y.awaits.filter (· ∉ us) }

theorem Session.without_nil (y : Session) : y.without [] = y := by
  simp [Session.without]

theorem State.foldl_lets (target : DebugTarget) (ts : List Strand) (s : State) : ts.foldl (State.lets target) s = { s with
    mem := (ts.foldl (State.lets target) s).mem
    pkg := { s.pkg with sessions := s.pkg.sessions.map fun y => y.without (released target ts) } } := by
  induction ts generalizing s with
  | nil =>
    have same : (s.pkg.sessions.map fun y => y.without (released target [])) = s.pkg.sessions :=
      List.map_id'' (fun y => y.without_nil) _
    rw [same]
    rfl
  | cons t ts ih =>
    rw [List.foldl_cons, ih]
    by_cases h : (t.resumeFor target).haltReq = true
    · have stays : s.lets target t = s := if_pos h
      have list : released target (t :: ts) = released target ts := by simp [released, h]
      rw [stays, list]
    · have goes : s.lets target t = (s.putFlags (t.resumeFor target)).reached t.uid := if_neg h
      have list : released target (t :: ts) = t.uid :: released target ts := by simp [released, h]
      have sessions : ((s.lets target t).pkg.sessions.map fun y => y.without (released target ts))
          = s.pkg.sessions.map fun y => y.without (released target (t :: ts)) := by
        rw [goes, State.reached, State.putFlags_pkg, List.map_map, list]
        refine List.map_congr_left fun y _ => ?_
        simp [Session.without, List.filter_filter, Bool.and_comm]
      rw [sessions, goes, State.putFlags_rest]
      rfl

theorem State.mem_foldl_lets (target : DebugTarget) {ts : List Strand} (unsaved : ∀ t ∈ ts, t.area = none) (s : State) :
    (ts.foldl (State.lets target) s).mem = s.mem := by
  refine List.foldlRecOn (motive := fun u : State => u.mem = s.mem) ts _ rfl fun u hu t ht => ?_
  unfold State.lets
  split
  · exact hu
  · have flags : u.putFlags (t.resumeFor target) = u := by rw [State.putFlags, Strand.area_resumeFor, unsaved t ht]
    rw [flags]
    exact hu

/-- What a RESUME of a target makes of each strand. -/
def State.resumeMark (s : State) (target : DebugTarget) (t : Strand) : Strand := if s.inTarget t target then t.resumeFor target else t

theorem State.resumeTarget_eq (s : State) (target : DebugTarget) :
    s.resumeTarget target = (s.all.filter fun t => s.inTarget t target).foldl (State.lets target) (s.mapAll (s.resumeMark target)) := rfl

section
variable {s : State} {session st : Nat} {r : DebugRight} {us : List Nat}
  (open_ : s.pkg.sessions[session]? = some { right := r, status := st, awaits := us })
include open_

/-- A resume lets go the strands of its target on which no other HALT stands, and no session waits for those any more. -/
theorem exec_debugResume_spec {target : DebugTarget} {p : Nat} (program : ∀ i, target ≠ .systemCore i) (part : s.targetPart target = some p)
    (covers : rightCovers r p) :
    let ts := s.all.filter fun t => s.inTarget t target
    ∃ t : State, exec (.debugResume session target) s = .next t ∧ ((∀ x ∈ ts, x.area = none) → t.mem = s.mem)
      ∧ t.all = s.all.map (s.resumeMark target)
      ∧ t.pkg = { s.pkg with sessions := ((s.pkg.sessions.modify session fun y => { y with awaits := [] }).map fun y =>
          y.without (released target ts)).modify session fun y => { y with status := 0 } }
      ∧ t.hub = (s.markTarget target false).hub ∧ t.eng = (s.markTarget target false).eng := by
  intro ts
  refine ⟨(((s.asked session).resumeTarget target).markTarget target false).says session 0,
    State.haltCommand_ends open_ (rfl : execDebugResume session target s = _) part covers, fun unsaved => ?_, ?_, ?_, ?_, ?_⟩
  · show (((s.asked session).resumeTarget target).markTarget target false).mem = s.mem
    rw [State.markTarget_mem, State.resumeTarget_eq]
    exact State.mem_foldl_lets target unsaved _
  · show (((s.asked session).resumeTarget target).markTarget target false).all = _
    rw [State.markTarget_all, State.resumeTarget_eq, State.foldl_lets]
    rfl
  · rw [State.says, State.markTarget_pkg _ program, State.resumeTarget_eq, State.foldl_lets]
    rfl
  · rw [State.resumeTarget_eq, State.foldl_lets]
    cases target <;> rfl
  · rw [State.resumeTarget_eq, State.foldl_lets]
    cases target <;> rfl

end

/-! ## What a command makes of the strands of its target -/

/-- Each strand has become another, place by place. -/
theorem State.changed_of_map {s t : State} {f : Strand → Strand} {g : Strand → Strand → Prop} (all : t.all = s.all.map f)
    (h : ∀ x, g x (f x)) :
    t.strands.length = s.strands.length
      ∧ ∀ i, i ≤ s.strands.length → ∀ x, s.all[i]? = some x → ∃ y, t.all[i]? = some y ∧ g x y := by
  refine ⟨?_, fun i _ x hx => ⟨f x, by rw [all, List.getElem?_map, hx]; rfl, h x⟩⟩
  have length := congrArg List.length all
  simpa [State.all] using length

theorem mem_released {target : DebugTarget} {ts : List Strand} {u : Nat} :
    u ∈ released target ts ↔ ∃ z ∈ ts, z.uid = u ∧ (z.freedBy target ∨ z.haltReq = false) := by
  simp only [released, List.mem_map, List.mem_filter, Bool.not_eq_true', Strand.haltReq_resumeFor]
  exact exists_congr fun z => by tauto

section
variable {s : State} {session st : Nat} {r : DebugRight} {us : List Nat}
  (open_ : s.pkg.sessions[session]? = some { right := r, status := st, awaits := us })
include open_

section
variable {target : DebugTarget} {p : Nat} (program : ∀ i, target ≠ .systemCore i) (part : s.targetPart target = some p)
  (covers : rightCovers r p) {mine : Strand → Bool} (members : ∀ x, s.inTarget x target = mine x) {g : State → Prop}
include program part covers members

/-- A HALT marks exactly the strands of its target and waits for them (R412). -/
theorem exec_halts (marked : ∀ t : State, t.hub = (s.markTarget target true).hub → g t) :
    ∃ t : State, exec (.halt session target) s = .next t ∧ g t ∧ t.mem = s.mem
      ∧ t.pkg.sessions = s.pkg.sessions.modify session (fun y => { y with
          status := 0, awaits := (s.all.filter fun x => mine x && x.bound && !x.halted).map (·.uid) })
      ∧ t.strands.length = s.strands.length
      ∧ ∀ i, i ≤ s.strands.length → ∀ x, s.all[i]? = some x → ∃ y, t.all[i]? = some y
        ∧ (mine x = false → y = x)
        ∧ (mine x = true → y = { x with haltReq := x.haltReq || !x.halted, haltBy := (x.haltBy ++ [target]).eraseDups }) := by
  obtain ⟨t, runs, mem, all, pkg, hub, -⟩ := exec_halt_spec open_ program part covers
  have awaits : s.haltAwaits target = (s.all.filter fun x => mine x && x.bound && !x.halted).map (·.uid) := by
    simp only [State.haltAwaits, members]
  refine ⟨t, runs, marked t hub, mem, by rw [pkg, awaits], State.changed_of_map all fun x => ⟨fun other => ?_, fun own => ?_⟩⟩
  · exact if_neg (by simp [members, other])
  · exact if_pos ((members x).trans own)

/-- A RESUME lets exactly those strands of its target go on on which no other HALT stands (R412; log 72). -/
theorem exec_resumes (marked : ∀ t : State, t.hub = (s.markTarget target false).hub → g t) :
    ∃ t : State, exec (.debugResume session target) s = .next t ∧ g t ∧ ((∀ x ∈ s.all, mine x = true → x.area = none) → t.mem = s.mem)
      ∧ t.pkg.sessions[session]? = some { right := r, status := 0, awaits := [] }
      ∧ (∀ i x, i ≠ session → s.pkg.sessions[i]? = some x → ∃ y, t.pkg.sessions[i]? = some y ∧ y.right = x.right ∧ y.status = x.status
          ∧ ∀ u, u ∈ y.awaits ↔ u ∈ x.awaits
              ∧ ¬ ∃ z ∈ s.all, mine z = true ∧ z.uid = u ∧ ((∀ h ∈ z.haltBy, h = target) ∨ z.haltReq = false))
      ∧ t.strands.length = s.strands.length
      ∧ ∀ i, i ≤ s.strands.length → ∀ x, s.all[i]? = some x → ∃ y, t.all[i]? = some y
        ∧ (mine x = false → y = x)
        ∧ (mine x = true → (∀ h ∈ x.haltBy, h = target) → y = { x with haltReq := false, halted := false, haltBy := [] })
        ∧ (mine x = true → (∃ h ∈ x.haltBy, h ≠ target) → y = { x with haltBy := x.haltBy.filter (· ≠ target) }) := by
  obtain ⟨t, runs, mem, all, pkg, hub, -⟩ := exec_debugResume_spec open_ program part covers
  rw [funext members] at mem pkg
  refine ⟨t, runs, marked t hub, fun unsaved => ?_, ?_, fun i x other hx => ?_, State.changed_of_map all fun x => ⟨fun other => ?_,
    fun own freed => ?_, fun own held => ?_⟩⟩
  · exact mem fun x hx => unsaved x (List.mem_filter.mp hx).1 (List.mem_filter.mp hx).2
  · rw [pkg]
    simp [open_, Session.without]
  · refine ⟨x.without (released target (s.all.filter mine)), ?_, rfl, rfl, fun u => ?_⟩
    · rw [pkg]
      simp [Ne.symm other, hx]
    · simp only [Session.without, List.mem_filter, decide_eq_true_iff, mem_released, and_assoc, Strand.freedBy]
  · exact if_neg (by simp [members, other])
  · exact (if_pos ((members x).trans own)).trans (Strand.resumeFor_freed freed)
  · refine (if_pos ((members x).trans own)).trans (Strand.resumeFor_held fun freed => ?_)
    obtain ⟨h, listed, other⟩ := held
    exact other (freed h listed)

end

/-! ## Ops, system cores and names that name nothing -/

section
variable {n : Nat} (live : (s.opOf n).live = true) (covers : rightCovers r (s.opOf n).part)
include live covers

/-- A HALT of an op marks it: no strand is its target. -/
theorem exec_halt_op : ∃ t : State, exec (.halt session (.op n)) s = .next t ∧ s.replies t session 0
    ∧ (t.opOf n).haltReq = true ∧ (t.opOf n).state = (s.opOf n).state := by
  obtain ⟨t, runs, -, -, pkg, -, eng⟩ := exec_halt_spec open_ (fun i h => nomatch h) (if_pos live) covers (target := .op n)
  have op : t.opOf n = { s.opOf n with haltReq := true } := by
    rw [State.opOf, eng]
    exact (FMap.get_set ..).trans (if_pos rfl)
  refine ⟨t, runs, ?_, by rw [op], by rw [op]⟩
  rw [State.replies, pkg]
  simp [State.haltAwaits, State.inTarget]

theorem exec_debugResume_op : ∃ t : State, exec (.debugResume session (.op n)) s = .next t ∧ s.replies t session 0
    ∧ (t.opOf n).haltReq = false ∧ (t.opOf n).state = (s.opOf n).state := by
  obtain ⟨t, runs, -, -, pkg, -, eng⟩ := exec_debugResume_spec open_ (fun i h => nomatch h) (if_pos live) covers (target := .op n)
  have op : t.opOf n = { s.opOf n with haltReq := false } := by
    rw [State.opOf, eng]
    exact (FMap.get_set ..).trans (if_pos rfl)
  refine ⟨t, runs, ?_, by rw [op], by rw [op]⟩
  have none : released (.op n) (s.all.filter fun t => s.inTarget t (.op n)) = [] := by simp [released, State.inTarget]
  rw [State.replies, pkg, none, List.map_id'' fun y => y.without_nil, List.modify_modify_eq]
  rfl

end

/-- A name that is no vcore of the context is a bad argument. -/
theorem exec_halt_unnamed {ctx slot : Nat} {vcore : BitVec 32} (none : s.coreOfVcore ctx vcore.toNat = .none) :
    exec (.halt session (.strand ctx vcore slot)) s = .next (s.replied session 2) := by
  have core : (s.asked session).namedCore ctx vcore.toNat = .none := by
    show (if vcore.toNat < 2 ^ 21 then s.coreOfVcore ctx vcore.toNat else .none) = .none
    rw [none, ite_self]
  have unnamed : (s.asked session).targetPart (.strand ctx vcore slot) = .none := by
    rw [State.targetPart, State.strandTarget, core]
    split <;> rfl
  show execHalt session (.strand ctx vcore slot) s = _
  unfold execHalt State.haltCommand
  refine State.debugCommand_answers open_ rfl ?_
  rw [unnamed]

/-- A HALT of a system core by the package right sets its bit, whether or not a partition has the core. -/
theorem exec_halt_systemCore {i : Nat} (package : r = .package) (small : i < 16) :
    ∃ t : State, exec (.halt session (.systemCore i)) s = .next t ∧ t.pkg.sysHalted = s.pkg.sysHalted ||| BitVec.ofNat 16 (2 ^ i) := by
  subst package
  let t : State := ((s.asked session).haltMarked (.systemCore i)).awaitHalt session (.systemCore i)
  refine ⟨t.says session 0, ?_, rfl⟩
  show execHalt session (.systemCore i) s = _
  unfold execHalt State.haltCommand
  refine State.debugCommand_ends open_ rfl ?_
  dsimp only
  split
  · exact if_neg (by simp [deniedTo, rightReach])
  · exact (if_neg (Nat.not_le.mpr small)).trans (if_neg (by simp [rightReach]))

/-! ## Hall keys (R424) -/

theorem exec_hallKeyInstall (package : r = .package) (key : BitVec 1) (id : Nat) :
    ∃ t : State, exec (.hallKeyInstall session key id) s = .next t ∧ FMap.get none t.pkg.hallKeys key.toNat = some id := by
  subst package
  refine ⟨_, State.debugCommand_ends open_ (rfl : execHallKeyInstall session key id s = _) (if_neg (by simp [rightReach])), ?_⟩
  exact (FMap.get_set none s.pkg.hallKeys key.toNat key.toNat (some id)).trans (if_pos rfl)

theorem exec_hallKeyInstall_denied {p : Nat} (partition : r = .partition p) (key : BitVec 1) (id : Nat) :
    exec (.hallKeyInstall session key id) s = .next (s.replied session 1) := by
  subst partition
  exact State.debugCommand_answers open_ (rfl : execHallKeyInstall session key id s = _) (if_pos rfl)

end

/-! ## The statement on debug commands -/

theorem exec_debugSessionOpen {s : State} {r : DebugRight} (room : s.pkg.sessions.length < 4) : exec (.debugSessionOpen r true) s =
    .next { s with pkg := { s.pkg with sessions := s.pkg.sessions ++ [{ right := r, status := 0, awaits := [] }] } } :=
  if_pos ⟨rfl, room⟩

theorem exec_debugSessionOpen_refused {s : State} {r : DebugRight} {auth : Bool} (h : auth = false ∨ 4 ≤ s.pkg.sessions.length) :
    exec (.debugSessionOpen r auth) s = .next s := by
  refine if_neg fun ⟨authentic, room⟩ => ?_
  obtain rfl | full := h
  · exact absurd authentic (by decide)
  · omega

/-- A mark of one bit of the system cores' mask. -/
theorem getLsbD_or_two_pow (m : BitVec 16) {i : Nat} (small : i < 16) (k : Nat) :
    (m ||| BitVec.ofNat 16 (2 ^ i)).getLsbD k = (m.getLsbD k || decide (k = i)) := by
  rw [BitVec.getLsbD_or, BitVec.getLsbD_ofNat, Nat.testBit_two_pow]
  by_cases hk : k = i
  · simp [hk, small]
  · simp [hk, Ne.symm hk]

/-- The strand in a slot is the one that its vcore and slot name (R93). -/
theorem State.strandTarget_bound {s : State} {ctx core slot : Nat} {vcore : BitVec 32} {z : Strand}
    (named : s.coreOfVcore ctx vcore.toNat = some core) (small : vcore.toNat < 2097152) (slots : slot < 10)
    (hz : s.strandAt core slot = some z) : s.strandTarget ctx vcore slot = some z := by
  have vcores : s.namedCore ctx vcore.toNat = some core := (if_pos small).trans named
  rw [State.strandTarget, if_pos slots, vcores, Option.bind_some, State.strandNamed, hz]

/-- Settles O48: a session that opens or not; on a context, its commands outside the right and within it; then the other targets, each by
what belongs to it, and the hall keys. -/
theorem debugCommands : Obligations.DebugCommands := by
  unfold Obligations.DebugCommands
  intro session ctx part r st v pc interval key id auth vcore slot us s made answers changed halts resumes
  refine ⟨?opens, exec_debugSessionOpen_refused, fun open_ live => ⟨fun other => ?denied, fun covers => ?context⟩,
    fun open_ => ⟨fun l live covers => ?launch, fun core z named small slots hz covers => ?strand, exec_halt_unnamed open_,
      fun n live covers => ⟨exec_halt_op open_ live covers, exec_debugResume_op open_ live covers⟩, fun package small => ?systemCore,
      fun package => exec_hallKeyInstall open_ package key id, fun p partition => exec_hallKeyInstall_denied open_ partition key id⟩⟩
  case opens =>
    rintro rfl room
    exact exec_debugSessionOpen room
  case denied =>
    have target {e : Host.Outcome State Fault Refusal} {k : State → State} (runs : e = s.haltCommand session (.context ctx) k) :
        e = .next (s.replied session 1) := by
      obtain ⟨p, rfl, apart⟩ := other
      subst runs
      unfold State.haltCommand
      refine State.debugCommand_answers open_ rfl ?_
      have named : (s.asked session).targetPart (.context ctx) = some (s.ctxOf ctx).part := if_pos live
      rw [named]
      exact if_pos (bne_iff_ne.mpr apart)
    exact ⟨target (rfl : execHalt session (.context ctx) s = _), target (rfl : execDebugResume session (.context ctx) s = _),
      State.debugCtx_denied open_ live (rfl : execStopset session ctx v pc s = _) other,
      State.debugCtx_denied open_ live (rfl : execStopclr session ctx v pc s = _) other,
      State.debugCtx_denied open_ live (rfl : execSample session ctx interval s = _) other⟩
  case context =>
    have named : s.targetPart (.context ctx) = some (s.ctxOf ctx).part := if_pos live
    have marked {t : State} {on : Bool} (h : t.hub = (s.markTarget (.context ctx) on).hub) : (t.ctxOf ctx).haltReq = on := by
      rw [State.ctxOf, h]
      exact congrArg Ctx.haltReq ((State.ctxOf_setCtx s ctx ctx fun x => { x with haltReq := on }).trans (if_pos rfl))
    have changes (f : Ctx → Ctx) (e : Instr) (runs : exec e s = .next (((s.asked session).setCtx ctx f).says session 0)) (g : State → Prop)
        (h : g (((s.asked session).setCtx ctx f).says session 0)) : made e g :=
      ⟨_, runs, State.replies_says 0 rfl, h⟩
    have field (f : Ctx → Ctx) : (((s.asked session).setCtx ctx f).says session 0).ctxOf ctx = f (s.ctxOf ctx) :=
      (State.ctxOf_setCtx (s.asked session) ctx ctx f).trans (if_pos rfl)
    refine ⟨exec_halts open_ (by simp) named covers (fun _ => rfl) fun t h => marked h,
      exec_resumes open_ (by simp) named covers (fun _ => rfl) fun t h => marked h,
      ⟨exec_stopset_listed open_ live covers v pc, fun new room => ?_, exec_stopset_full open_ live covers v pc, ?_⟩, fun fits => ?_,
      exec_sample_bad open_ live covers⟩
    · exact changes _ _ (exec_stopset_new open_ live covers v pc new room) _ (by rw [field])
    · exact changes _ _ (exec_stopclr open_ live covers v pc) _ ⟨by rw [field]; simp, rfl, rfl⟩
    · exact changes _ _ (exec_sample open_ live covers fits) _ (by rw [field])
  case launch =>
    have named : s.targetPart (.launch l) = some (s.launchOf l).part := if_pos live
    have group (g : Nat) : s.targetPart (.group l g) = some (s.launchOf l).part := if_pos live
    have marked {t : State} {on : Bool} (h : t.hub = (s.markTarget (.launch l) on).hub) : (t.launchOf l).haltReq = on := by
      rw [State.launchOf, h]
      exact congrArg Launch.haltReq ((State.launchOf_setLaunch s l l fun x => { x with haltReq := on }).trans (if_pos rfl))
    exact ⟨exec_halts open_ (by simp) named covers (fun _ => rfl) fun t h => marked h,
      exec_resumes open_ (by simp) named covers (fun _ => rfl) fun t h => marked h,
      fun g => ⟨exec_halts open_ (by simp) (group g) covers (fun _ => rfl) fun _ _ => trivial,
        exec_resumes open_ (by simp) (group g) covers (fun _ => rfl) fun _ _ => trivial⟩⟩
  case strand =>
    have found := State.strandTarget_bound named small slots hz
    have named : s.targetPart (.strand ctx vcore slot) = some z.part := by rw [State.targetPart, found, Option.map_some]
    have members (x : Strand) : s.inTarget x (.strand ctx vcore slot) = (x.isLive && z.uid == x.uid) := by
      rw [State.inTarget, found, Option.any_some]
    exact ⟨exec_halts open_ (by simp) named covers members fun _ _ => trivial,
      exec_resumes open_ (by simp) named covers members fun _ _ => trivial⟩
  case systemCore =>
    obtain ⟨t, runs, mask⟩ := exec_halt_systemCore open_ package small
    refine ⟨t, runs, ?_, fun k other => ?_⟩
    · rw [mask, getLsbD_or_two_pow _ small, decide_eq_true rfl, Bool.or_true]
    · rw [mask, getLsbD_or_two_pow _ small, decide_eq_false other, Bool.or_false]

end Sys2Proof.Machine

/-!
PROOFS. What a debug session reads and rewrites, and the samples of a core (R399, R407, R409, R411).
-/

namespace Sys2Proof.Machine

/-! ## Reading a window (R409, R411) -/

theorem rightReach_eq (r : DebugRight) : rightReach r = reachOfRight r := by
  cases r with
  | package => rfl
  | partition p => rfl

section
variable {s : State} {session st : Nat} {r : DebugRight} {us : List Nat}
  (open_ : s.pkg.sessions[session]? = some { right := r, status := st, awaits := us })
include open_

theorem exec_debugRead_ok {ctx : Nat} {cls id0 id1 offset len buf : Word} {b : List Byte}
    (good : goodWindow offset.toNat len.toNat = true) (aligned : buf.toNat % 8 = 0)
    (inside : s.inHbm (reachOfRight r) buf.toNat len.toNat = true) (known : cls.toNat < 256)
    (form : (s.asked session).objectForm (reachOfRight r) ctx cls.toNat id0 id1 (offset.toNat + len.toNat) = .ok b)
    (fits : offset.toNat + len.toNat ≤ b.length) :
    ∃ t : State, exec (.debugRead session ctx cls id0 id1 offset len buf) s = .next t ∧ s.replies t session 0
      ∧ ∀ i, i < len.toNat → FMap.get Mem.byte0 t.mem.bytes (hbmKey buf.toNat + i) = (b[offset.toNat + i]?).getD 0 := by
  have store := (s.asked session).storeAt_frontStep { space := .hbm, off := buf.toNat } ((b.drop offset.toNat).take len.toNat)
  have buffer : (s.asked session).inHbm (reachOfRight r) buf.toNat len.toNat = true := inside
  have window : ¬ ((!goodWindow offset.toNat len.toNat) = true ∨ buf.toNat % 8 ≠ 0
      ∨ (!(s.asked session).inHbm (reachOfRight r) buf.toNat len.toNat) = true ∨ 2 ^ 8 ≤ cls.toNat) := by
    rw [good, buffer]
    simpa using ⟨aligned, known⟩
  have reads : (s.asked session).readObject (rightReach r) ctx cls id0 id1 offset len buf =
      (0, (s.asked session).storeAt { space := .hbm, off := buf.toNat } ((b.drop offset.toNat).take len.toNat)) := by
    rw [rightReach_eq]
    refine (if_neg window).trans ?_
    rw [form]
    exact if_neg (Nat.not_lt.mpr fits)
  refine ⟨_, State.debugCommand_ends open_ (rfl : execDebugRead session ctx cls id0 id1 offset len buf s = _) reads,
    State.replies_says 0 (congrArg State.pkg store.rest :), fun i hi => ?_⟩
  have length : ((b.drop offset.toNat).take len.toNat).length = len.toNat := by
    rw [List.length_take, List.length_drop]
    omega
  rw [State.says, State.storeAt, State.wakeWords_bytes, Mem.putWords_bytes, Mem.putBytes, FMap.get_setList, length]
  rw [if_pos (by rw [hbmKey]; omega), hbmKey, Nat.add_sub_cancel_left, List.getD_eq_getElem?_getD, List.getElem?_take_of_lt hi,
    List.getElem?_drop]
  rfl

end

/-! ## Numbers in memory -/

theorem Mem.bytesAt_congr {m m' : Mem} {k n : Nat}
    (h : ∀ i, i < n → FMap.get Mem.byte0 m.bytes (k + i) = FMap.get Mem.byte0 m'.bytes (k + i)) : m.bytesAt k n = m'.bytesAt k n := by
  refine List.ext_getElem? fun i => ?_
  by_cases inside : i < n
  · rw [Mem.getElem?_bytesAt m inside, Mem.getElem?_bytesAt m' inside, h i inside]
  · rw [List.getElem?_eq_none (by rw [Mem.length_bytesAt]; omega), List.getElem?_eq_none (by rw [Mem.length_bytesAt]; omega)]

theorem Mem.bytesAt_putWords_apart (m : Mem) {k n j : Nat} {bs : List Byte} (apart : k + n ≤ j ∨ j + bs.length ≤ k) :
    (m.putWords j bs).bytesAt k n = m.bytesAt k n :=
  Mem.bytesAt_congr fun i hi => m.putBytes_other j (k + i) bs (by omega)

theorem Mem.ofLE_bytesAt_putWords (m : Mem) {k o n : Nat} {bs : List Byte} (inside : o + n ≤ bs.length) :
    ofLE ((m.putWords k bs).bytesAt (k + o) n) = fieldOf bs o n := by
  refine congrArg ofLE (List.ext_getElem? fun i => ?_)
  by_cases hi : i < n
  · rw [Mem.getElem?_bytesAt _ hi, Mem.putWords_bytes, Mem.putBytes, FMap.get_setList, if_pos (by omega), List.getElem?_take_of_lt hi,
      List.getElem?_drop, show k + o + i - k = o + i by omega, List.getD_eq_getElem _ _ (by omega), List.getElem?_eq_getElem (by omega)]
  · rw [List.getElem?_eq_none (by rw [Mem.length_bytesAt]; omega), List.getElem?_eq_none (by rw [List.length_take]; omega)]

theorem fieldOf_append_left {a b : List Byte} {o n : Nat} (h : o + n ≤ a.length) : fieldOf (a ++ b) o n = fieldOf a o n := by
  rw [fieldOf, List.drop_append_of_le_length (by omega), List.take_append_of_le_length (by rw [List.length_drop]; omega), fieldOf]

theorem fieldOf_append_right {a b : List Byte} {o n : Nat} (h : a.length ≤ o) : fieldOf (a ++ b) o n = fieldOf b (o - a.length) n := by
  rw [fieldOf, List.drop_append, List.drop_eq_nil_of_le h, List.nil_append, fieldOf]

theorem fieldOf_toLE (n x : Nat) : fieldOf (toLE n x) 0 n = x % 256 ^ n := by
  rw [fieldOf, List.drop_zero, List.take_of_length_le (by rw [length_toLE]), ofLE_toLE]

theorem State.says_hbmNat (s : State) (session st a n : Nat) : (s.says session st).hbmNat a n = s.hbmNat a n := rfl

theorem State.asked_areaAddr (s : State) (session ctx i : Nat) : (s.asked session).areaAddr ctx i = s.areaAddr ctx i := rfl

/-! ## Rewriting a halted strand (R399, R411) -/

theorem Strand.savedBytes_front (t : Strand) : toLE 8 t.pc.toNat <+: t.savedBytes := by
  unfold Strand.savedBytes
  dsimp only
  repeat refine List.IsPrefix.trans ?_ (List.prefix_append ..)
  exact List.prefix_rfl

theorem Strand.savedBytes_pc (t : Strand) : fieldOf t.savedBytes 0 8 = t.pc.toNat ∧ 0 + 8 ≤ t.savedBytes.length := by
  have long := t.savedBytes_front.length_le
  obtain ⟨rest, h⟩ := t.savedBytes_front
  rw [length_toLE] at long
  refine ⟨?_, long⟩
  rw [← h, fieldOf_append_left (by rw [length_toLE]), fieldOf_toLE]
  exact Nat.mod_eq_of_lt t.pc.isLt

theorem saveVectors_bytesAt (t : Strand) {a k n : Nat} (below : k + n ≤ hbmKey (a + 0x340)) (m : Mem) :
    (saveVectors t a m).bytesAt k n = m.bytesAt k n := by
  unfold saveVectors
  refine List.foldlRecOn (motive := fun m' : Mem => m'.bytesAt k n = m.bytesAt k n) (List.range 16) _ rfl fun m' kept r _ => ?_
  split
  · rw [Mem.bytesAt_putWords_apart, kept]
    rw [hbmKey, PAddr.key] at *
    dsimp only at *
    omega
  · exact kept

/-- A strand as the rewrite of a strand leaves it: the one with that number is the rewritten one. -/
def Strand.rewrittenBy (u v : Strand) : Strand := if v.isLive ∧ v.uid = u.uid then { u with savedBudget := u.budget } else v

/-- The save area of a rewritten strand that has one, written anew. -/
def State.areaRewritten (s : State) (u : Strand) : State :=
  match u.area with
  | some i => { s with mem := saveVectors u (s.areaAddr u.ctx i) (s.mem.putWords (hbmKey (s.areaAddr u.ctx i)) u.savedBytes) }
  | none => s

theorem State.putRewritten_eq (s : State) (u : Strand) : s.putRewritten u = (s.areaRewritten u).mapAll u.rewrittenBy := rfl

theorem State.putRewritten_bound {u : Strand} (h : u.area = none) (s : State) : s.putRewritten u = s.mapAll u.rewrittenBy := by
  rw [State.putRewritten_eq, State.areaRewritten, h]

theorem State.putRewritten_pkg (s : State) (u : Strand) : (s.putRewritten u).pkg = s.pkg := by
  rw [State.putRewritten_eq, State.mapAll, State.areaRewritten]
  split
  · rfl
  · rfl

theorem State.putRewritten_area {u : Strand} {i : Nat} (h : u.area = some i) (s : State) :
    (s.putRewritten u).hbmNat (s.areaAddr u.ctx i) 8 = u.pc.toNat := by
  obtain ⟨pc, long⟩ := u.savedBytes_pc
  have mem : (s.putRewritten u).mem =
      saveVectors u (s.areaAddr u.ctx i) (s.mem.putWords (hbmKey (s.areaAddr u.ctx i)) u.savedBytes) := by
    rw [State.putRewritten_eq, State.mapAll, State.areaRewritten, h]
  generalize s.areaAddr u.ctx i = a at mem
  have below : hbmKey a + 8 ≤ hbmKey (a + 0x340) := by
    simp only [hbmKey, PAddr.key]
    omega
  have read := Mem.ofLE_bytesAt_putWords (k := hbmKey a) s.mem long
  rw [Nat.add_zero] at read
  rw [State.hbmNat, mem, saveVectors_bytesAt _ below, read, pc]

/-- The first that has a property is still the first when it and others become one that has it. -/
theorem find?_map_eq_some {α : Type} {l : List α} {p : α → Bool} {f : α → α} {x w : α} (found : l.find? p = some x) (here : f x = w)
    (has : p w = true) (rest : ∀ v, f v = w ∨ f v = v) : (l.map f).find? p = some w := by
  induction l with
  | nil => cases found
  | cons v l ih =>
    rw [List.map_cons]
    cases first : p v with
    | true =>
      rw [List.find?_cons_of_pos first] at found
      rw [Option.some.inj found, here, List.find?_cons_of_pos has]
    | false =>
      rw [List.find?_cons_of_neg (by rw [first]; exact Bool.false_ne_true)] at found
      rcases rest v with h | h
      · rw [h, List.find?_cons_of_pos has]
      · rw [h, List.find?_cons_of_neg (by rw [first]; exact Bool.false_ne_true), ih found]

theorem Strand.place_of_strandAt {s : State} {core slot : Nat} {x : Strand} (h : s.strandAt core slot = some x) : x.place = .slot core slot :=
  of_decide_eq_true (Strand.inSlot_of_strandAt h)

theorem State.strandAt_rewrittenBy {s : State} {core slot : Nat} {x u : Strand} (hx : s.strandAt core slot = some x) (uid : u.uid = x.uid)
    (place : u.place = x.place) : (s.mapAll u.rewrittenBy).strandAt core slot = some { u with savedBudget := u.budget } := by
  have slots : x.place = .slot core slot := Strand.place_of_strandAt hx
  have live : x.isLive = true := decide_eq_true (by rw [slots]; nofun)
  rw [State.strandAt, State.mapAll_all]
  refine find?_map_eq_some hx (if_pos ⟨live, uid.symm⟩) (decide_eq_true (place.trans slots)) fun v => ?_
  unfold Strand.rewrittenBy
  split
  · exact .inl rfl
  · exact .inr rfl

section
variable {s : State} {session st : Nat} {r : DebugRight} {us : List Nat} {vctx core slot : Nat} {vcore : BitVec 32} {x : Strand} {value : Word}
  (open_ : s.pkg.sessions[session]? = some { right := r, status := st, awaits := us })
  (found : (s.asked session).strandTarget vctx vcore slot = some x) (covers : rightCovers r x.part)
include open_ found covers

theorem exec_debugWrite_running {e : Nat} (running : x.halted = false) :
    exec (.debugWrite session vctx ⟨vcore, slot⟩ (.stack e) value) s = .next (s.replied session 3) := by
  refine State.debugCommand_answers open_ (rfl : execDebugWrite session vctx ⟨vcore, slot⟩ (.stack e) value s = _) ?_
  dsimp only
  rw [found]
  dsimp only
  rw [(deniedTo_rightReach r _).mpr covers, running]
  rfl

variable (halted : x.halted = true)
include halted

/-- A rewrite of an item that a halted strand has, and that is no window and no token that holds an op. -/
theorem exec_debugWrite {item : DebugItem} {u : Strand} (window : ∀ c cls i j o, item ≠ .window c cls i j o)
    (empty : ∀ k, item = .emptyToken k → FMap.get none x.tokens k = none)
    (rewrites : (s.asked session).rewritten ((s.asked session).asItGoesOn x) item value = some u) :
    exec (.debugWrite session vctx ⟨vcore, slot⟩ item value) s = .next (((s.asked session).putRewritten u).says session 0) := by
  refine State.debugCommand_ends open_ (rfl : execDebugWrite session vctx ⟨vcore, slot⟩ item value s = _) ?_
  cases item with
  | window c cls i j o => exact absurd rfl (window c cls i j o)
  | emptyToken k =>
    dsimp only
    rw [found]
    dsimp only
    rw [(deniedTo_rightReach r _).mpr covers, halted, rewrites, empty k rfl]
    rfl
  | stack _ | lane _ _ | pc | state _ | stream _ _ =>
    dsimp only
    rw [found]
    dsimp only
    rw [(deniedTo_rightReach r _).mpr covers, halted, rewrites]
    rfl

end

section
variable {s : State} {session st : Nat} {r : DebugRight} {us : List Nat} {vctx core slot : Nat} {vcore : BitVec 32} {x : Strand} {value : Word}
  (open_ : s.pkg.sessions[session]? = some { right := r, status := st, awaits := us })
  (found : (s.asked session).strandTarget vctx vcore slot = some x) (covers : rightCovers r x.part) (halted : x.halted = true)
include open_ found covers halted

/-- The PC of a strand that goes on from its save area is rewritten there (R385, R389). -/
theorem exec_debugWrite_saved_pc {i : Nat} (saved : x.area = some i) :
    ∃ t : State, exec (.debugWrite session vctx ⟨vcore, slot⟩ .pc value) s = .next t ∧ s.replies t session 0
      ∧ t.hbmNat (s.areaAddr x.ctx i) 8 = value.toNat / 4 * 4 := by
  obtain ⟨u, rewrites, area, ctx, pc⟩ : ∃ u, (s.asked session).rewritten ((s.asked session).asItGoesOn x) .pc value = some u
      ∧ u.area = some i ∧ u.ctx = x.ctx ∧ u.pc = value &&& ~~~3#64 := by
    rw [State.asItGoesOn, saved]
    exact ⟨_, rfl, saved, rfl, rfl⟩
  have runs := exec_debugWrite open_ found covers halted (item := .pc) nofun nofun rewrites
  refine ⟨_, runs, State.replies_says 0 (State.putRewritten_pkg ..), ?_⟩
  have written := State.putRewritten_area area (s.asked session)
  rw [ctx, pc, toNat_and_not_three, State.asked_areaAddr] at written
  rw [State.says_hbmNat, written]

/-- A rewrite of a halted strand that is in a slot and has no save area changes that strand alone. -/
theorem exec_debugWrite_bound (bound : x.area = none) (hx : s.strandAt core slot = some x) {item : DebugItem} {u : Strand}
    (window : ∀ c cls i j o, item ≠ .window c cls i j o) (empty : ∀ k, item = .emptyToken k → FMap.get none x.tokens k = none)
    (rewrites : (s.asked session).rewritten x item value = some u) (uid : u.uid = x.uid) (place : u.place = x.place) (area : u.area = x.area) :
    ∃ t : State, exec (.debugWrite session vctx ⟨vcore, slot⟩ item value) s = .next t ∧ s.replies t session 0
      ∧ t.strandAt core slot = some { u with savedBudget := u.budget } ∧ t.mem = s.mem ∧ t.eng = s.eng ∧ t.hub = s.hub := by
  have goes : (s.asked session).asItGoesOn x = x := by rw [State.asItGoesOn, bound]
  have runs := exec_debugWrite open_ found covers halted window empty (by rw [goes, rewrites])
  refine ⟨_, runs, State.replies_says 0 (State.putRewritten_pkg ..), ?_⟩
  rw [State.putRewritten_bound (area.trans bound)]
  exact ⟨State.strandAt_rewrittenBy (s := s.asked session) hx uid place, rfl, rfl, rfl⟩

end

theorem State.rewritten_stack (s : State) (x : Strand) {e : Nat} (value : Word) (h : e < 64) : s.rewritten x (.stack e) value =
    some { x with stack := FMap.set 0 x.stack e value, parity := x.parity.filter (· ≠ e) } := if_pos h

theorem State.rewritten_lane (s : State) (x : Strand) {q i : Nat} (value : Word) (hq : q < 16) (hi : i < 64) : s.rewritten x (.lane q i) value =
    some { x with vregs := FMap.set 0 x.vregs (64 * q + i) (value.setWidth 32)
                  vlive := x.vlive ||| BitVec.ofNat 16 (2 ^ q), parity := x.parity.filter (· ≠ 64 + q) } := if_pos ⟨hq, hi⟩

theorem State.rewritten_emptyToken (s : State) (x : Strand) {k : Nat} (value : Word) (h : k < 16) :
    s.rewritten x (.emptyToken k) value = some (x.setToken k none) := if_pos h

/-- A register that the device computes keeps the difference between what is written and what it computes (log 73). -/
theorem State.rewritten_device (s : State) (x : Strand) {n : Nat} (value : Word) (h : deviceState n = true) : s.rewritten x (.state n) value =
    some { x with bias := FMap.set 0 x.bias n (value - s.stateOf x n) } := by
  have range := of_decide_eq_true h
  show s.forceState x n value = _
  unfold State.forceState
  rw [if_neg (by omega), if_neg (by omega), if_neg (by omega), if_neg (by omega), if_neg (by omega), if_neg (by omega), if_neg (by omega),
    if_pos h]

theorem State.stateOf_bias (s : State) (x : Strand) (b : FMap Word) (n : Nat) : s.stateOf { x with bias := b } n = s.stateOf x n := rfl

theorem State.shown_rewritten_device (s : State) (x : Strand) (n : Nat) (value : Word) :
    Strand.shown { x with bias := FMap.set 0 x.bias n (value - s.stateOf x n) } n (s.stateOf x n) = value := by
  rw [Strand.shown, FMap.get_set, if_pos rfl, BitVec.add_comm, BitVec.sub_add_cancel]

/-! ## The slot that a core samples (R407) -/

/-- A search through a range finds what its first hit holds. -/
theorem findSome?_range {α : Type} {f : Nat → Option α} {n k : Nat} {x : α} (h : k < n) (hit : f k = some x)
    (first : ∀ j, j < k → f j = none) : (List.range n).findSome? f = some x := by
  obtain ⟨m, rfl⟩ : ∃ m, n = k + (m + 1) := ⟨n - k - 1, by omega⟩
  have none_before : (List.range k).findSome? f = none := List.findSome?_eq_none_iff.mpr fun j hj => first j (List.mem_range.mp hj)
  rw [List.range_add, List.findSome?_append, none_before, Option.none_or, List.range_succ_eq_map, List.map_cons, Nat.add_zero,
    List.findSome?_cons_of_isSome (by rw [hit]; rfl), hit]

theorem Strand.slot_of_strandAt {s : State} {core slot : Nat} {x : Strand} (h : s.strandAt core slot = some x) : x.slot = slot := by
  rw [Strand.slot, Strand.place_of_strandAt h]

/-- The first bound slot in rotation is the one that is sampled. -/
theorem State.sampled {s : State} {core slot next : Nat} {x : Strand} (small : slot < 10) (hx : s.strandAt core slot = some x)
    (first : ∀ k, k < 10 → (∃ y, s.strandAt core ((next + k) % 10) = some y) → ∃ j, j ≤ k ∧ (next + j) % 10 = slot) :
    ((List.range 10).findSome? fun k => s.strandAt core ((next + k) % 10)) = some x := by
  have here : (next + (slot + 10 - next % 10) % 10) % 10 = slot := by omega
  refine findSome?_range (Nat.mod_lt (slot + 10 - next % 10) (by decide)) (by rw [here, hx]) fun k before => ?_
  refine Option.eq_none_iff_forall_ne_some.mpr fun y hy => ?_
  obtain ⟨j, least, same⟩ := first k (by omega) ⟨y, hy⟩
  omega

/-! ## Samples (R407) -/

theorem State.length_sampleOf (s : State) (core : Nat) (t : Strand) : (s.sampleOf core t).length = 32 := by
  simp [State.sampleOf]

theorem Strand.sampleState_lt (t : Strand) (pick : Bool) : t.sampleState pick < 256 := by
  unfold Strand.sampleState
  split
  · decide
  · split
    case h_5 | h_7 => split <;> decide
    all_goals decide

section
variable (s : State) (core : Nat) (t : Strand)

theorem State.sampleOf_time : fieldOf (s.sampleOf core t) 0 8 = s.time / 10 % 18446744073709551616 := by
  simp [State.sampleOf, fieldOf_append_left, fieldOf_toLE, State.ns]

theorem State.sampleOf_pc : fieldOf (s.sampleOf core t) 8 8 = t.pc.toNat := by
  simp [State.sampleOf, fieldOf_append_left, fieldOf_append_right, fieldOf_toLE, Nat.mod_eq_of_lt t.pc.isLt]

theorem State.sampleOf_vcore : fieldOf (s.sampleOf core t) 0x10 4 = (s.vcoreWord t.ctx core).toNat := by
  simp [State.sampleOf, fieldOf_append_left, fieldOf_append_right, fieldOf_toLE, Nat.mod_eq_of_lt (s.vcoreWord t.ctx core).isLt]

theorem State.sampleOf_ctx (h : t.ctx < 65536) : fieldOf (s.sampleOf core t) 0x14 2 = t.ctx := by
  simp [State.sampleOf, fieldOf_append_left, fieldOf_append_right, fieldOf_toLE, Nat.mod_eq_of_lt h]

theorem State.sampleOf_slot (h : t.slot < 256) : fieldOf (s.sampleOf core t) 0x16 1 = t.slot := by
  simp [State.sampleOf, fieldOf_append_left, fieldOf_append_right, fieldOf_toLE, Nat.mod_eq_of_lt h]

theorem State.sampleOf_state : fieldOf (s.sampleOf core t) 0x17 1 = t.sampleState (Config.freeBit s.free) := by
  simp [State.sampleOf, fieldOf_append_left, fieldOf_append_right, fieldOf_toLE, Nat.mod_eq_of_lt (t.sampleState_lt _)]

theorem State.sampleOf_tnum : fieldOf (s.sampleOf core t) 0x18 4 = t.tnum.toNat := by
  simp [State.sampleOf, fieldOf_append_left, fieldOf_append_right, fieldOf_toLE, Nat.mod_eq_of_lt t.tnum.isLt]

end

/-! ## The sample ring of a die (R368, R407) -/

/-- The header of the sample ring of a die. -/
def State.sampleHdr (s : State) (die : Nat) : Nat :=
  PAddr.key { space := .dsm die, off := (FMap.get 0 s.mem.ringBase (2 * die + 1)).toNat }

/-- The records that the ring holds: from its tail up to its head. -/
def State.samplesHeld (s : State) (die : Nat) : Nat :=
  (s.numAt (s.sampleHdr die + 0x10) 8 + 18446744073709551616 - s.numAt (s.sampleHdr die + 0x18) 8) % 18446744073709551616

/-- The place of the next record. -/
def State.sampleRec (s : State) (die : Nat) : Nat :=
  PAddr.key { space := .dsm die, off := s.numAt (s.sampleHdr die + 0) 8
    + 32 * (s.numAt (s.sampleHdr die + 0x10) 8 % s.numAt (s.sampleHdr die + 8) 4) }

theorem Mem.word_putWords (m : Mem) (k x : Nat) : ofLE ((m.putWords k (toLE 8 x)).bytesAt k 8) = x % 18446744073709551616 := by
  have read := Mem.number_putBytes m k 8 x
  rwa [show 256 ^ 8 = 18446744073709551616 by norm_num] at read

section
variable {s : State} {die : Nat} (open_ : s.numAt (s.sampleHdr die + 0x0C) 4 % 2 = 1)
include open_

theorem State.putSample_full (full : s.numAt (s.sampleHdr die + 8) 4 ≤ s.samplesHeld die) (b : List Byte) : s.putSample die b =
    { s with mem := s.mem.putWords (s.sampleHdr die + 0x20) (toLE 8 (s.numAt (s.sampleHdr die + 0x20) 8 + 1)) } := by
  refine (if_neg (c := s.numAt (s.sampleHdr die + 0x0C) 4 % 2 = 0) ?_).trans (if_pos full)
  rw [open_]
  exact Nat.one_ne_zero

theorem State.putSample_room (room : s.samplesHeld die < s.numAt (s.sampleHdr die + 8) 4) (b : List Byte) : s.putSample die b =
    { s with
      mem := (s.mem.putWords (s.sampleRec die) b).putWords (s.sampleHdr die + 0x10) (toLE 8 (s.numAt (s.sampleHdr die + 0x10) 8 + 1)) } := by
  refine (if_neg (c := s.numAt (s.sampleHdr die + 0x0C) 4 % 2 = 0) ?_).trans (if_neg (Nat.not_le.mpr room))
  rw [open_]
  exact Nat.one_ne_zero

end

theorem State.sampleRec_eq (s : State) (die : Nat) : s.sampleRec die =
    PAddr.key { space := .dsm die, off := s.numAt (s.sampleHdr die) 8
      + 32 * (s.numAt (s.sampleHdr die + 0x10) 8 % s.numAt (s.sampleHdr die + 8) 4) } := by
  rw [State.sampleRec, Nat.add_zero]

theorem State.putSample_cores (s : State) (die : Nat) (b : List Byte) : (s.putSample die b).cores = s.cores := by
  unfold State.putSample
  dsimp only
  split
  · rfl
  · split
    · rfl
    · rfl

section
variable {s : State} {die : Nat} (open_ : s.numAt (s.sampleHdr die + 0x0C) 4 % 2 = 1)
include open_

theorem State.putSample_lost (full : s.numAt (s.sampleHdr die + 8) 4 ≤ s.samplesHeld die) (b : List Byte) :
    (s.putSample die b).numAt (s.sampleHdr die + 0x20) 8 = (s.numAt (s.sampleHdr die + 0x20) 8 + 1) % 18446744073709551616
      ∧ (s.putSample die b).numAt (s.sampleHdr die + 0x10) 8 = s.numAt (s.sampleHdr die + 0x10) 8 := by
  rw [State.putSample_full open_ full]
  generalize s.sampleHdr die = hdr
  refine ⟨Mem.word_putWords s.mem (hdr + 0x20) _, congrArg ofLE (Mem.bytesAt_putWords_apart s.mem (.inl ?_))⟩
  omega

variable (room : s.samplesHeld die < s.numAt (s.sampleHdr die + 8) 4)
include room

theorem State.putSample_head (b : List Byte) :
    (s.putSample die b).numAt (s.sampleHdr die + 0x10) 8 = (s.numAt (s.sampleHdr die + 0x10) 8 + 1) % 18446744073709551616 := by
  rw [State.putSample_room open_ room]
  exact Mem.word_putWords (s.mem.putWords (s.sampleRec die) b) (s.sampleHdr die + 0x10) _

theorem State.putSample_field {b : List Byte} (length : b.length = 32)
    (apart : s.sampleRec die + 32 ≤ s.sampleHdr die ∨ s.sampleHdr die + 64 ≤ s.sampleRec die) {o n : Nat} (inside : o + n ≤ 32) :
    (s.putSample die b).numAt (s.sampleRec die + o) n = fieldOf b o n := by
  rw [State.putSample_room open_ room, ← Mem.ofLE_bytesAt_putWords s.mem (k := s.sampleRec die) (inside.trans_eq length.symm)]
  generalize s.sampleHdr die = hdr at apart
  generalize s.sampleRec die = place at apart
  refine congrArg ofLE (Mem.bytesAt_putWords_apart _ ?_)
  rw [length_toLE]
  omega

end

/-! ## A core's turn to sample (R407) -/

/-- A core that samples the slot after this one next. -/
def State.pastSlot (s : State) (core slot : Nat) : State := s.setCore core fun c => { c with sampleNext := (slot + 1) % 10 }

/-- The sample of a strand has drawn its free bit. -/
def State.sampleDrawn (s : State) (core slot : Nat) : State :=
  { s.pastSlot core slot with free := (s.pastSlot core slot).free + 1 }

theorem State.sampleNext_pastSlot (s : State) (core slot : Nat) : ((s.pastSlot core slot).coreOf core).sampleNext = (slot + 1) % 10 := by
  rw [State.pastSlot, State.coreOf_setCore, if_pos rfl]

theorem State.sampleNext_putSample (s : State) (core slot die : Nat) (b : List Byte) :
    (((s.sampleDrawn core slot).putSample die b).coreOf core).sampleNext = (slot + 1) % 10 := by
  rw [State.coreOf, State.putSample_cores]
  exact s.sampleNext_pastSlot core slot

section
variable {s : State} {core slot : Nat} {x : Strand} (hx : s.strandAt core slot = some x)
  (turn : ((List.range 10).findSome? fun k => s.strandAt core (((s.coreOf core).sampleNext + k) % 10)) = some x)
include hx turn

theorem exec_sampleTick_off (off : (s.ctxOf x.ctx).sampleInterval = 0) : exec (.sampleTick core) s = .next (s.pastSlot core slot) := by
  show execSampleTick core s = _
  unfold execSampleTick
  dsimp only
  rw [turn]
  refine (if_pos off).trans ?_
  rw [Strand.slot_of_strandAt hx]
  rfl

theorem exec_sampleTick (on : (s.ctxOf x.ctx).sampleInterval ≠ 0) : exec (.sampleTick core) s =
    .next ((s.sampleDrawn core slot).putSample (core / 320) ((s.pastSlot core slot).sampleOf core x)) := by
  show execSampleTick core s = _
  unfold execSampleTick
  dsimp only
  rw [turn]
  refine (if_neg on).trans ?_
  rw [Strand.slot_of_strandAt hx]
  rfl

end

/-! ## The state code of a sample (R407) -/

section
variable {x : Strand} (pick : Bool)

theorem Strand.sampleState_halted (h : x.halted = true) : x.sampleState pick = 5 := if_pos h

variable (running : x.halted = false)
include running

theorem Strand.sampleState_marker (w : x.wait = .marker) : x.sampleState pick = 1 := by
  rw [Strand.sampleState, running, w]
  rfl

theorem Strand.sampleState_passed (w : x.wait = .passed) : x.sampleState pick = 3 := by
  rw [Strand.sampleState, running, w]
  rfl

theorem Strand.sampleState_passedMarker (w : x.wait = .passedMarker) : x.sampleState pick = 3 ∨ x.sampleState pick = 1 := by
  rw [Strand.sampleState, running, w]
  cases pick with
  | true => exact .inl rfl
  | false => exact .inr rfl

theorem Strand.sampleState_kernel (w : x.wait = .kernel) : x.sampleState pick = 4 := by
  rw [Strand.sampleState, running, w]
  rfl

end

/-- Settles O49: the rewrite of a halted strand item by item, in its save area where it has one; the read of a window; and the sample of a
core whose next context is not sampled, whose ring has room, and whose ring is full. -/
theorem debugStateAndSamples : Obligations.DebugStateAndSamples := by
  unfold Obligations.DebugStateAndSamples
  refine ⟨?session, ?sample⟩
  case session =>
    intro session vctx core slot vcore r st us x value s open_ write wrote
    refine ⟨fun named small slots hx covers => ?writes, fun ctx cls id0 id1 offset len buf b o8 l8 low high aligned inside known form fits =>
      exec_debugRead_ok open_ (decide_eq_true ⟨o8, l8, low, high⟩) aligned inside known form fits⟩
    have found : (s.asked session).strandTarget vctx vcore slot = some x :=
      State.strandTarget_bound (s := s.asked session) named small slots hx
    refine ⟨fun running e => exec_debugWrite_running open_ found covers running,
      fun halted i saved => exec_debugWrite_saved_pc open_ found covers halted saved, fun halted bound => ?items⟩
    have rewrite {item : DebugItem} {u : Strand} (window : ∀ c cls i j o, item ≠ .window c cls i j o) (empty : ∀ k, item ≠ .emptyToken k)
        (rewrites : (s.asked session).rewritten x item value = some u) (uid : u.uid = x.uid) (place : u.place = x.place)
        (area : u.area = x.area) : wrote item u :=
      exec_debugWrite_bound open_ found covers halted bound hx window (fun k h => absurd h (empty k)) rewrites uid place area
    refine ⟨fun e he => rewrite nofun nofun (State.rewritten_stack _ x value he) rfl rfl rfl, ?pc, fun n device => ?device,
      fun q i hq hi => ⟨_, rewrite nofun nofun (State.rewritten_lane _ x value hq hi) rfl rfl rfl, ?lanes⟩,
      rewrite nofun nofun rfl rfl rfl rfl, rewrite nofun nofun rfl rfl rfl rfl, rewrite nofun nofun rfl rfl rfl rfl, fun k hk none => ?token⟩
    case pc =>
      have word : value &&& ~~~3#64 = BitVec.ofNat 64 (value.toNat / 4 * 4) := by
        rw [← toNat_and_not_three, BitVec.ofNat_toNat, BitVec.setWidth_eq]
      rw [← word]
      exact rewrite nofun nofun rfl rfl rfl rfl
    case device =>
      refine ⟨_, rewrite nofun nofun (State.rewritten_device _ x value device) rfl rfl rfl, ?_, rfl, rfl⟩
      rw [State.stateOf_bias]
      exact State.shown_rewritten_device s x n value
    case lanes =>
      refine ⟨?_, fun k other => ?_, rfl, rfl⟩
      · rw [FMap.get_set, if_pos rfl]
      · rw [FMap.get_set, if_neg other]
    case token =>
      obtain ⟨t, runs, replies, -, mem, eng, -⟩ := exec_debugWrite_bound open_ found covers halted bound hx (item := .emptyToken k)
        nofun (fun j h => DebugItem.emptyToken.inj h ▸ none) (State.rewritten_emptyToken _ x value hk) rfl rfl rfl
      exact ⟨t, runs, replies, mem, eng⟩
  case sample =>
    intro core slot x s small hx ctx first
    have turn := State.sampled small hx first
    refine ⟨fun off => ⟨_, exec_sampleTick_off hx turn off, rfl, s.sampleNext_pastSlot core slot⟩, ?room, ?full⟩
    case full =>
      intro on open_ full
      exact ⟨_, exec_sampleTick hx turn on, State.putSample_lost (s := s.sampleDrawn core slot) open_ full _⟩
    case room =>
      intro on open_ room apart
      have place := State.sampleRec_eq (s.sampleDrawn core slot) (core / 320)
      have field {o n : Nat} (inside : o + n ≤ 32) := State.putSample_field (s := s.sampleDrawn core slot) open_ room
        ((s.pastSlot core slot).length_sampleOf core x) (place ▸ apart) inside
      have here := Strand.slot_of_strandAt hx
      have code := field (o := 0x17) (n := 1) (by decide)
      rw [State.sampleOf_state] at code
      rw [place] at field code
      have time := field (o := 0) (n := 8) (by decide)
      rw [Nat.add_zero] at time
      refine ⟨_, exec_sampleTick hx turn on, time.trans (State.sampleOf_time ..),
        (field (by decide)).trans (State.sampleOf_pc ..), (field (by decide)).trans (State.sampleOf_vcore ..),
        (field (by decide)).trans (State.sampleOf_ctx _ core x ctx),
        (field (by decide)).trans ((State.sampleOf_slot _ core x (by omega)).trans here), (field (by decide)).trans (State.sampleOf_tnum ..),
        fun h => code.trans (Strand.sampleState_halted _ h), fun run w => code.trans (Strand.sampleState_marker _ run w),
        fun run w => code.trans (Strand.sampleState_passed _ run w), fun run w => ?_,
        fun run w => code.trans (Strand.sampleState_kernel _ run w),
        State.putSample_head (s := s.sampleDrawn core slot) open_ room _, s.sampleNext_putSample core slot _ _⟩
      exact (Strand.sampleState_passedMarker _ run w).imp code.trans code.trans

end Sys2Proof.Machine
